-- ==== Sys2Proof/Word.lean ====
section
/-! DEFINITION. The word types of the SK9 (R1 to R3): bytes, 32-bit words and 64-bit doublewords.
The manual shifts, masks and adds these, so they are bit vectors. -/

namespace Sys2Proof

/-- A byte. -/
abbrev Byte := BitVec 8

/-- A 32-bit word: one lane of a vector register, or an instruction. -/
abbrev Word := BitVec 32

/-- A 64-bit doubleword: a scalar register. -/
abbrev Dword := BitVec 64

end Sys2Proof
end

