-- ==== Sys2Proof/Config.lean ====
section
/-! DEFINITION. What the specification leaves open (free values) and the numbers fixed for the
device. A free value is an opaque constant without a body: no proof can know it, so a statement that
holds, holds whatever it is. Each is applied to the operands it depends on, or to the counter
`State.draws`, which the step advances, for a fresh value every time. -/

namespace Sys2Proof.Config

/-- The 16-bit draw of stochastic rounding (R117). DESIGN CHOICE, log 12. -/
opaque rsrDraw : Nat → Nat

/-- Which entry leaves a full set of a core's L1 or of a home cache, a way of an L1 that scratch takes, or the full RCB
cache: the specification gives no order (R71, R73, R210).
The answer is taken modulo the number of entries. DESIGN CHOICE, log 93. -/
opaque victim : Nat → Nat

/-- The key by which the lanes of one atomic instruction, or of one CRADD, are ordered: every order
occurs (R127, R157). DESIGN CHOICE, log 13. -/
opaque laneOrder : Nat → Nat → Nat

/-- The internal value of a function instruction, before it is held within its bound (R296). The
arguments are the function's number, the operand's encoding and the draw. DESIGN CHOICE, log 14. -/
opaque function : Nat → Nat → Nat → Int

/-- Which triangle of a pair a ray that crosses their shared edge exactly hits: true for triangle 0
(R364). The arguments are the leaf's 64 bytes and the ray's origin and direction, as numbers. DESIGN CHOICE, log 15. -/
opaque edgeOwner : Nat → Nat → Bool

/-- The root of a cone query: the specification names none (R370). The arguments are the address of the
records and the draw; the answer is a child pointer but for its KIND. DESIGN CHOICE, log 16. -/
opaque coneRoot : Nat → Nat → Nat

/-- The clocks that pass on a core in one step of the machine: timing is left out, and CLK only has
to be read (R280). DESIGN CHOICE, log 17. -/
opaque clocks : Nat → Nat → Nat

/-- The set of a core's L1, of a die's home cache and of a die's snoop filter into which a line falls: R71 gives
their numbers, and no address bits. The answer is taken modulo the number of sets. DESIGN CHOICE, log 82. -/
opaque l1Set : Nat → Nat
opaque homeSet : Nat → Nat
opaque filterSet : Nat → Nat

/-- The empty way of a set of a cluster's cache that takes a line, by draw (R82). DESIGN CHOICE, log 82. -/
opaque cacheWay : Nat → Nat

/-- Whether a read that goes to a line's home leaves the line in the cluster's cache, by draw (R82). DESIGN CHOICE, log
82. -/
opaque ccFills : Nat → Bool

/-- Whether a clean copy that a core's L1 has fetched serves a further read, and whether it outlives an acquire that
has read no release write, by draw (R71, R76, R138). DESIGN CHOICE, log 10. -/
opaque l1Keeps : Nat → Bool

/-- Which of the runs of records that may reach a core's teller reaches it next, by draw: they enter in any order
(R439). DESIGN CHOICE, log 36. -/
opaque nextRun : Nat → Nat

/-- Whether an engine's access that moves words one by one is made in two turns, and the words that the first of them
moves, by draw (R126, R150). DESIGN CHOICE, log 43. -/
opaque halves : Nat → Bool
opaque firstWord : Nat → Nat → Bool

/-- Whether a lane, or another part, of an access is performed in the turn in which its instruction issues, by draw and
part; it is later if not (R126, R127, R308). DESIGN CHOICE, log 31. -/
opaque early : Nat → Nat → Bool

/-- The entries of a unit's queue, less one, by unit code (R194). DESIGN CHOICE, log 42. -/
opaque unitQueue : Nat → Nat

/-- The die that homes a line of host memory (R46 gives it for pool memory only, R62). DESIGN CHOICE, log 84. -/
opaque hostDie : Nat → Nat

/-- Whether 50 µs have passed since a frame reached CLEAN, by draw (R181). DESIGN CHOICE, log 17. -/
opaque waitedLong : Nat → Bool

/-- Data of a granule whose pool address no entry of the pool map holds any more when its fill completes, by draw
and byte, and its tags behind (R50). DESIGN CHOICE, log 85. -/
opaque strayByte : Nat → Nat → BitVec 8

/-- Fields of an error-log entry of the device's own subtractions that R33 does not give (arguments: draw, field).
DESIGN CHOICE, log 24. -/
opaque recordByte : Nat → Nat → BitVec 8

/-- Bytes of a structure whose contents the specification names without their order: entries of the
reconvergence stack as the debugger reads them (structure 0, R452) and of the device error log (structure 1,
R457), the sub-state of a beam (2, R379), the vertices of a primitive (3, R171), and the cursors of the units
(16 and up, by unit code, R171). The arguments are the structure, its contents as one number, and the byte.
DESIGN CHOICE, log 11, 18 and 19. -/
opaque layoutByte : Nat → Nat → Nat → BitVec 8

/-- The contents of an entry of the reconvergence stack that the debugger writes (R452), from its 16 bytes as
a number: ADDR in bits [47:0], ENT in [79:48], PEND in [111:80], kind above. DESIGN CHOICE, log 19. -/
opaque stackEntry : Nat → Nat

/-- Fields of the fault report of an uncorrectable error in registers or group scratch that R97 does not give,
by draw and byte (R183). DESIGN CHOICE, log 20. -/
opaque errorReport : Nat → Nat → Nat

/-- The code of status BUSY, which R431 names and R449 does not list. DESIGN CHOICE, log 21. -/
opaque statusBusy : Nat

/-- Bytes of a save area, whose layout belongs to the device (R240). DESIGN CHOICE, log 22. -/
opaque saveByte : Nat → Nat → BitVec 8

/-- The security engine's certificate chain, byte by byte, its capability flags, and the digest of the chain
(R455). DESIGN CHOICE, log 23. -/
opaque certificate : Nat → BitVec 8
opaque capabilities : Nat
opaque certificateDigest : BitVec 384

/-- Measurements of the firmware images (blocks 1 to 4), and the measurement of the registers that block 5
covers, from their values (R455). DESIGN CHOICE, log 23. -/
opaque measurement : Nat → BitVec 384
opaque measureRegs : List Nat → BitVec 384

/-- Signatures and the public key values of the engine, by draw (R455). DESIGN CHOICE, log 23. -/
opaque signature : Nat → BitVec 768
opaque keyPoint : Nat → BitVec 768

/-- Compute dies, clusters of a die and cores of a cluster (R1, R190). -/
def dies : Nat := 4
def clusters : Nat := 48
def cores : Nat := 192

/-- Data frames of the vault: 23 × 2^20 (R45). -/
def frames : Nat := 24117248

end Sys2Proof.Config
end

