-- ==== Sys2Proof/Machine/Sparse.lean ====
section
/-! DEFINITION. Finite maps from numbers to data, as plain lists in one canonical form: keys rise
strictly, and no entry holds the value that an absent key reads as. Register files, memories and
tables of the machine are such maps, so that equal contents are equal data. -/

namespace Sys2Proof.Machine

/-- A finite map: `(key, value)` pairs. -/
abbrev Sparse (α : Type) := List (Nat × α)

/-- The value at key `k`; `d` where the map lists none. -/
def Sparse.get {α : Type} (d : α) : Sparse α → Nat → α
  | [], _ => d
  | (k, v) :: rest, n => if k = n then v else Sparse.get d rest n

/-- The entry at key `k`, if the map lists one. -/
def Sparse.find {α : Type} : Sparse α → Nat → Option α
  | [], _ => none
  | (k, v) :: rest, n => if k = n then some v else Sparse.find rest n

/-- Removes key `n`. -/
def Sparse.erase {α : Type} : Sparse α → Nat → Sparse α
  | [], _ => []
  | (k, v) :: rest, n => if k = n then Sparse.erase rest n else (k, v) :: Sparse.erase rest n

/-- Sets key `n` in a map without regard to the default value, keeping the order of keys. -/
def Sparse.put {α : Type} : Sparse α → Nat → α → Sparse α
  | [], n, x => [(n, x)]
  | (k, v) :: rest, n, x =>
    if n < k then (n, x) :: (k, v) :: rest
    else if k = n then (n, x) :: rest
    else (k, v) :: Sparse.put rest n x

/-- Sets key `n`: writing the default value removes the entry. -/
def Sparse.set {α : Type} [DecidableEq α] (d : α) (m : Sparse α) (n : Nat) (x : α) : Sparse α :=
  if x = d then Sparse.erase m n else Sparse.put m n x

/-- Keys rise strictly, and each is above `lo` where one is given. -/
def Sparse.sortedFrom {α : Type} : Option Nat → Sparse α → Bool
  | _, [] => true
  | none, (k, _) :: rest => Sparse.sortedFrom (some k) rest
  | some lo, (k, _) :: rest => decide (lo < k) && Sparse.sortedFrom (some k) rest

/-- No entry holds the default value. -/
def Sparse.noDefault {α : Type} [DecidableEq α] (d : α) : Sparse α → Bool
  | [] => true
  | (_, v) :: rest => decide (v ≠ d) && Sparse.noDefault d rest

/-- The canonical form. -/
def Sparse.wf {α : Type} [DecidableEq α] (d : α) (m : Sparse α) : Bool :=
  Sparse.sortedFrom none m && Sparse.noDefault d m

/-- The value at key `k`, zero where the map lists none. -/
abbrev Sparse.getZ {w : Nat} (m : Sparse (BitVec w)) (n : Nat) : BitVec w := Sparse.get 0 m n

/-- Sets a bit vector at key `n`; zero is the value of an unlisted key. -/
abbrev Sparse.setZ {w : Nat} (m : Sparse (BitVec w)) (n : Nat) (x : BitVec w) : Sparse (BitVec w) :=
  Sparse.set 0 m n x

/-- The counter at key `k`, zero where the map lists none. -/
abbrev Sparse.getN (m : Sparse Nat) (n : Nat) : Nat := Sparse.get 0 m n

/-- Sets a counter at key `n`. -/
abbrev Sparse.setN (m : Sparse Nat) (n x : Nat) : Sparse Nat := Sparse.set 0 m n x

/-- Applies `f` to the entry at `n`, if there is one. -/
def Sparse.adjust {α : Type} (m : Sparse α) (n : Nat) (f : α → α) : Sparse α :=
  match Sparse.find m n with
  | none => m
  | some v => Sparse.put m n (f v)

end Sys2Proof.Machine
end

