-- ==== Sys2Proof/Machine/Num.lean ====
section
/-! DEFINITION. Number formats and conversions (R103 to R120): exact values, reading an element of
any format, and the one rounding function that every unit uses. Exact values are a sign, a natural
magnitude and a power of two, so no step before the rounding loses a bit. -/

namespace Sys2Proof.Machine

/-- The element formats by name (R103), base formats only; a block-scaled code is its base beside a
scale. -/
inductive Fmt where
  | raw | f64 | f32 | f19 | b16 | f16 | e5m2 | e4m3 | e3m4 | e2m1
  | s8 | n8 | s16 | n16 | s32 | n32 | s64 | n64 | s4 | n4 | t2 | b1
  | a96f | a96i
  deriving DecidableEq, Repr

/-- The format of a code, with whether the code is block-scaled; none for reserved codes (R103). -/
def Fmt.ofCode (c : Nat) : Option (Fmt × Bool) :=
  match c with
  | 0x00 => some (.raw, false)
  | 0x01 => some (.f64, false)
  | 0x02 => some (.f32, false)
  | 0x03 => some (.f19, false)
  | 0x04 => some (.b16, false)
  | 0x05 => some (.f16, false)
  | 0x06 => some (.e5m2, false)
  | 0x07 => some (.e4m3, false)
  | 0x08 => some (.e3m4, false)
  | 0x09 => some (.e2m1, false)
  | 0x10 => some (.s8, false)
  | 0x11 => some (.n8, false)
  | 0x12 => some (.s16, false)
  | 0x13 => some (.n16, false)
  | 0x14 => some (.s32, false)
  | 0x15 => some (.n32, false)
  | 0x16 => some (.s64, false)
  | 0x17 => some (.n64, false)
  | 0x18 => some (.s4, false)
  | 0x19 => some (.n4, false)
  | 0x1A => some (.t2, false)
  | 0x1B => some (.b1, false)
  | 0x26 => some (.e5m2, true)
  | 0x27 => some (.e4m3, true)
  | 0x28 => some (.e3m4, true)
  | 0x29 => some (.e2m1, true)
  | 0x30 => some (.s8, true)
  | 0x31 => some (.n8, true)
  | 0x32 => some (.s4, true)
  | 0x33 => some (.n4, true)
  | 0x34 => some (.t2, true)
  | 0x35 => some (.b1, true)
  | 0x3C => some (.a96f, false)
  | 0x3D => some (.a96i, false)
  | _ => none

/-- Element width in bits; F19 stands in a 32-bit container (R103, R105). -/
def Fmt.width : Fmt → Nat
  | .raw => 32 | .f64 => 64 | .f32 => 32 | .f19 => 32 | .b16 => 16 | .f16 => 16
  | .e5m2 => 8 | .e4m3 => 8 | .e3m4 => 8 | .e2m1 => 4
  | .s8 => 8 | .n8 => 8 | .s16 => 16 | .n16 => 16 | .s32 => 32 | .n32 => 32
  | .s64 => 64 | .n64 => 64 | .s4 => 4 | .n4 => 4 | .t2 => 2 | .b1 => 1
  | .a96f => 96 | .a96i => 96

/-- How a float format uses its top exponent (R105). -/
inductive Special where
  /-- Infinities and NaNs with every exponent bit set. -/
  | ieee
  /-- No infinity; the all-ones magnitude alone is NaN. -/
  | topNaN
  /-- Neither. -/
  | none
  deriving DecidableEq, Repr

/-- The layout of a float format: exponent and fraction bits, bias, special codes, and the unused
low bits of its container (R105, R112). -/
structure FloatFmt where
  ebits : Nat
  fbits : Nat
  bias : Nat
  special : Special
  low : Nat
  deriving DecidableEq, Repr

/-- The layout of each float format (R105, R112). -/
def Fmt.float : Fmt → Option FloatFmt
  | .f64 => some ⟨11, 52, 1023, .ieee, 0⟩
  | .f32 => some ⟨8, 23, 127, .ieee, 0⟩
  | .f19 => some ⟨8, 10, 127, .ieee, 13⟩
  | .b16 => some ⟨8, 7, 127, .ieee, 0⟩
  | .f16 => some ⟨5, 10, 15, .ieee, 0⟩
  | .e5m2 => some ⟨5, 2, 15, .ieee, 0⟩
  | .e4m3 => some ⟨4, 3, 7, .topNaN, 0⟩
  | .e3m4 => some ⟨3, 4, 3, .topNaN, 0⟩
  | .e2m1 => some ⟨2, 1, 1, .none, 0⟩
  | .a96f => some ⟨15, 80, 16383, .ieee, 0⟩
  | _ => none

/-- A result in a format: the unused low bits of its container are zero (R105). -/
def Fmt.whole (f : Fmt) (b : Nat) : Nat :=
  match f.float with
  | some ff => b / 2 ^ ff.low * 2 ^ ff.low
  | none => b

/-- The five formats that MODE.FTZ concerns (R115). -/
def Fmt.five : Fmt → Bool
  | .f64 | .f32 | .f19 | .b16 | .f16 => true
  | _ => false

/-- Signed integer formats (R107). -/
def Fmt.signed : Fmt → Bool
  | .s8 | .s16 | .s32 | .s64 | .s4 => true
  | _ => false

/-- Float formats. -/
def Fmt.isFloat (f : Fmt) : Bool := f.float.isSome

/-- Plain integer formats, T2 and B1 left out. -/
def Fmt.isInt : Fmt → Bool
  | .s8 | .n8 | .s16 | .n16 | .s32 | .n32 | .s64 | .n64 | .s4 | .n4 => true
  | _ => false

/-- An exact value: a finite number `±mag × 2^exp`, an infinity, or a NaN with its sign, whether it
signals, and its fraction aligned to 80 bits (R106, R116). -/
inductive Val where
  | fin (neg : Bool) (mag : Nat) (exp : Int)
  | inf (neg : Bool)
  | nan (neg signalling : Bool) (frac : Nat)
  deriving DecidableEq, Repr

/-- Exact zero. -/
def Val.zero : Val := .fin false 0 0

/-- An integer as an exact value. -/
def Val.ofInt (n : Int) : Val := .fin (decide (n < 0)) n.natAbs 0

/-- The sign of a value; a NaN has the sign of its encoding. -/
def Val.neg : Val → Bool
  | .fin n _ _ => n
  | .inf n => n
  | .nan n _ _ => n

/-- A value with its sign turned round. -/
def Val.negate : Val → Val
  | .fin n m e => .fin (!n) m e
  | .inf n => .inf (!n)
  | .nan n s f => .nan (!n) s f

/-- A value with its sign cleared. -/
def Val.abs : Val → Val
  | .fin _ m e => .fin false m e
  | .inf _ => .inf false
  | .nan _ s f => .nan false s f

def Val.isNaN : Val → Bool
  | .nan _ _ _ => true
  | _ => false

def Val.isSignalling : Val → Bool
  | .nan _ s _ => s
  | _ => false

def Val.isInf : Val → Bool
  | .inf _ => true
  | _ => false

/-- A zero of either sign. -/
def Val.isZero : Val → Bool
  | .fin _ 0 _ => true
  | _ => false

/-! ### Reading elements -/

/-- Reads the encoding `b` of a float format (R105, R106, R112). -/
def FloatFmt.read (ff : FloatFmt) (b : Nat) : Val :=
  let x := b / 2 ^ ff.low
  let f := x % 2 ^ ff.fbits
  let e := x / 2 ^ ff.fbits % 2 ^ ff.ebits
  let neg := x / 2 ^ (ff.fbits + ff.ebits) % 2 == 1
  let top := 2 ^ ff.ebits - 1
  let num : Val :=
    if e = 0 then .fin neg f (1 - (ff.bias : Int) - ff.fbits)
    else .fin neg (f + 2 ^ ff.fbits) ((e : Int) - ff.bias - ff.fbits)
  match ff.special with
  | .ieee =>
    if e = top then
      if f = 0 then .inf neg
      else .nan neg (ff.fbits < 80 && f / 2 ^ (ff.fbits - 1) == 0) (f * 2 ^ (80 - ff.fbits))
    else num
  | .topNaN =>
    if e = top && f = 2 ^ ff.fbits - 1 then .nan neg false (f * 2 ^ (80 - ff.fbits)) else num
  | .none => num

/-- A subnormal encoding of a float format: a zero exponent field and a nonzero fraction. -/
def FloatFmt.subnormal (ff : FloatFmt) (b : Nat) : Bool :=
  let x := b / 2 ^ ff.low
  x / 2 ^ ff.fbits % 2 ^ ff.ebits == 0 && x % 2 ^ ff.fbits != 0

/-- A two's-complement reading of the low `w` bits. -/
def signedOf (w b : Nat) : Int :=
  let x := b % 2 ^ w
  if 2 ^ (w - 1) ≤ x then (x : Int) - 2 ^ w else x

/-- The flag bits of `FSTAT` and MODE.XE (R248). -/
def flagInvalid : Nat := 16
def flagDivZero : Nat := 8
def flagOverflow : Nat := 4
def flagUnderflow : Nat := 2
def flagInexact : Nat := 1

/-- Ors two sets of flags. -/
def orFlags (a b : Nat) : Nat := a ||| b

/-- Reads an element of any format as an exact value, with the invalid flag of a T2 code 0b10
(R105, R107). RAW reads as N32, as R285 gives. -/
def Fmt.read (f : Fmt) (b : Nat) : Val × Nat :=
  match f.float with
  | some ff => (ff.read b, 0)
  | none =>
    match f with
    | .t2 =>
      if b % 4 = 1 then (Val.ofInt 1, 0)
      else if b % 4 = 3 then (Val.ofInt (-1), 0)
      else if b % 4 = 2 then (Val.zero, flagInvalid)
      else (Val.zero, 0)
    | .b1 => if b % 2 = 1 then (Val.ofInt 1, 0) else (Val.ofInt (-1), 0)
    | .a96i => (Val.ofInt (signedOf 96 b), 0)
    | _ => if f.signed then (Val.ofInt (signedOf f.width b), 0)
           else (Val.ofInt (b % 2 ^ f.width : Nat), 0)

/-! ### Rounding -/

/-- The rounding modes (R117). -/
inductive Rm where
  | rne | rtz | rdn | rup | rna | rsr
  deriving DecidableEq, Repr

/-- MODE.RM as a rounding mode; codes 6 and 7 cannot be held (R117, R248). -/
def Rm.ofCode : Nat → Rm
  | 1 => .rtz
  | 2 => .rdn
  | 3 => .rup
  | 4 => .rna
  | 5 => .rsr
  | _ => .rne

/-- The fields of `MODE` that steer a conversion (R115 to R119), and the 16-bit draw of R117. -/
structure Rctx where
  rm : Rm
  ftz : Bool
  nanp : Bool
  sat : Bool
  draw : Nat
  deriving DecidableEq, Repr

/-- Round to nearest even, as the units that ignore MODE use it. -/
def Rctx.plain : Rctx := ⟨.rne, false, false, false, 0⟩

/-- Whether the magnitude is raised by one unit: `q` is the kept part, `rem` the part below it in
`k` bits, `k ≥ 1` (R117). -/
def roundUp (c : Rctx) (neg : Bool) (q rem k : Nat) : Bool :=
  if rem = 0 then false
  else match c.rm with
    | .rne => 2 ^ (k - 1) < rem || (rem == 2 ^ (k - 1) && q % 2 == 1)
    | .rtz => false
    | .rdn => neg
    | .rup => !neg
    | .rna => 2 ^ (k - 1) ≤ rem
    | .rsr =>
      let d := if 16 ≤ k then rem / 2 ^ (k - 16) else rem * 2 ^ (16 - k)
      2 ^ 16 ≤ c.draw % 2 ^ 16 + d

/-- Rounds `mag × 2^exp` to a multiple of `2^lsb`: the multiple and whether it differs. -/
def roundTo (c : Rctx) (neg : Bool) (mag : Nat) (exp lsb : Int) : Nat × Bool :=
  if lsb ≤ exp then (mag * 2 ^ (exp - lsb).toNat, false)
  else
    let k := (lsb - exp).toNat
    let q := mag / 2 ^ k
    let rem := mag % 2 ^ k
    (if roundUp c neg q rem k then q + 1 else q, rem != 0)

/-- The number of bits of a natural number. -/
def bitLen (n : Nat) : Nat := if n = 0 then 0 else Nat.log2 n + 1

/-- The largest finite magnitude of a format in units of its last place at the top exponent, and
that exponent. -/
def FloatFmt.largest (ff : FloatFmt) : Nat × Int :=
  let top : Int := (2 ^ ff.ebits - 1 : Nat)
  match ff.special with
  | .ieee => (2 ^ (ff.fbits + 1) - 1, top - 1 - ff.bias - ff.fbits)
  | .topNaN => (2 ^ (ff.fbits + 1) - 2, top - ff.bias - ff.fbits)
  | .none => (2 ^ (ff.fbits + 1) - 1, top - ff.bias - ff.fbits)

/-- Puts sign, exponent field and fraction together in the container. -/
def FloatFmt.pack (ff : FloatFmt) (neg : Bool) (e f : Nat) : Nat :=
  ((if neg then 2 ^ (ff.ebits + ff.fbits) else 0) + e * 2 ^ ff.fbits + f) * 2 ^ ff.low

/-- Encodes a magnitude `m × 2^lsb` that the format represents. -/
def FloatFmt.encodeFin (ff : FloatFmt) (neg : Bool) (m : Nat) (lsb : Int) : Nat :=
  if m = 0 then ff.pack neg 0 0
  else
    let msb : Int := lsb + (bitLen m : Int) - 1
    let emin : Int := 1 - (ff.bias : Int)
    if msb < emin then
      ff.pack neg 0 (m * 2 ^ (lsb - (emin - ff.fbits)).toNat)
    else
      let shift := (lsb - (msb - ff.fbits))
      let s := if 0 ≤ shift then m * 2 ^ shift.toNat else m / 2 ^ (-shift).toNat
      ff.pack neg (msb + ff.bias).toNat (s - 2 ^ ff.fbits)

/-- The largest finite encoding of a sign. -/
def FloatFmt.maxFinite (ff : FloatFmt) (neg : Bool) : Nat :=
  let (m, e) := ff.largest
  ff.encodeFin neg m e

/-- The infinity of a sign, or the NaN of that sign where the format has no infinity, or the
largest finite value where it has neither (R118). -/
def FloatFmt.infinity (ff : FloatFmt) (neg : Bool) : Nat :=
  match ff.special with
  | .ieee => ff.pack neg (2 ^ ff.ebits - 1) 0
  | .topNaN => ff.pack neg (2 ^ ff.ebits - 1) (2 ^ ff.fbits - 1)
  | .none => ff.maxFinite neg

/-- The canonical NaN; +0 where the format has none (R106, R116). -/
def FloatFmt.canonicalNaN (ff : FloatFmt) : Nat :=
  match ff.special with
  | .ieee => ff.pack false (2 ^ ff.ebits - 1) (2 ^ (ff.fbits - 1))
  | .topNaN => ff.pack false (2 ^ ff.ebits - 1) (2 ^ ff.fbits - 1)
  | .none => 0

/-- The result of a NaN source (R116). -/
def FloatFmt.nanResult (ff : FloatFmt) (nanp neg signalling : Bool) (frac : Nat) : Nat × Nat :=
  let inv := if signalling then flagInvalid else 0
  match ff.special with
  | .none => (0, flagInvalid)
  | .topNaN =>
    (if nanp then ff.pack neg (2 ^ ff.ebits - 1) (2 ^ ff.fbits - 1) else ff.canonicalNaN, inv)
  | .ieee =>
    if nanp then
      let f := frac % 2 ^ 80 / 2 ^ (80 - ff.fbits)
      (ff.pack neg (2 ^ ff.ebits - 1) (f ||| 2 ^ (ff.fbits - 1)), inv)
    else (ff.canonicalNaN, inv)

/-- The result of an overflow in the context's rounding mode (R118). -/
def FloatFmt.overflow (ff : FloatFmt) (c : Rctx) (neg : Bool) : Nat :=
  if c.sat then ff.maxFinite neg
  else match c.rm with
    | .rne | .rna | .rsr => ff.infinity neg
    | .rtz => ff.maxFinite neg
    | .rdn => if neg then ff.infinity neg else ff.maxFinite neg
    | .rup => if neg then ff.maxFinite neg else ff.infinity neg

/-- Rounds an exact value into a float format: steps 2 to 6 of R115, with R116 to R118. `five` says
that the format is one of the five that MODE.FTZ concerns: they round with unbounded exponent, and what is tiny then
is flushed (step 6). Otherwise a tiny value rounds to a multiple of the smallest subnormal, as in the worked example
of R298. -/
def FloatFmt.round (ff : FloatFmt) (five : Bool) (c : Rctx) : Val → Nat × Nat
  | .nan neg signalling frac => ff.nanResult c.nanp neg signalling frac
  | .inf neg =>
    if c.sat && ff.special != .ieee then (ff.maxFinite neg, 0)
    else (ff.infinity neg, if ff.special = .none then flagInvalid else 0)
  | .fin neg mag exp =>
    if mag = 0 then (ff.pack neg 0 0, 0)
    else
      let emin : Int := 1 - (ff.bias : Int)
      let msb : Int := exp + (bitLen mag : Int) - 1
      let lsb : Int := (if msb < emin ∧ (five && c.ftz) = false then emin else msb) - ff.fbits
      let (m, inexact) := roundTo c neg mag exp lsb
      let (big, bigExp) := ff.largest
      if m = 0 then (ff.pack neg 0 0, if inexact then flagInexact else 0)
      else if decide (bigExp < lsb) || (decide (lsb = bigExp) && decide (big < m)) ||
          (decide (lsb + 1 = bigExp) && decide (2 * big < m)) then
        (ff.overflow c neg, flagOverflow + flagInexact)
      else
        let tiny : Bool := lsb + (bitLen m : Int) - 1 < emin
        if tiny && five && c.ftz then (ff.pack neg 0 0, flagUnderflow + flagInexact)
        else
          (ff.encodeFin neg m lsb,
            (if inexact then flagInexact else 0) + (if tiny && inexact then flagUnderflow else 0))

/-- The lowest and highest value of an integer format or T2 (R107). -/
def Fmt.bounds : Fmt → Int × Int
  | .t2 => (-1, 1)
  | .b1 => (-1, 1)
  | .a96i => (-(2 ^ 95 : Int), 2 ^ 95 - 1)
  | f => if f.signed then (-(2 ^ (f.width - 1) : Int), 2 ^ (f.width - 1) - 1)
         else (0, 2 ^ f.width - 1)

/-- The encoding of an integer in range of an integer format, T2 or B1 (R107). -/
def Fmt.encodeInt (f : Fmt) (n : Int) : Nat :=
  match f with
  | .b1 => if 0 ≤ n then 1 else 0
  | .t2 => if n = 0 then 0 else if 0 < n then 1 else 3
  | _ => (n % (2 ^ f.width : Int)).toNat

/-- An integer kept within bounds. -/
def clampInt (lo hi n : Int) : Int := if n < lo then lo else if hi < n then hi else n

/-- Rounds an exact value into an integer format, T2 or B1: R115 steps 2 to 5, R116 and R119.
`fromFloat` says whether the source is a float: one out of range raises invalid, and not inexact with it (DESIGN
CHOICE, log 92). -/
def Fmt.roundInt (f : Fmt) (c : Rctx) (fromFloat : Bool) (v : Val) : Nat × Nat :=
  match v with
  | .nan _ _ _ => (if f = .b1 then 1 else 0, flagInvalid)
  | .inf neg =>
    if f = .b1 then (if neg then 0 else 1, 0)
    else (f.encodeInt (if neg then f.bounds.1 else f.bounds.2), flagInvalid)
  | .fin neg mag exp =>
    if f = .b1 then (if neg && mag != 0 then 0 else 1, 0)
    else
      let (m, inexact) := roundTo c neg mag exp 0
      let n : Int := if neg then -(m : Int) else m
      let (lo, hi) := f.bounds
      if lo ≤ n ∧ n ≤ hi then (f.encodeInt n, if inexact then flagInexact else 0)
      else if fromFloat then (f.encodeInt (clampInt lo hi n), flagInvalid)
      else if c.sat || f = .t2 then (f.encodeInt (clampInt lo hi n), 0)
      else ((n % (2 ^ f.width : Int)).toNat, 0)

/-- `round(x, fmt, rm)` of the manual: an exact value into any format (R115). -/
def Fmt.round (f : Fmt) (c : Rctx) (fromFloat : Bool) (v : Val) : Nat × Nat :=
  match f.float with
  | some ff => ff.round f.five c v
  | none => f.roundInt c fromFloat v

/-- Reads a float element with step 1 of R115: under FTZ a subnormal of the five formats is a zero
of its sign. -/
def Fmt.readFtz (f : Fmt) (ftz : Bool) (b : Nat) : Val × Nat :=
  match f.float with
  | some ff =>
    if ftz && f.five && ff.subnormal b then
      (.fin (b / 2 ^ (f.width - 1) % 2 == 1) 0 0, 0)
    else (ff.read b, 0)
  | none => f.read b

/-- Converts an element of one format into another (R115 to R119). -/
def convert (src dst : Fmt) (c : Rctx) (b : Nat) : Nat × Nat :=
  let (v, fl) := if dst.five then src.readFtz c.ftz b else src.read b
  let (r, fl2) := dst.round c src.isFloat v
  (r, orFlags fl fl2)

/-! ### Exact arithmetic -/

/-- The larger of two exponents' common grid: both magnitudes at the lower exponent. -/
def alignVals (m1 : Nat) (e1 : Int) (m2 : Nat) (e2 : Int) : Nat × Nat × Int :=
  if e1 ≤ e2 then (m1, m2 * 2 ^ (e2 - e1).toNat, e1) else (m1 * 2 ^ (e1 - e2).toNat, m2, e2)

/-- A signed magnitude as an integer. -/
def signedMag (neg : Bool) (m : Nat) : Int := if neg then -(m : Int) else m

/-- The exact sum of two finite values as a signed integer and an exponent. -/
def addFin (n1 : Bool) (m1 : Nat) (e1 : Int) (n2 : Bool) (m2 : Nat) (e2 : Int) : Int × Int :=
  let (a, b, e) := alignVals m1 e1 m2 e2
  (signedMag n1 a + signedMag n2 b, e)

/-- Compares two finite values: the sign of `x - y`. -/
def cmpFin (n1 : Bool) (m1 : Nat) (e1 : Int) (n2 : Bool) (m2 : Nat) (e2 : Int) : Ordering :=
  let d := (addFin n1 m1 e1 (!n2) m2 e2).1
  if d < 0 then .lt else if d = 0 then .eq else .gt

/-- Compares two values that are not NaN. -/
def Val.cmp : Val → Val → Ordering
  | .fin n1 m1 e1, .fin n2 m2 e2 => cmpFin n1 m1 e1 n2 m2 e2
  | .inf n1, .inf n2 => if n1 = n2 then .eq else if n1 then .lt else .gt
  | .inf n1, _ => if n1 then .lt else .gt
  | _, .inf n2 => if n2 then .gt else .lt
  | _, _ => .eq

/-- The invalid operation's result: a quiet NaN that becomes canonical. -/
def Val.invalid : Val := .nan false false (2 ^ 79)

/-- The first NaN of a list, which gives the payload under NANP (R116), with the invalid flag when
any of them signals. -/
def firstNaN : List Val → Option (Val × Nat)
  | [] => none
  | v :: rest =>
    match v with
    | .nan n s f =>
      let more := rest.any Val.isSignalling
      some (.nan n false f, if s || more then flagInvalid else 0)
    | _ => firstNaN rest

/-- The zero an exact cancellation gives: −0 when rounding down, +0 otherwise, and the common sign
when both terms are zeros of one sign. -/
def zeroSum (c : Rctx) (n1 n2 : Bool) (bothZero : Bool) : Val :=
  if bothZero && n1 == n2 then .fin n1 0 0 else .fin (c.rm == .rdn) 0 0

/-- The exact sum, with flags (invalid for infinities of both signs). -/
def Val.add (c : Rctx) (a b : Val) : Val × Nat :=
  match firstNaN [a, b] with
  | some r => r
  | none =>
    match a, b with
    | .inf n1, .inf n2 => if n1 = n2 then (.inf n1, 0) else (Val.invalid, flagInvalid)
    | .inf n1, _ => (.inf n1, 0)
    | _, .inf n2 => (.inf n2, 0)
    | .fin n1 m1 e1, .fin n2 m2 e2 =>
      let (d, e) := addFin n1 m1 e1 n2 m2 e2
      if d = 0 then (zeroSum c n1 n2 (m1 == 0 && m2 == 0), 0)
      else (.fin (decide (d < 0)) d.natAbs e, 0)
    | _, _ => (Val.invalid, 0)

/-- The exact product, with flags (invalid for zero times infinity). -/
def Val.mul (a b : Val) : Val × Nat :=
  match firstNaN [a, b] with
  | some r => r
  | none =>
    match a, b with
    | .fin n1 m1 e1, .fin n2 m2 e2 => (.fin (n1 != n2) (m1 * m2) (e1 + e2), 0)
    | _, _ =>
      if a.isZero || b.isZero then (Val.invalid, flagInvalid) else (.inf (a.neg != b.neg), 0)

/-- The exact product plus a third value, rounded later once: `a × b + c` (R304). -/
def Val.fma (x : Rctx) (a b c : Val) : Val × Nat :=
  match firstNaN [a, b, c] with
  | some (v, fl) =>
    let zi := (a.isZero && b.isInf) || (a.isInf && b.isZero)
    if zi then (Val.invalid, orFlags fl flagInvalid) else (v, fl)
  | none =>
    let (p, fl) := Val.mul a b
    if p.isNaN then (p, fl)
    else
      let (s, fl2) := Val.add x p c
      (s, orFlags fl fl2)

/-- Division's quotient with a sticky bit below `extra` more bits than the dividend needs: enough
for every rounding mode and format. -/
def divSticky (m1 m2 : Nat) : Nat × Int :=
  let k := bitLen m2 + 100
  let q := m1 * 2 ^ k / m2
  let r := m1 * 2 ^ k % m2
  (2 * q + (if r = 0 then 0 else 1), -(k : Int) - 1)

/-- The quotient to more bits than any format holds, with a sticky last bit; flags for division by
zero and the invalid cases. -/
def Val.div (a b : Val) : Val × Nat :=
  match firstNaN [a, b] with
  | some r => r
  | none =>
    match a, b with
    | .inf _, .inf _ => (Val.invalid, flagInvalid)
    | .inf n, _ => (.inf (n != b.neg), 0)
    | .fin n _ _, .inf n2 => (.fin (n != n2) 0 0, 0)
    | .fin n1 m1 e1, .fin n2 m2 e2 =>
      if m2 = 0 then
        if m1 = 0 then (Val.invalid, flagInvalid) else (.inf (n1 != n2), flagDivZero)
      else if m1 = 0 then (.fin (n1 != n2) 0 0, 0)
      else
        let (q, e) := divSticky m1 m2
        (.fin (n1 != n2) q (e + e1 - e2), 0)
    | _, _ => (Val.invalid, 0)

/-- One digit of the integer square root, from the top bit down. -/
def isqrtStep (n : Nat) : Nat → Nat → Nat
  | 0, r => r
  | k + 1, r => isqrtStep n k (if (r + 2 ^ k) * (r + 2 ^ k) ≤ n then r + 2 ^ k else r)

/-- The integer square root. -/
def isqrt (n : Nat) : Nat := isqrtStep n (bitLen n / 2 + 1) 0

/-- The square root of a positive finite value, to more than 100 bits with a sticky last bit. -/
def sqrtSticky (m : Nat) (e : Int) : Nat × Int :=
  let e' : Int := if e % 2 = 0 then e - 240 else e - 241
  let n := m * 2 ^ (e - e').toNat
  let q := isqrt n
  (2 * q + (if q * q = n then 0 else 1), e' / 2 - 1)

/-- The square root, with the invalid flag for a negative operand. -/
def Val.sqrt (a : Val) : Val × Nat :=
  match firstNaN [a] with
  | some r => r
  | none =>
    match a with
    | .inf n => if n then (Val.invalid, flagInvalid) else (.inf false, 0)
    | .fin n m e =>
      if m = 0 then (.fin n 0 0, 0)
      else if n then (Val.invalid, flagInvalid)
      else
        let (q, e') := sqrtSticky m e
        (.fin false q e', 0)
    | _ => (Val.invalid, 0)

end Sys2Proof.Machine
end

