-- ==== Sys2Proof/Syntax.lean ====
section
/-! DEFINITION. The instructions of the SK9: one constructor for each row of the opcode table.
The first 226 rows are 32-bit words of the Wilmos ISA, version 1 (R244, R250); their operands are
the fields of the word. The other rows have no word: they are commands of the host driver (R451,
R452), writes of BAR0 registers (R448), and events of the device's own units and of outside
parties; their operands say what the event concerns. -/

namespace Sys2Proof

/-- Who makes an access to the PINNED frames exposed as host-managed device memory (R58). -/
inductive HdmAgent where
  | host
  | peer
  deriving DecidableEq, Repr

/-- What an outside access to a PINNED block does (R58, R59). A host may read for a shared or an
owned copy, and it may write a block back; a peer reads and writes without caching. -/
inductive HdmKind where
  | readShared
  | readOwned
  | write
  deriving DecidableEq, Repr

/-- The protected structures, in the order of the error counters (R457, R96). -/
inductive ErrPart where
  | registers
  | coreL1
  | groupScratch
  | samplerCache
  | clusterCache
  | clusterScratch
  | homeCache
  | snoopFilter
  | vault
  | port (n : Nat)
  | ide
  | firmware
  deriving DecidableEq, Repr

/-- The instructions and events of the machine: the words with operand fields in the opcode table's
order, the host's commands, then the words without fields and the other events. (Lean's compiler can
build at most 244 constructors with arguments, so those that the machine itself builds stand
first.) -/
inductive Instr where
  /-- TRAP (R427). -/
  | trap (i : BitVec 16)
  /-- HCALL (R416). -/
  | hcall (a : BitVec 6)
  /-- MODE (R264). -/
  | mode (v : BitVec 24)
  /-- MODE_FIELD (R264). -/
  | modeField (f : BitVec 4) (v : BitVec 6)
  /-- MODEW (R266). -/
  | modew (a : BitVec 6)
  /-- MODER (R266). -/
  | moder (d : BitVec 6)
  /-- FSTR (R266). -/
  | fstr (d : BitVec 6)
  /-- FSTW (R266). -/
  | fstw (a : BitVec 6)
  /-- WAIT (R268). -/
  | wait (l : BitVec 6) (s : BitVec 6) (c : BitVec 6) (m : BitVec 6)
  /-- WAITX (R268). -/
  | waitx (a : BitVec 6) (c : BitVec 3)
  /-- BRA (R270). -/
  | bra (c : BitVec 4) (o : BitVec 22)
  /-- CALL (R271). -/
  | call (c : BitVec 4) (o : BitVec 22)
  /-- IF (R275). -/
  | ifOp (p : BitVec 3) (n : BitVec 1) (o : BitVec 19)
  /-- ELSE (R275). -/
  | elseOp (o : BitVec 19)
  /-- LOOP (R275). -/
  | loop (o : BitVec 19)
  /-- BREAK (R275). -/
  | breakOp (p : BitVec 3) (n : BitVec 1)
  /-- LCONT (R275). -/
  | lcont (p : BitVec 3) (n : BitVec 1)
  /-- ENDLOOP (R275). -/
  | endloop (p : BitVec 3) (n : BitVec 1) (o : BitVec 19)
  /-- BRX (R272). -/
  | brx (a : BitVec 6)
  /-- CALLX (R272). -/
  | callx (c : BitVec 4) (a : BitVec 6)
  /-- RET (R272). -/
  | ret (a : BitVec 6)
  /-- ADD (R277). -/
  | add (d : BitVec 6) (a : BitVec 6) (b : BitVec 6)
  /-- SUB (R277). -/
  | sub (d : BitVec 6) (a : BitVec 6) (b : BitVec 6)
  /-- MUL (R277). -/
  | mul (d : BitVec 6) (a : BitVec 6) (b : BitVec 6)
  /-- MULH (R277). -/
  | mulh (d : BitVec 6) (a : BitVec 6) (b : BitVec 6)
  /-- MULHN (R277). -/
  | mulhn (d : BitVec 6) (a : BitVec 6) (b : BitVec 6)
  /-- DIV (R277). -/
  | div (d : BitVec 6) (a : BitVec 6) (b : BitVec 6)
  /-- DIVN (R277). -/
  | divn (d : BitVec 6) (a : BitVec 6) (b : BitVec 6)
  /-- REM (R277). -/
  | rem (d : BitVec 6) (a : BitVec 6) (b : BitVec 6)
  /-- AND (R277). -/
  | and (d : BitVec 6) (a : BitVec 6) (b : BitVec 6)
  /-- OR (R277). -/
  | or (d : BitVec 6) (a : BitVec 6) (b : BitVec 6)
  /-- XOR (R277). -/
  | xor (d : BitVec 6) (a : BitVec 6) (b : BitVec 6)
  /-- ANDN (R277). -/
  | andn (d : BitVec 6) (a : BitVec 6) (b : BitVec 6)
  /-- SHL (R277). -/
  | shl (d : BitVec 6) (a : BitVec 6) (b : BitVec 6)
  /-- SHR (R277). -/
  | shr (d : BitVec 6) (a : BitVec 6) (b : BitVec 6)
  /-- SAR (R277). -/
  | sar (d : BitVec 6) (a : BitVec 6) (b : BitVec 6)
  /-- MIN (R277). -/
  | min (d : BitVec 6) (a : BitVec 6) (b : BitVec 6)
  /-- MAX (R277). -/
  | max (d : BitVec 6) (a : BitVec 6) (b : BitVec 6)
  /-- MINN (R277). -/
  | minn (d : BitVec 6) (a : BitVec 6) (b : BitVec 6)
  /-- MAXN (R277). -/
  | maxn (d : BitVec 6) (a : BitVec 6) (b : BitVec 6)
  /-- CMP (R277). -/
  | cmp (d : BitVec 6) (a : BitVec 6) (b : BitVec 6)
  /-- CMPN (R277). -/
  | cmpn (d : BitVec 6) (a : BitVec 6) (b : BitVec 6)
  /-- CLZ (R277). -/
  | clz (d : BitVec 6) (a : BitVec 6)
  /-- POPC (R277). -/
  | popc (d : BitVec 6) (a : BitVec 6)
  /-- MOV (R277). -/
  | mov (d : BitVec 6) (a : BitVec 6)
  /-- ADDI (R278). -/
  | addi (d : BitVec 6) (a : BitVec 6) (i : BitVec 14)
  /-- ANDI (R278). -/
  | andi (d : BitVec 6) (a : BitVec 6) (i : BitVec 14)
  /-- ORI (R278). -/
  | ori (d : BitVec 6) (a : BitVec 6) (i : BitVec 14)
  /-- CMPI (R278). -/
  | cmpi (d : BitVec 6) (a : BitVec 6) (i : BitVec 14)
  /-- MOVZ (R279). -/
  | movz (d : BitVec 6) (h : BitVec 2) (i : BitVec 16)
  /-- MOVK (R279). -/
  | movk (d : BitVec 6) (h : BitVec 2) (i : BitVec 16)
  /-- MOVS (R279). -/
  | movs (d : BitVec 6) (h : BitVec 2) (i : BitVec 16)
  /-- SRD (R280). -/
  | srd (d : BitVec 6) (n : BitVec 4)
  /-- SWR (R280). -/
  | swr (a : BitVec 6) (n : BitVec 4)
  /-- VADD (R287). -/
  | vadd (d : BitVec 7) (a : BitVec 7) (b : BitVec 7) (s : BitVec 1)
  /-- VSUB (R287). -/
  | vsub (d : BitVec 7) (a : BitVec 7) (b : BitVec 7) (s : BitVec 1)
  /-- VMUL (R287). -/
  | vmul (d : BitVec 7) (a : BitVec 7) (b : BitVec 7) (s : BitVec 1)
  /-- VMULH (R287). -/
  | vmulh (d : BitVec 7) (a : BitVec 7) (b : BitVec 7) (s : BitVec 1)
  /-- VAND (R287). -/
  | vand (d : BitVec 7) (a : BitVec 7) (b : BitVec 7) (s : BitVec 1)
  /-- VOR (R287). -/
  | vor (d : BitVec 7) (a : BitVec 7) (b : BitVec 7) (s : BitVec 1)
  /-- VXOR (R287). -/
  | vxor (d : BitVec 7) (a : BitVec 7) (b : BitVec 7) (s : BitVec 1)
  /-- VANDN (R287). -/
  | vandn (d : BitVec 7) (a : BitVec 7) (b : BitVec 7) (s : BitVec 1)
  /-- VSHL (R287). -/
  | vshl (d : BitVec 7) (a : BitVec 7) (b : BitVec 7) (s : BitVec 1)
  /-- VSHR (R287). -/
  | vshr (d : BitVec 7) (a : BitVec 7) (b : BitVec 7) (s : BitVec 1)
  /-- VSAR (R287). -/
  | vsar (d : BitVec 7) (a : BitVec 7) (b : BitVec 7) (s : BitVec 1)
  /-- VROT (R287). -/
  | vrot (d : BitVec 7) (a : BitVec 7) (b : BitVec 7) (s : BitVec 1)
  /-- VMIN (R287). -/
  | vmin (d : BitVec 7) (a : BitVec 7) (b : BitVec 7) (s : BitVec 1)
  /-- VMAX (R287). -/
  | vmax (d : BitVec 7) (a : BitVec 7) (b : BitVec 7) (s : BitVec 1)
  /-- VABSD (R287). -/
  | vabsd (d : BitVec 7) (a : BitVec 7) (b : BitVec 7) (s : BitVec 1)
  /-- VAVG (R287). -/
  | vavg (d : BitVec 7) (a : BitVec 7) (b : BitVec 7) (s : BitVec 1)
  /-- VCMPEQ (R288). -/
  | vcmpeq (d : BitVec 3) (a : BitVec 7) (b : BitVec 7) (s : BitVec 1)
  /-- VCMPNE (R288). -/
  | vcmpne (d : BitVec 3) (a : BitVec 7) (b : BitVec 7) (s : BitVec 1)
  /-- VCMPLT (R288). -/
  | vcmplt (d : BitVec 3) (a : BitVec 7) (b : BitVec 7) (s : BitVec 1)
  /-- VCMPLE (R288). -/
  | vcmple (d : BitVec 3) (a : BitVec 7) (b : BitVec 7) (s : BitVec 1)
  /-- VFADD (R289). -/
  | vfadd (r : BitVec 2) (d : BitVec 7) (a : BitVec 7) (b : BitVec 7) (s : BitVec 1)
  /-- VFSUB (R289). -/
  | vfsub (r : BitVec 2) (d : BitVec 7) (a : BitVec 7) (b : BitVec 7) (s : BitVec 1)
  /-- VFMUL (R289). -/
  | vfmul (r : BitVec 2) (d : BitVec 7) (a : BitVec 7) (b : BitVec 7) (s : BitVec 1)
  /-- VFDIV (R289). -/
  | vfdiv (r : BitVec 2) (d : BitVec 7) (a : BitVec 7) (b : BitVec 7) (s : BitVec 1)
  /-- VFMIN (R291). -/
  | vfmin (d : BitVec 7) (a : BitVec 7) (b : BitVec 7) (s : BitVec 1)
  /-- VFMAX (R291). -/
  | vfmax (d : BitVec 7) (a : BitVec 7) (b : BitVec 7) (s : BitVec 1)
  /-- VFMINNUM (R291). -/
  | vfminnum (d : BitVec 7) (a : BitVec 7) (b : BitVec 7) (s : BitVec 1)
  /-- VFMAXNUM (R291). -/
  | vfmaxnum (d : BitVec 7) (a : BitVec 7) (b : BitVec 7) (s : BitVec 1)
  /-- VSEL (R292). -/
  | vsel (d : BitVec 7) (a : BitVec 7) (b : BitVec 7) (s : BitVec 1)
  /-- VBCAST (R292). -/
  | vbcast (d : BitVec 7) (a : BitVec 7) (b : BitVec 6)
  /-- VCLAMP (R292). -/
  | vclamp (d : BitVec 7) (a : BitVec 7) (b : BitVec 7) (s : BitVec 1)
  /-- VCSIGN (R292). -/
  | vcsign (d : BitVec 7) (a : BitVec 7) (b : BitVec 7) (s : BitVec 1)
  /-- VDOT4 (R293). -/
  | vdot4 (d : BitVec 7) (a : BitVec 7) (b : BitVec 7) (s : BitVec 1) (y : BitVec 1) (x : BitVec 1)
  /-- VDOT8 (R293). -/
  | vdot8 (d : BitVec 7) (a : BitVec 7) (b : BitVec 7) (s : BitVec 1) (y : BitVec 1) (x : BitVec 1)
  /-- VMOV (R294). -/
  | vmov (d : BitVec 7) (a : BitVec 7)
  /-- VNEG (R294). -/
  | vneg (d : BitVec 7) (a : BitVec 7)
  /-- VABS (R294). -/
  | vabs (d : BitVec 7) (a : BitVec 7)
  /-- VNOT (R294). -/
  | vnot (d : BitVec 7) (a : BitVec 7)
  /-- VCLZ (R294). -/
  | vclz (d : BitVec 7) (a : BitVec 7)
  /-- VPOPC (R294). -/
  | vpopc (d : BitVec 7) (a : BitVec 7)
  /-- VBREV (R294). -/
  | vbrev (d : BitVec 7) (a : BitVec 7)
  /-- VFRACT (R295). -/
  | vfract (d : BitVec 7) (a : BitVec 7)
  /-- VFLOOR (R295). -/
  | vfloor (d : BitVec 7) (a : BitVec 7)
  /-- VCEIL (R295). -/
  | vceil (d : BitVec 7) (a : BitVec 7)
  /-- VTRUNC (R295). -/
  | vtrunc (d : BitVec 7) (a : BitVec 7)
  /-- VRINT (R295). -/
  | vrint (r : BitVec 2) (d : BitVec 7) (a : BitVec 7)
  /-- VRCP (R296). -/
  | vrcp (r : BitVec 2) (d : BitVec 7) (a : BitVec 7)
  /-- VRSQ (R296). -/
  | vrsq (r : BitVec 2) (d : BitVec 7) (a : BitVec 7)
  /-- VSQRT (R296). -/
  | vsqrt (r : BitVec 2) (d : BitVec 7) (a : BitVec 7)
  /-- VEXP2 (R296). -/
  | vexp2 (r : BitVec 2) (d : BitVec 7) (a : BitVec 7)
  /-- VLOG2 (R296). -/
  | vlog2 (r : BitVec 2) (d : BitVec 7) (a : BitVec 7)
  /-- VSIN (R296). -/
  | vsin (r : BitVec 2) (d : BitVec 7) (a : BitVec 7)
  /-- VCOS (R296). -/
  | vcos (r : BitVec 2) (d : BitVec 7) (a : BitVec 7)
  /-- VTANH (R296). -/
  | vtanh (r : BitVec 2) (d : BitVec 7) (a : BitVec 7)
  /-- VFCLASS (R297). -/
  | vfclass (d : BitVec 7) (a : BitVec 7)
  /-- VLANEID (R294). -/
  | vlaneid (d : BitVec 7)
  /-- VCVT (R298). -/
  | vcvt (r : BitVec 2) (d : BitVec 7) (a : BitVec 7) (t : BitVec 6)
  /-- VCVTS (R298). -/
  | vcvts (r : BitVec 2) (d : BitVec 7) (a : BitVec 7) (t : BitVec 6)
  /-- VSHFL (R299). -/
  | vshfl (d : BitVec 7) (a : BitVec 7) (b : BitVec 7) (s : BitVec 1)
  /-- VSHFLX (R299). -/
  | vshflx (d : BitVec 7) (a : BitVec 7) (b : BitVec 7) (s : BitVec 1)
  /-- VSHFLUP (R299). -/
  | vshflup (d : BitVec 7) (a : BitVec 7) (b : BitVec 7) (s : BitVec 1)
  /-- VSHFLDN (R299). -/
  | vshfldn (d : BitVec 7) (a : BitVec 7) (b : BitVec 7) (s : BitVec 1)
  /-- VRSUM (R300). -/
  | vrsum (r : BitVec 2) (d : BitVec 6) (a : BitVec 7)
  /-- VRMIN (R300). -/
  | vrmin (d : BitVec 6) (a : BitVec 7)
  /-- VRMAX (R300). -/
  | vrmax (d : BitVec 6) (a : BitVec 7)
  /-- VRAND (R300). -/
  | vrand (d : BitVec 6) (a : BitVec 7)
  /-- VROR (R300). -/
  | vror (d : BitVec 6) (a : BitVec 7)
  /-- VRXOR (R300). -/
  | vrxor (d : BitVec 6) (a : BitVec 7)
  /-- VBALLOT (R300). -/
  | vballot (d : BitVec 6) (a : BitVec 7)
  /-- VFIRST (R300). -/
  | vfirst (d : BitVec 6) (a : BitVec 7)
  /-- VBFE (R302). -/
  | vbfe (d : BitVec 7) (a : BitVec 7) (b : BitVec 7) (s : BitVec 1)
  /-- VBFI (R302). -/
  | vbfi (d : BitVec 7) (a : BitVec 7) (b : BitVec 7) (s : BitVec 1)
  /-- VPERM (R302). -/
  | vperm (d : BitVec 7) (a : BitVec 7) (b : BitVec 7) (s : BitVec 1)
  /-- VFUNNEL (R302). -/
  | vfunnel (d : BitVec 7) (a : BitVec 7) (b : BitVec 7) (s : BitVec 1)
  /-- PAND (R281). -/
  | pand (d : BitVec 3) (a : BitVec 3) (b : BitVec 3)
  /-- POR (R281). -/
  | por (d : BitVec 3) (a : BitVec 3) (b : BitVec 3)
  /-- PXOR (R281). -/
  | pxor (d : BitVec 3) (a : BitVec 3) (b : BitVec 3)
  /-- PANDN (R281). -/
  | pandn (d : BitVec 3) (a : BitVec 3) (b : BitVec 3)
  /-- PNOT (R281). -/
  | pnot (d : BitVec 3) (a : BitVec 3)
  /-- PMOVS (R281). -/
  | pmovs (d : BitVec 3) (a : BitVec 6)
  /-- SMOVP (R281). -/
  | smovp (d : BitVec 6) (a : BitVec 3)
  /-- PSET (R281). -/
  | pset (d : BitVec 3)
  /-- PCLR (R281). -/
  | pclr (d : BitVec 3)
  /-- RAND32 (R303). -/
  | rand32 (d : BitVec 7) (a : BitVec 7) (b : BitVec 7) (s : BitVec 1)
  /-- RANDF (R303). -/
  | randf (d : BitVec 7) (a : BitVec 7) (b : BitVec 7) (s : BitVec 1)
  /-- LD (R307). -/
  | ld (d : BitVec 7) (a : BitVec 6) (i : BitVec 7) (p : BitVec 2) (x : BitVec 1) (z : BitVec 3)
  /-- ST (R307). -/
  | st (d : BitVec 7) (a : BitVec 6) (i : BitVec 7) (p : BitVec 2) (z : BitVec 3)
  /-- SLD (R310). -/
  | sld (d : BitVec 6) (a : BitVec 6) (o : BitVec 14)
  /-- SST (R310). -/
  | sst (d : BitVec 6) (a : BitVec 6) (o : BitVec 14)
  /-- LDT (R311). -/
  | ldt (d : BitVec 7) (a : BitVec 6) (t : BitVec 6)
  /-- STT (R311). -/
  | stt (d : BitVec 7) (a : BitVec 6) (t : BitVec 6)
  /-- ATOM (R315). -/
  | atom (d : BitVec 7) (a : BitVec 6) (i : BitVec 7) (w : BitVec 1) (r : BitVec 1) (o : BitVec 4)
  /-- SATOM (R316). -/
  | satom (d : BitVec 6) (a : BitVec 6) (b : BitVec 6) (w : BitVec 1) (r : BitVec 1) (o : BitVec 4)
  /-- FENCE_ACQ (R317). -/
  | fenceAcq (s : BitVec 3)
  /-- FENCE_REL (R317). -/
  | fenceRel (s : BitVec 3)
  /-- FENCE_AR (R317). -/
  | fenceAr (s : BitVec 3)
  /-- FENCE_SC (R317). -/
  | fenceSc (s : BitVec 3)
  /-- FENCE_TX (R153). -/
  | fenceTx (s : BitVec 3)
  /-- LDACQ (R309). -/
  | ldacq (d : BitVec 7) (a : BitVec 6) (i : BitVec 7) (p : BitVec 2) (x : BitVec 1) (z : BitVec 2)
  /-- STREL (R309). -/
  | strel (d : BitVec 7) (a : BitVec 6) (i : BitVec 7) (p : BitVec 2) (z : BitVec 2)
  /-- CPSTEP (R328). -/
  | cpstep (n : BitVec 7)
  /-- CPISSUE (R328). -/
  | cpissue (a : BitVec 6)
  /-- HWAITF (R328). -/
  | hwaitf (h : BitVec 6)
  /-- HWAITE (R328). -/
  | hwaite (h : BitVec 6)
  /-- HREL (R328). -/
  | hrel (h : BitVec 6)
  /-- HREL_PUB (R328). -/
  | hrelPub (h : BitVec 6)
  /-- HQUERY (R328). -/
  | hquery (a : BitVec 6) (h : BitVec 6)
  /-- MMA (R346). -/
  | mma (a : BitVec 6) (b : BitVec 6) (t : BitVec 3) (y : BitVec 1) (x : BitVec 1)
  /-- MMAZ (R346). -/
  | mmaz (a : BitVec 6) (b : BitVec 6) (t : BitVec 3) (y : BitVec 1) (x : BitVec 1)
  /-- MMAT (R346). -/
  | mmat (a : BitVec 6) (b : BitVec 6) (z : BitVec 1) (t : BitVec 1)
  /-- MFENCE (R337). -/
  | mfence (a : BitVec 6)
  /-- MWAIT (R353). -/
  | mwait (a : BitVec 6)
  /-- MZERO (R349). -/
  | mzero (t : BitVec 3)
  /-- MDRAIN (R350). -/
  | mdrain (a : BitVec 6) (p : BitVec 2) (t : BitVec 3)
  /-- MDRAINA (R351). -/
  | mdraina (a : BitVec 6) (p : BitVec 2) (t : BitVec 3)
  /-- MLOAD (R349). -/
  | mload (a : BitVec 6) (t : BitVec 3)
  /-- MREAD (R352). -/
  | mread (a : BitVec 6) (d : BitVec 7)
  /-- MWRITE (R352). -/
  | mwrite (a : BitVec 6) (v : BitVec 7)
  /-- RQUERY (R369). -/
  | rquery (a : BitVec 6) (n : BitVec 2) (x : BitVec 7)
  /-- BQUERY (R374). -/
  | bquery (a : BitVec 6) (b : BitVec 6)
  /-- CQUERY (R370). -/
  | cquery (a : BitVec 6) (n : BitVec 2) (x : BitVec 7)
  /-- RCOMMIT (R371). -/
  | rcommit (n : BitVec 2)
  /-- RRESUME (R371). -/
  | rresume (n : BitVec 2)
  /-- RSTAT (R372). -/
  | rstat (a : BitVec 6) (n : BitVec 2)
  /-- TEXS (R382). -/
  | texs (a : BitVec 6) (x : BitVec 7)
  /-- TEXD (R382). -/
  | texd (a : BitVec 6) (x : BitVec 7)
  /-- TEXC (R382). -/
  | texc (a : BitVec 6) (x : BitVec 7)
  /-- TEXL (R382). -/
  | texl (a : BitVec 6) (x : BitVec 7)
  /-- TEXG (R382). -/
  | texg (a : BitVec 6) (c : BitVec 2) (x : BitVec 7)
  /-- RASTT (R386). -/
  | rastt (a : BitVec 6) (x : BitVec 7)
  /-- RFRAME (R389). -/
  | rframe (a : BitVec 6) (b : BitVec 6)
  /-- RTEST_ACC (R388). -/
  | rtestAcc (x : BitVec 7)
  /-- RTEST_REJ (R388). -/
  | rtestRej (x : BitVec 7)
  /-- RCLEAR (R389). -/
  | rclear (a : BitVec 6)
  /-- FBAR (R393). -/
  | fbar (b : BitVec 2)
  /-- FARRIVE (R393). -/
  | farrive (b : BitVec 2)
  /-- FWAITB (R393). -/
  | fwaitb (b : BitVec 2)
  /-- WINDOW (R394). -/
  | window (a : BitVec 6)
  /-- NBINIT (R396). -/
  | nbinit (n : BitVec 8) (c : BitVec 6)
  /-- NBARRIVE (R396). -/
  | nbarrive (n : BitVec 8)
  /-- NBWAIT (R396). -/
  | nbwait (n : BitVec 8)
  /-- NBSYNC (R396). -/
  | nbsync (n : BitVec 8)
  /-- CONT (R399). -/
  | cont (a : BitVec 6) (x : BitVec 7)
  /-- ENQ (R401). -/
  | enq (a : BitVec 6)
  /-- LAUNCH (R402). -/
  | launch (a : BitVec 6) (b : BitVec 6)
  /-- SOLICIT (R409). -/
  | solicit (a : BitVec 6) (n : BitVec 6)
  /-- REPLY (R412). -/
  | reply (x : BitVec 7)
  /-- CWAIT (R414). -/
  | cwait (a : BitVec 6) (n : BitVec 6)
  /-- CREAD (R414). -/
  | cread (a : BitVec 6) (n : BitVec 6)
  /-- TREG (R406). -/
  | treg (a : BitVec 6) (b : BitVec 6) (d : BitVec 6)
  /-- TDROP (R406). -/
  | tdrop (a : BitVec 6)
  /-- TMOVE (R407). -/
  | tmove (a : BitVec 6) (b : BitVec 6) (d : BitVec 6)
  /-- CRDECL (R319). -/
  | crdecl (a : BitVec 6) (b : BitVec 6)
  /-- CRADD (R320). -/
  | cradd (a : BitVec 6) (v : BitVec 7)
  /-- CRCLOSE (R321). -/
  | crclose (a : BitVec 6)
  /-- TLBINV (R40). -/
  | tlbinv (a : BitVec 6) (b : BitVec 6)
  /-- REGION (R418). -/
  | region (d : BitVec 6) (a : BitVec 6) (b : BitVec 6)
  /-- BANKCFG (R86). -/
  | bankcfg (d : BitVec 6) (a : BitVec 6)
  /-- LEAVE (R419). -/
  | leave (d : BitVec 6) (a : BitVec 6)
  /-- ERRLOG (R420). -/
  | errlog (d : BitVec 6) (a : BitVec 6) (b : BitVec 6)
  /-- TAGSET (R312). -/
  | tagset (a : BitVec 6) (b : BitVec 6)
  /-- TAGGET (R312). -/
  | tagget (d : BitVec 6) (a : BitVec 6)
  /-- VFMA (R304). -/
  | vfma (d : BitVec 7) (a : BitVec 7) (b : BitVec 7) (c : BitVec 7)
  /-- LAUNCH_COMMAND (R220). -/
  | launchCommand (q : Nat) (tag : BitVec 32) (addr : BitVec 64)
  /-- TLBINV_COMMAND (R41). -/
  | tlbinvCommand (q : Nat) (tag : BitVec 32) (va ctl : BitVec 64)
  /-- BANKCFG_COMMAND (R85). -/
  | bankcfgCommand (q : Nat) (tag : BitVec 32) (cluster : BitVec 8) (cfg : BitVec 64)
  /-- VPIN (R56). -/
  | vpin (q : Nat) (tag : BitVec 32) (addr len : BitVec 64)
  /-- VUNPIN (R56). -/
  | vunpin (q : Nat) (tag : BitVec 32) (addr len : BitVec 64)
  /-- VFLUSH (R56). -/
  | vflush (q : Nat) (tag : BitVec 32) (addr len : BitVec 64)
  /-- VDROP (R56). -/
  | vdrop (q : Nat) (tag : BitVec 32) (addr len : BitVec 64)
  /-- FRESUME_REPLAY (R186). -/
  | fresumeReplay (q : Nat) (tag : BitVec 32) (loc : BitVec 32) (frame : BitVec 16)
  /-- FRESUME_ERROR (R186). -/
  | fresumeError (q : Nat) (tag : BitVec 32) (loc : BitVec 32) (frame : BitVec 16)
  /-- FRESUME_KILL (R186). -/
  | fresumeKill (q : Nat) (tag : BitVec 32) (loc : BitVec 32) (frame : BitVec 16)
  /-- PREEMPT_SAVE (R239). -/
  | preemptSave (q : Nat) (tag : BitVec 32) (rgn : BitVec 32) (area : BitVec 64)
  /-- PREEMPT_DISCARD (R242). -/
  | preemptDiscard (q : Nat) (tag : BitVec 32) (rgn : BitVec 32) (area : BitVec 64)
  /-- RESTORE (R241). -/
  | restore (q : Nat) (tag : BitVec 32) (area : BitVec 64)
  /-- SAVESIZE (R451). -/
  | savesize (q : Nat) (tag : BitVec 32) (rgn : BitVec 32)
  /-- RGNOP (R418). -/
  | rgnop (q : Nat) (tag : BitVec 32) (a b : BitVec 64)
  /-- RGNREAD (R210). -/
  | rgnread (q : Nat) (tag : BitVec 32) (rgn : BitVec 32) (dst : BitVec 64)
  /-- RPLREAD (R451). -/
  | rplread (q : Nat) (tag : BitVec 32) (loc : BitVec 32) (frame : BitVec 16) (dst : BitVec 64)
  /-- DIRREAD (R451). -/
  | dirread (q : Nat) (tag : BitVec 32) (core : BitVec 16) (dst : BitVec 64)
  /-- DBGATTACH (R430). -/
  | dbgattach (q : Nat) (tag : BitVec 32) (rgn : BitVec 32)
  /-- DBGDETACH (R430). -/
  | dbgdetach (q : Nat) (tag : BitVec 32) (rgn : BitVec 32)
  /-- DBGSTOP (R430). -/
  | dbgstop (q : Nat) (tag : BitVec 32) (kind : BitVec 8) (target : BitVec 32)
  /-- DBGRUN (R430). -/
  | dbgrun (q : Nat) (tag : BitVec 32) (kind : BitVec 8) (target : BitVec 32)
  /-- DBGSTEP (R432). -/
  | dbgstep (q : Nat) (tag : BitVec 32) (loc : BitVec 32) (count : BitVec 16)
  /-- DBGREAD (R431). -/
  | dbgread (q : Nat) (tag : BitVec 32) (loc : BitVec 32) (item index : BitVec 8) (host : BitVec 64)
  /-- DBGWRITE (R431). -/
  | dbgwrite (q : Nat) (tag : BitVec 32) (loc : BitVec 32) (item index : BitVec 8) (host : BitVec 64)
  /-- DBGBP (R430). -/
  | dbgbp (q : Nat) (tag : BitVec 32) (index enable : BitVec 8) (asid : BitVec 16) (pc : BitVec 64)
  /-- DBGWP (R430). -/
  | dbgwp (q : Nat) (tag : BitVec 32) (index enable : BitVec 8) (asid : BitVec 16) (log2 kinds : BitVec 8) (va : BitVec 64)
  /-- ERRDRAIN (R457). -/
  | errdrain (q : Nat) (tag : BitVec 32) (dst : BitVec 64) (most : BitVec 32)
  /-- NOP (R260). -/
  | nop
  /-- EXIT (R261). -/
  | exit
  /-- TRET (R426). -/
  | tret
  /-- BKPT (R427). -/
  | bkpt
  /-- YIELD (R262). -/
  | yield
  /-- HALT (R427). -/
  | halt
  /-- CEDE (R263). -/
  | cede
  /-- ENDIF (R275). -/
  | endif
  /-- RETIRE (R400). -/
  | retire
  /-- MALFORMED_COMMAND (R451). -/
  | malformedCommand (q : Nat) (tag : BitVec 32)
  /-- SQTAIL_DOORBELL (R449). -/
  | sqtailDoorbell (q : Nat) (v : BitVec 32)
  /-- CTXBASE_WRITE (R13). -/
  | ctxbaseWrite (v : BitVec 64)
  /-- REGISTER_WRITE (R448). -/
  | registerWrite (off : BitVec 16) (bytes : Nat) (v : BitVec 64)
  /-- COLD_RESET (R460). -/
  | coldReset (failed : Option (BitVec 4))
  /-- FUNCTION_LEVEL_RESET (R460). -/
  | functionLevelReset
  /-- CORE_RESET (R460). -/
  | coreReset (core : Nat)
  /-- CORE_POWER_GATE (R145). -/
  | corePowerGate (core : Nat)
  /-- BISNPINV (R60). -/
  | bisnpinv (addr : BitVec 64)
  /-- BISNPDATA (R60). -/
  | bisnpdata (addr : BitVec 64)
  /-- BISNPCUR (R60). -/
  | bisnpcur (addr : BitVec 64)
  /-- H2D_SNOOP (R62). -/
  | h2dSnoop (addr : BitVec 64)
  /-- HDM_ACCESS (R58). -/
  | hdmAccess (agent : HdmAgent) (kind : HdmKind) (addr : BitVec 64) (data : BitVec 512)
  /-- ATS_INVALIDATION_REQUEST (R44). -/
  | atsInvalidationRequest (base len : BitVec 64)
  /-- ATS_COMPLETION (R42). -/
  | atsCompletion (asid : BitVec 16) (page host : BitVec 64) (log2 : Nat) (read write fail : Bool)
  /-- IDE_FAILURE (R457). -/
  | ideFailure (port : Nat) (carried : List Nat)
  /-- THERMAL_LIMIT (R459). -/
  | thermalLimit (allow : BitVec 24)
  /-- THERMAL_TRIP (R459). -/
  | thermalTrip
  /-- GET_VERSION (R455). -/
  | getVersion
  /-- GET_CAPABILITIES (R455). -/
  | getCapabilities
  /-- NEGOTIATE_ALGORITHMS (R455). -/
  | negotiateAlgorithms (ecdsaP384 sha384 : Bool)
  /-- GET_DIGESTS (R455). -/
  | getDigests
  /-- GET_CERTIFICATE (R455). -/
  | getCertificate (offset length : BitVec 16)
  /-- CHALLENGE (R455). -/
  | challenge (nonce : BitVec 256)
  /-- GET_MEASUREMENTS (R455). -/
  | getMeasurements (index : BitVec 8)
  /-- KEY_EXCHANGE (R455). -/
  | keyExchange (port stream : Nat) (point : BitVec 768)
  /-- LOCK_INTERFACE_REQUEST (R458). -/
  | lockInterfaceRequest (rgn : Nat)
  /-- START_INTERFACE_REQUEST (R458). -/
  | startInterfaceRequest (rgn : Nat)
  /-- STOP_INTERFACE_REQUEST (R458). -/
  | stopInterfaceRequest (rgn : Nat)
  /-- CORRECTABLE_ERROR (R96). -/
  | correctableError (what : ErrPart) (place addr : Nat)
  /-- UNCORRECTABLE_ERROR (R96). -/
  | uncorrectableError (what : ErrPart) (place addr : Nat)
  /-- VAULT_UNCORRECTABLE_ERROR (R66). -/
  | vaultUncorrectableError (addr : Nat)
  /-- PURSE_REFILL (R235). -/
  | purseRefill (cluster : Nat)
  /-- MIGRATION_ISSUE (R177). -/
  | migrationIssue (id : Nat)
  /-- SWEEP_RETRY (R181). -/
  | sweepRetry (die : Nat)
  /-- BACKGROUND_WRITEBACK (R181). -/
  | backgroundWriteback (die : Nat)
  /-- GRANULE_FILLED (R52). -/
  | granuleFilled (frame : Nat)
  /-- WRITEBACK_DONE (R50). -/
  | writebackDone (frame : Nat)
  /-- EVICTION_COMPLETE (R54). -/
  | evictionComplete (frame : Nat)
  /-- OWNERSHIP_GRANTED (R60). -/
  | ownershipGranted (addr : Nat)
  /-- PAGE_WALK (R19). -/
  | pageWalk (core : Nat) (asid : BitVec 16) (va : BitVec 64)
  /-- LSU_COMPLETE (R308). -/
  | lsuComplete (id : Nat)
  /-- MSIX_COALESCED_SEND (R453). -/
  | msixCoalescedSend (vector : Nat)
  /-- FAULT_REPORT_DELIVERY (R184). -/
  | faultReportDelivery
  /-- HCALL_RING_DELIVERY (R416). -/
  | hcallRingDelivery
  /-- RECORD_REPLAY (R173). -/
  | recordReplay (loc frame : Nat)
  /-- DRAIN (R144). -/
  | drain (core : Nat)
  /-- DIRTY_LINE_WRITEBACK (R134). -/
  | dirtyLineWriteback (core line : Nat)
  /-- MERGE_WINDOW_CLOSE (R93). -/
  | mergeWindowClose (cluster line : Nat) (asid : BitVec 16)
  /-- TENURE_SWITCH (R194). -/
  | tenureSwitch (slot : Nat)
  /-- BUDGET_EXHAUSTED (R230). -/
  | budgetExhausted (rgn : Nat)
  /-- PLACEMENT (R227). -/
  | placement
  /-- TASK_TAKE (R224). -/
  | taskTake (core : Nat)
  /-- TELLER_RECORD_ARRIVAL (R439). -/
  | tellerRecordArrival (core : Nat)
  /-- OVERFLOW_RETURN (R207). -/
  | overflowReturn (rgn : Nat)
  /-- BIN_RIPEN (R206). -/
  | binRipen (core bin : Nat)
  /-- TELLER_PLACEMENT (R206). -/
  | tellerPlacement (core : Nat)
  /-- FIBRE_EMPTY (R192). -/
  | fibreEmpty (loc : Nat)
  /-- LAUNCH_RETIRE (R221). -/
  | launchRetire (id : Nat)
  /-- CONTEXT_SAVE (R239). -/
  | contextSave (rgn : Nat)
  /-- BANK_SWITCH (R86). -/
  | bankSwitch (cluster bank : Nat)
  /-- BATCH_MIGRATION (R339). -/
  | batchMigration (id engine : Nat)
  /-- COPY_ENTRY_START (R325). -/
  | copyEntryStart (group : Nat)
  /-- CPISSUE_START (R328). -/
  | cpissueStart (id : Nat)
  /-- TRANSFER_COMPLETE (R326). -/
  | transferComplete (id : Nat)
  /-- MATRIX_COMMAND_START (R338). -/
  | matrixCommandStart (id : Nat)
  /-- MATRIX_COMMAND_COMPLETE (R337). -/
  | matrixCommandComplete (id : Nat)
  /-- NODE_VISIT (R365). -/
  | nodeVisit (id lane : Nat)
  /-- SAMPLE_COMPLETE (R383). -/
  | sampleComplete (id : Nat)
  /-- RAST_COMPLETE (R386). -/
  | rastComplete (id : Nat)
  /-- FRAME_EVENT (R389). -/
  | frameEvent (id : Nat)
  /-- CENSUS_BROADCAST (R409). -/
  | censusBroadcast (id : Nat)
  /-- CENSUS_SWEEP (R410). -/
  | censusSweep (serial core : Nat)
  /-- TMOVE_INSERT (R407). -/
  | tmoveInsert (id : Nat)
  /-- SWITCH (R408). -/
  | switch (id : Nat) (target : Bool)
  /-- CENSUS_COMPLETE (R414). -/
  | censusComplete (serial : Nat)
  /-- DBGREAD_TIMEOUT (R431). -/
  | dbgreadTimeout (q : Nat)
  /-- LINK_TRAINED (R447). -/
  | linkTrained (port : Nat)
  /-- HOST_BIRSP (R58). -/
  | hostBirsp (id : Nat)
  /-- CORE_POWER_UP (R280). -/
  | corePowerUp (core : Nat)
  /-- ALLOWANCE_SET (R459). -/
  | allowanceSet (allow : List (BitVec 24)) (temp draw : BitVec 16) (throttle : Bool)
  deriving DecidableEq, Repr

end Sys2Proof
end

