-- ==== Sys2Proof/Machine/State.lean ====
section
/-! DEFINITION. The state of the machine as plain data: everything that the specification gives the
SK9, from the registers of a fibre to the queues of the host. Positions that hold nothing are absent
from their map. Containers are numbered as the device numbers them: a fibre by its locator
core × 128 + quadrant × 32 + slot × 4 + fibre (R170), a slot by core × 32 + quadrant × 8 + slot, a
bank by cluster × 32 + bank. Operations, groups, launches and the like carry numbers of the model's
own, taken from the counter `fresh`. -/

namespace Sys2Proof.Machine

/-- Why the machine stops. -/
inductive Fault where
  /-- Raised by every instruction word when no fibre is chosen to issue (`cur` names an EMPTY
  position). The step never runs a word so; only a direct call of `exec` in such a state ends here.
  Safe: there is no instruction to run. -/
  | noFibre
  deriving DecidableEq, Repr

/-- Why an instruction has no meaning. -/
inductive Refusal where
  /-- Raised by an arm of `exec` whose meaning is not written. Safe. -/
  | notModelled (mnemonic : String)
  deriving DecidableEq, Repr

/-- A vector register: 32 lanes of 32 bits, lane 0 in the lowest bits (R190). -/
abbrev VReg := BitVec 1024

/-! ### Fibres -/

/-- The states of a fibre position that holds a fibre (R191); EMPTY is absence. -/
inductive FibState where
  | ready
  | current
  | stalled
  | parked
  | suspended
  | exiting
  deriving DecidableEq, Repr

/-- The kind of a reconvergence stack entry (R203). -/
inductive EntKind where
  | ifEnt
  | elseEnt
  | loopEnt
  deriving DecidableEq, Repr

/-- An entry of the reconvergence stack (R275). -/
structure StackEnt where
  kind : EntKind
  ent : Word
  pend : Word
  addr : BitVec 48
  deriving DecidableEq, Repr

/-- A release mark: the core that owes a drain and the epoch it closed (R143). -/
structure Mark where
  core : Nat
  epoch : Nat
  deriving DecidableEq, Repr

/-- What a trap handler hides (R425). -/
structure Hidden where
  s60 : Dword
  s61 : Dword
  s62 : Dword
  s63 : Dword
  mode : Word
  cf : BitVec 3
  deriving DecidableEq, Repr

/-- An unhandled trap that waits for FRESUME (R428): where the fibre goes on after IGNORE or
ERROR, and the region that absorbed it. -/
structure TrapWait where
  next : BitVec 48
  absorber : Nat
  deriving DecidableEq, Repr

/-- What the debugger holds of a fibre (R430 to R432): whether it is stopped, the steps that it may still
execute before it stops again, and whether breakpoints and watchpoints let its next instruction pass. -/
structure Debug where
  stopped : Bool
  steps : Nat
  skipBreak : Bool
  deriving DecidableEq, Repr

/-- The state of a query slot (R367). -/
inductive QueryState where
  | idle
  | running
  | stopped
  | done
  deriving DecidableEq, Repr

/-- A query slot of a fibre: its state and the operation it holds (R367). -/
structure Query where
  st : QueryState
  op : Nat
  deriving DecidableEq, Repr

/-- A fibre (R190, R201). Maps list only what differs from the starting value. -/
structure Fibre where
  st : FibState
  /-- Program counter (R244). -/
  pc : BitVec 48
  /-- Execution mask (R202). -/
  exec : Word
  /-- Reconvergence stack, top first (R203). -/
  stack : List StackEnt
  /-- s0 to s63. -/
  sreg : Sparse Dword
  /-- p0 to p6; p7 reads all ones (R247). -/
  pred : Sparse Word
  mode : Word
  fstat : Word
  /-- Condition flags Z, L, C in bits 0, 1, 2 (R269). -/
  cf : BitVec 3
  lr : Dword
  issued : Dword
  wdesc : Dword
  /-- The frame ring by ring position (R195). -/
  ring : Sparse VReg
  /-- Spill area: base address and length in bytes (R197, R218). -/
  spBase : Dword
  spLen : Nat
  /-- Outstanding counters LD ST CP MX RY TX RS SC (R267). -/
  ctr : Sparse Nat
  /-- Pending set of release marks (R144). -/
  pendSet : List Mark
  /-- The drains of an acquire have been asked for and the wait goes on (R144). -/
  draining : Bool
  /-- The drains of a full pending set have been sent for a read that waits (R144). -/
  flushing : Bool
  /-- The closed epoch with which the fibre's writes go through to their homes, after a lazy
  release and until its next fence or acquire (R143). -/
  wthru : Option Nat
  /-- After an eager release, until its next fence or acquire: the fibre's writes are release
  writes of its core (R135, R142). -/
  relNext : Bool
  /-- The release write of the last release is still to come (R135): a fence or an acquire before it
  leaves the write mode as it is. -/
  relOpen : Bool
  /-- Cores whose release writes its reads have returned since its last acquire (R136, R162). -/
  syncSet : List Nat
  /-- Arrival counts at fb0 to fb3 (R393). -/
  fbArr : Sparse Nat
  /-- Wait targets at named barriers, by barrier name (R396). -/
  nbWait : Sparse Nat
  /-- The fibre has arrived in its waiting FBAR (R393). -/
  fbIn : Bool
  /-- The fibre has arrived in its waiting NBSYNC (R396). -/
  nbIn : Bool
  /-- The fibre's TLBINV or BANKCFG waits (R40, R86): the operation. -/
  waitOp : Option Nat
  /-- The leave request of the waiting instruction has been granted: BAL after the grant (R237). -/
  leave : Option Word
  /-- Matrix commands of the open batch, oldest first, and the number of the next batch (R336). -/
  openBatch : List Nat
  nextBatch : Nat
  /-- Query slots q0 to q3 (R367). -/
  query : Sparse Query
  /-- BQUERYs still covered by the last leave (R236). -/
  beamCredit : Nat
  inHandler : Bool
  hidden : Hidden
  trapWait : Option TrapWait
  debugger : Debug
  /-- The instruction in issue carries CEDE: the program counter stands on the prefix (R244). -/
  cede : Bool
  /-- The address of a refused fetch that was resolved with the error response: it reads zero once (R32). -/
  fetched : Option (BitVec 48)
  region : Nat
  asid : BitVec 16
  lid : Nat
  group : Nat
  launch : Nat
  /-- Lanes that still owe a reply, with the census and the directory entry of each (R411). -/
  owes : Sparse (Nat × Nat)
  /-- Lanes that still owe the decision of a raster test, with the test's number (R388). -/
  tests : Sparse Nat
  /-- The teller formed it (R206). -/
  teller : Bool
  deriving DecidableEq, Repr

/-! ### Slots and groups -/

/-- What a slot is used for (R190). -/
inductive SlotKind where
  | gang
  | task
  | teller
  deriving DecidableEq, Repr

/-- A fibre barrier: participants by FID, and the phase count (R393). -/
structure FBar where
  mask : BitVec 4
  phase : Nat
  deriving DecidableEq, Repr

/-- A register with a pending write, as the scoreboard names it (R200). Predicates and condition
flags are written by instructions that complete when they issue, so they have none. -/
inductive Res where
  | s (fid n : Nat)
  | v (fid pos : Nat)
  | sh (n : Nat)
  | tile (t : Nat)
  deriving DecidableEq, Repr

/-- A pending write and the operation that makes it (R200). -/
structure Pend where
  res : Res
  op : Nat
  deriving DecidableEq, Repr

/-- A slot that holds fibres (R190, R195). -/
structure Slot where
  kind : SlotKind
  asid : BitVec 16
  /-- Registers of each fibre's ring and of the shared range (R195). -/
  q : Nat
  h : Nat
  /-- Ring registers allocated in total (R195). -/
  regs : Nat
  shared : Sparse VReg
  /-- Accumulator tiles of the slot, and their elements by tile × 1024 + row × 32 + column (R333). -/
  tiles : Nat
  tile : Sparse (BitVec 96)
  fbar : Sparse FBar
  pend : List Pend
  /-- The FID that last held the slot (R193). -/
  last : Nat
  deriving DecidableEq, Repr

/-- A named barrier of a group (R396). -/
structure NBar where
  target : Nat
  tally : Nat
  phase : Nat
  deriving DecidableEq, Repr

/-- The state of a buffer handle (R326). -/
inductive HandleState where
  | free
  | filling
  | full
  | draining
  deriving DecidableEq, Repr

/-- A buffer handle that a group has mapped (R323, R326): state, the stage its transfers belong to,
and how many of them have not completed. -/
structure Handle where
  st : HandleState
  stage : Nat
  left : Nat
  deriving DecidableEq, Repr

/-- A CPSTEP, or the placement of the group, with the stage counter after it: a transfer that it made
eligible parks its fibre and shows its instruction (R169, R331). -/
structure CpStep where
  stage : Nat
  loc : Nat
  lmask : Word
  iword : Word
  mode : Word
  pc : BitVec 48
  cede : Bool
  deriving DecidableEq, Repr

/-- What made a group (R190, R217, R206). -/
inductive GroupKind where
  | grid
  | task
  | teller
  deriving DecidableEq, Repr

/-- What the receiving lane of a record owes: a reply to a census for a directory entry (R411), the
decision of a raster test (R388), or nothing. -/
inductive Owed where
  | nothing
  | reply (census ent : Nat)
  | test (id : Nat)
  deriving DecidableEq, Repr

/-- A continuation record with what its lane owes. -/
structure ContRec where
  bytes : List Byte
  owed : Owed
  deriving DecidableEq, Repr

/-- A placed group (R190). -/
structure Group where
  kind : GroupKind
  gid : Dword
  lin : Nat
  core : Nat
  launch : Nat
  region : Nat
  asid : BitVec 16
  /-- Locators of the fibres it was placed with. -/
  members : List Nat
  /-- Group scratch, its place in the carve-out and its length in bytes, and its written bytes (R72 to
  R74). -/
  scrBase : Nat
  scrLen : Nat
  scratch : Sparse Byte
  nbar : Sparse NBar
  /-- Copy context: stage counter, schedule cursor, handles (R323). -/
  stage : Nat
  cursor : Nat
  handles : Sparse Handle
  /-- The schedule entry at the cursor, once it has been read (R325). -/
  sched : Option Nat
  /-- The operation whose record holds the cursor (R325). -/
  schedOp : Option Nat
  /-- Stages whose leave has been granted (R325). -/
  stageLeaves : List Nat
  /-- The steps of the stage counter, oldest first (R331). -/
  steps : List CpStep
  /-- Census handles that are not FREE: serial of each (R409). -/
  cens : Sparse Nat
  /-- Successor-counter address (R205). -/
  succ : Dword
  /-- The task record, or the continuation records, that it was made from (R205, R216). -/
  record : List Byte
  queue : Nat
  recs : List ContRec
  /-- It has been launched again after an uncorrectable error (R97). -/
  relaunched : Bool
  deriving DecidableEq, Repr

/-! ### Launches and regions -/

/-- A role descriptor (R215). -/
structure Role where
  entry : Nat
  fsz : Nat
  shbase : Nat
  ring : Nat
  mset : Bool
  mode : Word
  deriving DecidableEq, Repr

/-- A declared entry (R216). -/
structure Decl where
  entry : Nat
  valid : Bool
  group : Bool
  role : Nat
  nfib : Nat
  deriving DecidableEq, Repr

/-- The fields of a launch record (R213, R214). -/
structure LaunchRec where
  rnum : Nat
  heavy : Nat
  ord : Bool
  nx : Nat
  ny : Nat
  nz : Nat
  xext : Nat
  ngang : Nat
  nrole : Nat
  scrkb : Nat
  tiles : Nat
  shr : Nat
  spkb : Nat
  spbase : Dword
  csbase : Dword
  cscount : Nat
  qtab : Dword
  roles : List Role
  decls : List Decl
  done : Dword
  args : List Dword
  deriving DecidableEq, Repr

/-- An entry of the launch table (R220). -/
structure Launch where
  lrec : LaunchRec
  /-- Next linear group number, and numbers given back by a DISCARD (R242). -/
  next : Nat
  returned : List Nat
  /-- Those of them that are launched again after an uncorrectable error (R97). -/
  again : List Nat
  /-- Groups placed and not yet exited; records outstanding. -/
  placed : Nat
  records : Nat
  /-- The core of the fibre that made the launch, a release that the start of its groups acquires (R136); none for the
  host's. -/
  core : Option Nat
  deriving DecidableEq, Repr

/-- STATE of a region (R209). -/
inductive RegionState where
  | active
  | suspended
  | killed
  deriving DecidableEq, Repr

/-- A region control block as the device holds it (R208, R209). -/
structure Rcb where
  addr : Nat
  parent : Nat
  st : RegionState
  prio : Nat
  race : Bool
  priv : Bool
  idem : Bool
  asid : BitVec 16
  contain : Nat
  retryb : Nat
  tickets : Nat
  tellwin : Nat
  budget : Nat
  used : Nat
  pass : Nat
  elbase : Nat
  elseq : Nat
  elovf : Nat
  ellog2 : Nat
  rllog2 : Nat
  covlog2 : Nat
  rlbase : Nat
  rlseq : Nat
  rlovf : Nat
  covbase : Nat
  covhead : Nat
  covtail : Nat
  loss : Nat
  live : Nat
  faults : Nat
  elhead : Nat
  rlhead : Nat
  /-- Issue clocks not yet counted into USED (R230). -/
  clocks : Nat
  /-- The region had placeable work at the last decision (R228). -/
  hadWork : Bool
  /-- The region has become ACTIVE, and its PASS has not been raised for it yet (R228). -/
  woke : Bool
  deriving DecidableEq, Repr

/-! ### Operations and records -/

/-- Access kinds by code (R26): READ 0, WRITE 1, ATOMIC 2, EXEC 3, TAGRD 4, TAGWR 5, WALK 6. -/
inductive AKind where
  | read
  | write
  | atomic
  | exec
  | tagrd
  | tagwr
  | walk
  deriving DecidableEq, Repr

/-- The space of a lane's access (R7). -/
inductive Space where
  | global
  | cluster
  | group
  deriving DecidableEq, Repr

/-- One access that an operation has performed, as its log keeps it: the value it returned. A replay
takes the values of the accesses already performed from here and never repeats them (R172). -/
abbrev LogVal := Nat

/-- The matrix commands (R333). -/
inductive MxKind where
  | mma
  | mmaz
  | mmat
  | mzero
  | mload
  | mdrain
  | mdraina
  deriving DecidableEq, Repr

/-- How far a matrix command has come: in its fibre's open batch, in a closed batch, started, with
its result in its tiles or in memory, or complete (R336 to R338). -/
inductive MxPhase where
  | staged
  | queued
  | started
  | computed
  | complete
  deriving DecidableEq, Repr

/-- A matrix command: class, scalar pairs (or the address of a tensor shape record), captured
registers, first tile and number of tiles, Z of MMAT, MODE.SAT and MODE.SC at issue (R334 to R351),
and the flags it has raised (R124). -/
structure MxCmd where
  kind : MxKind
  float : Bool
  a0 : Dword
  a1 : Dword
  b0 : Dword
  b1 : Dword
  ra : Option (List VReg)
  rb : Option (List VReg)
  tile : Nat
  span : Nat
  z : Bool
  sat : Bool
  scope : Nat
  phase : MxPhase
  flags : Nat
  deriving DecidableEq, Repr

/-- A node of an acceleration structure: node index in its window, kind and level (R357, R366). -/
structure NodeRef where
  idx : Nat
  kind : Nat
  level : Nat
  deriving DecidableEq, Repr

/-- A triangle hit (R364). -/
structure Hit where
  t : Word
  u : Word
  v : Word
  prim : Word
  inst : Word
  deriving DecidableEq, Repr

/-- The traversal state of one ray (R362 to R366, R373). -/
structure RayLane where
  /-- O and D, three words each, in world space and in the space the lane is in. -/
  world : List Word
  obj : List Word
  tmin : Word
  /-- The ray's own tmax, and the current one. -/
  tmax0 : Word
  tmax : Word
  mask : Nat
  flags : Nat
  hit : Option Hit
  cand : Option Hit
  trail : List Nat
  follow : List Nat
  /-- Short stack, top first. -/
  stack : List NodeRef
  drop : Bool
  trailUsed : Bool
  /-- Level and ID of the current instance, and the index of its node. -/
  inst : Option (Nat × Word)
  instNode : Nat
  /-- The top of the stack is the node that was pushed back at the park (R373). -/
  repush : Bool
  /-- The node that the lane visits next, and the node from which it descended there. -/
  cur : Option NodeRef
  parent : Option NodeRef
  /-- Triangles of the current node's hit leaves that are behind the lane. -/
  lpos : Nat
  /-- The level of a restart under way. -/
  restart : Option Nat
  outcome : Option Nat
  /-- Width and spread of a cone; its record has been read (R370). -/
  cone : Option (Word × Word)
  ready : Bool
  root : NodeRef
  deriving DecidableEq, Repr

/-- A query in a slot (R367 to R370): window base, result registers, lanes. -/
structure RayOp where
  slot : Nat
  cone : Bool
  base : Nat
  recs : Dword
  dst : List Res
  lanes : Sparse RayLane
  deriving DecidableEq, Repr

/-- A beam (R374 to R379): its record once read, the status register, the stack, the closest hit of
each ray, the split records emitted, rays that the engine traverses itself, and the combining
atomics that are still owed. Of each level it keeps the ranks of the pending children and the rank on its path, for the
restart of R366. -/
structure BeamOp where
  addr : Dword
  query : Option (List Byte)
  res : Res
  scope : Nat
  stack : List NodeRef
  cur : Option NodeRef
  lpos : Nat
  /-- The box node's splits that are still to be made: node index of the node, child pointer. -/
  splits : List (Nat × Dword)
  pend : List (List Nat)
  follow : List Nat
  drop : Bool
  restart : Option Nat
  best : Sparse Hit
  emitted : Nat
  spill : Bool
  invalid : Bool
  subs : List (Nat × RayLane)
  /-- Combining atomics still to be performed: offset in the hit buffer, and value. -/
  comb : List (Nat × Nat)
  deriving DecidableEq, Repr

/-- A texture instruction (R381): form, channel, descriptor, inputs by lane, result registers, and the
draw of its level (R382). -/
structure TexOp where
  form : Nat
  chan : Nat
  desc : Dword
  ins : List (List Word)
  dst : List Res
  draw : Nat
  deriving DecidableEq, Repr

/-- An undecided raster test (R388): the RASTT that made it, its sample and its decision's data. -/
structure RTest where
  id : Nat
  src : Nat
  asid : BitVec 16
  desc : Dword
  sample : Nat
  z : Word
  prim : Dword
  deriving DecidableEq, Repr

/-- A raster instruction (R385): RASTT with its lanes' inputs, RTEST with the tests it accepts or rejects
by lane, or RCLEAR. -/
inductive RastOp where
  | tri (desc : Dword) (ins : List (List Word))
  | test (accept : Bool) (tests : List (Nat × RTest))
  | clear (desc : Dword)
  deriving DecidableEq, Repr

/-- How a write leaves its core: into its L1, or to its home, there with the mark of a closed epoch when it goes
through after a lazy release (R143); and whether it is a release write of an eager release (R142). -/
structure WMode where
  through : Option Nat
  home : Bool
  rel : Bool
  deriving DecidableEq, Repr

/-- The write mode that a fibre's last release left (R143). -/
def Fibre.wmode (f : Fibre) : WMode := ⟨f.wthru, false, f.relNext⟩

/-- What an operation is, with its operands resolved at issue (R171). Registers are named by their
place, which a later window move does not change. -/
inductive OpBody where
  /-- LD, LDACQ and SLD: destinations, access size in bytes, sign extension, space, lane addresses;
  `sync` for LDACQ, whose reads are not plain. -/
  | load (dst : List Res) (nb : Nat) (sx : Bool) (space : Space) (addr : List Dword) (sync : Bool)
  /-- ST, STREL and SST: size, space, lane addresses and data. -/
  | store (nb : Nat) (space : Space) (addr : List Dword) (data : List Nat) (sync : Bool)
  /-- LDT and STT of a line (R311): words by lane, tags of both blocks. -/
  | ldt (dst tag : Res) (addr : Dword)
  | stt (addr : Dword) (data : List Nat) (tags : Nat)
  /-- TAGSET and TAGGET (R312). -/
  | tagset (addr : Dword) (tag : Nat)
  | tagget (dst : Res) (addr : Dword)
  /-- ATOM and SATOM: destinations under RET, operation, width in bytes, scope, lane addresses,
  operands, compare values, and the draw that orders the lanes (R127, R313, R316). -/
  | atom (dst : List Res) (op nb scope : Nat) (scalar : Bool) (addr : List Dword) (b c : List Nat)
      (draw : Nat)
  /-- CRADD: lane addresses, operands, range identifiers, and the draw that orders the lanes (R320);
  CRCLOSE: the range (R321). -/
  | cradd (addr : List Dword) (b rid : List Nat) (draw : Nat)
  | crclose (rid : Nat)
  /-- Window moves of CALL, CALLX and RET (R199): frame shift, target, units already moved. -/
  | move (isRet : Bool) (shift : Nat) (target : BitVec 48) (moved : Nat)
  /-- Instruction fetch of the word at the program counter (R31). -/
  | fetch (va : BitVec 48)
  /-- HCALL (R416), LAUNCH with its status register (R402), ENQ with its record (R401). -/
  | hcall (addr : Dword)
  | launch (addr : Dword) (dst : Res)
  | enq (queue : Nat) (record : List Byte)
  /-- A copy transfer (R324, R328): the entry's 256 bits, its index in the schedule, whether it stands
  in the schedule, whether it holds its group's reserved queue entry, and whether it has started and
  has its leave. -/
  | copy (ent idx : Nat) (sched reserved started leave : Bool)
  /-- The engine's read of a schedule entry (R325). -/
  | schedRead (idx : Nat)
  | matrix (c : MxCmd)
  | ray (q : RayOp)
  | beam (b : BeamOp)
  | tex (t : TexOp)
  | rast (r : RastOp)
  /-- RFRAME (R389): descriptor, frame number, scope, and the operations it waits for. -/
  | frame (desc : Dword) (num : Dword) (scope : Nat) (after : List Nat)
  /-- SOLICIT: the census that it asked for (R409). -/
  | solicit (census : Nat)
  /-- TREG (R406): the register that receives the identifier, KEY and PAYLOAD. TDROP: the entry. TMOVE (R407): the
  register that receives the new identifier, the source entry, the target core and the new payload. -/
  | treg (dst : Res) (key payload : Dword)
  | tdrop (ent : Nat)
  | tmove (dst : Res) (src core : Nat) (payload : Dword)
  /-- REPLY (R412): the values under way, with the census and the directory entry of each. -/
  | reply (vals : List (Nat × Nat × Nat))
  /-- The records of a CONT that its core's teller gathers, when their overflow ring cannot take them (R32, R171, R207):
  the core and the region. -/
  | tell (core rgn : Nat) (recs : List ContRec)
  deriving DecidableEq, Repr

/-- An operation in flight, recorded or held (R148, R166 to R173). -/
structure Op where
  /-- Unit code of the record header: 1 LSU to 8 TELLER (R169). -/
  unit : Nat
  loc : Nat
  group : Nat
  asid : BitVec 16
  priv : Bool
  iword : Word
  mode : Word
  pc : BitVec 48
  cede : Bool
  opa : Dword
  opb : Dword
  lmask : Word
  ldone : Word
  /-- The outstanding counter it raises, if any (R267). -/
  ctr : Option Nat
  body : OpBody
  /-- Per lane (or 0): values of performed accesses, newest last. -/
  logs : Sparse (List LogVal)
  /-- Per lane (or 0): the result, once done. -/
  results : Sparse (List Nat)
  /-- Frames it holds a reference to until it is performed (R51). -/
  refs : List Nat
  /-- How its writes leave the core, from the fibre's last release before it (R143). -/
  wmode : WMode
  /-- ISSUED of its fibre as it was made, which tells its instruction from others of the fibre (R162). -/
  seq : Dword
  /-- Granules that it has asked for since it last ran (R181). -/
  asked : List Nat
  /-- Granules that have been predicted for it (R179). -/
  preds : Nat
  /-- Of an access that is made in two turns, what its first turn has left for the second: the value read then, or the
  draw that chose the words written (R150), by thread. -/
  half : Sparse Nat
  /-- What the cursor of its record holds of where it stands (R171). -/
  pos : List Nat
  /-- Refused accesses get the error response (R32). -/
  err : Bool
  retries : Nat
  /-- Every lane is done and only completion is left. -/
  finished : Bool
  deriving DecidableEq, Repr

/-- What an access is missing: its granule (pool address / 4096), or ownership of one block (R51,
R60). -/
inductive Missing where
  | granule (gran : Nat) (hs : Bool) (want : Nat)
  | block (block : Nat) (excl : Bool)
  deriving DecidableEq, Repr

/-- What a lane of an operation met, when it was not performed: an absence, a refusal, poison, or a
wait inside its unit; with the size code of its leaf, 0 where none was found (R169). -/
inductive Trouble where
  | miss (va : Dword) (m : Missing) (sz : Nat)
  | refuse (va : Dword) (cause sz : Nat)
  | poison (va : Dword) (sz : Nat)
  | wait
  deriving DecidableEq, Repr

/-- An operation held inside its unit because its fibre's four record frames are taken (R168), with
the record it will write: trouble and access kind, and whether what it missed has come (R173). -/
structure Held where
  op : Nat
  akind : Nat
  trouble : Trouble
  ripe : Bool
  deriving DecidableEq, Repr

/-- A replay record in a record frame (R166, R169). -/
structure Record where
  op : Nat
  kind : Nat
  cause : Nat
  va : Dword
  sz : Nat
  akind : Nat
  /-- Ripe: its cause is cleared (R173). -/
  ripe : Bool
  /-- It waits for FRESUME, and the region that absorbed it (R185). -/
  waiting : Bool
  absorber : Nat
  /-- Its replay has begun and the operation runs from it: the frame stays taken until the operation is
  complete or writes a new record (R173). -/
  running : Bool
  /-- Pool granules and blocks (pool address / 64) whose arrival ripens it (R51, R60). -/
  grans : List Nat
  blocks : List Nat
  clk : Dword
  deriving DecidableEq, Repr

/-! ### Memory -/

/-- The coherence state of a block of an HS granule (R60); I is absence. -/
inductive Coh where
  | s
  | e
  | m
  deriving DecidableEq, Repr

/-- Frame states (R49). -/
inductive FrameState where
  | filling
  | clean
  | dirty
  | cleaning
  | evicting
  | pinned
  deriving DecidableEq, Repr

/-- A frame table entry; FREE frames are absent (R49). -/
structure Frame where
  st : FrameState
  /-- Granule: pool address / 4096. -/
  gran : Nat
  asid : BitVec 16
  /-- One bit per block. -/
  dirty : BitVec 64
  poison : BitVec 64
  hs : Bool
  /-- Coherence states of the blocks of an HS granule; while FILLING, the blocks that a snoop has taken and
  whose data is not to be installed (R60). -/
  coh : Sparse Coh
  /-- Blocks wanted in exclusive state by the accesses that asked for the fill (R52). -/
  want : BitVec 64
  accessed : Bool
  predicted : Bool
  refs : Nat
  /-- A CLEANING frame that is evicted once its writeback is done (R50). -/
  evictNext : Bool
  /-- A frame that VPIN takes once it is free (R56). -/
  pinNext : Bool
  /-- A frame whose granule is filled again once it is free: its clean block was in error (R66). -/
  refill : Bool
  /-- Its accessed bit has been clear for a whole sweep (R181). -/
  idle : Bool
  deriving DecidableEq, Repr

/-- A dirty line: the bytes written, by their offset in the 128-byte line, the tags written, by block, and
the epoch in which the line was first written (R76, R143). -/
structure L1Line where
  bytes : Sparse Byte
  tags : Sparse (BitVec 16)
  epoch : Nat
  poison : Bool
  deriving DecidableEq, Repr

/-- A clean line as a core's L1 fetched it: its 128 bytes and the tags of its two blocks (R71, R76). The bytes that the
core has written stand above it. -/
structure LineCopy where
  data : List Byte
  tags : List (BitVec 16)
  deriving DecidableEq, Repr

/-- A line of a cluster cache and the CACHE bank, one way, that holds it (R82): what is dirty in it; a clean line has
nothing, its bytes being those of its home. -/
structure CcLine where
  line : L1Line
  bank : Nat
  deriving DecidableEq, Repr

/-- An entry of a cluster's merge table: the line as its home read returned it, data and tags (R93, R94), and the cores
that have acquired, or read the line past the entry, since: R132 and R138 keep them from its old data. -/
structure Merge where
  cluster : Nat
  line : Nat
  asid : BitVec 16
  data : List Byte
  tags : List (BitVec 16)
  barred : List Nat
  deriving DecidableEq, Repr

/-- Where an access is performed: an address of the vault, of host memory, or of the fabric through
a peer window. -/
inductive PLoc where
  | vault (va : Nat)
  | host (pa : Nat)
  | peer (fa : Nat)
  deriving DecidableEq, Repr

/-- The physical home of an element, whichever frame holds it: pool, PINNED vault, host or peer. -/
inductive Phys where
  | pool (a : Nat)
  | pinned (a : Nat)
  | host (a : Nat)
  | peer (a : Nat)
  deriving DecidableEq, Repr

/-- Operations of a commutative range (R319). -/
inductive RangeOp where
  | add
  | min
  | max
  deriving DecidableEq, Repr

/-- An open commutative range (R319): by ASID and range identifier. `closing` is set while CRCLOSE
folds it (R321). -/
structure CRange where
  asid : BitVec 16
  rid : Nat
  base : Nat
  len : Nat
  op : RangeOp
  fmt : Nat
  region : Nat
  closing : Bool
  deriving DecidableEq, Repr

/-- A core's partial of one element of a range (R157), with the order of its line's last use. -/
structure Partial where
  core : Nat
  asid : BitVec 16
  rid : Nat
  phys : Phys
  /-- The virtual address at which a CRADD named the element, and HS of the leaf through which it did. -/
  va : Dword
  hs : Bool
  op : RangeOp
  fmt : Nat
  bits : Nat
  deriving DecidableEq, Repr

/-- The race detector's record of a line's last plain write (R162). -/
structure RaceRec where
  core : Nat
  loc : Nat
  words : Word
  count : Nat
  /-- ISSUED of the fibre at the write: the lanes of one instruction make one write. -/
  seq : Nat
  deriving DecidableEq, Repr

/-- A line of a core's sampler cache as it was filled (R78, R79): the core, the physical address of the line,
its 128 bytes and the tags of its two blocks. -/
structure SampLine where
  core : Nat
  place : Phys
  data : List Byte
  tags : List (BitVec 16)
  deriving DecidableEq, Repr

/-- A line of the instruction cache of a core, by virtual address (R245). -/
structure ILine where
  core : Nat
  asid : BitVec 16
  va : Nat
  word : Word
  /-- U of the leaf through which it was fetched (R27). -/
  user : Bool
  deriving DecidableEq, Repr

/-- Bank modes (R81). -/
inductive BankMode where
  | off
  | cache
  | scratch
  | fifo
  deriving DecidableEq, Repr

/-- An entry of a FIFO bank: its bytes, the tags of its 64-byte units, and whether a word of it is
poisoned (R83, R96, R343). -/
structure FifoEnt where
  bytes : List Byte
  tags : List (BitVec 16)
  poison : Bool
  deriving DecidableEq, Repr

/-- A bank of cluster SRAM that is not a CACHE bank of owner 0: mode, owner, FIFO entry size as
log2, FIFO contents, oldest first (R81 to R86). -/
structure Bank where
  mode : BankMode
  owner : BitVec 16
  entry : Nat
  fifo : List FifoEnt
  deriving DecidableEq, Repr

/-- A bank switch under way (R86): the new configuration, who asked for it (a fibre's BANKCFG with its
destination register and the address behind the instruction, or a queue's command with its tag), and the
number that the next operation had when the bank entered transit: earlier operations are references. -/
structure BankSwitch where
  since : Nat
  bank : Nat
  cfg : Dword
  loc : Option Nat
  dst : Nat
  next : BitVec 48
  queue : Option Nat
  tag : Word
  deriving DecidableEq, Repr

/-- A migration that is open: its range (pool address / 2^18), address space, requested and
predicted granules (R177). -/
structure Migration where
  id : Nat
  range : Nat
  asid : BitVec 16
  grans : List Nat
  want : Sparse (BitVec 64)
  /-- Those of them that lie in pages with HS set (R52). -/
  hs : List Nat
  predicted : List Nat
  /-- The clusters whose requests it holds (R178). -/
  clusters : List Nat
  deriving DecidableEq, Repr

/-- An ownership request for a block of an HS granule: block (pool address / 64), exclusive. -/
structure OwnReq where
  block : Nat
  excl : Bool
  deriving DecidableEq, Repr

/-- A back-invalidate snoop to a host whose response is awaited (R58): the block and the bytes the
device's access waits with are held by the operation; here only the snoop. -/
structure HostSnoop where
  id : Nat
  block : Nat
  deriving DecidableEq, Repr

/-! ### Translation -/

/-- A cached leaf (R34, R43). -/
structure TlbEnt where
  cluster : Nat
  asid : BitVec 16
  /-- Page base and its log2 size. -/
  va : Nat
  log2 : Nat
  pte : Dword
  /-- Host page and permissions that ATS returned, for HOST leaves. -/
  host : Option (Nat × Bool × Bool)
  deriving DecidableEq, Repr

/-- A table pointer in the walk cache of a die (R34): the level of the table it points to. -/
structure WalkEnt where
  die : Nat
  asid : BitVec 16
  level : Nat
  /-- Virtual address above the table's range. -/
  tag : Nat
  pte : Dword
  deriving DecidableEq, Repr

/-- A resident context (R15): the slot number is its place. -/
structure CtxSlot where
  asid : BitVec 16
  lo : Dword
  hi : Dword
  ok : Bool
  deriving DecidableEq, Repr

/-- An ATS result (R42): range in host addresses, with permissions. -/
structure AtcEnt where
  asid : BitVec 16
  page : Nat
  log2 : Nat
  host : Nat
  read : Bool
  write : Bool
  fail : Bool
  deriving DecidableEq, Repr

/-- An outstanding ATS translation request (R42): its page and the PASID that it carries (R14), and the
dies whose miss tables hold the page (R35). -/
structure AtsReq where
  asid : BitVec 16
  page : Nat
  pasid : Nat
  dies : List Nat
  deriving DecidableEq, Repr

/-! ### The host -/

/-- A ring register of R450. -/
structure Ring where
  base : Dword
  tail : Word
  head : Word
  deriving DecidableEq, Repr

/-- A host queue (R449). -/
structure Queue where
  sqBase : Dword
  sqTail : Word
  sqHead : Word
  cqBase : Dword
  cqTail : Word
  cqHead : Word
  qvec : Word
  /-- The tag of the command that has started and not completed. -/
  busy : Option Word
  deriving DecidableEq, Repr

/-- A fault report: its 64 bytes but for the sequence number, given when it enters the queue
(R183). -/
structure Report where
  bytes : List Byte
  deriving DecidableEq, Repr

/-- An HCALL record in the IOD buffer, with the operation that waits for its delivery (R416). -/
structure HcallEnt where
  op : Nat
  bytes : List Byte
  deriving DecidableEq, Repr

/-- A breakpoint and a watchpoint (R430). -/
structure Breakpoint where
  asid : BitVec 16
  pc : Dword
  deriving DecidableEq, Repr

structure Watchpoint where
  asid : BitVec 16
  va : Dword
  log2 : Nat
  kinds : BitVec 8
  deriving DecidableEq, Repr

/-- What a command on frames does to them (R56). -/
inductive FrameWait where
  | pin
  | flush
  | drop
  deriving DecidableEq, Repr

/-- A host command that waits: for frames to reach their final state (with a second writeback still to be
made), for a region's save, for room to restore, for a bank switch, for a pending write of the item that
DBGREAD reads, for a place in the launch table. -/
inductive Waiting where
  | frames (kind : FrameWait) (list : List (Nat × Bool))
  | save (rgn : Nat) (area : Nat)
  | restore (area : Nat)
  | bank (bank : Nat)
  | item (loc item index : Nat) (host : Dword)
  | launch (addr : Dword)
  deriving DecidableEq, Repr

/-- A command under way on a queue with what it waits for. -/
structure Pending where
  queue : Nat
  tag : Word
  what : Waiting
  deriving DecidableEq, Repr

/-- What a fault report or trap report says (R183, R428). -/
structure ReportInfo where
  va : Dword
  asid : BitVec 16
  unit : Nat
  akind : Nat
  cause : Nat
  kind : Nat
  retries : Nat
  loc : Nat
  frame : Nat
  lmask : Word
  ldone : Word
  deriving DecidableEq, Repr

/-- A record or trap whose report is still to be made: its region, the containment code applied and the region that
absorbed it, whether the host must answer, and CLK when it was written (R183, R184). -/
structure LateReport where
  region : Nat
  code : Nat
  absorber : Nat
  answer : Bool
  info : ReportInfo
  clk : Dword
  deriving DecidableEq, Repr

/-- TDISP states (R458). -/
inductive TdiState where
  | configLocked
  | run
  | error
  deriving DecidableEq, Repr

/-- A device interface that is not CONFIG_UNLOCKED (R458). -/
structure Iface where
  region : Nat
  st : TdiState
  /-- A STOP waits until every fibre of the subtree is EMPTY. -/
  stopping : Bool
  /-- What LOCK captured in memory: bytes of the context entry and of the RCBs, with their physical addresses. -/
  seen : List (Nat × List Byte)
  deriving DecidableEq, Repr

/-- An answer of the security engine (R455). Digests, certificate bytes, signatures and public keys are the
numbers that their bytes make. -/
inductive SpdmAnswer where
  | version (major minor : Nat)
  | capabilities (flags : Nat)
  | algorithms (ecdsaP384 sha384 : Bool)
  | digests (digest : BitVec 384)
  | certificate (bytes : List Byte)
  | challengeAuth (nonce : BitVec 256) (signature : BitVec 768)
  | measurements (blocks : List (Nat × BitVec 384))
  | keyExchange (stream : Nat) (point signature : BitVec 768)
  /-- The request cannot be answered. -/
  | error
  deriving DecidableEq, Repr

/-- An entry of the device error log (R457). -/
structure DevErr where
  part : Nat
  place : Nat
  addr : Nat
  clk : Dword
  deriving DecidableEq, Repr

/-- A turn of the script: who moves next (the order in which the device's agents move is not fixed
by the specification). -/
inductive Turn where
  /-- A slot issues: its CURRENT fibre, or the one its rotation chooses (R193). -/
  | slot (n : Nat)
  /-- A host queue starts its next command. -/
  | queue (q : Nat)
  /-- An event of the device or of an outside party happens. -/
  | event (i : Instr)
  deriving DecidableEq, Repr

/-- The memories (R45 to R103): data, tags, frame table, on-chip dirty data and caches that a
program can tell apart. -/
structure Mem where
  /-- Fabric memory: pool data, pool tag planes and peer windows, by fabric address (R48, R100). -/
  fabric : List Host.Cell
  /-- Blocks of the pool that were written back with CXL poison, by fabric address / 64 (R66). -/
  fpoison : List Nat
  /-- Tags of peer windows, by fabric address / 64 (R23). -/
  peerTags : Sparse (BitVec 16)
  /-- Host memory by host physical address. -/
  host : List Host.Cell
  /-- Vault data frames and their tag plane, by vault address and by vault address / 64 (R45). -/
  vault : List Host.Cell
  vtags : Sparse (BitVec 16)
  /-- The frame table (R49). -/
  frames : Sparse Frame
  /-- Cluster scratch by cluster × 2^23 + offset, and its poisoned 64-bit words (R10, R96). -/
  cscr : List Host.Cell
  cpoison : List Nat
  /-- Sectors (address / 32) of SCRATCH banks whose valid bits are set (R84). -/
  cvalid : Sparse Bool
  banks : Sparse Bank
  switches : List BankSwitch
  /-- What stands dirty in L1 lines, by core × 2^32 + line, core epochs, release marks of home lines (R142 to R145). -/
  l1 : Sparse L1Line
  /-- Lines of the cluster caches by cluster × 2^32 + line, and these keys in order of use, newest first (R82). -/
  ccache : Sparse CcLine
  ccUse : List Nat
  /-- Clean lines of the L1s by core × 2^64 + line number (R71). -/
  copies : Sparse LineCopy
  /-- Lines of the home caches by line number, and whether they are dirty (R90). -/
  homec : Sparse Bool
  /-- Lines that the snoop filters track, most recently used first (R91). -/
  filter : List Nat
  epoch : Sparse Nat
  marks : Sparse (List Mark)
  /-- Drains that an acquire has sent and that have not run. -/
  drains : List Mark
  /-- Bounce counter and last owner of home lines (R146). -/
  bounce : Sparse (Nat × Nat)
  merges : List Merge
  smp : List SampLine
  icache : List ILine
  /-- Blocks (vault address / 64) of PINNED frames that a host may hold, and whether exclusively
  (R58). -/
  hostBlocks : Sparse Bool
  /-- Back-invalidate snoops sent to hosts and not answered (R58). -/
  hostSnoops : List HostSnoop
  /-- Bytes that the device has written to such blocks, by vault address, oldest first: each is performed once the host
  has given its block up (R58). -/
  hostWrites : List (Nat × Byte)
  /-- Open commutative ranges, and the partials of the cores, least recently used first (R157). -/
  ranges : List CRange
  partials : List Partial
  /-- Race detection (R162): last plain write of vault lines, release counts by core × 192 + core,
  and the cores whose eager releases wrote a line. -/
  raceRecs : Sparse RaceRec
  relCount : Sparse Nat
  relWrites : Sparse (List Nat)
  deriving DecidableEq, Repr

/-- The clearing engine (R176 to R182). -/
structure Clearing where
  migs : List Migration
  owns : List OwnReq
  /-- Sweep position per die (R181). -/
  sweep : Sparse Nat
  /-- Back-invalidate responses sent (R59, R60): block and the state it is left in, none for I, oldest first; and the
  blocks released to the pool with clean-eviction requests (R54). -/
  birsp : List (Nat × Option Coh)
  released : List Nat
  deriving DecidableEq, Repr

/-- The translation caches (R15, R34, R42). -/
structure Xlate where
  tlb : List TlbEnt
  wcache : List WalkEnt
  ctxs : List CtxSlot
  atc : List AtcEnt
  atsReq : List AtsReq
  /-- Invalidation Completions sent (R44): start and length of the ranges, oldest first. -/
  invDone : List (Nat × Nat)
  deriving DecidableEq, Repr

/-- The registers of BAR0 (R448) that are not a queue's. -/
structure DevRegs where
  devstat : Word
  ctxbase : Dword
  rgnbase : Dword
  rplbase : Dword
  tvbase : Dword
  clrctl : Word
  lvctl : Word
  portcfg : Word
  frq : Ring
  hcr : Ring
  poolLo : Sparse Dword
  poolHi : Sparse Dword
  poolTag : Sparse Dword
  purse : Sparse Dword
  clmerge : Sparse Word
  errcnt : Sparse Dword
  modpwr : Dword
  deriving DecidableEq, Repr

/-- The host side of the device: queues, reports, interrupts, debug interface, interfaces. -/
structure HostSide where
  queues : Sparse Queue
  pending : List Pending
  /-- MSI-X messages sent, by vector; vectors within 1 µs of a send; and those of them with a
  coalesced advance (R453). -/
  msix : Sparse Nat
  msixOpen : List Nat
  msixWait : List Nat
  frqSeq : Word
  frqWait : List Report
  /-- Records that wait unreported in their frames, oldest first (R184). -/
  late : List LateReport
  hcWait : List HcallEnt
  devLog : List DevErr
  dbgRegions : List Nat
  bps : Sparse Breakpoint
  wps : Sparse Watchpoint
  ifaces : List Iface
  /-- Answers of the security engine, newest last (R455), and the IDE streams that have keys, by
  port × 4 + stream (R457). -/
  spdm : List SpdmAnswer
  streams : List Nat
  deriving DecidableEq, Repr

/-- A task record that a core has taken and not yet placed (R224). -/
structure Receipt where
  core : Nat
  region : Nat
  queue : Nat
  bytes : List Byte
  /-- Its group is launched again after an uncorrectable error (R97). -/
  again : Bool
  deriving DecidableEq, Repr

/-- A bin of a core's teller (R206): records of one REGION, ENTRY and KEY, in order of arrival. -/
structure Bin where
  core : Nat
  region : Nat
  entry : Nat
  key : Nat
  records : List ContRec
  ripe : Bool
  /-- Its fibre is formed again after an uncorrectable error (R97): no record joins it. -/
  again : Bool
  deriving DecidableEq, Repr

/-- Records on their way to a core's teller (R399, R439). A run of a fibre whose earlier accesses are
not performed waits for them: their operations. `op` is the CONT that made it, for the record that its fibre writes where
the overflow ring cannot take them (R171). -/
structure TellRun where
  core : Nat
  region : Nat
  after : List Nat
  records : List ContRec
  op : Option Op
  deriving DecidableEq, Repr

/-- What records in a continuation overflow ring owe, by ring index, with the core whose teller was full (R207), the
number of the run that they make (R439) and their ENTRY. -/
structure OverflowMark where
  region : Nat
  idx : Nat
  core : Nat
  owed : Owed
  run : Nat
  entry : Nat
  deriving DecidableEq, Repr

/-- Who waits for leave (R236, R237). -/
inductive LeaveFor where
  | fibre (loc : Nat)
  | transfer (op : Nat)
  | stage (group stage : Nat)
  deriving DecidableEq, Repr

/-- A leave request in a purse's queue, in order of arrival (R237). -/
structure LeaveReq where
  cluster : Nat
  region : Nat
  cost : Nat
  who : LeaveFor
  deriving DecidableEq, Repr

/-- The state of a directory entry, or the one it keeps while PINNED (R403). -/
inductive DirState where
  | resident
  | moving
  | inbound
  deriving DecidableEq, Repr

/-- An entry of a tile directory (R403). It is PINNED while PINS is not zero. -/
structure DirEnt where
  key : Dword
  payload : Dword
  asid : BitVec 16
  pins : Nat
  remove : Bool
  st : DirState
  deriving DecidableEq, Repr

/-- A reply slot of a census: its directory entry and its value, once there (R410, R412). -/
structure ReplySlot where
  ent : Nat
  val : Option Nat
  deriving DecidableEq, Repr

/-- A census (R409 to R414). `serial` is given at broadcast; `after` are the asker's operations that the
broadcast waits for; `swept` are the cores that have done their part. -/
structure Census where
  id : Nat
  loc : Nat
  group : Nat
  handle : Nat
  region : Nat
  asid : BitVec 16
  key : Dword
  mask : Dword
  ctl : Dword
  arg : Dword
  after : List Nat
  serial : Option Nat
  swept : List Nat
  slots : List ReplySlot
  noreply : Bool
  lost : Bool
  /-- It is complete: the value and the responder count (R414). -/
  value : Option (Nat × Nat)
  deriving DecidableEq, Repr

/-- A move of a directory entry under way (R407): the operation, the source entry, the target core, the new
payload, and the entry at the target once it is there. A move whose TMOVE is complete stays until its switch has
reached the target core. -/
structure Move where
  op : Nat
  src : Nat
  target : Nat
  payload : Dword
  new : Option Nat
  ended : Bool
  deriving DecidableEq, Repr

/-- A message of the census root in its order: a broadcast or a move's switch, and the sides that have not
received it (R408), as core × 2, or core × 2 + 1 for the target of a move. -/
structure RootMsg where
  census : Option Nat
  move : Option Nat
  cores : List Nat
  deriving DecidableEq, Repr

/-- A 64-bit subtraction of 1 that the device performs at an address for a finished group (R205). -/
structure DevSub where
  core : Nat
  region : Nat
  asid : BitVec 16
  priv : Bool
  addr : Dword
  deriving DecidableEq, Repr

/-- A closed batch of matrix commands that is not complete (R337), in the order in which batches moved
to their queues. -/
structure Batch where
  loc : Nat
  num : Nat
  /-- The engine that runs it, as core × 4 + quadrant (R339). -/
  engine : Nat
  ops : List Nat
  flags : Nat
  counted : Bool
  deriving DecidableEq, Repr

/-- Coordination: leave, directories, censuses, raster tests, subtractions, matrix batches. -/
structure Coord where
  leaves : List LeaveReq
  /-- By core × 512 + index. -/
  dirs : Sparse DirEnt
  censuses : List Census
  root : List RootMsg
  moves : List Move
  /-- The next census number (R408). -/
  serial : Nat
  tests : List RTest
  subs : List DevSub
  overflow : List OverflowMark
  batches : List Batch
  deriving DecidableEq, Repr

/-- A saved region subtree (R239, R240), by its save-area address: what of it has not been restored. -/
structure Save where
  area : Nat
  region : Nat
  fibres : Sparse Fibre
  slots : Sparse Slot
  groups : Sparse Group
  ops : Sparse Op
  recs : Sparse Record
  held : List Held
  batches : List Batch
  /-- Spilled units by locator × 65536 + unit (R197, R218). -/
  spills : Sparse (List Byte)
  receipts : List Receipt
  bins : List Bin
  tellIn : List TellRun
  launches : Sparse Launch
  deriving DecidableEq, Repr

/-- Launches, regions and work in transit as the IOD and the cores hold them. -/
structure Sched where
  launches : Sparse Launch
  rcbs : Sparse Rcb
  receipts : List Receipt
  bins : List Bin
  tellIn : List TellRun
  saves : List Save
  deriving DecidableEq, Repr

/-- Operations in flight and their records. -/
structure Engines where
  ops : Sparse Op
  /-- Records by locator × 4 + frame (R167). -/
  recs : Sparse Record
  /-- Operations held inside their units for want of a record frame (R168), oldest first. -/
  held : List Held
  deriving DecidableEq, Repr

/-- What a quadrant keeps of its choices (R234): the slot that it last chose, and its count of clocks. -/
structure Quad where
  last : Nat
  count : Nat
  deriving DecidableEq, Repr

/-- A quadrant that has not chosen: its rotation begins with its first slot (DESIGN CHOICE, log 94). -/
def Quad.reset : Quad := ⟨7, 0⟩

/-- The machine's state. -/
structure State where
  /-- The locator of the fibre that issues, and the word it issues. -/
  cur : Nat
  iword : Word
  fibres : Sparse Fibre
  slots : Sparse Slot
  /-- Quadrants by core × 4 + quadrant; what is not listed is at its reset. -/
  quads : Sparse Quad
  groups : Sparse Group
  sched : Sched
  co : Coord
  eng : Engines
  mem : Mem
  clr : Clearing
  xl : Xlate
  reg : DevRegs
  io : HostSide
  /-- Clocks per core, power-gated cores, and whether the compute dies stand still (R280, R145,
  R459). -/
  clk : Sparse Dword
  gated : List Nat
  tripped : Bool
  /-- What the last cold reset found of the firmware: each image passed, or one failed; none before any (R456). -/
  fw : Option Bool
  /-- The model's own: next identifier, draws of free values, script of turns (DESIGN CHOICE, log 5 and 6). -/
  fresh : Nat
  draws : Nat
  turns : List Turn
  deriving DecidableEq, Repr

/-! ### Reset -/

def Ring.reset : Ring := ⟨0, 0, 0⟩

def Queue.reset : Queue := ⟨0, 0, 0, 0, 0, 0, 0, none⟩

/-- Memories after a cold reset: the vault is zero and every frame FREE, every bank is CACHE with
owner 0 (R81, R460). Unlisted bytes of pool, peer and host memory read zero: DESIGN CHOICE, log 2. -/
def Mem.reset : Mem :=
  { fabric := [], fpoison := [], peerTags := [], host := [], vault := [], vtags := [], frames := [], cscr := [],
    cpoison := [], cvalid := [], banks := [], switches := [], l1 := [], ccache := [],
    ccUse := [], copies := [], homec := [], filter := [], epoch := [], marks := [], drains := [],
    bounce := [], merges := [], smp := [], icache := [], hostBlocks := [], hostSnoops := [], hostWrites := [], ranges := [], partials := [],
    raceRecs := [], relCount := [], relWrites := [] }

/-- Register values after reset (R13, R47, R95, R100, R167, R176, R235, R238, R424, R447, R456,
R459); where the specification gives none the value is zero: DESIGN CHOICE, log 3. -/
def DevRegs.reset : DevRegs :=
  { devstat := 0, ctxbase := 0, rgnbase := 0, rplbase := 0, tvbase := 0, clrctl := 0x00C81000,
    lvctl := 0x30, portcfg := 0, frq := Ring.reset, hcr := Ring.reset, poolLo := [], poolHi := [],
    poolTag := [], purse := [], clmerge := [], errcnt := [], modpwr := 2400 }

/-- PURSEn at reset: ALLOW 0x01_0000, BAL 0x0002_0000 (R235). The map lists what differs. -/
def purseReset : Dword := 0x0001000000020000

/-- CLMERGE at reset: WIN 0x20 (R95). The map lists what differs. -/
def clmergeReset : Word := 0x20

/-- The machine right after reset (R460): no fibre, no work, RDY clear. -/
def State.reset : State :=
  { cur := 0, iword := 0, fibres := [], slots := [], quads := [], groups := [],
    sched := ⟨[], [], [], [], [], []⟩, co := ⟨[], [], [], [], [], 0, [], [], [], []⟩, eng := ⟨[], [], []⟩, mem := Mem.reset, clr := ⟨[], [], [], [], []⟩,
    xl := ⟨[], [], [], [], [], []⟩, reg := DevRegs.reset,
    io := { queues := [], pending := [], msix := [], msixOpen := [], msixWait := [], frqSeq := 0, frqWait := [], late := [],
            hcWait := [], devLog := [], dbgRegions := [], bps := [], wps := [], ifaces := [],
            spdm := [], streams := [] },
    clk := [], gated := [], tripped := false, fw := none, fresh := 0, draws := 0, turns := [] }

end Sys2Proof.Machine
end

