-- ==== Sys2Proof/Machine/Phys.lean ====
section
/-! DEFINITION. Physical memory: byte order (R3), the pool map and tag planes (R45 to R48, R100),
frames of the vault (R49 to R54), dirty L1 data over its home (R76, R142 to R145), the merge window
(R93, R94) and tags. -/

namespace Sys2Proof.Machine

/-! ### Bytes -/

/-- `n` bytes from address `a` up. -/
def readBytes (m : Sparse Byte) (a n : Nat) : List Byte :=
  (List.range n).map fun i => Sparse.getZ m (a + i)

/-- Writes bytes from address `a` up. -/
def writeBytes (m : Sparse Byte) (a : Nat) : List Byte → Sparse Byte
  | [] => m
  | b :: rest => writeBytes (Sparse.setZ m a b) (a + 1) rest

/-- The number that bytes spell, least significant byte first (R3). -/
def leNat : List Byte → Nat
  | [] => 0
  | b :: rest => b.toNat + 256 * leNat rest

/-- `n` bytes of a number, least significant byte first (R3). -/
def leBytes : Nat → Nat → List Byte
  | 0, _ => []
  | n + 1, x => BitVec.ofNat 8 x :: leBytes n (x / 256)

/-- Bits `lo` to `lo + len - 1` of a doubleword as a number. -/
def Dword.field (x : Dword) (lo len : Nat) : Nat := x.toNat / 2 ^ lo % 2 ^ len

/-- Bit `i` of a doubleword. -/
def Dword.bit (x : Dword) (i : Nat) : Bool := x.toNat / 2 ^ i % 2 == 1

/-- A field of a bit vector of any width as a number. -/
def field {w : Nat} (x : BitVec w) (lo len : Nat) : Nat := x.toNat / 2 ^ lo % 2 ^ len

/-- Bit `i` of a bit vector of any width. -/
def bitOf {w : Nat} (x : BitVec w) (i : Nat) : Bool := x.toNat / 2 ^ i % 2 == 1

/-- Replaces bits `lo` to `lo + len - 1`. -/
def putField {w : Nat} (x : BitVec w) (lo len v : Nat) : BitVec w :=
  BitVec.ofNat w (x.toNat - field x lo len * 2 ^ lo + v % 2 ^ len * 2 ^ lo)

/-- Sets bit `i`. -/
def setBit {w : Nat} (x : BitVec w) (i : Nat) : BitVec w := x ||| BitVec.ofNat w (2 ^ i)

/-- Clears bit `i`. -/
def clearBit {w : Nat} (x : BitVec w) (i : Nat) : BitVec w := x &&& ~~~ BitVec.ofNat w (2 ^ i)

/-! ### The pool map -/

/-- Entry `n` of the pool map is valid and its range holds pool address `p` (R47, R48). -/
def poolHits (r : DevRegs) (p n : Nat) : Bool :=
  let lo := Sparse.getZ r.poolLo n
  let hi := Sparse.getZ r.poolHi n
  let base := field lo 30 16 * 2 ^ 30
  bitOf lo 63 && decide (base ≤ p) && decide (p < base + (field hi 0 16 + 1) * 2 ^ 30)

/-- The entries that map a pool address. -/
def poolEntries (r : DevRegs) (p : Nat) : List Nat :=
  (List.range 16).filter (poolHits r p)

/-- The mask of ports in fabric attach (R447). -/
def fabricPorts (r : DevRegs) : Nat := field r.portcfg 0 4

/-- The one entry that maps a pool address and whose traffic ports carry: PORTS names some, and none that is in host
attach, over which no pool traffic moves (R48, R446). -/
def poolEntry (r : DevRegs) (p : Nat) : Option Nat :=
  match poolEntries r p with
  | [n] =>
    let ports := field (Sparse.getZ r.poolLo n) 58 4
    if ports == 0 || (ports &&& (15 - fabricPorts r)) != 0 then none else some n
  | _ => none

/-- The pool address breaks R48 for a leaf with the given HS bit: refused with cause KIND. -/
def poolBad (r : DevRegs) (p : Nat) (hs : Bool) : Bool :=
  match poolEntry r p with
  | some n => hs && !bitOf (Sparse.getZ r.poolLo n) 62
  | none => true

/-- The fabric address of a pool address (R48); none where no entry carries it. -/
def poolFabric (r : DevRegs) (p : Nat) : Option Nat :=
  match poolEntry r p with
  | some n =>
    some (field (Sparse.getZ r.poolHi n) 30 22 * 2 ^ 30 + p
      - field (Sparse.getZ r.poolLo n) 30 16 * 2 ^ 30)
  | none => none

/-- Log2 of the unit of an interleave code (R47). -/
def ilvLog2 : Nat → Nat
  | 1 => 12
  | 2 => 16
  | _ => 21

/-- The port that carries a byte at an offset of an entry's range, or of its tag plane: the lowest of PORTS
without interleave, else the units go round the ports in ascending order (R48, R100). -/
def portAt (r : DevRegs) (n offset : Nat) : Option Nat :=
  let lo := Sparse.getZ r.poolLo n
  let ports := [0, 1, 2, 3].filter fun i => bitOf lo (58 + i)
  match field lo 56 2 with
  | 0 => ports.head?
  | ilv => ports[offset / 2 ^ ilvLog2 ilv % ports.length]?

/-- The port that carries a pool address (R48). -/
def poolPort (r : DevRegs) (p : Nat) : Option Nat :=
  match poolEntry r p with
  | some n => portAt r n (p - field (Sparse.getZ r.poolLo n) 30 16 * 2 ^ 30)
  | none => none

/-- The port that carries the tag of a pool address (R100). -/
def poolTagPort (r : DevRegs) (p : Nat) : Option Nat :=
  match poolEntry r p with
  | some n => portAt r n (2 * ((p - field (Sparse.getZ r.poolLo n) 30 16 * 2 ^ 30) / 64))
  | none => none

/-- The fabric address of the tag of a pool address (R100). -/
def poolTagAddr (r : DevRegs) (p : Nat) : Option Nat :=
  match poolEntry r p with
  | some n =>
    some (field (Sparse.getZ r.poolTag n) 25 27 * 2 ^ 25
      + 2 * ((p - field (Sparse.getZ r.poolLo n) 30 16 * 2 ^ 30) / 64))
  | none => none

/-- The die that homes a granule of the pool (R46). -/
def homeDie (gran : Nat) : Nat := (gran % 4) ^^^ (gran / 2 ^ 10 % 4)

/-! ### Frames -/

/-- The frame that holds a granule and that the presence directory knows: FILLING, CLEAN, DIRTY or
CLEANING (R51). -/
def findFrame : Sparse Frame → Nat → Option (Nat × Frame)
  | [], _ => none
  | (n, f) :: rest, g =>
    if f.gran = g ∧ f.st ≠ .evicting ∧ f.st ≠ .pinned then some (n, f) else findFrame rest g

/-- The granule is still being written back by an EVICTING frame (R52). -/
def evictingGran (m : Sparse Frame) (g : Nat) : Bool :=
  m.any fun e => e.2.gran == g && e.2.st == .evicting

/-- A frame whose data accesses may use (R51). -/
def Frame.present (f : Frame) : Bool :=
  match f.st with
  | .clean | .dirty | .cleaning => true
  | _ => false

/-- A block has been written: its dirty bit is set, CLEAN becomes DIRTY, an HS block becomes M and
the accessed bit is set (R50, R60). PINNED frames keep no dirty bit. -/
def Frame.wrote (f : Frame) (block : Nat) : Frame :=
  match f.st with
  | .pinned => f
  | _ =>
    { f with
      st := if f.st = .clean then .dirty else f.st
      dirty := setBit f.dirty block
      coh := if f.hs then Sparse.put f.coh block .m else f.coh
      accessed := true }

/-- Notes a write of the block at a vault address in its frame. -/
def Mem.wroteAt (m : Mem) (va : Nat) : Mem :=
  { m with frames := Sparse.adjust m.frames (va / 4096) (Frame.wrote · (va / 64 % 64)) }

/-- A hit sets the frame's accessed bit; a predicted frame is then one that was asked for (R180,
R181). -/
def Mem.touchFrame (m : Mem) (n : Nat) : Mem :=
  { m with frames := Sparse.adjust m.frames n fun f => { f with accessed := true, predicted := false } }

/-! ### Places -/

/-- The address of a place in its memory. -/
def PLoc.addr : PLoc → Nat
  | .vault a => a
  | .host a => a
  | .peer a => a

/-- The number of the line of a place among all lines: vault lines as they are, those of host memory and of peer
windows behind them. -/
def PLoc.key : PLoc → Nat
  | .vault a => a / 128
  | .host a => 2 ^ 60 + a / 128
  | .peer a => 2 ^ 61 + a / 128

/-- A place in a peer's window, whose data no cache of the device takes (R69). -/
def PLoc.isPeer : PLoc → Bool
  | .peer _ => true
  | _ => false

/-- A place `n` bytes further. -/
def PLoc.offset (p : PLoc) (n : Nat) : PLoc :=
  match p with
  | .vault a => .vault (a + n)
  | .host a => .host (a + n)
  | .peer a => .peer (a + n)

/-- The start of the line of a place. -/
def PLoc.line : PLoc → PLoc
  | .vault a => .vault (a / 128 * 128)
  | .host a => .host (a / 128 * 128)
  | .peer a => .peer (a / 128 * 128)

/-! ### Dirty data of the L1s and cluster caches -/

/-- The key of a core's L1 line, and of a line of a cluster's cache. -/
def l1Key (core line : Nat) : Nat := core * 2 ^ 32 + line

/-- The byte of a vault address that a core has written and that its L1 holds dirty (R76). -/
def Mem.ownByte (m : Mem) (core va : Nat) : Option Byte :=
  (Sparse.find m.l1 (l1Key core (va / 128))).bind fun l => Sparse.find l.bytes (va % 128)

/-- The tag that a core has written for the block at a vault address and that its L1 holds dirty (R76). -/
def Mem.ownTag (m : Mem) (core va : Nat) : Option (BitVec 16) :=
  (Sparse.find m.l1 (l1Key core (va / 128))).bind fun l => Sparse.find l.tags (va / 64 % 2)

/-- The dirty byte that a core sees at a vault address: in its own L1, else in its cluster's cache (R76, R82). -/
def Mem.dirtyByte (m : Mem) (core va : Nat) : Option Byte :=
  match m.ownByte core va with
  | some b => some b
  | none => (Sparse.find m.ccache (l1Key (core / 4) (va / 128))).bind fun e => Sparse.find e.line.bytes (va % 128)

/-- The dirty tag that a core sees for the block at a vault address (R76). -/
def Mem.dirtyTag (m : Mem) (core va : Nat) : Option (BitVec 16) :=
  match m.ownTag core va with
  | some t => some t
  | none => (Sparse.find m.ccache (l1Key (core / 4) (va / 128))).bind fun e => Sparse.find e.line.tags (va / 64 % 2)

/-- The byte at a vault address as a core sees it: the dirty byte of its L1 or cluster cache, else the home's
(R76). -/
def Mem.byteFor (m : Mem) (core va : Nat) : Byte := (m.dirtyByte core va).getD (Sparse.getZ m.vault va)

/-- A core's L1 line; one first written takes the core's current epoch (R143). -/
def Mem.l1Line (m : Mem) (core line : Nat) : L1Line :=
  (Sparse.find m.l1 (l1Key core line)).getD ⟨[], [], Sparse.getN m.epoch core, false⟩

/-- Writes one byte as a dirty byte of a core's L1 (R76). -/
def Mem.l1Write (m : Mem) (core va : Nat) (b : Byte) : Mem :=
  let l := m.l1Line core (va / 128)
  { m with l1 := Sparse.put m.l1 (l1Key core (va / 128)) { l with bytes := Sparse.put l.bytes (va % 128) b } }

/-- Writes the tag of a block as a dirty tag of a core's L1 (R76). -/
def Mem.l1Tag (m : Mem) (core va : Nat) (t : BitVec 16) : Mem :=
  let l := m.l1Line core (va / 128)
  { m with l1 := Sparse.put m.l1 (l1Key core (va / 128)) { l with tags := Sparse.put l.tags (va / 64 % 2) t } }

/-- Writes the dirty bytes of a line into the vault. -/
def putDirty (vault : Sparse Byte) (base : Nat) : Sparse Byte → Sparse Byte
  | [] => vault
  | (o, b) :: rest => Sparse.setZ (putDirty vault base rest) (base + o) b

/-- Writes the dirty tags of a line into the tag plane. -/
def putTags (vtags : Sparse (BitVec 16)) (base : Nat) : Sparse (BitVec 16) → Sparse (BitVec 16)
  | [] => vtags
  | (o, t) :: rest => Sparse.setZ (putTags vtags base rest) (base + o) t

/-- Marks the blocks of a line poisoned in its frame (R96). -/
def Mem.poisonLine (m : Mem) (line : Nat) : Mem :=
  { m with frames := Sparse.adjust m.frames (line / 32) fun f =>
      { f with poison := setBit (setBit f.poison (line % 32 * 2)) (line % 32 * 2 + 1) } }

/-- Closes the merge-table entries of a line in every cluster (R93). -/
def Mem.closeMergeLine (m : Mem) (line : Nat) : Mem :=
  { m with merges := m.merges.filter fun e => e.line ≠ line }

/-- Closes the merge-table entries of a line in one cluster (R93). -/
def Mem.closeMerge (m : Mem) (cluster line : Nat) : Mem :=
  { m with merges := m.merges.filter fun e => e.line ≠ line ∨ e.cluster ≠ cluster }

/-- The key of a core's copy of a line, by line number. -/
def copyKey (core line : Nat) : Nat := core * 2 ^ 64 + line

/-- A core's clean copy of a line leaves its L1. -/
def Mem.dropCopy (m : Mem) (core line : Nat) : Mem := { m with copies := Sparse.erase m.copies (copyKey core line) }

/-- Every core's clean copy of a line leaves its L1. -/
def Mem.dropCopies (m : Mem) (line : Nat) : Mem := { m with copies := m.copies.filter fun e => e.1 % 2 ^ 64 ≠ line }

/-- Every clean copy of a core leaves its L1. -/
def Mem.dropCore (m : Mem) (core : Nat) : Mem := { m with copies := m.copies.filter fun e => e.1 / 2 ^ 64 ≠ core }

/-- An access at its home brings a line into the home cache, dirty once it has been written there (R90). -/
def Mem.atHome (m : Mem) (line : Nat) (write : Bool) : Mem :=
  { m with homec := Sparse.put m.homec line (write || (Sparse.find m.homec line).getD false) }

/-- A dirty line reaches its home, data and tags together (R76, R90). -/
def Mem.putHome (m : Mem) (line : Nat) (l : L1Line) : Mem :=
  let m1 := { m with vault := putDirty m.vault (line * 128) l.bytes, vtags := putTags m.vtags (line * 2) l.tags }
  let m2 := l.bytes.foldl (fun acc e => acc.wroteAt (line * 128 + e.1)) m1
  let m3 := l.tags.foldl (fun acc e => acc.wroteAt (line * 128 + e.1 * 64)) m2
  (if l.poison then m3.poisonLine line else m3).atHome line true

/-- Nothing of a line is dirty. -/
def L1Line.clean (l : L1Line) : Bool := l.bytes.isEmpty && l.tags.isEmpty

/-- A line leaves a cluster's cache; what is dirty in it reaches its home, and no later read of the cluster joins a
merge entry that was opened before (R82, R132). -/
def Mem.ccOut (m : Mem) (cluster line : Nat) : Mem :=
  let k := l1Key cluster line
  match Sparse.find m.ccache k with
  | none => m
  | some e =>
    let m1 := { m with ccache := Sparse.erase m.ccache k, ccUse := m.ccUse.erase k }
    if e.line.clean then m1 else (m1.putHome line e.line).closeMerge cluster line

/-- A line leaves a core's L1; what is dirty in it is written back to its home, behind the older data of its
cluster's cache, and no later read of the cluster joins a merge entry that was opened before (R76, R90, R132). -/
def Mem.writeBack (m : Mem) (core line : Nat) : Mem :=
  let m1 := (m.ccOut (core / 4) line).dropCopy core line
  match Sparse.find m1.l1 (l1Key core line) with
  | none => m1
  | some l => ({ m1 with l1 := Sparse.erase m1.l1 (l1Key core line) }.putHome line l).closeMerge (core / 4) line

/-- The lines of a core that are dirty, with their epochs. -/
def Mem.dirtyLines (m : Mem) (core : Nat) : List (Nat × Nat) :=
  m.l1.filterMap fun e => if e.1 / 2 ^ 32 = core then some (e.1 % 2 ^ 32, e.2.epoch) else none

/-- The dirty lines of a cluster's cache. -/
def Mem.ccLines (m : Mem) (cluster : Nat) : List Nat :=
  m.ccache.filterMap fun e => if e.1 / 2 ^ 32 = cluster ∧ e.2.line.clean = false then some (e.1 % 2 ^ 32) else none

/-- Writes every dirty line of a cluster's cache home. -/
def Mem.ccFlush (m : Mem) (cluster : Nat) : Mem := (m.ccLines cluster).foldl (fun acc l => acc.ccOut cluster l) m

/-- Writes back every dirty line of a core, those that have left it for its cluster's cache among them. -/
def Mem.writeBackAll (m : Mem) (core : Nat) : Mem :=
  (m.dirtyLines core).foldl (fun acc l => acc.writeBack core l.1) (m.ccFlush (core / 4))

/-- A drain: the marked core writes back its dirty lines of epochs at or before the mark (R144), and its
cluster's cache whatever it holds, which may have come from that core.
Epochs are counted without end here, the device's 4-bit number being the count modulo 16; a mark
whose epoch has wrapped drains every line (R143). -/
def Mem.drain (m : Mem) (k : Mark) : Mem :=
  let wrapped := decide (k.epoch + 16 ≤ Sparse.getN m.epoch k.core)
  (m.dirtyLines k.core).foldl
    (fun acc l => if wrapped || decide (l.2 ≤ k.epoch) then acc.writeBack k.core l.1 else acc) (m.ccFlush (k.core / 4))

/-- No clean copy of a line stays in an L1, no merge entry of it open, and the snoop filter tracks it no more. -/
def Mem.untrack (m : Mem) (line : Nat) : Mem :=
  let m1 := (m.dropCopies line).closeMergeLine line
  { m1 with filter := m1.filter.erase line }

/-- A line, by its number, is recalled: what every core and every cluster holds dirty of it is written home, no clean
copy and no merge entry of it stays, and the snoop filter tracks it no more (R54, R91, R93). -/
def Mem.recallLine (m : Mem) (line : Nat) : Mem :=
  let m1 := (m.ccache.filterMap fun e => if e.1 % 2 ^ 32 = line then some (e.1 / 2 ^ 32) else none).foldl
    (fun acc c => acc.ccOut c line) m
  ((m.l1.filterMap fun e => if e.1 % 2 ^ 32 = line then some (e.1 / 2 ^ 32) else none).foldl
    (fun acc c => acc.writeBack c line) m1).untrack line

/-- Recalls every on-chip copy of a frame's granule but those of the sampler caches (R54 step 2): dirty lines
are written into the frame and merge entries close. The release marks of its lines are paid before
they go, so that a later acquire misses none (R136, R144). -/
def Mem.recallFrame (m : Mem) (frame : Nat) : Mem :=
  let owed := (m.marks.filter fun e => e.1 / 32 = frame).flatMap (·.2)
  let m0 := owed.foldl (fun acc k => acc.drain k) m
  let m1 := (List.range 32).foldl (fun acc i => acc.recallLine (frame * 32 + i)) m0
  { m1 with
    homec := m1.homec.filter fun e => e.1 / 32 ≠ frame
    marks := m1.marks.filter fun e => e.1 / 32 ≠ frame
    raceRecs := m1.raceRecs.filter fun e => e.1 / 32 ≠ frame
    bounce := m1.bounce.filter fun e => e.1 / 32 ≠ frame }

/-- The sampler lines of a granule leave every sampler cache (R79). -/
def Mem.dropSamples (m : Mem) (gran : Nat) : Mem :=
  { m with smp := m.smp.filter fun l =>
      match l.place with
      | .pool a => a / 4096 ≠ gran
      | _ => true }

/-! ### Reads and writes at a physical place -/

/-- Bytes at a place as a core reads them. -/
def Mem.readAt (m : Mem) (core : Nat) (p : PLoc) (n : Nat) : List Byte :=
  match p with
  | .vault a => (List.range n).map fun i => m.byteFor core (a + i)
  | .host a => readBytes m.host a n
  | .peer a => readBytes m.fabric a n

/-- Bytes at a place as its home holds them. -/
def Mem.homeAt (m : Mem) (p : PLoc) (n : Nat) : List Byte :=
  match p with
  | .vault a => readBytes m.vault a n
  | .host a => readBytes m.host a n
  | .peer a => readBytes m.fabric a n

/-- A line without a dirty byte, or without a dirty tag. -/
def L1Line.dropByte (l : L1Line) (o : Nat) : L1Line := { l with bytes := Sparse.erase l.bytes o }
def L1Line.dropTag (l : L1Line) (o : Nat) : L1Line := { l with tags := Sparse.erase l.tags o }

/-- Changes the dirty line that a core holds, and its cluster's. -/
def Mem.modLine (m : Mem) (core line : Nat) (g : L1Line → L1Line) : Mem :=
  { m with
    l1 := Sparse.adjust m.l1 (l1Key core line) g
    ccache := Sparse.adjust m.ccache (l1Key (core / 4) line) fun e => { e with line := g e.line } }

/-- Writes one byte at a place through to its home, dropping no dirty byte but those that the writing core
sees at that place. -/
def Mem.homeByte (m : Mem) (core : Option Nat) (p : PLoc) (b : Byte) : Mem :=
  match p with
  | .vault a =>
    let m1 := match core with
      | some c => m.modLine c (a / 128) (L1Line.dropByte · (a % 128))
      | none => m
    { m1 with vault := Sparse.setZ m1.vault a b }.wroteAt a
  | .host a => { m with host := Sparse.setZ m.host a b }
  | .peer a => { m with fabric := Sparse.setZ m.fabric a b }

/-- Writes bytes at a place through to their home. -/
def Mem.homeWrite (m : Mem) (core : Option Nat) (p : PLoc) : List Byte → Mem
  | [] => m
  | b :: rest => (m.homeByte core p b).homeWrite core (p.offset 1) rest

/-- Writes bytes as a core's store does: dirty in its L1 for vault lines, to the home agent for host
and peer memory (R308). The frame notes the write (R50). -/
def Mem.storeAt (m : Mem) (core : Nat) (p : PLoc) : List Byte → Mem
  | [] => m
  | b :: rest =>
    match p with
    | .vault a => ((m.l1Write core a b).wroteAt a).storeAt core (p.offset 1) rest
    | _ => (m.homeByte none p b).storeAt core (p.offset 1) rest

/-- The tag of the block at a place as its home holds it; host memory has none (R24, R99). -/
def Mem.tagAt (m : Mem) (p : PLoc) : BitVec 16 :=
  match p with
  | .vault a => Sparse.getZ m.vtags (a / 64)
  | .host _ => 0
  | .peer a => Sparse.getZ m.peerTags (a / 64)

/-- The tag of the block at a place as a core sees it (R76). -/
def Mem.tagFor (m : Mem) (core : Nat) (p : PLoc) : BitVec 16 :=
  match p with
  | .vault a => (m.dirtyTag core a).getD (m.tagAt p)
  | _ => m.tagAt p

/-- Writes the tag of the block at a place to its home, over the dirty tags that the writing core sees. -/
def Mem.homeTag (m : Mem) (core : Option Nat) (p : PLoc) (t : BitVec 16) : Mem :=
  match p with
  | .vault a =>
    let m1 := match core with
      | some c => m.modLine c (a / 128) (L1Line.dropTag · (a / 64 % 2))
      | none => m
    { m1 with vtags := Sparse.setZ m1.vtags (a / 64) t }.wroteAt a
  | .host _ => m
  | .peer a => { m with peerTags := Sparse.setZ m.peerTags (a / 64) t }

/-- Writes a tag as a core's store does: dirty in its L1 for vault lines (R76, R308). -/
def Mem.tagStore (m : Mem) (core : Nat) (p : PLoc) (t : BitVec 16) : Mem :=
  match p with
  | .vault a => (m.l1Tag core a t).wroteAt a
  | _ => m.homeTag none p t

/-! ### Physical reads and writes by the device itself -/

/-- Where the device finds a byte at a physical address of the SK9 (R13, R452). -/
inductive DevPlace where
  /-- In a vault frame: one that holds the granule, or a PINNED one. -/
  | vault (a : Nat)
  /-- In the pool, by fabric address. -/
  | pool (a : Nat)
  /-- Nowhere. -/
  | none
  deriving DecidableEq, Repr

/-- The frame that holds data of a granule, an EVICTING one as well: until its writeback is done what it holds
is what the pool will hold (R50, R54). -/
def holdingFrame (m : Sparse Frame) (gran : Nat) : Option (Nat × Frame) :=
  match findFrame m gran with
  | some (k, f) => if f.present then some (k, f) else none
  | none => m.find? fun e => e.2.gran == gran && e.2.st == .evicting

/-- The device reads, or writes, a block of a frame in the frame: always without HS; else a block in state S, E or M,
or, for a write, in state E or M. A write that lacks ownership goes to the pool, as a read of a block in state I
does (R60). -/
def Frame.owns (f : Frame) (block : Nat) (write : Bool) : Bool :=
  !f.hs ||
    match Sparse.find f.coh block with
    | none => false
    | some .s => !write
    | some _ => true

/-- A physical address names pool memory where the pool map has it, in the frame that holds its granule or
else in the pool, while ports carry it; where the map does not have it, it names PINNED vault memory. -/
def devPlace (s : State) (a : Nat) (write : Bool) : DevPlace :=
  if poolEntries s.reg a ≠ [] then
    let pool : DevPlace := match poolFabric s.reg a with
      | some fa => .pool fa
      | none => .none
    match holdingFrame s.mem.frames (a / 4096) with
    | some (k, f) => if f.owns (a / 64 % 64) write then .vault (k * 4096 + a % 4096) else pool
    | none => pool
  else
    match Sparse.find s.mem.frames (a / 4096) with
    | some f => if f.st = .pinned then .vault a else .none
    | none => .none

/-! ### Blocks of PINNED memory that hosts hold (R58) -/

/-- Blocks of a PINNED access that a host must give up first (R58): any it may hold, for a write;
those it may hold exclusively, for a read. -/
def heldByHost (m : Mem) (writes : Bool) (blocks : List Nat) : List Nat :=
  blocks.filter fun b =>
    match Sparse.find m.hostBlocks b with
    | some excl => writes || excl
    | none => false

/-- Sends a back-invalidate snoop to the host for each block not already asked for (R58). -/
def Mem.askHost (m : Mem) (blocks : List Nat) : Mem :=
  blocks.foldl (fun acc b =>
    if acc.hostSnoops.any fun h => h.block = b then acc
    else { acc with hostSnoops := acc.hostSnoops ++ [⟨b, b⟩] }) m

/-- Sends the snoops that an access waits for. -/
def askHost (s : State) (blocks : List Nat) : State := { s with mem := s.mem.askHost blocks }

/-- A byte of the vault as the device itself reads it: one that it has written, and that waits for a host to give its
block up, is its own. -/
def Mem.devByte (m : Mem) (a : Nat) : Byte :=
  match m.hostWrites.reverse.find? fun e => e.1 == a with
  | some e => e.2
  | none => Sparse.getZ m.vault a

/-- The device writes a byte of the vault. In a block that a host may hold the write is performed once the host has
answered a snoop (R58). -/
def Mem.devWrite (m : Mem) (a : Nat) (b : Byte) : Mem :=
  if (heldByHost m true [a / 64]).isEmpty && !(m.hostWrites.any fun e => e.1 / 64 == a / 64) then
    m.homeByte none (.vault a) b
  else { m.askHost [a / 64] with hostWrites := m.hostWrites ++ [(a, b)] }

/-- The device writes bytes of the vault. -/
def Mem.devWrites (m : Mem) (a : Nat) : List Byte → Mem
  | [] => m
  | b :: rest => (m.devWrite a b).devWrites (a + 1) rest

/-- A host has given a block up: what the device has waited to write of it is performed, in order (R58). -/
def Mem.blockBack (m : Mem) (block : Nat) : Mem :=
  let mine := m.hostWrites.filter fun e => e.1 / 64 == block
  let m1 : Mem := { m with
    hostBlocks := Sparse.erase m.hostBlocks block
    hostWrites := m.hostWrites.filter fun e => e.1 / 64 != block }
  mine.foldl (fun acc e => acc.homeByte none (.vault e.1) e.2) m1

/-! ### Reads and writes -/

/-- Bytes at a physical address. -/
def physRead (s : State) (p n : Nat) : List Byte :=
  (List.range n).map fun i =>
    match devPlace s (p + i) false with
    | .vault a => s.mem.devByte a
    | .pool a => Sparse.getZ s.mem.fabric a
    | .none => 0

/-- The blocks at a physical address that a host may have changed: a device's read waits for their snoops where it
can (R58, log 80). -/
def physHeld (s : State) (p n : Nat) : List Nat :=
  ((List.range n).filterMap fun i =>
    match devPlace s (p + i) false with
    | .vault a => (heldByHost s.mem false [a / 64]).head?
    | _ => none).eraseDups

/-- The blocks of several reads, each an address and a length, that a host may have changed. -/
def State.heldAt (s : State) (l : List (Nat × Nat)) : List Nat :=
  if s.mem.hostBlocks.isEmpty then [] else (l.flatMap fun p => physHeld s p.1 p.2).eraseDups

/-- An address names memory of the SK9: POOL, or a PINNED frame (R452). -/
def State.namesMemory (s : State) (a : Nat) : Bool :=
  !(poolEntries s.reg a).isEmpty || (Sparse.find s.mem.frames (a / 4096)).any fun f => f.st == .pinned

/-- A device address that a command gives names no memory, or is not aligned (R452). -/
def State.badAddr (s : State) (a align : Nat) : Bool := a % align != 0 || decide (2 ^ 52 ≤ a) || !s.namesMemory a

/-- A number read at a physical address. -/
def physNat (s : State) (p n : Nat) : Nat := leNat (physRead s p n)

/-- The copy of a block of an HS granule that the device writes in the pool leaves its frame (R60). -/
def loseCopy (m : Sparse Frame) (a : Nat) : Sparse Frame :=
  match findFrame m (a / 4096) with
  | some (k, _) => Sparse.adjust m k fun f => { f with coh := Sparse.erase f.coh (a / 64 % 64) }
  | none => m

/-- Writes bytes at a physical address. -/
def physWrite (s : State) (p : Nat) : List Byte → State
  | [] => s
  | b :: rest =>
    let m := match devPlace s p true with
      | .vault a => s.mem.devWrite a b
      | .pool a => { s.mem with frames := loseCopy s.mem.frames p, fabric := Sparse.setZ s.mem.fabric a b }
      | .none => s.mem
    physWrite { s with mem := m } (p + 1) rest

end Sys2Proof.Machine
end

