-- ==== Sys2Proof/Machine/Operands.lean ====
section
/-! DEFINITION. Operands: scalars, predicates, vector registers through the window (R195 to R197,
R247), lanes, the execution mask and the guard (R202), and the scoreboard of pending writes
(R200). -/

namespace Sys2Proof.Machine

/-! ### Places -/

/-- The slot of a fibre locator. -/
def slotOf (loc : Nat) : Nat := loc / 4

/-- The core of a fibre locator (R170). -/
def coreOf (loc : Nat) : Nat := loc / 128

/-- The FID of a fibre locator (R170). -/
def fidOf (loc : Nat) : Nat := loc % 4

/-- A slot that holds nothing: used where a map lists none. No fibre has held it: DESIGN CHOICE, log 4. -/
def Slot.empty : Slot :=
  { kind := .gang, asid := 0, q := 0, h := 0, regs := 0, shared := [], tiles := 0, tile := [],
    fbar := [], pend := [], last := 3 }

/-- The fibre at a locator. -/
def State.fibre (s : State) (loc : Nat) : Option Fibre := Sparse.find s.fibres loc

/-- The slot of a locator. -/
def State.slot (s : State) (loc : Nat) : Slot := (Sparse.find s.slots (slotOf loc)).getD Slot.empty

/-- Replaces a fibre. -/
def State.setFibre (s : State) (loc : Nat) (f : Fibre) : State :=
  { s with fibres := Sparse.put s.fibres loc f }

/-- Changes a fibre, if it is there. -/
def State.modFibre (s : State) (loc : Nat) (g : Fibre → Fibre) : State :=
  { s with fibres := Sparse.adjust s.fibres loc g }

/-- Changes a slot, if it is there. -/
def State.modSlot (s : State) (loc : Nat) (g : Slot → Slot) : State :=
  { s with slots := Sparse.adjust s.slots (slotOf loc) g }

/-- Free values have been drawn: the next draws are fresh (the model's own counter: DESIGN CHOICE, log 5). -/
def State.drew (s : State) (n : Nat) : State := { s with draws := s.draws + n }

/-! ### Scalars and predicates -/

/-- s[n]. -/
def Fibre.s (f : Fibre) (n : Nat) : Dword := Sparse.getZ f.sreg n

/-- Writes s[n]. -/
def Fibre.setS (f : Fibre) (n : Nat) (v : Dword) : Fibre := { f with sreg := Sparse.setZ f.sreg n v }

/-- p[n]; p7 reads all ones (R247). -/
def Fibre.p (f : Fibre) (n : Nat) : Word := if n = 7 then BitVec.allOnes 32 else Sparse.getZ f.pred n

/-- Writes p[n]; writes to p7 are ignored (R247). -/
def Fibre.setP (f : Fibre) (n : Nat) (v : Word) : Fibre :=
  if n = 7 then f else { f with pred := Sparse.setZ f.pred n v }

/-! ### Fields of MODE (R248) -/

def modeGP (m : Word) : Nat := field m 0 3
def modeGN (m : Word) : Bool := bitOf m 3
def modeET (m : Word) : Nat := field m 4 6
def modeRM (m : Word) : Nat := field m 10 3
def modeSAT (m : Word) : Bool := bitOf m 13
def modeFTZ (m : Word) : Bool := bitOf m 14
def modeNANP (m : Word) : Bool := bitOf m 15
def modeXE (m : Word) : Nat := field m 16 5
def modeSC (m : Word) : Nat := field m 21 3

/-! ### Mask and guard -/

/-- The guard bits: predicate MODE.GP, inverted under MODE.GN (R202). -/
def Fibre.guard (f : Fibre) : Word :=
  let g := f.p (modeGP f.mode)
  if modeGN f.mode then ~~~g else g

/-- The active lanes (R202). -/
def Fibre.active (f : Fibre) : Word := f.exec &&& f.guard

/-- The lanes of a mask, ascending. -/
def lanesOf (m : Word) : List Nat := (List.range 32).filter fun i => bitOf m i

/-- A mask from its lanes. -/
def maskOf (l : List Nat) : Word := l.foldl setBit 0

/-! ### Lanes -/

/-- Lane `i` of a vector register. -/
def lane (v : VReg) (i : Nat) : Word := BitVec.extractLsb' (32 * i) 32 v

/-- Replaces lane `i`. -/
def setLane (v : VReg) (i : Nat) (x : Word) : VReg :=
  (v &&& ~~~((BitVec.allOnes 32).setWidth 1024 <<< (32 * i))) ||| (x.setWidth 1024 <<< (32 * i))

/-- Writes `g i` into each listed lane. -/
def setLanes (v : VReg) (g : Nat → Word) : List Nat → VReg
  | [] => v
  | i :: rest => setLanes (setLane v i (g i)) g rest

/-! ### The window (R196) -/

def wFsz (w : Dword) : Nat := field w 0 5
def wShbase (w : Dword) : Nat := field w 12 10
def wRing (w : Dword) : Nat := field w 24 8
def wDepth (w : Dword) : Nat := field w 32 16
def wSpill (w : Dword) : Nat := field w 48 16

/-- A window descriptor from its fields (R196). -/
def mkWdesc (spill depth ring shbase fsz : Nat) : Dword :=
  BitVec.ofNat 64 (spill % 2 ^ 16 * 2 ^ 48 + depth % 2 ^ 16 * 2 ^ 32 + ring % 2 ^ 8 * 2 ^ 24
    + shbase % 2 ^ 10 * 2 ^ 12 + fsz % 2 ^ 5)

/-- Where vn lies: a ring position or a shared-range register (R196). -/
inductive VPlace where
  | ring (pos : Nat)
  | shared (n : Nat)
  deriving DecidableEq, Repr

/-- The place of vn under a window (R196). -/
def vPlace (w : Dword) (n : Nat) : VPlace :=
  if n < wFsz w * 8 then .ring ((wDepth w * 8 + n) % (wRing w * 8))
  else .shared (wShbase w + n - wFsz w * 8)

/-- v[n] as the fibre at `loc` sees it. -/
def State.v (s : State) (loc : Nat) (f : Fibre) (n : Nat) : VReg :=
  match vPlace f.wdesc n with
  | .ring pos => Sparse.getZ f.ring pos
  | .shared k => Sparse.getZ (s.slot loc).shared k

/-- Writes v[n] of the fibre at `loc`. -/
def State.setV (s : State) (loc n : Nat) (x : VReg) : State :=
  match s.fibre loc with
  | none => s
  | some f =>
    match vPlace f.wdesc n with
    | .ring pos => s.setFibre loc { f with ring := Sparse.setZ f.ring pos x }
    | .shared k => s.modSlot loc fun sl => { sl with shared := Sparse.setZ sl.shared k x }

/-- Writes `g i` into the listed lanes of v[n]. -/
def State.setVLanes (s : State) (loc n : Nat) (lanes : List Nat) (g : Nat → Word) : State :=
  match s.fibre loc with
  | none => s
  | some f => s.setV loc n (setLanes (s.v loc f n) g lanes)

/-! ### The scoreboard (R200) -/

/-- The resource of vn. -/
def resV (fid : Nat) (w : Dword) (n : Nat) : Res :=
  match vPlace w n with
  | .ring pos => .v fid pos
  | .shared k => .sh k

/-- Resources of the scalar registers of a list. -/
def resS (loc : Nat) (l : List Nat) : List Res := l.map fun n => .s (fidOf loc) n

/-- Resources of the vector registers of a list, in the fibre's window. -/
def resVs (loc : Nat) (f : Fibre) (l : List Nat) : List Res := l.map (resV (fidOf loc) f.wdesc)

/-- Some listed resource has a pending write. -/
def State.busy (s : State) (loc : Nat) (l : List Res) : Bool :=
  l.any fun r => (s.slot loc).pend.any fun p => p.res == r

/-- Registers the pending writes of an operation. -/
def State.addPend (s : State) (loc : Nat) (op : Nat) (l : List Res) : State :=
  s.modSlot loc fun sl => { sl with pend := l.map (fun r => ⟨r, op⟩) ++ sl.pend }

/-- The pending writes of an operation are over. -/
def State.dropPend (s : State) (loc : Nat) (op : Nat) : State :=
  s.modSlot loc fun sl => { sl with pend := sl.pend.filter fun p => p.op ≠ op }

/-! ### Counters (R267) -/

def ctrLD : Nat := 0
def ctrST : Nat := 1
def ctrCP : Nat := 2
def ctrMX : Nat := 3
def ctrRY : Nat := 4
def ctrTX : Nat := 5
def ctrRS : Nat := 6
def ctrSC : Nat := 7

/-- A counter's value. -/
def Fibre.counter (f : Fibre) (c : Nat) : Nat := Sparse.getN f.ctr c

/-- Raises a counter. -/
def Fibre.raiseCtr (f : Fibre) (c : Nat) : Fibre :=
  { f with ctr := Sparse.setN f.ctr c (f.counter c + 1) }

/-- Lowers a counter. -/
def Fibre.lowerCtr (f : Fibre) (c : Nat) : Fibre :=
  { f with ctr := Sparse.setN f.ctr c (f.counter c - 1) }

/-- The counter has no room: an instruction that would raise it above 62 cannot issue. -/
def Fibre.ctrFull (f : Fibre) (c : Nat) : Bool := decide (62 ≤ f.counter c)

/-- Every outstanding counter is zero. -/
def Fibre.idle (f : Fibre) : Bool := (List.range 8).all fun c => f.counter c == 0

end Sys2Proof.Machine
end

