-- ==== Sys2Proof/Machine/Flags.lean ====
section
/-! DEFINITION. Flag computations: the condition flags of CMP, CMPN and CMPI (R269), the conditions
of BRA (R270), and the floating-point flags with their trap enables (R120, R248). -/

namespace Sys2Proof.Machine

/-- `CF` after a compare: Z equal, L signed less, C unsigned less, in bits 0, 1, 2 (R269, R277). -/
def compareFlags (a b : Dword) : BitVec 3 :=
  BitVec.ofNat 3 ((if a = b then 1 else 0) + (if a.toInt < b.toInt then 2 else 0)
    + (if a.toNat < b.toNat then 4 else 0))

/-- The condition of BRA (R270). -/
def braTaken (f : Fibre) (c : Nat) : Bool :=
  let g := f.exec &&& f.guard
  match c with
  | 0 => true
  | 1 => bitOf f.cf 0
  | 2 => !bitOf f.cf 0
  | 3 => bitOf f.cf 1
  | 4 => !bitOf f.cf 1
  | 5 => bitOf f.cf 2
  | 6 => !bitOf f.cf 2
  | 7 => g != 0
  | 8 => g == f.exec
  | _ => g == 0

/-- Flags among `fl` whose trap enable is set in `MODE` (R120). -/
def enabledFlags (mode : Word) (fl : Nat) : Nat := fl &&& modeXE mode

/-- Ors flags into `FSTAT` (R120). -/
def Fibre.addFlags (f : Fibre) (fl : Nat) : Fibre :=
  { f with fstat := f.fstat ||| BitVec.ofNat 32 (fl % 32) }

end Sys2Proof.Machine
end

