-- ==== Sys2Proof/Machine/Translate.lean ====
section
/-! DEFINITION. Translation (R9, R12 to R44): contexts, the five-level walk with its checks, the
translation caches, ATS, permissions, and the presence of the granule in the vault. A function here
answers what an access meets and the state after it: caches filled, A and D set. -/

namespace Sys2Proof.Machine

/-- Cause codes (R30). -/
def causeNoctx : Nat := 0x01
def causeNopte : Nat := 0x02
def causeRsvd : Nat := 0x03
def causeSize : Nat := 0x04
def causeKind : Nat := 0x05
def causeAtsfail : Nat := 0x06
def causeNoncanon : Nat := 0x07
def causePrivhalf : Nat := 0x08
def causeUser : Nat := 0x09
def causeRead : Nat := 0x0A
def causeWrite : Nat := 0x0B
def causeExec : Nat := 0x0C
def causeTaghost : Nat := 0x0D
def causeBankmode : Nat := 0x0E
def causeBankown : Nat := 0x0F
def causeScrrange : Nat := 0x10

/-- The replay kind of a cause: 2 translation absent, 3 permission (R30). -/
def causeKindOf (c : Nat) : Nat := if c ≤ 6 then 2 else 3

/-- The code of an access kind (R26). -/
def AKind.code : AKind → Nat
  | .read => 0
  | .write => 1
  | .atomic => 2
  | .exec => 3
  | .tagrd => 4
  | .tagwr => 5
  | .walk => 6

/-- Kinds that write the page: they need D and, on HS blocks, ownership (R21, R60). -/
def AKind.writes : AKind → Bool
  | .write | .atomic | .tagwr => true
  | _ => false

/-- What an access meets. -/
inductive Acc (α : Type) where
  /-- It may be performed. -/
  | ok (a : α)
  /-- Replay kind 1 (R51, R60, R36). -/
  | miss (m : Missing)
  /-- Refused, with cause and the size code of the leaf if one was found (R30). -/
  | refuse (cause sz : Nat)
  /-- A poisoned block or word: replay kind 4 (R66, R96). -/
  | poison
  /-- It waits inside its unit: an ATS request, a bank in transit, or a snoop to a host is
  outstanding (R42, R86, R58). -/
  | wait
  deriving DecidableEq, Repr

/-- Who makes an access. -/
structure Who where
  core : Nat
  asid : BitVec 16
  priv : Bool
  deriving DecidableEq, Repr

/-- The cluster of a core. -/
def clusterOf (core : Nat) : Nat := core / 4

/-- The die of a core. -/
def dieOf (core : Nat) : Nat := core / 48

/-! ### Address forms -/

/-- Bits [63:57] all equal bit 56 (R9). -/
def canonical (va : Nat) : Bool :=
  va / 2 ^ 56 == 0 || va / 2 ^ 56 == 255

/-- The privileged half (R9). -/
def privHalf (va : Nat) : Bool := va / 2 ^ 56 % 2 == 1

/-! ### Contexts -/

/-- A context entry with V set and no reserved bit (R14, R15). -/
def ctxOk (lo hi rest : Nat) : Bool :=
  lo % 2 == 1 && lo / 2 ^ 2 % 4 == 0 && lo / 2 ^ 7 % 32 == 0 && lo / 2 ^ 52 == 0 &&
    hi / 2 ^ 20 == 0 && rest == 0

/-- The resident context of an ASID. -/
def findCtx (x : Xlate) (asid : BitVec 16) : Option CtxSlot :=
  x.ctxs.find? fun c => c.asid = asid

/-- Some group of the ASID is placed (R15). -/
def asidPlaced (s : State) (asid : BitVec 16) : Bool :=
  s.groups.any fun g => g.2.asid == asid

/-- Frees a context slot: every entry tagged with it goes (R15). -/
def Xlate.dropCtx (x : Xlate) (asid : BitVec 16) : Xlate :=
  { x with
    ctxs := x.ctxs.filter fun c => c.asid ≠ asid
    tlb := x.tlb.filter fun e => e.asid ≠ asid
    wcache := x.wcache.filter fun e => e.asid ≠ asid }

/-- The context slots (R15). -/
def ctxSlots : Nat := 4096

/-- Room for one more context: when every slot is taken, the least recently used slot whose ASID has no
placed group is freed (R15). The list is in order of use, newest first. -/
def makeCtxRoom (s : State) : State :=
  if s.xl.ctxs.length < ctxSlots then s
  else match (s.xl.ctxs.reverse.find? fun c => !asidPlaced s c.asid) with
    | some c => { s with xl := s.xl.dropCtx c.asid }
    | none => s

/-- A context slot can be had for an address space (R15). -/
def State.ctxRoom (s : State) (asid : BitVec 16) : Bool :=
  (findCtx s.xl asid).isSome || decide (s.xl.ctxs.length < ctxSlots) || s.xl.ctxs.any fun c => !asidPlaced s c.asid

/-- Groups are placed: the replay area is valid, translation is enabled, and the compute dies run (R13, R167,
R459). -/
def State.placing (s : State) : Bool := bitOf s.reg.rplbase 0 && bitOf s.reg.ctxbase 0 && !s.tripped

/-- The address of the context entry of an ASID (R13). -/
def ctxAddr (s : State) (asid : BitVec 16) : Nat := field s.reg.ctxbase 21 31 * 2 ^ 21 + asid.toNat * 32

/-- The context entry of an ASID as memory holds it (R13, R14). -/
def readCtx (s : State) (asid : BitVec 16) : CtxSlot :=
  let at0 := ctxAddr s asid
  let lo := physNat s at0 8
  let hi := physNat s (at0 + 8) 8
  ⟨asid, BitVec.ofNat 64 lo, BitVec.ofNat 64 hi, ctxOk lo hi (physNat s (at0 + 16) 16)⟩

/-- The context of an ASID, read into a slot at its first use (R13, R15). Each use makes its slot the most
recently used. An entry with V clear or malformed takes a slot as well, and is read again after CTX, ALL or a
clearing of CTXBASE[0] (DESIGN CHOICE, log 77). When no slot can be freed the entry serves the one access and
is not kept. -/
def getCtx (s : State) (asid : BitVec 16) : CtxSlot × State :=
  match findCtx s.xl asid with
  | some c =>
    (c, { s with xl := { s.xl with ctxs := c :: s.xl.ctxs.filter fun d => d.asid ≠ asid } })
  | none =>
    let c := readCtx s asid
    let s1 := makeCtxRoom s
    (c, if s1.xl.ctxs.length < ctxSlots then { s1 with xl := { s1.xl with ctxs := c :: s1.xl.ctxs } } else s1)

/-! ### The page walk -/

/-- Log2 of the page of a size code (R18). -/
def pageLog2 : Nat → Nat
  | 0 => 12
  | 1 => 14
  | 2 => 16
  | 3 => 18
  | 4 => 21
  | 5 => 24
  | 6 => 27
  | _ => 30

/-- The size codes allowed at a level (R16). -/
def sizeAtLevel (level sz : Nat) : Bool :=
  match level with
  | 0 => sz ≤ 3
  | 1 => 4 ≤ sz && sz ≤ 6
  | 2 => sz == 7
  | _ => false

/-- KIND of an entry (R17). -/
def pteKind (pte : Dword) : Nat := field pte 52 3

/-- ADDR of an entry as an address (R17). -/
def pteAddr (pte : Dword) : Nat := field pte 12 40 * 2 ^ 12

/-- The checks of R19 on an entry read at a level, with R23 and R48 for its kind: the cause of the
refusal, and the size code if a leaf was found. -/
def pteRefusal (s : State) (ctx : CtxSlot) (level : Nat) (pte : Dword) : Option (Nat × Nat) :=
  let leaf := bitOf pte 1
  let sz := field pte 2 3
  let kind := pteKind pte
  let a := pteAddr pte
  if !bitOf pte 0 then some (causeNopte, 0)
  else if field pte 57 7 ≠ 0 then some (causeRsvd, if leaf then sz else 0)
  else if leaf then
    if !sizeAtLevel level sz || a % 2 ^ pageLog2 sz != 0 then some (causeSize, sz)
    else match kind with
      | 0 =>
        if 2 ^ 46 ≤ a || poolBad s.reg a (bitOf pte 56) then some (causeKind, sz) else none
      | 1 => if bitOf ctx.lo 1 then none else some (causeKind, sz)
      | 2 => if Config.frames * 4096 ≤ a then some (causeKind, sz) else none
      | 3 => none
      | _ => some (causeKind, sz)
  else if level = 0 || sz != 0 then some (causeSize, 0)
  else match kind with
    | 0 => if 2 ^ 46 ≤ a || poolBad s.reg a false then some (causeKind, 0) else none
    | 2 => if Config.frames * 4096 ≤ a then some (causeKind, 0) else none
    | _ => some (causeKind, 0)

/-- The vault address of a byte of a table page of kind POOL or PINNED, or what is missing (R23, R36, R58).
`write` is set for the updates of A and D. A table page that is absent is asked for with HS clear: its frame
is that of a granule that no POOL leaf names (DESIGN CHOICE, log 78). -/
def tablePlace (s : State) (kind a : Nat) (write : Bool) : Acc Nat × State :=
  if kind = 2 then
    match Sparse.find s.mem.frames (a / 4096) with
    | some f =>
      if f.st ≠ .pinned then (.refuse causeKind 0, s)
      else if bitOf f.poison (a / 64 % 64) then (.poison, s)
      else match heldByHost s.mem write [a / 64] with
        | [] => (.ok a, s)
        | l => (.wait, askHost s l)
    | none => (.refuse causeKind 0, s)
  else
    match findFrame s.mem.frames (a / 4096) with
    | none => (.miss (.granule (a / 4096) false 0), s)
    | some (n, f) =>
      if !f.present then (.miss (.granule (a / 4096) f.hs 0), s)
      else if bitOf f.poison (a / 64 % 64) then (.poison, s)
      else if f.hs then
        match Sparse.find f.coh (a / 64 % 64) with
        | none => (.miss (.block (a / 64) write), s)
        | some .s => (if write then .miss (.block (a / 64) true) else .ok (n * 4096 + a % 4096), s)
        | some _ => (.ok (n * 4096 + a % 4096), s)
      else (.ok (n * 4096 + a % 4096), s)

/-- The first `n` members of a list that `own` picks out stay, the later ones go; the others stay. -/
def keepFirst {α : Type} (own : α → Bool) : Nat → List α → List α
  | _, [] => []
  | n, x :: rest =>
    if own x then
      match n with
      | 0 => keepFirst own 0 rest
      | n + 1 => x :: keepFirst own n rest
    else x :: keepFirst own n rest

/-- The walk cache of a die takes a table pointer; it holds 4,096, and the oldest leaves first (R34). -/
def Xlate.cachePointer (x : Xlate) (e : WalkEnt) : Xlate :=
  let others := x.wcache.filter fun t => !(t.die == e.die && t.asid == e.asid && t.level == e.level && t.tag == e.tag)
  { x with wcache := e :: keepFirst (fun t => t.die == e.die) 4095 others }

/-- What an access that met an obstacle meets in another type; `none` where it may be performed. -/
def Acc.cast {α β : Type} : Acc α → Option (Acc β)
  | .ok _ => none
  | .miss m => some (.miss m)
  | .refuse c z => some (.refuse c z)
  | .poison => some .poison
  | .wait => some .wait

/-- One step of the walk: the entry at table address `table` of kind `kind`, level `level`. A leaf has A set
in memory, and D as well with `setD` (R21). -/
def walkLevels (s : State) (cluster : Nat) (ctx : CtxSlot) (asid : BitVec 16) (va : Nat)
    (setD : Bool) : Nat → Nat → Nat → Acc TlbEnt × State
  | level, kind, table =>
    let ea := table + 8 * (va / 2 ^ (12 + 9 * level) % 512)
    match tablePlace s kind ea false with
    | (.ok place, s1) =>
      let pte := BitVec.ofNat 64 (leNat (readBytes s1.mem.vault place 8))
      match pteRefusal s1 ctx level pte with
      | some (c, z) => (.refuse c z, s1)
      | none =>
        if bitOf pte 1 then
          let want := setBit (if setD then setBit pte 11 else pte) 10
          let log2 := pageLog2 (field pte 2 3)
          let leaf : TlbEnt := ⟨cluster, asid, va / 2 ^ log2 * 2 ^ log2, log2, want, none⟩
          if want = pte then (.ok leaf, s1)
          else match tablePlace s1 kind ea true with
            | (.ok _, s2) =>
              (.ok leaf, { s2 with mem := s2.mem.homeWrite none (.vault place) (leBytes 8 want.toNat) })
            | (r, s2) => (r.cast.getD .wait, s2)
        else
          match level with
          | 0 => (.refuse causeSize 0, s1)
          | l + 1 =>
            let e : WalkEnt := ⟨cluster / 12, asid, l, va / 2 ^ (12 + 9 * (l + 1)), pte⟩
            walkLevels { s1 with xl := s1.xl.cachePointer e } cluster ctx asid va setD l (pteKind pte) (pteAddr pte)
    | (r, s1) => (r.cast.getD .wait, s1)
  termination_by structural level => level

/-- The deepest table pointer for an address that the die's walk cache holds (R34). -/
def bestPointer (x : Xlate) (die : Nat) (asid : BitVec 16) (va : Nat) : List Nat → Option WalkEnt
  | [] => none
  | l :: rest =>
    match x.wcache.find? fun e =>
        e.die = die ∧ e.asid = asid ∧ e.level = l ∧ e.tag = va / 2 ^ (12 + 9 * (l + 1)) with
    | some e => some e
    | none => bestPointer x die asid va rest

/-- The root of a context breaks the rules of its kind: refused with cause KIND (R14, R23, R48). -/
def rootBad (s : State) (ctx : CtxSlot) : Bool :=
  let root := field ctx.lo 12 40 * 2 ^ 12
  match field ctx.lo 4 3 with
  | 0 => decide (2 ^ 46 ≤ root) || poolBad s.reg root false
  | 2 => decide (Config.frames * 4096 ≤ root)
  | _ => true

/-- A walk from the root of a context or from the walk cache (R16, R34, R36). -/
def walk (s : State) (cluster : Nat) (ctx : CtxSlot) (va : Nat) (setD : Bool) : Acc TlbEnt × State :=
  if rootBad s ctx then (.refuse causeKind 0, s)
  else
    match bestPointer s.xl (cluster / 12) ctx.asid va [0, 1, 2, 3] with
    | some e => walkLevels s cluster ctx ctx.asid va setD e.level (pteKind e.pte) (pteAddr e.pte)
    | none => walkLevels s cluster ctx ctx.asid va setD 4 (field ctx.lo 4 3) (field ctx.lo 12 40 * 2 ^ 12)

/-! ### Translation caches -/

/-- A cached leaf serves an address: same cluster, page and address space, or a G entry of the
privileged half (R17, R34). -/
def TlbEnt.serves (e : TlbEnt) (cluster : Nat) (asid : BitVec 16) (va : Nat) : Bool :=
  e.cluster == cluster && va / 2 ^ e.log2 == e.va / 2 ^ e.log2 &&
    (e.asid == asid || (bitOf e.pte 9 && privHalf va))

/-- Installs a leaf under a resident context; a cluster's TLBs hold 16,384 leaves, and the oldest leaves first
(R15, R34). -/
def Xlate.install (x : Xlate) (e : TlbEnt) : Xlate :=
  if (findCtx x e.asid).isNone then x
  else
    let others := x.tlb.filter fun t => !(t.serves e.cluster e.asid e.va && t.log2 == e.log2)
    { x with tlb := e :: keepFirst (fun t => t.cluster == e.cluster) 16383 others }

/-- The ATC entry of a HOST page (R42). -/
def findAtc (x : Xlate) (asid : BitVec 16) (page : Nat) : Option AtcEnt :=
  x.atc.find? fun e => e.asid = asid ∧ e.page / 2 ^ e.log2 = page / 2 ^ e.log2

/-- The missing pages that a die's miss table holds, and how many it can (R35). A walk is over in one turn,
so that the pages missing between turns are those that wait for ATS. -/
def Xlate.missing (x : Xlate) (die : Nat) : Nat := (x.atsReq.filter fun r => r.dies.contains die).length
def missTable : Nat := 2048

/-- A die waits for the ATS result of a page: its misses for the page merge, and one request serves every die
(R35, R42). With the die's miss table full the miss waits for an entry. -/
def Xlate.askAts (x : Xlate) (die : Nat) (ctx : CtxSlot) (page : Nat) : Xlate :=
  if x.atsReq.any fun r => r.asid == ctx.asid && r.page == page && r.dies.contains die then x
  else if missTable ≤ x.missing die then x
  else if x.atsReq.any fun r => r.asid == ctx.asid && r.page == page then
    { x with atsReq := x.atsReq.map fun r =>
        if r.asid = ctx.asid ∧ r.page = page then { r with dies := r.dies ++ [die] } else r }
  else { x with atsReq := x.atsReq ++ [⟨ctx.asid, page, field ctx.hi 0 20, [die]⟩] }

/-- Gives a HOST leaf its host page by ATS, or asks for it with the context's PASID (R14, R42, R43). -/
def hostLeaf (s : State) (ctx : CtxSlot) (e : TlbEnt) (va : Nat) : Acc TlbEnt × State :=
  let page := pteAddr e.pte + va % 2 ^ e.log2 / 4096 * 4096
  match findAtc s.xl ctx.asid page with
  | some a =>
    if a.fail then
      (.refuse causeAtsfail (field e.pte 2 3), { s with xl := { s.xl with atc := s.xl.atc.erase a } })
    else
      (.ok { e with va := va / 4096 * 4096, log2 := 12,
                    host := some (a.host + page % 2 ^ a.log2 / 4096 * 4096, a.read, a.write) }, s)
  | none => (.wait, { s with xl := s.xl.askAts (e.cluster / 12) ctx page })

/-- The resident context of an access, read first where it is not, once a host that holds it has given it up; NOCTX
where translation is disabled or the entry is not good (R13, R15, R58). -/
def ctxFor (s : State) (asid : BitVec 16) : Acc CtxSlot × State :=
  if !bitOf s.reg.ctxbase 0 then (.refuse causeNoctx 0, s)
  else
    match (if (findCtx s.xl asid).isSome then [] else physHeld s (ctxAddr s asid) 32) with
    | [] =>
      let (ctx, s1) := getCtx s asid
      (if ctx.ok then .ok ctx else .refuse causeNoctx 0, s1)
    | l => (.wait, askHost s l)

/-- A leaf by a new walk, cached (R34); D is set in memory with `setD` (R21). -/
def walkLeaf (s : State) (cluster : Nat) (ctx : CtxSlot) (va : Nat) (setD : Bool) : Acc TlbEnt × State :=
  match walk s cluster ctx va setD with
  | (.ok e, s1) =>
    if pteKind e.pte = 1 then
      match hostLeaf s1 ctx e va with
      | (.ok e', s2) => (.ok e', { s2 with xl := s2.xl.install e' })
      | r => r
    else (.ok e, { s1 with xl := s1.xl.install e })
  | r => r

/-- The leaf for an address: cached, or walked and cached. A write through a leaf whose cached copy
has D clear walks again (R21). -/
def leafFor (s : State) (w : Who) (va : Nat) (writes : Bool) : Acc TlbEnt × State :=
  let cluster := clusterOf w.core
  match ctxFor s w.asid with
  | (.ok ctx, s1) =>
    (match s1.xl.tlb.find? fun e => e.serves cluster w.asid va && !(writes && !bitOf e.pte 11) with
    | some e => (.ok e, s1)
    | none => walkLeaf s1 cluster ctx va false)
  | (r, s1) => (r.cast.getD .wait, s1)

/-- D is set in the entry of a leaf through which a write is about to go (R21). -/
def markDirty (s : State) (w : Who) (va : Nat) (e : TlbEnt) : Acc TlbEnt × State :=
  if bitOf e.pte 11 then (.ok e, s)
  else
    match ctxFor s w.asid with
    | (.ok ctx, s1) => walkLeaf s1 (clusterOf w.core) ctx va true
    | (r, s1) => (r.cast.getD .wait, s1)

/-- U of the leaf through which a fetch has just gone. -/
def State.leafUser (s : State) (w : Who) (va : Nat) : Bool :=
  match s.xl.tlb.find? fun e => e.serves (clusterOf w.core) w.asid va with
  | some e => bitOf e.pte 8
  | none => !w.priv

/-- HS of the leaf of an address that a cluster has found. -/
def State.leafHs (s : State) (cluster : Nat) (asid : BitVec 16) (va : Nat) : Bool :=
  (s.xl.tlb.find? fun e => e.serves cluster asid va).any fun e => bitOf e.pte 56

/-- The size code of the leaf of an address that a cluster has found, 0 where it has none (R169). -/
def State.leafSz (s : State) (cluster : Nat) (asid : BitVec 16) (va : Nat) : Nat :=
  match s.xl.tlb.find? fun e => e.serves cluster asid va with
  | some e => field e.pte 2 3
  | none => 0

/-! ### Permissions -/

/-- The check of a leaf's bits for an access: USER first, then the kind's bits, then those ATS
returned (R26 to R28, R42). -/
def permission (w : Who) (k : AKind) (e : TlbEnt) : Option Nat :=
  let p := e.pte
  if !w.priv && !bitOf p 8 then some causeUser
  else
    let base : Option Nat :=
      match k with
      | .read | .tagrd => if bitOf p 5 then none else some causeRead
      | .write | .tagwr => if bitOf p 6 then none else some causeWrite
      | .atomic =>
        if !bitOf p 5 then some causeRead else if !bitOf p 6 then some causeWrite else none
      | .exec => if bitOf p 7 then none else some causeExec
      | .walk => none
    match base with
    | some c => some c
    | none =>
      if k = .tagwr && pteKind p = 1 then some causeTaghost
      else match e.host with
        | some (_, r, wr) =>
          if (!r && !k.writes) || (k = .atomic && !r) || (k.writes && !wr) then some causeAtsfail
          else none
        | none => none

/-! ### Presence -/

/-- The blocks of a page that `n` bytes from `va` touch. -/
def blocksOf (va n : Nat) : List Nat :=
  (List.range ((va % 64 + n + 63) / 64)).map fun i => va / 64 + i

/-- The first block of an access to an HS frame that lacks the state it needs (R60). -/
def lackingBlock (f : Frame) (writes : Bool) : List Nat → Option Nat
  | [] => none
  | b :: rest =>
    match Sparse.find f.coh (b % 64) with
    | none => some b
    | some .s => if writes then some b else lackingBlock f writes rest
    | some _ => lackingBlock f writes rest

/-- The place of `n` bytes of one 4 KiB page under a leaf: the vault frame of a POOL page (R51), a
PINNED frame (R23, R57), host memory (R43) or a peer's window (R25). -/
def placeOf (s : State) (k : AKind) (e : TlbEnt) (va n : Nat) : Acc PLoc × State :=
  let off := va % 2 ^ e.log2
  match pteKind e.pte with
  | 0 =>
    let p := pteAddr e.pte + off
    let hs := bitOf e.pte 56
    let want := if k.writes then ((blocksOf p n).map (· % 64)).foldl (fun a b => a ||| 2 ^ b) 0 else 0
    match findFrame s.mem.frames (p / 4096) with
    | none => (.miss (.granule (p / 4096) hs want), s)
    | some (i, f) =>
      if !f.present then (.miss (.granule (p / 4096) hs want), s)
      else if (blocksOf p n).any fun b => bitOf f.poison (b % 64) then (.poison, s)
      else match (if f.hs then lackingBlock f k.writes (blocksOf p n) else none) with
        | some b => (.miss (.block b k.writes), s)
        | none =>
          (.ok (.vault (i * 4096 + p % 4096)), { s with mem := s.mem.touchFrame i })
  | 2 =>
    let p := pteAddr e.pte + off
    match Sparse.find s.mem.frames (p / 4096) with
    | none => (.refuse causeKind (field e.pte 2 3), s)
    | some f =>
      if f.st ≠ .pinned then (.refuse causeKind (field e.pte 2 3), s)
      else if (blocksOf p n).any fun b => bitOf f.poison (b % 64) then (.poison, s)
      else match heldByHost s.mem k.writes (blocksOf p n) with
        | [] => (.ok (.vault p), s)
        | bs => (.wait, askHost s bs)
  | 1 =>
    match e.host with
    | some (h, _, _) => (.ok (.host (h + va % 4096)), s)
    | none => (.wait, s)
  | _ => (.ok (.peer (pteAddr e.pte + off)), s)

/-- A leaf that refused an access leaves the caches, and the ATS result with it: the caches hold no refusal
(R22). -/
def Xlate.dropLeaf (x : Xlate) (w : Who) (va : Nat) (e : TlbEnt) : Xlate :=
  let page := pteAddr e.pte + va % 2 ^ pageLog2 (field e.pte 2 3) / 4096 * 4096
  { x with
    tlb := x.tlb.filter fun t => !t.serves (clusterOf w.core) w.asid va
    atc := if pteKind e.pte = 1 then
        x.atc.filter fun a => a.asid ≠ w.asid ∨ a.page / 2 ^ a.log2 ≠ page / 2 ^ a.log2
      else x.atc }

/-- The frame behind a PINNED leaf is not PINNED: cause KIND, at every access (R23). -/
def pinnedGone (s : State) (e : TlbEnt) (va : Nat) : Bool :=
  pteKind e.pte == 2 &&
    match Sparse.find s.mem.frames ((pteAddr e.pte + va % 2 ^ e.log2) / 4096) with
    | some f => f.st != .pinned
    | none => true

/-- The checks of R28 on an access to one 4 KiB page, short of presence: the leaf through which it goes. -/
def checkPage (s : State) (w : Who) (k : AKind) (va : Nat) : Acc TlbEnt × State :=
  if !canonical va then (.refuse causeNoncanon 0, s)
  else if privHalf va && !w.priv then (.refuse causePrivhalf 0, s)
  else
    match leafFor s w va k.writes with
    | (.ok e, s1) =>
      if pinnedGone s1 e va then (.refuse causeKind (field e.pte 2 3), s1)
      else match permission w k e with
        | some c => (.refuse c (field e.pte 2 3), { s1 with xl := s1.xl.dropLeaf w va e })
        | none => (.ok e, s1)
    | r => r

/-- The place of bytes of one page that has passed its checks: D is set for a write, then presence decides (R21,
R28). -/
def enterPage (s : State) (w : Who) (k : AKind) (va n : Nat) (e : TlbEnt) : Acc (PLoc × Nat) × State :=
  match (if k.writes then markDirty s w va e else (.ok e, s)) with
  | (.ok e1, s1) =>
    match placeOf s1 k e1 va n with
    | (.ok p, s2) => (.ok (p, n), s2)
    | (r, s2) => (r.cast.getD .wait, s2)
  | (r, s1) => (r.cast.getD .wait, s1)

/-- The pieces of an access, cut at 4 KiB boundaries; addresses wrap at 2^64. -/
def pieces (va n : Nat) : List (Nat × Nat) :=
  let room := 4096 - va % 4096
  if n ≤ room then [(va % 2 ^ 64, n)]
  else (va % 2 ^ 64, room) ::
    (List.range ((n - room + 4095) / 4096)).map fun i =>
      ((va + room + i * 4096) % 2 ^ 64, min 4096 (n - room - i * 4096))

/-- The checks of every piece, in order; the first failing piece decides (R306). -/
def checkAll (s : State) (w : Who) (k : AKind) : List (Nat × Nat) → Acc (List (Nat × Nat × TlbEnt)) × State
  | [] => (.ok [], s)
  | (va, n) :: rest =>
    match checkPage s w k va with
    | (.ok e, s1) =>
      match checkAll s1 w k rest with
      | (.ok l, s2) => (.ok ((va, n, e) :: l), s2)
      | r => r
    | (r, s1) => (r.cast.getD .wait, s1)

/-- The places of pieces that have passed their checks. -/
def enterAll (s : State) (w : Who) (k : AKind) : List (Nat × Nat × TlbEnt) → Acc (List (PLoc × Nat)) × State
  | [] => (.ok [], s)
  | (va, n, e) :: rest =>
    match enterPage s w k va n e with
    | (.ok p, s1) =>
      match enterAll s1 w k rest with
      | (.ok ps, s2) => (.ok (p :: ps), s2)
      | r => r
    | (r, s1) => (r.cast.getD .wait, s1)

/-- Resolves the pieces of an access: presence comes after every check of every page, so that a refused access
starts no fill and sets no D (R28, R31, R306). -/
def resolveAll (s : State) (w : Who) (k : AKind) (l : List (Nat × Nat)) : Acc (List (PLoc × Nat)) × State :=
  match checkAll s w k l with
  | (.ok es, s1) => enterAll s1 w k es
  | (r, s1) => (r.cast.getD .wait, s1)

/-- Where a global access of `n` bytes is performed, or what it meets. -/
def resolve (s : State) (w : Who) (k : AKind) (va n : Nat) : Acc (List (PLoc × Nat)) × State :=
  resolveAll s w k (pieces va n)

end Sys2Proof.Machine
end

