-- ==== Sys2Proof/Machine/Region.lean ====
section
/-! DEFINITION. Regions (R208 to R211), their logs (R33), the clock of a core (R280), interrupts and
the rings in host memory (R450, R453), and fault reports (R183, R184). -/

namespace Sys2Proof.Machine

/-! ### Clocks -/

/-- Reads CLK of a core: clocks since its reset (R280). How many clocks pass between two reads is
left open, so they are a free value, of at least one: no two of them lie on one clock (R234). A power-gated core's clock
stands still. -/
def State.readClk (s : State) (core : Nat) : Dword × State :=
  let old := Sparse.getZ s.clk core
  let new := if s.gated.contains core then old else old + BitVec.ofNat 64 (1 + Config.clocks core s.draws % (2 ^ 64 - 1))
  (new, { s with clk := Sparse.setZ s.clk core new, draws := s.draws + 1 })

/-! ### Region control blocks -/

/-- An RCB from its 256 bytes (R208, R209). STATE 3, which is not used, is read as KILLED (DESIGN CHOICE, log 103). -/
def parseRcb (addr : Nat) (b : List Byte) : Rcb :=
  let n (o k : Nat) : Nat := leNat ((b.drop o).take k)
  let flags := n 8 8
  { addr := addr, parent := n 0 8,
    st := match flags / 2 ^ 50 % 4 with
      | 0 => .active
      | 1 => .suspended
      | _ => .killed
    prio := flags / 2 ^ 12 % 16, race := flags / 32 % 2 == 1, priv := flags / 16 % 2 == 1,
    idem := flags / 8 % 2 == 1, asid := BitVec.ofNat 16 (n 20 2), contain := n 22 1 % 4,
    retryb := n 23 1, tickets := n 24 4, tellwin := n 28 2, budget := n 32 8, used := n 40 8,
    pass := n 48 8, elbase := n 56 8, elseq := n 64 8, elovf := n 72 4, ellog2 := n 76 1,
    rllog2 := n 77 1, covlog2 := n 78 1, rlbase := n 80 8, rlseq := n 88 8, rlovf := n 96 4,
    covbase := n 104 8, covhead := n 112 4, covtail := n 116 4, loss := n 120 8, live := n 128 8,
    faults := n 136 8, elhead := n 144 8, rlhead := n 152 8, clocks := 0, hadWork := false
    woke := false }

/-- A reserved bit, or a CONTAIN or log size out of range, makes the RCB malformed (R208, R209); so does an ELBASE that is
not aligned, which R209 does not list (DESIGN CHOICE, log 103). -/
def rcbBad (b : List Byte) : Bool :=
  let n (o k : Nat) : Nat := leNat ((b.drop o).take k)
  let flags := n 8 8
  flags / 2 ^ 52 != 0 || flags / 2 ^ 16 % 2 ^ 34 != 0 || flags / 2 ^ 6 % 2 ^ 6 != 0 ||
    flags % 8 != 0 || n 19 1 != 0 || 4 ≤ n 22 1 || n 30 2 != 0 || n 79 1 != 0 || n 100 4 != 0 ||
    leNat (b.drop 160) != 0 || 20 < n 76 1 || 20 < n 77 1 || 20 < n 78 1 || n 56 8 % 32 != 0

/-- STATE as FLAGS codes it (R209). -/
def RegionState.code : RegionState → Nat
  | .active => 0
  | .suspended => 1
  | .killed => 2

/-- FLAGS of an RCB (R209). -/
def Rcb.flags (r : Rcb) : Nat :=
  r.st.code * 2 ^ 50 + r.prio * 2 ^ 12 + (if r.race then 32 else 0) + (if r.priv then 16 else 0)
    + (if r.idem then 8 else 0)

/-- The 256 bytes of an RCB (R208). -/
def Rcb.bytes (r : Rcb) (rnum : Nat) : List Byte :=
  leBytes 8 r.parent ++ leBytes 8 r.flags ++ leBytes 4 rnum ++ leBytes 2 r.asid.toNat
    ++ leBytes 1 r.contain ++ leBytes 1 r.retryb ++ leBytes 4 r.tickets ++ leBytes 2 r.tellwin
    ++ leBytes 2 0 ++ leBytes 8 r.budget ++ leBytes 8 r.used ++ leBytes 8 r.pass
    ++ leBytes 8 r.elbase ++ leBytes 8 r.elseq ++ leBytes 4 r.elovf ++ leBytes 1 r.ellog2
    ++ leBytes 1 r.rllog2 ++ leBytes 1 r.covlog2 ++ leBytes 1 0 ++ leBytes 8 r.rlbase
    ++ leBytes 8 r.rlseq ++ leBytes 4 r.rlovf ++ leBytes 4 0 ++ leBytes 8 r.covbase
    ++ leBytes 4 r.covhead ++ leBytes 4 r.covtail ++ leBytes 8 r.loss ++ leBytes 8 r.live
    ++ leBytes 8 r.faults ++ leBytes 8 r.elhead ++ leBytes 8 r.rlhead ++ leBytes 96 0

/-- The region-table entry of a region number (R210). -/
def State.regionTable (s : State) (rgn : Nat) : Nat :=
  physNat s (field s.reg.rgnbase 27 25 * 2 ^ 27 + 8 * (rgn % 2 ^ 24)) 8

/-- The RCB of a region: cached, or found through the region table (R210). Of a doubleword of a cached RCB that is written
behind the device's back R210 allows the old or the new value: it is the old one (DESIGN CHOICE, log 103). -/
def State.rcb (s : State) (rgn : Nat) : Option Rcb :=
  match Sparse.find s.sched.rcbs rgn with
  | some r => some r
  | none =>
    let a := s.regionTable rgn
    if a = 0 then none else some (parseRcb a (physRead s a 256))

/-- Numbers of the regions that the region table lists, from the bytes of the table that are written. -/
def State.tableRegions (s : State) : List Nat :=
  let base := field s.reg.rgnbase 27 25 * 2 ^ 27
  let of (start : Nat) (l : List Host.Cell) : List Nat :=
    (l.filter fun c => start ≤ c.1 ∧ c.1 < start + 2 ^ 27).map fun c => (c.1 - start) / 8
  let ns := match poolFabric s.reg base with
    | some fa =>
      let grans := s.mem.frames.filterMap fun (e : Nat × Frame) =>
        if e.2.st ≠ FrameState.pinned ∧ base ≤ e.2.gran * 4096 ∧ e.2.gran * 4096 < base + 2 ^ 27 then some e.2.gran else none
      of fa s.mem.fabric ++ grans.flatMap fun g => (List.range 512).map fun i => (g * 4096 - base) / 8 + i
    | none => of base s.mem.vault
  ns.eraseDups.filter fun n => (s.rcb n).isSome

/-- Numbers of the regions that exist: those whose RCBs are cached, and those of the region table. -/
def State.allRegions (s : State) : List Nat := ((s.sched.rcbs.map (·.1)) ++ s.tableRegions).eraseDups

/-- Stores an RCB in the cache. The cache may then hold more than its 8,192: the turn does not end before one of them
has left it (R210, log 93). -/
def State.setRcb (s : State) (rgn : Nat) (r : Rcb) : State :=
  { s with sched := { s.sched with rcbs := Sparse.put s.sched.rcbs rgn r } }

/-- Changes an RCB, bringing it into the cache. -/
def State.modRcb (s : State) (rgn : Nat) (g : Rcb → Rcb) : State :=
  match s.rcb rgn with
  | some r => s.setRcb rgn (g r)
  | none => s

/-- The region places fibres: it is ACTIVE (R211). -/
def State.regionActive (s : State) (rgn : Nat) : Bool :=
  match s.rcb rgn with
  | some r => r.st == .active
  | none => false

/-- The region number of the RCB at a physical address, among cached RCBs. -/
def State.regionAt (s : State) (addr : Nat) : Option Nat :=
  (s.sched.rcbs.find? fun e => e.2.addr = addr).map (·.1)

/-- The parent region's number. -/
def State.parentOf (s : State) (rgn : Nat) : Option Nat :=
  match s.rcb rgn with
  | some r =>
    if r.parent = 0 then none
    else match s.regionAt r.parent with
      | some n => some n
      | none => some (physNat s (r.parent + 16) 3)
  | none => none

/-- The region and its ancestors, nearest first; `n` bounds them, so that a loop of parents ends. -/
def State.ancestors (s : State) : Nat → Nat → List Nat
  | 0, rgn => [rgn]
  | k + 1, rgn =>
    match s.parentOf rgn with
    | some p => rgn :: State.ancestors s k p
    | none => [rgn]

/-- The chain of a region up to its root: no tree is deeper than there are region numbers (R210). -/
def State.chain (s : State) (rgn : Nat) : List Nat := s.ancestors 16777216 rgn

/-- `rgn` is `top` or below it. -/
def State.inSubtree (s : State) (top rgn : Nat) : Bool := (s.chain rgn).contains top

/-- A region's fibres are privileged (R209). -/
def State.privOf (s : State) (rgn : Nat) : Bool :=
  match s.rcb rgn with
  | some r => r.priv
  | none => false

/-- Who a fibre's accesses are made by. -/
def State.who (s : State) (loc : Nat) (f : Fibre) : Who :=
  ⟨coreOf loc, f.asid, s.privOf f.region⟩

/-- One issue clock for a region and each of its ancestors; 1,024 of them raise USED (R230). -/
def State.countClock (s : State) (rgn : Nat) : State :=
  (s.chain rgn).foldl (fun acc g => acc.modRcb g fun r =>
    if r.clocks + 1 = 1024 then { r with clocks := 0, used := r.used + 1 }
    else { r with clocks := r.clocks + 1 }) s

/-! ### Interrupts (R453) -/

/-- Sends a vector. -/
def State.sendMsix (s : State) (v : Nat) : State :=
  { s with io := { s.io with
      msix := Sparse.setN s.io.msix v (Sparse.getN s.io.msix v + 1)
      msixOpen := if s.io.msixOpen.contains v then s.io.msixOpen else v :: s.io.msixOpen } }

/-- BAR0 is there, and the device at work: one whose firmware failed its check has the DOE mailbox alone (R456). -/
def State.barActive (s : State) : Bool := s.fw != some false

/-- A producer index advances: from a value equal to its consumer index the vector is sent, but
within 1 µs of a send the advance waits for the next send. -/
def State.signal (s : State) (v : Nat) (wasEmpty : Bool) : State :=
  if !s.barActive then s
  else if s.io.msixOpen.contains v then
    { s with io := { s.io with
        msixWait := if s.io.msixWait.contains v then s.io.msixWait else v :: s.io.msixWait } }
  else if wasEmpty then s.sendMsix v
  else s

/-! ### Rings in host memory (R450) -/

/-- Entries of a ring; none while LOG2 is zero. -/
def ringSize (base : Dword) : Nat := if field base 0 6 = 0 then 0 else 2 ^ field base 0 6

/-- The host address of entry `i` of a ring of `size`-byte entries. -/
def ringAddr (base : Dword) (i size : Nat) : Nat :=
  field base 12 40 * 2 ^ 12 + i % ringSize base * size

/-- The ring has room for one more entry. -/
def ringRoom (r : Ring) : Bool :=
  ringSize r.base != 0 && decide ((r.tail - r.head).toNat < ringSize r.base)

/-- Writes bytes to host memory by DMA. -/
def State.hostWrite (s : State) (a : Nat) (b : List Byte) : State :=
  { s with mem := { s.mem with host := writeBytes s.mem.host a b } }

/-- Puts a fault report into its ring, which has room (R183). -/
def State.frqPut (s : State) (b : List Byte) : State :=
  let r := s.reg.frq
  let s1 := s.hostWrite (ringAddr r.base r.tail.toNat 64) b
  ({ s1 with reg := { s1.reg with frq := { r with tail := r.tail + 1 } } }).signal 0
    (r.tail == r.head)

/-- A fault report goes to the ring, or waits in order while the ring is full or disabled (R184). -/
def State.frqPush (s : State) (b : List Byte) : State :=
  if s.io.frqWait.isEmpty && ringRoom s.reg.frq then s.frqPut b
  else { s with io := { s.io with frqWait := s.io.frqWait ++ [⟨b⟩] } }

/-! ### Error logs (R33) -/

/-- The fields of an error-log entry that a report gives. -/
structure ErrEntry where
  va : Dword
  asid : BitVec 16
  unit : Nat
  akind : Nat
  cause : Nat
  kind : Nat
  core : Nat
  clk : Dword
  loc : Nat
  deriving DecidableEq, Repr

/-- Appends an entry to a region's error log, or counts it as overflow when the ring is full or
there is none (R33). -/
def State.errLog (s : State) (rgn : Nat) (e : ErrEntry) : State :=
  match s.rcb rgn with
  | none => s
  | some r =>
    if r.elbase = 0 ∨ r.elseq - r.elhead = 2 ^ r.ellog2 then
      s.setRcb rgn { r with elovf := (r.elovf + 1) % 2 ^ 32 }
    else
      let b := leBytes 8 e.va.toNat ++ leBytes 2 e.asid.toNat ++ leBytes 1 e.unit
        ++ leBytes 1 e.akind ++ leBytes 1 e.cause ++ leBytes 1 e.kind ++ leBytes 2 e.core
        ++ leBytes 8 e.clk.toNat ++ leBytes 4 e.loc ++ leBytes 4 r.elseq
      (physWrite s (r.elbase + 32 * (r.elseq % 2 ^ r.ellog2)) b).setRcb rgn
        { r with elseq := r.elseq + 1 }

/-! ### Fault reports and containment -/

/-- The region that decides a fault and the policy applied there: KILLPARENT refers upward, and at
the root acts as KILLSELF (R185). Codes: 0 IGNORE, 1 RETRY, 2 KILLSELF. -/
def State.absorb (s : State) : Nat → Nat → Nat × Nat
  | 0, rgn => (2, rgn)
  | k + 1, rgn =>
    match s.rcb rgn with
    | none => (2, rgn)
    | some r =>
      if r.contain = 3 then
        match s.parentOf rgn with
        | some p => State.absorb s k p
        | none => (2, rgn)
      else (r.contain, rgn)

/-- The containment decision for a fault of a region. -/
def State.contain (s : State) (rgn : Nat) : Nat × Nat := s.absorb 16777216 rgn

/-- A device interface that is locked, running or in error covers the region (R458). -/
def State.ifaceOf (s : State) (rgn : Nat) : Option Iface :=
  s.io.ifaces.find? fun i => s.inSubtree i.region rgn

/-- A report is made: an entry of the region's error log, FAULTS raised, and 64 bytes to the fault report queue (R33,
R183, R208). -/
def State.reportNow (s : State) (l : LateReport) : State :=
  let i := l.info
  let va : Dword :=
    match s.ifaceOf l.region with
    | some _ => i.va &&& ~~~(0xFFF : Dword)
    | none => i.va
  let s1 := s.errLog l.region ⟨i.va, i.asid, i.unit, i.akind, i.cause, i.kind, coreOf i.loc, l.clk, i.loc⟩
  let s2 := s1.modRcb l.region fun r => { r with faults := r.faults + 1 }
  let rcbAddr := match s2.rcb l.absorber with
    | some r => r.addr
    | none => 0
  let b := leBytes 8 va.toNat ++ leBytes 2 i.asid.toNat ++ leBytes 1 i.unit ++ leBytes 1 i.akind
    ++ leBytes 1 i.cause ++ leBytes 1 i.kind ++ leBytes 1 i.retries ++ leBytes 1 l.code
    ++ leBytes 4 i.loc ++ leBytes 2 i.frame ++ leBytes 2 0 ++ leBytes 8 rcbAddr
    ++ leBytes 4 i.lmask.toNat ++ leBytes 4 i.ldone.toNat ++ leBytes 8 l.clk.toNat
    ++ leBytes 4 s2.io.frqSeq.toNat ++ leBytes 1 (if l.answer then 1 else 0) ++ leBytes 11 0
  ({ s2 with io := { s2.io with frqSeq := s2.io.frqSeq + 1 } }).frqPush b

/-- Reports that the buffer on the IOD holds (R184). -/
def frqBuffer : Nat := 4096

/-- A report has no place: the buffer, through which it goes while reports wait in it, is full, or others wait
unreported before it (R184). -/
def State.frqFull (s : State) : Bool := !s.io.late.isEmpty || decide (frqBuffer ≤ s.io.frqWait.length)

/-- Makes a report of a fault of region `rgn` decided as `code` by `absorber`, with CLK as it stands; without a place
for it the record waits unreported (R183, R184). `answer` says that the host must answer with FRESUME. -/
def State.report (s : State) (rgn code absorber : Nat) (answer : Bool) (i : ReportInfo) : State :=
  let (clk, s0) := s.readClk (coreOf i.loc)
  let l : LateReport := ⟨rgn, code, absorber, answer, i, clk⟩
  if s0.frqFull then { s0 with io := { s0.io with late := s0.io.late ++ [l] } } else s0.reportNow l

/-- Moves waiting reports into the ring while it has room, and reports what has waited unreported, in order, as the
buffer has space (R184). -/
def State.frqDrain : Nat → State → State
  | 0, s => s
  | n + 1, s =>
    match s.io.frqWait with
    | [] => s
    | r :: rest =>
      if ringRoom s.reg.frq then
        let s1 := ({ s with io := { s.io with frqWait := rest } }).frqPut r.bytes
        State.frqDrain n (match s1.io.late with
          | [] => s1
          | l :: more => { s1 with io := { s1.io with late := more } }.reportNow l)
      else s

/-- Every waiting report that the ring has room for enters it. -/
def State.frqDrainAll (s : State) : State := State.frqDrain (s.io.frqWait.length + s.io.late.length) s

end Sys2Proof.Machine
end

