-- ==== Sys2Proof/Machine/Fold.lean ====
section
/-! DEFINITION. Asking the clearing engine for data (R51, R177), the folds of commutative ranges (R157 to
R159, R321), and what receiving lanes owe (R388, R411, R412). -/

namespace Sys2Proof.Machine

/-- The trouble of an access at an address, whose leaf has size code `sz` when it is not refused; none when it may
be performed. -/
def Acc.trouble {α : Type} (a : Acc α) (va : Dword) (sz : Nat) : Option Trouble :=
  match a with
  | .ok _ => none
  | .miss m => some (.miss va m sz)
  | .refuse c z => some (.refuse va c z)
  | .poison => some (.poison va sz)
  | .wait => some .wait

/-- Pieces of `n` bytes from `a` cut at 128-byte lines, as (offset, length). -/
def lineCuts (a n : Nat) : List (Nat × Nat) :=
  let room := 128 - a % 128
  if n ≤ room then [(0, n)]
  else (0, room) :: (List.range ((n - room + 127) / 128)).map fun i =>
    (room + i * 128, min 128 (n - room - i * 128))

/-! ### Folds of commutative ranges (R158) -/

/-- The physical home of a place. -/
def Mem.physOf (m : Mem) : PLoc → Phys
  | .vault a =>
    match Sparse.find m.frames (a / 4096) with
    | some f => if f.st = .pinned then .pinned a else .pool (f.gran * 4096 + a % 4096)
    | none => .pinned a
  | .host a => .host a
  | .peer a => .peer a

/-- The address part of a physical home. -/
def Phys.addr : Phys → Nat
  | .pool a => a
  | .pinned a => a
  | .host a => a
  | .peer a => a

/-- The same physical line. -/
def Phys.sameLine (p q : Phys) : Bool :=
  match p, q with
  | .pool a, .pool b => a / 128 == b / 128
  | .pinned a, .pinned b => a / 128 == b / 128
  | .host a, .host b => a / 128 == b / 128
  | .peer a, .peer b => a / 128 == b / 128
  | _, _ => false

/-- Bytes of an element of a format that ranges allow (R319). -/
def rangeWidth (fmt : Nat) : Nat :=
  match Fmt.ofCode fmt with
  | some (f, _) => f.width / 8
  | none => 4

/-- Combines two element values under a range's operation (R158): float sums round in RNE with the
canonical NaN, integers wrap. MIN and MAX of F32 act as VFMINNUM and VFMAXNUM do. -/
def rangeCombine (op : RangeOp) (fmt a b : Nat) : Nat :=
  match Fmt.ofCode fmt with
  | some (f, _) =>
    match f.float with
    | some ff =>
      let x := ff.read a
      let y := ff.read b
      match op with
      | .add => (f.round Rctx.plain false (Val.add Rctx.plain x y).1).1
      | _ =>
        if x.isNaN && y.isNaN then ff.canonicalNaN
        else if x.isNaN then b
        else if y.isNaN then a
        else
          let less := Val.cmp x y == .lt || (x.isZero && y.isZero && x.neg && !y.neg)
          match op with
          | .min => if less then a else b
          | _ => if less then b else a
    | none =>
      match op with
      | .add => (a + b) % 2 ^ f.width
      | _ =>
        let less := if f.signed then decide (signedOf f.width a < signedOf f.width b) else decide (a < b)
        match op with
        | .min => if less then a else b
        | _ => if less then b else a
  | none => a

/-- Combines a list of values, if there are any. -/
def rangeTotal (op : RangeOp) (fmt : Nat) : List Nat → Option Nat
  | [] => none
  | x :: rest => some (rest.foldl (rangeCombine op fmt) x)

/-- The sum of one element's partials in the order of R158: cores of a cluster ascending, clusters
of a die ascending, dies ascending. -/
def foldOrder (op : RangeOp) (fmt : Nat) (ps : List Partial) : Option Nat :=
  let core (c : Nat) : Option Nat := (ps.find? fun p => p.core = c).map fun p => p.bits
  let cluster (k : Nat) : Option Nat :=
    rangeTotal op fmt ((List.range 4).filterMap fun i => core (k * 4 + i))
  let die (d : Nat) : Option Nat :=
    rangeTotal op fmt ((List.range 12).filterMap fun i => cluster (d * 12 + i))
  rangeTotal op fmt ((List.range Config.dies).filterMap die)

/-- The same block of 64 bytes of physical memory. -/
def Phys.sameBlock (p q : Phys) : Bool := p.sameLine q && p.addr / 64 == q.addr / 64

/-- Two partials of one element of one range. -/
def Partial.mates (p q : Partial) : Bool := p.phys == q.phys && p.asid == q.asid && p.rid == q.rid

/-- One partial for each element that a list holds, or for each block. -/
def heads (same : Partial → Partial → Bool) : List Partial → List Partial
  | [] => []
  | p :: rest => if rest.any (same p) then heads same rest else p :: heads same rest

/-- Folds one element into its home value. `place` is where the element lies now. -/
def Mem.foldElement (m : Mem) (ps : List Partial) (place : PLoc) : Mem :=
  match ps with
  | [] => m
  | p :: _ =>
    match foldOrder p.op p.fmt ps with
    | none => m
    | some t =>
      let n := rangeWidth p.fmt
      let old := leNat (m.homeAt place n)
      m.homeWrite none place (leBytes n (rangeCombine p.op p.fmt old t))

/-- The block that holds a place. -/
def PLoc.block : PLoc → PLoc
  | .vault a => .vault (a / 64 * 64)
  | .host a => .host (a / 64 * 64)
  | .peer a => .peer (a / 64 * 64)

/-- Folds every partial of the block of a place (R158). The copies of its line are recalled first, so
that the fold follows the writes that it happens after (R159). -/
def Mem.foldAt (m : Mem) (p : PLoc) : Mem :=
  let home := m.physOf p
  let mine := m.partials.filter fun q => q.phys.sameBlock home
  if mine.isEmpty then m
  else
    let m1 := m.recallLine p.key
    let m2 := (heads Partial.mates mine).foldl
      (fun acc e => acc.foldElement (mine.filter e.mates) (p.block.offset (e.phys.addr % 64))) m1
    { m2 with partials := m2.partials.filter fun q => !q.phys.sameBlock home }

/-! ### Asking for data -/

/-- A fill request reaches the clearing engine, from a cluster unless the device itself asks (R51, R177): it joins a fill under way or the open
migration of its range and address space, or opens one. -/
def State.requestGranule (s : State) (clusters : List Nat) (asid : BitVec 16) (gran : Nat) (hs : Bool)
    (want : Nat) : State :=
  match findFrame s.mem.frames gran with
  | some (n, _) =>
    { s with mem := { s.mem with frames := Sparse.adjust s.mem.frames n fun f =>
        { f with want := f.want ||| BitVec.ofNat 64 want, predicted := false } } }
  | none =>
    let range := gran / 64
    if s.clr.migs.any fun g => g.range == range && g.asid == asid then
      { s with clr := { s.clr with migs := s.clr.migs.map fun g =>
          if g.range = range ∧ g.asid = asid then
            { g with
              grans := if g.grans.contains gran then g.grans else g.grans ++ [gran]
              predicted := g.predicted.erase gran
              hs := if hs && !g.hs.contains gran then g.hs ++ [gran] else g.hs
              clusters := (g.clusters ++ clusters).eraseDups
              want := Sparse.setZ g.want gran (Sparse.getZ g.want gran ||| BitVec.ofNat 64 want) }
          else g } }
    else
      { s with
        clr := { s.clr with migs := s.clr.migs ++ [{
          id := s.fresh, range := range, asid := asid, grans := [gran]
          want := Sparse.setZ [] gran (BitVec.ofNat 64 want), hs := if hs then [gran] else [], predicted := []
          clusters := clusters }] }
        fresh := s.fresh + 1 }

/-- Asks for what an access misses: a granule, or ownership of a block (R51, R60). -/
def State.requestFor (s : State) (clusters : List Nat) (asid : BitVec 16) : Missing → State
  | .granule g hs want => s.requestGranule clusters asid g hs want
  | .block b excl =>
    if s.clr.owns.any fun o => o.block == b && (o.excl || !excl) then s
    else { s with clr := { s.clr with owns := s.clr.owns ++ [⟨b, excl⟩] } }

/-- A cluster asks for what an access misses. -/
def State.requestMissing (s : State) (cluster : Nat) (asid : BitVec 16) (m : Missing) : State :=
  s.requestFor [cluster] asid m

/-! ### Folds of blocks (R321) -/

/-- Where a physical home lies now, for a fold: its place, or what stands in the way (R23, R58, R60, R321). `hs` is HS
of its page. -/
def State.placePhys (s : State) (p : Phys) (hs : Bool) : Acc PLoc × State :=
  match p with
  | .pinned a =>
    match Sparse.find s.mem.frames (a / 4096) with
    | none => (.refuse causeKind 0, s)
    | some f =>
      if f.st ≠ .pinned then (.refuse causeKind 0, s)
      else if bitOf f.poison (a / 64 % 64) then (.poison, s)
      else match heldByHost s.mem true [a / 64] with
        | [] => (.ok (.vault a), s)
        | l => (.wait, askHost s l)
  | .host a => (.ok (.host a), s)
  | .peer a => (.ok (.peer a), s)
  | .pool a =>
    match findFrame s.mem.frames (a / 4096) with
    | none => (.miss (.granule (a / 4096) hs (2 ^ (a / 64 % 64))), s)
    | some (n, f) =>
      if !f.present then (.miss (.granule (a / 4096) hs (2 ^ (a / 64 % 64))), s)
      else if bitOf f.poison (a / 64 % 64) then (.poison, s)
      else match (if f.hs then lackingBlock f true [a / 64] else none) with
        | some b => (.miss (.block b true), s)
        | none => (.ok (.vault (n * 4096 + a % 4096)), s)

/-- What stands in the way of the device's own access to a physical address, of a ring of records (R32, R47, R48, R51,
R96). -/
def State.physTrouble (s : State) (a : Nat) : Option Trouble :=
  let va := BitVec.ofNat 64 a
  if poolEntries s.reg a = [] then
    match Sparse.find s.mem.frames (a / 4096) with
    | none => some (.refuse va causeKind 0)
    | some f =>
      if f.st ≠ .pinned then some (.refuse va causeKind 0)
      else if bitOf f.poison (a / 64 % 64) then some (.poison va 0)
      else none
  else if (poolFabric s.reg a).isNone then some (.refuse va causeKind 0)
  else
    match findFrame s.mem.frames (a / 4096) with
    | none => some (.miss va (.granule (a / 4096) false 0) 0)
    | some (_, f) =>
      if !f.present then some (.miss va (.granule (a / 4096) false 0) 0)
      else if bitOf f.poison (a / 64 % 64) then some (.poison va 0)
      else none

/-- The partials of a block are given up. -/
def State.dropBlock (s : State) (p : Phys) : State :=
  { s with mem := { s.mem with partials := s.mem.partials.filter fun q => !q.phys.sameBlock p } }

/-- The size code of the leaf by which a partial's core found its element (R169). -/
def Partial.leafSz (q : Partial) (s : State) : Nat := s.leafSz (clusterOf q.core) q.asid q.va.toNat

/-- Folds the block of a partial, or says what stands in the way, at the address of a CRADD to it. Under the error
response a block that is refused or poisoned gives its partials up (R32). -/
def foldBlock (s : State) (err : Bool) (q : Partial) : Option Trouble × State :=
  match s.placePhys q.phys q.hs with
  | (.ok place, s1) => (none, { s1 with mem := s1.mem.foldAt place })
  | (.refuse c z, s1) => if err then (none, s1.dropBlock q.phys) else (some (.refuse q.va c z), s1)
  | (.poison, s1) => if err then (none, s1.dropBlock q.phys) else (some (.poison q.va (q.leafSz s1)), s1)
  | (.miss m, s1) => (some (.miss q.va m (q.leafSz s1)), s1)
  | (.wait, s1) => (some .wait, s1)

/-- Folds the blocks of partials until one cannot be folded. -/
def foldBlocks (s : State) (err : Bool) : List Partial → Option Trouble × State
  | [] => (none, s)
  | q :: rest =>
    match foldBlock s err q with
    | (none, s1) => foldBlocks s1 err rest
    | r => r

/-- One partial for each block of some lines that has any. -/
def Mem.heldIn (m : Mem) (lines : List Phys) : List Partial :=
  heads (fun p q => p.phys.sameBlock q.phys) (m.partials.filter fun q => lines.any q.phys.sameLine)

/-- One partial for each block in which any core holds partials of a range. -/
def rangeBlocks (m : Mem) (asid : BitVec 16) (rid : Nat) : List Partial :=
  heads (fun p q => p.phys.sameBlock q.phys) (m.partials.filter fun q => q.asid = asid ∧ q.rid = rid)

/-! ### What a lane owes -/

/-- The operation and format codes of a census's control word (R409). -/
def censusOp (ctl : Dword) : Nat := field ctl 48 4
def censusFmt (ctl : Dword) : Nat := field ctl 52 6

/-- Bytes of a census value. -/
def censusWidth (ctl : Dword) : Nat :=
  match Fmt.ofCode (censusFmt ctl) with
  | some (.s64, _) | some (.n64, _) => 8
  | _ => 4

/-- The identity of a census's operation (R412, R253). -/
def censusIdentity (ctl : Dword) : Nat :=
  let f := match Fmt.ofCode (censusFmt ctl) with
    | some (f, _) => f
    | none => .n32
  match censusOp ctl, f with
  | 1, .f32 => 0x7F800000
  | 2, .f32 => 0xFF800000
  | 1, f => f.encodeInt f.bounds.2
  | 2, f => f.encodeInt f.bounds.1
  | 3, _ => 2 ^ (8 * censusWidth ctl) - 1
  | _, _ => 0

/-- Changes a census. -/
def State.modCensus (s : State) (id : Nat) (g : Census → Census) : State :=
  { s with co := { s.co with censuses := s.co.censuses.map fun c => if c.id = id then g c else c } }

/-- A census by its number in the model. -/
def State.census (s : State) (id : Nat) : Option Census := s.co.censuses.find? fun c => c.id = id

/-- A value enters the reply slot of a directory entry (R412). -/
def State.deliver (s : State) (id ent : Nat) (val : Census → Nat) (noreply lost : Bool) : State :=
  s.modCensus id fun c =>
    { c with
      slots := c.slots.map fun x => if x.ent = ent ∧ x.val = none then { x with val := some (val c) } else x
      noreply := c.noreply || noreply, lost := c.lost || lost }

/-- The identity as a reply. -/
def Census.identity (c : Census) : Nat := censusIdentity c.ctl

/-- What a record owes is settled without its lane: a reply of the identity, a rejected test. -/
def State.settleOwed (s : State) (o : Owed) (noreply lost : Bool) : State :=
  match o with
  | .nothing => s
  | .reply c e => s.deliver c e Census.identity noreply lost
  | .test id => { s with co := { s.co with tests := s.co.tests.filter fun t => t.id ≠ id } }

/-- Lanes of a fibre end: replies they owe are the identity with NOREPLY (R412), undecided tests are
rejected (R388). -/
def State.endLanes (s : State) (loc : Nat) (lanes : List Nat) : State :=
  match s.fibre loc with
  | none => s
  | some f =>
    let s1 := lanes.foldl (fun acc i =>
      let acc1 := match Sparse.find f.owes i with
        | some (c, e) => acc.settleOwed (.reply c e) true false
        | none => acc
      match Sparse.find f.tests i with
      | some t => acc1.settleOwed (.test t) false false
      | none => acc1) s
    s1.modFibre loc fun f =>
      { f with
        owes := lanes.foldl Sparse.erase f.owes
        tests := lanes.foldl Sparse.erase f.tests }

end Sys2Proof.Machine
end

