-- ==== Sys2Proof/Machine/Kill.lean ====
section
/-! DEFINITION. Discarding work: removing operations and their records, killing fibres with their
slot mates (R187, R188), groups (R243) and region subtrees (R185, R211), task records in transit
(R226), and launches that leave the table (R221). -/

namespace Sys2Proof.Machine

/-! ### Operations -/

/-- Lowers the reference count of each listed frame (R51). -/
def Mem.unref (m : Mem) (l : List Nat) : Mem :=
  l.foldl (fun acc n => { acc with
    frames := Sparse.adjust acc.frames n fun f => { f with refs := f.refs - 1 } }) m

/-- Raises the reference count of each listed frame (R51). -/
def Mem.ref (m : Mem) (l : List Nat) : Mem :=
  l.foldl (fun acc n => { acc with
    frames := Sparse.adjust acc.frames n fun f => { f with refs := f.refs + 1 } }) m

/-- Removes an operation: its references, records, held place and pending writes go with it. -/
def State.removeOp (s : State) (id : Nat) : State :=
  match Sparse.find s.eng.ops id with
  | none => s
  | some o =>
    let s1 := s.dropPend o.loc id
    { s1 with
      mem := s1.mem.unref o.refs
      eng := { s1.eng with
        ops := Sparse.erase s1.eng.ops id
        recs := s1.eng.recs.filter fun e => e.2.op ≠ id
        held := s1.eng.held.filter fun h => h.op ≠ id } }

/-- Removes every operation that meets a test (R187, R243). -/
def State.removeOps (s : State) (p : Op → Bool) : State :=
  (s.eng.ops.filterMap fun e => if p e.2 then some e.1 else none).foldl
    (fun acc id => acc.removeOp id) s

/-- Operations on the chip and in save areas (R240). -/
def State.allOps (s : State) : List (Nat × Op) := s.eng.ops ++ s.sched.saves.flatMap (·.ops)

/-- An operation is not over. -/
def State.opLive (s : State) (id : Nat) : Bool := s.allOps.any fun e => e.1 == id

/-- A group is on the chip or in a save area. -/
def State.groupKnown (s : State) (id : Nat) : Bool :=
  (Sparse.find s.groups id).isSome || s.sched.saves.any fun v => v.groups.any fun e => e.1 == id

/-! ### Task records -/

/-- The launches of the table and of the save areas (R220, R240). -/
def State.allLaunches (s : State) : List (Nat × Launch) := s.sched.launches ++ s.sched.saves.flatMap (·.launches)

/-- The queue table that a region's live launches name (R219, R222). -/
def State.qtabOf (s : State) (rgn : Nat) : Option Nat :=
  (s.allLaunches.find? fun e => e.2.lrec.rnum = rgn ∧ e.2.lrec.qtab ≠ 0).map fun e =>
    e.2.lrec.qtab.toNat

/-- The live launch of a region that declares an entry for records of a grain (R204, R216). -/
def State.declaring (s : State) (rgn entry : Nat) (group : Bool) : Option (Nat × Launch × Decl) :=
  s.allLaunches.findSome? fun e =>
    if e.2.lrec.rnum = rgn then
      (e.2.lrec.decls.find? fun d => d.valid && d.group == group && d.entry == entry).map
        fun d => (e.1, e.2, d)
    else none

/-- Changes a launch-table entry, in the table or in the save area that holds it. -/
def State.modLaunch (s : State) (id : Nat) (g : Launch → Launch) : State :=
  { s with sched := { s.sched with
      launches := Sparse.adjust s.sched.launches id g
      saves := s.sched.saves.map fun v => { v with launches := Sparse.adjust v.launches id g } } }

/-- A launch of a region declares an entry for records of a grain (R216). -/
def Launch.declares (l : Launch) (rgn entry : Nat) (group : Bool) : Bool :=
  l.lrec.rnum == rgn && l.lrec.decls.any fun d => d.valid && d.group == group && d.entry == entry

/-- Changes every launch that declares an entry, in the table and in save areas. -/
def State.modDeclaring (s : State) (rgn entry : Nat) (group : Bool) (g : Launch → Launch) : State :=
  let change (l : Launch) : Launch := if l.declares rgn entry group then g l else l
  { s with sched := { s.sched with
      launches := s.sched.launches.map fun e => (e.1, change e.2)
      saves := s.sched.saves.map fun v => { v with launches := v.launches.map fun e => (e.1, change e.2) } } }

/-- One more record outstanding for the launches that declare its entry (R220). -/
def State.recordUp (s : State) (rgn entry : Nat) (group : Bool) : State :=
  s.modDeclaring rgn entry group fun l => { l with records := l.records + 1 }

/-- A record outstanding starts work or is discarded (R220). -/
def State.recordDown (s : State) (rgn entry : Nat) (group : Bool) : State :=
  s.modDeclaring rgn entry group fun l => { l with records := l.records - 1 }

/-- A record of a region is discarded: LOSS rises (R204, R208, R211). -/
def State.loseRecord (s : State) (rgn : Nat) : State :=
  s.modRcb rgn fun r => { r with loss := r.loss + 1 }

/-- ENTRY of a record's first 16 bytes (R204). -/
def recEntry (b : List Byte) : Nat := leNat (b.take 6)

/-- KEY of a record (R204). -/
def recKey (b : List Byte) : Nat := leNat ((b.drop 8).take 4)

/-- GRAIN of a record: group grain (R204). -/
def recGroup (b : List Byte) : Bool := leNat ((b.drop 6).take 1) % 2 == 1

/-- PRIO of a record (R204). -/
def recPrio (b : List Byte) : Nat := leNat ((b.drop 6).take 2) / 2 % 16

/-- Reserved bits [63:54] of a record (R204). -/
def recReserved (b : List Byte) : Nat := leNat ((b.drop 6).take 2) / 2 ^ 6

/-- The line of the vault at a physical address, where there is one. -/
def State.physLine (s : State) (p : Nat) : Option Nat :=
  match devPlace s p false with
  | .vault a => some (a / 128)
  | _ => none

/-- Writes a task record to its queue's return list, as a release of the core that had taken it (R136, R222, R223,
R226). -/
def State.returnRecord (s : State) (core rgn queue : Nat) (bytes : List Byte) : State :=
  match s.qtabOf rgn with
  | none => s
  | some q =>
    let d := q + 64 * queue
    let tail := physNat s (d + 32) 8
    let at0 := physNat s (d + 16) 8 + 64 * (tail % 2 ^ physNat s (d + 41) 1)
    let s1 := physWrite (physWrite s at0 bytes) (d + 32) (leBytes 8 (tail + 1))
    match s1.physLine at0 with
    | some line => { s1 with mem := { s1.mem with
        relWrites := Sparse.put s1.mem.relWrites line (core :: (Sparse.get [] s1.mem.relWrites line).erase core) } }
    | none => s1

/-- A receipt of a region that is killed, or of a core that is reset: its record returns to the
queue under RETRY and is otherwise lost (R226). -/
def State.dropReceipt (s : State) (r : Receipt) : State :=
  let s1 := { s with sched := { s.sched with receipts := s.sched.receipts.erase r } }
  if (s1.contain r.region).1 = 1 then s1.returnRecord r.core r.region r.queue r.bytes
  else (s1.recordDown r.region (recEntry r.bytes) true).loseRecord r.region

/-! ### Fibres and groups -/

/-- The locators of the placed fibres that meet a test. -/
def State.locsWhere (s : State) (p : Fibre → Bool) : List Nat :=
  s.fibres.filterMap fun e => if p e.2 then some e.1 else none

/-- Some member of a group is still in its position. -/
def State.groupAlive (s : State) (id : Nat) : Bool :=
  s.fibres.any fun e => e.2.group == id

/-- Censuses of groups that are gone: one that has been broadcast runs on to its end, and its value is
discarded; the others are over (R415). -/
def State.dropCensuses (s : State) : State :=
  let keep (c : Census) : Bool := s.groupKnown c.group || (c.serial.isSome && c.value.isNone)
  { s with co := { s.co with censuses := s.co.censuses.filter keep } }

/-- Takes a group off the chip: LIVE and its launch's count fall. Its scratch, barriers, handles and
copy context go with it (R77, R243, R323, R395), and so do its census handles (R415). -/
def State.dropGroup (s : State) (id : Nat) : State :=
  match Sparse.find s.groups id with
  | none => s
  | some g =>
    let s1 := { s with groups := Sparse.erase s.groups id }
    let s2 := s1.modRcb g.region fun r => { r with live := r.live - 1 }
    let s3 := s2.modLaunch g.launch fun l => { l with placed := l.placed - 1 }
    (s3.removeOps fun o => o.group == id).dropCensuses

/-- What the lanes of fibres owe is settled, and replies under way from them are identities with NOREPLY
(R388, R412); records that they have not enqueued are no longer outstanding (R220), and those of a CONT that is over go
on to the teller without them. -/
def State.settleLocs (s : State) (locs : List Nat) : State :=
  let s1 := locs.foldl (fun (acc : State) l => acc.endLanes l (List.range 32)) s
  let vals := s1.eng.ops.flatMap fun e =>
    match e.2.body with
    | .reply v => if locs.contains e.2.loc then v else []
    | _ => []
  let s2 := vals.foldl (fun (acc : State) v => acc.settleOwed (.reply v.1 v.2.1) true false) s1
  s2.eng.ops.foldl (fun (acc : State) e =>
    match e.2.body, s2.fibre e.2.loc with
    | .enq _ b, some f =>
      if locs.contains e.2.loc && !b.isEmpty then acc.recordDown f.region (recEntry b) true else acc
    | .tell core rgn recs, _ =>
      if locs.contains e.2.loc then
        { acc with sched := { acc.sched with tellIn := acc.sched.tellIn ++ [⟨core, rgn, [], recs, none⟩] } }
      else acc
    | _, _ => acc) s2

/-- A leave request has someone to go to. -/
def State.leaveStands (s : State) : LeaveFor → Bool
  | .fibre l => (Sparse.find s.fibres l).isSome
  | .transfer o => (Sparse.find s.eng.ops o).isSome
  | .stage g _ => (Sparse.find s.groups g).isSome

/-- The bank switch of a bank that is first now starts: operations that the one before it held are references to
it (R86). -/
def State.startSwitch (s : State) (bank : Nat) : State :=
  match s.mem.switches.find? fun w => w.bank = bank with
  | none => s
  | some w =>
    { s with
      mem := { s.mem with switches := { w with since := s.fresh } :: s.mem.switches.erase w }
      fresh := s.fresh + 1 }

/-- Bank switches are withdrawn before their step 4. A switch that waited behind one of them starts (R86, R87). -/
def State.dropSwitches (s : State) (gone : BankSwitch → Bool) : State :=
  let first (w : BankSwitch) : Bool := (s.mem.switches.find? fun x => x.bank = w.bank) == some w
  let heads := s.mem.switches.filter fun w => gone w && first w
  let s1 : State := { s with mem := { s.mem with switches := s.mem.switches.filter fun w => !gone w } }
  heads.foldl (fun (acc : State) w => acc.startSwitch w.bank) s1

/-- Leave requests, matrix batches and bank switches of fibres that are gone are withdrawn (R87, R237,
R355). -/
def State.dropWaits (s : State) : State :=
  let here (l : Nat) : Bool := (Sparse.find s.fibres l).isSome
  { s with
    co := { s.co with
      leaves := s.co.leaves.filter fun r => s.leaveStands r.who
      batches := s.co.batches.filter fun b => here b.loc } }.dropSwitches fun w => (w.loc.map here) == some false

/-- Empties fibre positions, whatever their fibres were doing, and the slots and groups left
without fibres (R187, R243). -/
def State.emptyLocs (s : State) (locs : List Nat) : State :=
  let s1 := (s.settleLocs locs).removeOps fun o => locs.contains o.loc
  let gone := s1.groups.filterMap fun e =>
    if s1.fibres.any fun f => f.2.group == e.1 && locs.contains f.1 then some e.1 else none
  let s2 := { s1 with fibres := s1.fibres.filter fun e => !locs.contains e.1 }
  let s3 := { s2 with slots := s2.slots.filter fun e => s2.fibres.any fun f => slotOf f.1 == e.1 }
  (gone.foldl (fun acc g => if acc.groupAlive g then acc else acc.dropGroup g) s3).dropWaits

/-- Kills fibres: every slot mate of a killed fibre is killed with it (R188). -/
def State.killLocs (s : State) (locs : List Nat) : State :=
  s.emptyLocs (s.fibres.filterMap fun e =>
    if locs.any fun l => slotOf l == slotOf e.1 then some e.1 else none)

/-! ### Regions -/

/-- The regions of a subtree: `top` and every region below it (R208). -/
def State.subtree (s : State) (top : Nat) : List Nat := s.allRegions.filter fun n => s.inSubtree top n

/-- Folds the blocks of a closing range that can be folded now, and asks for the granules of the others;
a range without partials left is removed. A poisoned block keeps its home's poison (R321, R322). -/
def State.settleRange (s : State) (r : CRange) : State :=
  let s1 := (rangeBlocks s.mem r.asid r.rid).foldl (fun (acc : State) q =>
    match foldBlock acc true q with
    | (some (.miss _ m _), s1) => s1.requestFor [] r.asid m
    | (_, s1) => s1) s
  if (rangeBlocks s1.mem r.asid r.rid).isEmpty then
    { s1 with mem := { s1.mem with ranges := s1.mem.ranges.filter fun x => x.asid ≠ r.asid ∨ x.rid ≠ r.rid } }
  else s1

/-- Ranges that close without a CRCLOSE: those of killed regions. -/
def State.settleRanges (s : State) : State :=
  let closes (r : CRange) : Bool := r.closing && !(s.eng.ops.any fun e =>
    match e.2.body with
    | .crclose rid => rid == r.rid && e.2.asid == r.asid
    | _ => false)
  (s.mem.ranges.filter closes).foldl (fun acc r => acc.settleRange r) s

/-- The continuation records of a region that are in the teller, on their way or in its overflow ring are
lost: LOSS counts them, and a reply they owe is the identity with LOST (R187, R211, R411). -/
def State.loseRecords (s : State) (rgn : Nat) : State :=
  let recs := (s.sched.bins.filter fun b => b.region = rgn).flatMap (·.records)
    ++ (s.sched.tellIn.filter fun t => t.region = rgn).flatMap (·.records)
  let marks := s.co.overflow.filter fun m => m.region = rgn
  let s1 := ((recs.map (·.owed)) ++ marks.map (·.owed)).foldl (fun (acc : State) o => acc.settleOwed o false true) s
  let s2 : State := { s1 with
    sched := { s1.sched with
      bins := s1.sched.bins.filter fun b => b.region ≠ rgn
      tellIn := s1.sched.tellIn.filter fun t => t.region ≠ rgn }
    co := { s1.co with overflow := s1.co.overflow.filter fun m => m.region ≠ rgn } }
  s2.modRcb rgn fun r => { r with loss := r.loss + recs.length + marks.length, covhead := r.covtail }

/-- A saved fibre is killed with a region: it is of the region, or a slot mate of one that is (R188). -/
def Save.dies (v : Save) (rgn loc : Nat) : Bool :=
  v.fibres.any fun e => e.2.region == rgn && slotOf e.1 == slotOf loc

/-- A saved group is gone with a region: it is of the region, or the region's kill leaves it no fibre. -/
def Save.ends (v : Save) (rgn id : Nat) (g : Group) : Bool :=
  g.region == rgn || !(v.fibres.any fun e => e.2.group == id && !v.dies rgn e.1)

/-- What save areas hold of a killed region, and of the slot mates of its fibres, is discarded; replies that its saved lanes owe are identities
with NOREPLY (R211, R412, R415). -/
def State.killSaved (s : State) (rgn : Nat) : State :=
  let gone := s.sched.saves.flatMap fun v => v.fibres.filter fun e => v.dies rgn e.1
  let owed := gone.flatMap fun e =>
    (e.2.owes.map fun x => Owed.reply x.2.1 x.2.2) ++ e.2.tests.map fun x => Owed.test x.2
  let s1 := owed.foldl (fun (acc : State) o => acc.settleOwed o true false) s
  let recs := ((s.sched.saves.flatMap (·.bins)).filter fun b => b.region = rgn).flatMap (·.records)
    ++ ((s.sched.saves.flatMap (·.tellIn)).filter fun t => t.region = rgn).flatMap (·.records)
    ++ (s.sched.saves.flatMap (·.ops)).flatMap fun e =>
      match e.2.body with
      | .tell _ r recs => if r = rgn then recs else []
      | _ => []
  let s2 := recs.foldl (fun (acc : State) r => acc.settleOwed r.owed false true) s1
  let s3 := ((s.sched.saves.flatMap (·.receipts)).filter fun r => r.region = rgn).foldl
    (fun acc r => acc.dropReceipt r) s2
  let keep (v : Save) : Save :=
    let fibres := v.fibres.filter fun e => !v.dies rgn e.1
    let groups := v.groups.filter fun e => !v.ends rgn e.1 e.2
    let ops := v.ops.filter fun e => groups.any fun g => g.1 == e.2.group
    { v with
      fibres := fibres, groups := groups, ops := ops
      slots := v.slots.filter fun e => fibres.any fun f => slotOf f.1 == e.1
      recs := v.recs.filter fun e => ops.any fun o => o.1 == e.2.op
      held := v.held.filter fun h => ops.any fun o => o.1 == h.op
      receipts := v.receipts.filter fun r => r.region ≠ rgn
      bins := v.bins.filter fun b => b.region ≠ rgn
      tellIn := v.tellIn.filter fun t => t.region ≠ rgn
      batches := v.batches.filter fun b => fibres.any fun f => f.1 == b.loc
      spills := v.spills.filter fun e => fibres.any fun f => f.1 == e.1 / 65536
      launches := v.launches.filter fun e => e.2.lrec.rnum ≠ rgn }
  let lost := s3.sched.saves.flatMap fun v => v.groups.filter fun e => v.ends rgn e.1 e.2
  let s4 := lost.foldl (fun (acc : State) e =>
    (acc.modRcb e.2.region fun r => { r with live := r.live - 1 }).modLaunch e.2.launch fun l =>
      { l with placed := l.placed - 1 }) s3
  (({ s4 with sched := { s4.sched with saves := s4.sched.saves.map keep } }).modRcb rgn fun r =>
    { r with loss := r.loss + recs.length }).dropCensuses

/-- Kills one region of a subtree: KILLED, launches off the table without DONE, receipts handled,
records in the teller lost, ranges folded, what a save area held of it discarded (R185, R187, R211, R221,
R226, R322). -/
def State.killOne (s : State) (rgn : Nat) : State :=
  let s1 := s.killLocs (s.locsWhere fun f => f.region == rgn)
  let s2 := (s1.sched.receipts.filter fun r => r.region == rgn).foldl
    (fun acc r => acc.dropReceipt r) s1
  let s3 := (s2.loseRecords rgn).killSaved rgn
  let s4 : State := { s3 with
    sched := { s3.sched with launches := s3.sched.launches.filter fun e => e.2.lrec.rnum ≠ rgn }
    mem := { s3.mem with ranges := s3.mem.ranges.map fun r => if r.region = rgn then { r with closing := true } else r } }
  s4.settleRanges.modRcb rgn fun r => { r with st := .killed }

/-- Kills a region and every region below it (R185, R187). -/
def State.killRegion (s : State) (top : Nat) : State :=
  (s.subtree top).foldl (fun acc g => acc.killOne g) s

/-- The device interfaces that meet a test go to ERROR, and their subtrees are killed (R458). -/
def State.ifaceError (s : State) (p : Iface → Bool) : State :=
  let hit (i : Iface) : Bool := i.st != .error && p i
  let moved := s.io.ifaces.map fun i => if hit i then { i with st := TdiState.error } else i
  let s1 : State := { s with io := { s.io with ifaces := moved } }
  (s.io.ifaces.filter hit).foldl (fun (acc : State) i => acc.killRegion i.region) s1

end Sys2Proof.Machine
end

