-- ==== Sys2Proof/Machine/Record.lean ====
section
/-! DEFINITION. What a replay record holds: its bytes in the replay area (R167, R169, R171, R373, R379), the nodes
in it, and the predictions from them (R179). -/

namespace Sys2Proof.Machine

/-- Changes an operation. -/
def State.modOp (s : State) (id : Nat) (g : Op → Op) : State :=
  { s with eng := { s.eng with ops := Sparse.adjust s.eng.ops id g } }

/-- The frame of an operation's record, with the record. -/
def State.recordOf (s : State) (id : Nat) : Option (Nat × Record) := s.eng.recs.find? fun e => e.2.op == id

/-- Who performs an operation's accesses. -/
def Op.who (o : Op) : Who := ⟨coreOf o.loc, o.asid, o.priv⟩

/-! ### Nodes and beams (R357 to R361, R374) -/

/-- A field of a node, by byte offset and bytes. -/
def ndF (v o n : Nat) : Nat := v / 2 ^ (8 * o) % 2 ^ (8 * n)

/-- KIND of a child pointer. -/
def ptrKind (p : Nat) : Nat := p % 4

/-- A reserved bit of a child pointer is set. -/
def ptrBad (p : Nat) : Bool := p / 2 ^ 57 != 0 || p / 4 % 16 != 0

/-- The address of the node that a pointer names. -/
def ptrAddr (p : Nat) : Nat := ((BitVec.ofNat 57 (p / 64 * 64)).signExtend 64).toNat

/-- The base of the structure window of a root (R357). -/
def windowBase (p : Nat) : Nat := ptrAddr p / 2 ^ 38 * 2 ^ 38

/-- Bytes of a node. -/
def nodeSize (kind : Nat) : Nat := if kind = 1 then 128 else 64

def boxChild (v c : Nat) : Nat := ndF v (64 + 8 * c) 8

def instChild (v : Nat) : Nat := ndF v 48 8

/-- The address of a node. -/
def NodeRef.addr (base : Nat) (n : NodeRef) : Nat := base + n.idx * 64

/-- A field of a beam query record. -/
def bmF (q : List Byte) (o n : Nat) : Nat := leNat ((q.drop o).take n)

def bmRoot (q : List Byte) : Nat := bmF q 64 8

/-- The lanes of a query that have not stopped. -/
def RayOp.running (q : RayOp) : List (Nat × RayLane) := q.lanes.filter fun e => e.2.outcome.isNone

/-! ### The bytes of a record (R169, R171) -/

/-- Units of 64 bytes for one value of each lane. -/
def laneUnits (nb : Nat) : Nat := (32 * nb + 63) / 64

/-- BODYLEN (R171, R373, R379). -/
def Op.bodyLen (o : Op) : Nat :=
  match o.body with
  | .load _ nb _ _ _ _ | .store nb _ _ _ _ => 4 + laneUnits nb
  | .ldt _ _ _ | .stt _ _ _ => 4 + laneUnits 4
  | .atom _ _ _ _ _ _ _ _ _ | .cradd _ _ _ _ => 12
  | .tex _ => 22
  | .ray q => if q.cone then 56 else 52
  | .beam _ => 4
  | .rast _ | .frame _ _ _ _ => 3
  | .copy _ _ _ _ _ _ | .schedRead _ => 0
  | .matrix _ | .solicit _ | .tell _ _ _ => 1
  | .enq _ _ => 5
  | _ => 4

/-- `n` bytes for each lane. -/
def laneWords (n : Nat) (val : Nat → Nat) : List Byte := (List.range 32).flatMap fun i => leBytes n (val i)

/-- Three-bit fields of a trail (R366). -/
def packTrail (l : List Nat) : Nat := ((List.range l.length).map fun i => l.getD i 0 % 8 * 2 ^ (3 * i)).sum

/-- Values as one number. -/
def packed (l : List Nat) : Nat := l.foldr (fun x acc => x % 2 ^ 64 + 2 ^ 64 * acc) 0

/-- Bytes whose contents the specification gives and whose order it does not (DESIGN CHOICE, log 18). -/
def laidOut (structure0 n : Nat) (contents : List Nat) : List Byte :=
  (List.range n).map (Config.layoutByte structure0 (packed contents))

/-- The 104-byte state of a lane (R373). A lane without a hit shows the words of a miss (DESIGN CHOICE, log 18). -/
def RayLane.bytes (x : RayLane) : List Byte :=
  let ones : Word := BitVec.allOnes 32
  let hit := x.hit.getD ⟨0, 0, 0, ones, ones⟩
  let nodes := x.stack.reverse
  let ctl := x.mask % 256 + x.flags % 8 * 2 ^ 8 + ((x.inst.map (·.1)).getD 15) % 16 * 2 ^ 12
    + nodes.length % 16 * 2 ^ 16 + (if x.drop then 2 ^ 20 else 0) + x.lpos / 2 % 8 * 2 ^ 21
    + (x.outcome.getD 0) % 16 * 2 ^ 24
  ((List.range 6).flatMap fun i => leBytes 4 (x.world.getD i 0).toNat) ++ leBytes 4 x.tmin.toNat
    ++ leBytes 4 x.tmax.toNat ++ leBytes 4 hit.prim.toNat ++ leBytes 4 hit.inst.toNat ++ leBytes 4 hit.u.toNat
    ++ leBytes 4 hit.v.toNat ++ leBytes 6 (packTrail x.trail) ++ leBytes 4 ctl
    ++ leBytes 4 (if x.inst.isSome then x.instNode else 0xFFFFFFFF)
    ++ ((List.range 8).flatMap fun i => leBytes 4 ((nodes[i]?).elim 0 fun n => n.idx))
    ++ leBytes 1 ((if x.trailUsed then 1 else 0) + (if x.repush then 2 else 0)) ++ leBytes 1 0
    ++ leBytes 6 (packTrail x.follow) ++ leBytes 2 0

/-- The beam's sub-state: the top of its stack, its depth with what it has dropped, the records emitted, the rank reached
(R379). -/
def BeamOp.subState (b : BeamOp) : List Nat :=
  (List.range 8).map (fun i => (b.stack[i]?).elim 0 (·.idx)) ++ [(b.pend.map List.length).sum, b.emitted, b.lpos]

/-- The lowest lane that is not done. -/
def Op.firstLane (o : Op) : Nat := (lanesOf (o.lmask &&& ~~~o.ldone)).headD 0

/-- The 64-bit halves of a 128-bit access that are done, the upper halves from bit 32 (R171; log 18). -/
def Op.halvesDone (o : Op) : Nat :=
  ((List.range 64).map fun i => if (Sparse.find o.results i).isSome then 2 ^ i else 0).sum

/-- The vertices of a primitive: the first nine words of a lane (R385). -/
def OpBody.prim (b : OpBody) (i : Nat) : List Nat :=
  match b with
  | .rast (.tri _ ins) => (ins.getD i []).map (·.toNat)
  | _ => []

/-- The primitive identifier of a lane of a raster instruction. -/
def RastOp.primId (r : RastOp) (i : Nat) : Nat :=
  match r with
  | .tri _ ins => ((ins.getD i []).getD 9 0).toNat + ((ins.getD i []).getD 10 0).toNat * 2 ^ 32
  | .test _ ts => (ts.find? fun e => e.1 == i).elim 0 fun e => e.2.prim.toNat
  | .clear _ => 0

/-- The lane that a record would have in the fibre that its bin forms (R171). -/
def State.tellerLane (s : State) (core rgn : Nat) (r : ContRec) : Nat :=
  (s.sched.bins.find? fun b => b.core == core && b.region == rgn && b.entry == recEntry r.bytes &&
    b.key == recKey r.bytes && decide (b.records.length < 32) && !b.again).elim 0 fun b => b.records.length

/-- The body of a record (R171) of an access at `va`. An access that is not of a lane has its address in lane 0's place,
and CRADD its range identifier in that of a compare value; operands and compare values take turns lane by lane, and a
sampler's inputs stand in the order of the instruction's operands, with zeros after them (DESIGN CHOICE, log 18). -/
def Op.bodyBytes (o : Op) (va : Dword) : List Byte :=
  let part (i : Nat) : Nat := (Sparse.get [] o.results i).headD 0
  let res (i : Nat) : Nat := part i + part (i + 32) * 2 ^ 64
  let addrs (l : List Dword) : List Byte := laneWords 8 fun i => (l.getD i 0).toNat
  let line (a : Dword) : List Byte := laneWords 8 fun i => (a + BitVec.ofNat 64 (4 * i)).toNat
  let pairs (b c : List Nat) : List Byte :=
    (List.range 32).flatMap fun i => leBytes 8 (b.getD i 0) ++ leBytes 8 (c.getD i 0)
  match o.body with
  | .load _ nb _ _ a _ => addrs a ++ laneWords nb res
  | .store nb _ a d _ => addrs a ++ laneWords nb fun i => d.getD i 0
  | .ldt _ _ a => line a ++ laneWords 4 fun i => (Sparse.get [] o.results 0).getD i 0
  | .stt a d _ => line a ++ laneWords 4 fun i => d.getD i 0
  | .tagset a _ | .tagget _ a | .hcall a | .launch a _ => addrs [a]
  | .fetch a => addrs [a.setWidth 64]
  | .enq _ record => addrs [va] ++ record
  | .atom _ _ _ _ _ a b c _ => addrs a ++ pairs b c
  | .cradd a b r _ => addrs a ++ pairs b r
  | .tex t =>
    ((List.range 32).flatMap fun i => (List.range 7).flatMap fun k => leBytes 4 ((t.ins.getD i []).getD k 0).toNat) ++
      (List.range 32).flatMap fun i => (List.range 4).flatMap fun k => leBytes 4 ((Sparse.get [] o.results i).getD k 0)
  | .ray q =>
    ((List.range 32).flatMap fun i => ((Sparse.find q.lanes i).map RayLane.bytes).getD (leBytes 104 0)) ++
      (if q.cone then (List.range 32).flatMap fun i =>
        let (w0, sp) := ((Sparse.find q.lanes i).bind (·.cone)).getD (0, 0)
        leBytes 4 w0.toNat ++ leBytes 4 sp.toNat
      else [])
  | .beam b => b.query.getD (leBytes 128 0) ++ laidOut 2 128 b.subState
  | .rast _ => laidOut 3 192 (o.body.prim o.firstLane)
  | .matrix c => leBytes 8 c.a0.toNat ++ leBytes 8 c.a1.toNat ++ leBytes 8 c.b0.toNat ++ leBytes 8 c.b1.toNat ++ leBytes 32 0
  | .solicit _ => (List.range 64).map fun i => BitVec.ofNat 8 ((Sparse.get [] o.results 0).getD i 0)
  | .tell _ _ recs => (recs.headD ⟨leBytes 64 0, .nothing⟩).bytes
  | .copy _ _ _ _ _ _ | .schedRead _ => []
  | _ => addrs [va]

/-- What the cursor of an operation holds (R171). -/
def Op.cursor (s : State) (id : Nat) (o : Op) : List Nat :=
  let i := o.firstLane
  match o.body with
  | .load _ 16 _ _ _ _ | .store 16 _ _ _ _ => [field o.iword 19 7, o.halvesDone]
  | .move _ _ _ moved => [field o.iword 19 7, moved]
  | .tex t => t.desc.toNat :: o.pos
  | .ray q =>
    (match (Sparse.find q.lanes i).map fun l => (l.stack.headD l.root, l.outcome) with
    | some (n, out) => [(n.addr q.base), n.level, out.getD 0]
    | none => [0, 0, 0])
  | .beam b => [(b.cur.elim 0 (·.idx)), (b.cur.elim 0 (·.level)), if b.spill then 1 else 0]
  | .rast r => r.primId i :: o.pos
  | .copy ent idx _ _ _ _ =>
    [idx, o.pos.headD 0, ent / 2 ^ 228 % 64, (Sparse.find s.groups o.group).elim 0 (·.stage)]
  | .schedRead idx => [idx, 0, 0, (Sparse.find s.groups o.group).elim 0 (·.stage)]
  | .matrix c => [((s.co.batches.find? fun b => b.ops.contains id).elim 0 (·.num)), o.pos.headD 0, c.tile, c.span]
  | .solicit c => (Sparse.get [] o.results 1) ++ [((s.co.censuses.find? fun x => x.id = c).elim 0 (·.handle))]
  | .tell core rgn recs => [(recs.head?).elim 0 (fun r => recKey r.bytes), s.tellerLane core rgn (recs.headD ⟨[], .nothing⟩)]
  | _ => [field o.iword 19 7, o.ldone.toNat]

/-- The 4,096 bytes of a record frame: header, cursor and body (R169, R171). -/
def recordBytes (s : State) (o : Op) (r : Record) : List Byte :=
  let head := leBytes 1 o.unit ++ leBytes 1 r.kind ++ leBytes 2 o.bodyLen ++ leBytes 4 o.loc ++ leBytes 8 r.va.toNat
    ++ leBytes 1 r.sz ++ leBytes 1 r.akind ++ leBytes 1 r.cause ++ leBytes 1 o.retries ++ leBytes 2 o.asid.toNat
    ++ leBytes 2 0 ++ leBytes 4 o.lmask.toNat ++ leBytes 4 o.ldone.toNat ++ leBytes 4 o.iword.toNat
    ++ leBytes 4 o.mode.toNat ++ leBytes 8 o.opa.toNat ++ leBytes 8 o.opb.toNat ++ leBytes 6 o.pc.toNat ++ leBytes 1 0
    ++ leBytes 1 (if o.cede then 128 else 0)
  let all := head ++ laidOut (16 + o.unit) 64 (o.cursor s r.op) ++ o.bodyBytes r.va
  all ++ List.replicate (4096 - all.length) 0

/-! ### The replay area (R167) -/

/-- The record in a frame of a fibre, and its operation. -/
def State.recordAt (s : State) (key : Nat) : Option (Op × Record) :=
  match Sparse.find s.eng.recs key with
  | some r => (Sparse.find s.eng.ops r.op).map fun o => (o, r)
  | none => none

/-- The vault address of a record frame: PINNED, in a replay area that is valid (R167). -/
def State.frameAddr (s : State) (key : Nat) : Option Nat :=
  let a := field s.reg.rplbase 21 16 * 2 ^ 21 + key / 512 * 2 ^ 21 + key % 512 * 4096
  if bitOf s.reg.rplbase 0 && ((Sparse.find s.mem.frames (a / 4096)).map fun f => f.st == .pinned).getD false then some a
  else none

/-- The record in a frame is written to the replay area; what a host holds of it, once the host has given it up (R58,
R167). -/
def State.writeFrame (s : State) (key : Nat) : State :=
  match s.recordAt key, s.frameAddr key with
  | some (o, r), some a => { s with mem := s.mem.devWrites a (recordBytes s o r) }
  | _, _ => s

/-- The bytes of a record frame as RPLREAD finds them: those in the replay area. In an area whose frames are not
PINNED, which R167 rules out, they are those that the record would have (log 18). -/
def State.frameBytes (s : State) (key : Nat) (o : Op) (r : Record) : List Byte :=
  match s.frameAddr key with
  | some a => (List.range 4096).map fun i => s.mem.devByte (a + i)
  | none => recordBytes s o r

/-! ### Topology prediction (R179) -/

/-- A pool byte under a leaf that the core's cluster has cached: its pool address, HS and ASH (R17, R179).
Nothing is walked. -/
def State.cachedPool (s : State) (w : Who) (va : Nat) : Option (Nat × Bool × Bool) :=
  match s.xl.tlb.find? fun e => e.serves (clusterOf w.core) w.asid va with
  | some e =>
    if pteKind e.pte = 0 then some (pteAddr e.pte + va % 2 ^ e.log2, bitOf e.pte 56, bitOf e.pte 55) else none
  | none => none

/-- The child pointers of a node that is present, without any access. -/
def State.peekKids (s : State) (w : Who) (base : Nat) (n : NodeRef) : List Nat :=
  match s.cachedPool w (n.addr base) with
  | some (p, _, _) =>
    (match findFrame s.mem.frames (p / 4096) with
    | some (k, f) =>
      if f.present then
        let v := leNat (readBytes s.mem.vault (k * 4096 + p % 4096) (nodeSize n.kind))
        match n.kind with
        | 1 => (List.range 8).map (boxChild v)
        | 2 => [instChild v]
        | _ => []
      else []
    | none => [])
  | none => []

/-- A predicted granule joins the migration of its range, or opens one (R179). -/
def State.predictGranule (s : State) (asid : BitVec 16) (gran : Nat) (hs : Bool) : State :=
  let here (g : Migration) : Bool := g.range == gran / 64 && g.asid == asid
  if s.clr.migs.any here then
    let migs := s.clr.migs.map fun g =>
      if here g then { g with predicted := g.predicted ++ [gran], hs := if hs then gran :: g.hs else g.hs } else g
    { s with clr := { s.clr with migs := migs } }
  else
    let g : Migration := ⟨s.fresh, gran / 64, asid, [], [], if hs then [gran] else [], [gran], []⟩
    { s with clr := { s.clr with migs := s.clr.migs ++ [g] }, fresh := s.fresh + 1 }

/-- The granule is on its way. -/
def State.coming (s : State) (asid : BitVec 16) (gran : Nat) : Bool :=
  s.clr.migs.any fun g => g.asid == asid && (g.grans.contains gran || g.predicted.contains gran)

/-- Predicts the granules of child nodes, at most `n` of them; answers how many. -/
def State.predictKids (s : State) (w : Who) : Nat → List Nat → Nat × State
  | _, [] => (0, s)
  | n, p :: rest =>
    if n = 0 then (0, s)
    else if ptrBad p ∨ ptrKind p = 0 then s.predictKids w n rest
    else match s.cachedPool w (ptrAddr p) with
      | some (a, hs, true) =>
        if (findFrame s.mem.frames (a / 4096)).isSome || s.coming w.asid (a / 4096) then s.predictKids w n rest
        else
          let (k, s1) := (s.predictGranule w.asid (a / 4096) hs).predictKids w (n - 1) rest
          (k + 1, s1)
      | _ => s.predictKids w n rest

/-- The nodes in the record of a query or a beam: what its lanes are at, came from, and hold. -/
def OpBody.nodes : OpBody → Nat × List NodeRef
  | .ray q => (q.base, q.running.flatMap fun e => e.2.parent.toList ++ e.2.cur.toList ++ e.2.stack)
  | .beam b =>
    (match b.query with
    | some q => (windowBase (bmRoot q), b.cur.toList ++ b.stack)
    | none => (0, []))
  | _ => (0, [])

/-- Predictions count for their operation, wherever it is. -/
def State.countPreds (s : State) (id n : Nat) : State :=
  let count (l : Sparse Op) : Sparse Op := Sparse.adjust l id fun o => { o with preds := o.preds + n }
  { s with
    eng := { s.eng with ops := count s.eng.ops }
    sched := { s.sched with saves := s.sched.saves.map fun v => { v with ops := count v.ops } } }

/-- Topology prediction from some nodes of the record of an operation, up to PRED granules in all (R176, R179). -/
def State.predict (s : State) (o : Op) (r : Record) (among : NodeRef → Nat → Bool) : State :=
  let ash := ((s.cachedPool o.who r.va.toNat).map fun x => x.2.2).getD false
  if r.running = true ∨ ash = false ∨ bitOf s.reg.clrctl 2 = true then s
  else
    let (base, nodes) := o.body.nodes
    let kids := (nodes.filter fun n => among n base).flatMap (s.peekKids o.who base)
    let (n, s1) := s.predictKids o.who (field s.reg.clrctl 8 8 - o.preds) kids
    s1.countPreds r.op n

/-- Topology prediction for the records of some operations, on the chip or saved. -/
def State.predictAll (s : State) (ops : Sparse Op) (recs : List Record) (among : Op → NodeRef → Nat → Bool) : State :=
  recs.foldl (fun acc r =>
    match Sparse.find ops r.op with
    | some o => acc.predict o r (among o)
    | none => acc) s

end Sys2Proof.Machine
end

