-- ==== Sys2Proof/Machine/Ops.lean ====
section
/-! DEFINITION. What every instruction is built from: issuing and completing (R192, R194, R244),
taking a trap and returning from one (R424 to R428), asking the clearing engine for data (R51, R177),
writing a replay record and parking (R165 to R175, R185), and creating operations (R148). -/

namespace Sys2Proof.Machine

/-- What a step answers. -/
abbrev Out := Host.Outcome State Fault Refusal

/-! ### Issue -/

/-- The address of the instruction in issue: behind the prefix when it carries CEDE (R244). -/
def Fibre.own (f : Fibre) : BitVec 48 := if f.cede then f.pc + 4 else f.pc

/-- The address after the instruction in issue. -/
def Fibre.nextPc (f : Fibre) : BitVec 48 := f.own + 4

/-- The target of a branch by a signed word offset from the next instruction (R246, R270). -/
def Fibre.target (f : Fibre) (off : BitVec 48) : BitVec 48 := f.nextPc + off * 4

/-- A STALLED fibre whose instruction issues is CURRENT again (R192). -/
def Fibre.unstall (f : Fibre) : Fibre :=
  match f.st with
  | .stalled => { f with st := .current }
  | _ => f

/-- The fibre's instruction issues: ISSUED counts it, a CEDE pair once (R280), the program counter
goes to `pc`, a STALLED fibre is CURRENT again (R192), and the clock counts for its regions
(R230). -/
def State.retireTo (s : State) (pc : BitVec 48) : State :=
  match s.fibre s.cur with
  | none => s
  | some f =>
    (s.setFibre s.cur { f.unstall with
      pc := pc, cede := false, issued := f.issued + 1 }).countClock f.region

/-- The instruction issues and the fibre goes on behind it. -/
def State.retire (s : State) : State :=
  match s.fibre s.cur with
  | none => s
  | some f => s.retireTo f.nextPc

/-- The instruction cannot issue (R194): without CEDE the fibre is STALLED with the slot kept; with
CEDE it is READY with its program counter on the prefix. Nothing else changes. -/
def State.stall (s : State) : State :=
  s.modFibre s.cur fun f =>
    match f.st with
    | .current | .stalled | .ready =>
      if f.cede then { f with st := .ready, cede := false } else { f with st := .stalled }
    | _ => f

/-- Runs a body with the fibre that issues. -/
def withFibre (s : State) (body : Fibre → State) : Out :=
  match s.fibre s.cur with
  | none => .fault .noFibre
  | some f => .next (body f)

/-- Makes a debug stop of a fibre: between instructions, so that no pair is under way (R429). -/
def Fibre.stop (f : Fibre) : Fibre :=
  { f with
    debugger := ⟨true, 0, false⟩
    cede := false
    st := match f.st with
      | .current | .stalled => .ready
      | st => st }

/-! ### Traps -/

/-- Trap codes (R422). -/
def trapILL : Nat := 0x01
def trapWINOVF : Nat := 0x02
def trapCTLDEEP : Nat := 0x03
def trapCTLMIS : Nat := 0x04
def trapBADPC : Nat := 0x05
def trapALIGN : Nat := 0x06
def trapFPE : Nat := 0x07
def trapTASKQ : Nat := 0x08
def trapUSER : Nat := 0x09
def trapBREAK : Nat := 0x0A

/-- A trap: code, INFO, immediate and lanes of the trap frame (R425). -/
structure Trap where
  code : Nat
  info : Nat
  imm : Nat
  lanes : Word
  deriving DecidableEq, Repr

/-- An ILL with the number of the check of R251 that failed. -/
def illTrap (check : Nat) : Trap := ⟨trapILL, check, 0, 0⟩

/-- A trap without further information. -/
def plainTrap (code : Nat) : Trap := ⟨code, 0, 0, 0⟩

/-- The trap's frame holds the address after the instruction: USER and BREAK (R422). -/
def Trap.resumesAfter (t : Trap) : Bool := t.code == trapUSER || t.code == trapBREAK

/-- The address of the trap vector entry of an address space (R424). -/
def State.vectorAt (s : State) (asid : BitVec 16) : Nat := field s.reg.tvbase 19 33 * 2 ^ 19 + 8 * asid.toNat

/-- The blocks of a fibre's trap vector entry that a host may have changed: its trap waits for the host (R58, R424). -/
def State.vectorHeld (s : State) (f : Fibre) : List Nat :=
  if bitOf s.reg.tvbase 0 && !f.inHandler then s.heldAt [(s.vectorAt f.asid, 8)] else []

/-- The trap vector entry of an address space, when the table is valid (R424). -/
def State.trapEntry (s : State) (asid : BitVec 16) : Option Nat :=
  if bitOf s.reg.tvbase 0 then
    let e := physNat s (s.vectorAt asid) 8
    if e / 2 ^ 63 % 2 = 1 ∧ e / 2 ^ 58 % 2 ^ 5 = 0 ∧ e % 4 = 0 then some e else none
  else none

/-- The handler's address when a trap is handled (R424). -/
def State.handlerFor (s : State) (f : Fibre) (code : Nat) : Option (BitVec 48) :=
  if f.inHandler then none
  else match s.trapEntry f.asid with
    | some e =>
      if e / 2 ^ (47 + code) % 2 = 1 then some (BitVec.ofNat 48 (e % 2 ^ 48)) else none
    | none => none

/-- Entry into a handler: one indivisible step of the fibre (R425). -/
def Fibre.enterHandler (f : Fibre) (word : Word) (handler : BitVec 48) (t : Trap) : Fibre :=
  let resume := if t.resumesAfter then f.nextPc else f.pc
  let f1 := { f.unstall with
    hidden := ⟨f.s 60, f.s 61, f.s 62, f.s 63, f.mode, f.cf⟩
    mode := 0x27, inHandler := true, pc := handler, cede := false }
  (((f1.setS 60 (resume.setWidth 64)).setS 61
      (BitVec.ofNat 64 (t.code + t.info * 2 ^ 8 + t.imm * 2 ^ 16 + t.lanes.toNat * 2 ^ 32))).setS 62
      (BitVec.ofNat 64 (word.toNat + f.mode.toNat * 2 ^ 32))).setS 63
      (BitVec.ofNat 64 (f.exec.toNat + f.cf.toNat * 2 ^ 32 + (if f.cede then 2 ^ 35 else 0)))

/-- Parks a fibre: READY, CURRENT and STALLED become PARKED (R192). -/
def Fibre.park (f : Fibre) : Fibre :=
  match f.st with
  | .ready | .current | .stalled => { f with st := .parked, cede := false }
  | _ => f

/-- An unhandled trap (R428): the fibre parks on the instruction without a record, a trap report is
made, and the containment policy decides. One that goes on under IGNORE has given up CURRENT (R194). -/
def State.unhandledTrap (s : State) (loc : Nat) (f : Fibre) (t : Trap) : State :=
  let (policy, absorber) := s.contain f.region
  let s1 := s.report f.region policy absorber (policy == 1)
    ⟨f.pc.setWidth 64, f.asid, 0, 0, t.code, 5, 0, loc, 0xFFFF, t.lanes, 0⟩
  match policy with
  | 0 => s1.modFibre loc fun f =>
      { f with
        pc := f.nextPc, cede := false
        st := match f.st with
          | .current | .stalled => .ready
          | st => st }
  | 1 => s1.modFibre loc fun f =>
      { f.park with trapWait := some ⟨f.nextPc, absorber⟩, cede := false }
  | _ => s1.killRegion absorber

/-- Takes a trap of the fibre in issue (R422 to R428): into its handler when the trap is handled,
else by the containment policy. The instruction has no effect. A trap whose vector entry a host holds waits for the
host (R58). -/
def State.takeTrap (s : State) (t : Trap) : State :=
  match s.fibre s.cur with
  | none => s
  | some f =>
    match s.vectorHeld f with
    | b :: bs => (askHost s (b :: bs)).stall
    | [] =>
      match s.handlerFor f t.code with
      | some h => s.setFibre s.cur (f.enterHandler s.iword h t)
      | none => s.unhandledTrap s.cur f t

/-- The return from a handler (R426): the fibre after TRET. -/
def Fibre.leaveHandler (f : Fibre) : Fibre :=
  let f1 := { f with
    exec := (f.s 63).setWidth 32 &&& f.exec
    mode := f.hidden.mode, cf := f.hidden.cf, inHandler := false }
  (((f1.setS 60 f.hidden.s60).setS 61 f.hidden.s61).setS 62 f.hidden.s62).setS 63 f.hidden.s63

/-! ### Outcomes of an instruction -/

/-- How an instruction of a fibre ends. -/
inductive Act where
  /-- It issues; the state holds its effect, and the fibre goes on behind it. -/
  | done (s : State)
  /-- It issues and the fibre goes on at an address. -/
  | jump (s : State) (pc : BitVec 48)
  /-- It issues and the state already says where the fibre goes on. -/
  | moved (s : State)
  /-- It cannot issue (R194). -/
  | stall
  /-- It cannot issue, but the wait itself has an effect (a drain sent, an arrival made). -/
  | stallWith (s : State)
  /-- It traps before any effect (R422). -/
  | trap (t : Trap)
  deriving DecidableEq, Repr

/-- The state after an instruction. -/
def Act.finish (s : State) : Act → State
  | .done s' => s'.retire
  | .jump s' pc => s'.retireTo pc
  | .moved s' => s'
  | .stall => s.stall
  | .stallWith s' => s'.stall
  | .trap t => s.takeTrap t

/-- Runs an instruction of the fibre that issues. -/
def runFibre (s : State) (body : Fibre → Act) : Out :=
  withFibre s fun f => (body f).finish s

/-- An instruction whose registers have a pending write cannot issue (R194, R200). -/
def guardBusy (s : State) (l : List Res) (a : Act) : Act := if s.busy s.cur l then .stall else a

/-! ### Records -/

/-- The replay kind of a trouble; 0 for a wait (R165). -/
def Trouble.kind : Trouble → Nat
  | .miss _ _ _ => 1
  | .refuse _ c _ => causeKindOf c
  | .poison _ _ => 4
  | .wait => 0

/-- The cause of a trouble; 0 for kinds 1 and 4 (R169). -/
def Trouble.cause : Trouble → Nat
  | .refuse _ c _ => c
  | _ => 0

/-- The faulting address. -/
def Trouble.va : Trouble → Dword
  | .miss a _ _ => a
  | .refuse a _ _ => a
  | .poison a _ => a
  | .wait => 0

/-- The size code of the leaf, when one was found. -/
def Trouble.sz : Trouble → Nat
  | .miss _ _ z => z
  | .refuse _ _ z => z
  | .poison _ z => z
  | .wait => 0

/-- How the outcomes of one operation's lanes combine (R166): the highest kind, among its lanes the
lowest cause, and of those the lowest-numbered lane. The list is in lane order. -/
def worst : List Trouble → Option Trouble
  | [] => none
  | t :: rest =>
    match worst rest with
    | none => some t
    | some u =>
      if t.kind < u.kind then some u
      else if u.kind < t.kind then some t
      else if u.cause < t.cause then some u
      else some t

/-- A free record frame of a fibre (R167). -/
def State.freeFrame (s : State) (loc : Nat) : Option Nat :=
  [0, 1, 2, 3].find? fun i => (Sparse.find s.eng.recs (loc * 4 + i)).isNone

/-- Puts a record into a frame: the report of kinds 2 to 4 with its containment decision, the parking of the
fibre, and the predictions from it (R166, R168, R179, R183, R185). -/
def State.putRecord (s : State) (id : Nat) (o : Op) (slotNo : Nat) (akind : Nat) (t : Trouble) :
    State :=
  let rgn := match s.fibre o.loc with
    | some f => f.region
    | none => 0
  let base : Record :=
    { op := id, kind := t.kind, cause := t.cause, va := t.va, sz := t.sz, akind := akind
      ripe := false, waiting := false, absorber := rgn, running := false
      grans := match t with
        | .miss _ (.granule g _ _) _ => [g]
        | _ => []
      blocks := match t with
        | .miss _ (.block b _) _ => [b]
        | _ => []
      clk := 0 }
  let put (s : State) (r : Record) : State :=
    ((({ s with eng := { s.eng with recs := Sparse.put s.eng.recs (o.loc * 4 + slotNo) r } }).writeFrame
      (o.loc * 4 + slotNo)).modFibre o.loc Fibre.park).predict o r fun _ _ => true
  if t.kind = 1 then put s base
  else
    let (policy, absorber) := s.contain rgn
    let budget := match s.rcb absorber with
      | some r => r.retryb
      | none => 0
    let exhausted := decide (budget < o.retries)
    let s1 := s.report rgn policy absorber (policy == 1 && !exhausted)
      ⟨t.va, o.asid, o.unit, akind, t.cause, t.kind, o.retries, o.loc, slotNo, o.lmask, o.ldone⟩
    match policy with
    | 0 => (put s1 { base with ripe := true, absorber := absorber }).modOp id
        fun o => { o with err := true }
    | 1 =>
      if exhausted then (put s1 { base with ripe := true, absorber := absorber }).modOp id
        fun o => { o with err := true }
      else put s1 { base with waiting := true, absorber := absorber }
    | _ => s1.killRegion absorber

/-- The operation waits on a record or for a record frame; one whose replay has begun runs. -/
def State.recorded (s : State) (id : Nat) : Bool :=
  s.eng.recs.any (fun e => e.2.op == id && !e.2.running) || s.eng.held.any fun h => h.op == id

/-- Writes the record of an operation: into the frame from which it is being replayed (R173), else into a
free one; or holds the operation inside its unit when the four frames are taken (R168). A replay that
is refused again raises RETRIES (R175). -/
def State.writeRecord (s : State) (id : Nat) (replay : Bool) (akind : Nat) (t : Trouble) : State :=
  match Sparse.find s.eng.ops id with
  | none => s
  | some o0 =>
    let old := s.recordOf id
    let again := (replay || old.isSome) && (t.kind == 2 || t.kind == 3)
    let o := if again then { o0 with retries := o0.retries + 1 } else o0
    let s1 := s.modOp id fun _ => o
    match old with
    | some e => s1.putRecord id o (e.1 % 4) akind t
    | none =>
      match s1.freeFrame o.loc with
      | some i => s1.putRecord id o i akind t
      | none => { s1 with eng := { s1.eng with held := s1.eng.held ++ [⟨id, akind, t, false⟩] } }

/-! ### Operations -/

/-- The write mode of the fibre in issue. -/
def State.wmode (s : State) : WMode :=
  match s.fibre s.cur with
  | some f => f.wmode
  | none => ⟨none, false, false⟩

/-- An operation of the fibre in issue: the header's fields as they stand; the word of a pair records the
address of its CEDE (R148, R169, R244). -/
def State.opOf (s : State) (f : Fibre) (unit : Nat) (lmask : Word) (opa opb : Dword) (ctr : Option Nat) (body : OpBody) :
    Op :=
  { unit := unit, loc := s.cur, group := f.group, asid := f.asid, priv := s.privOf f.region
    iword := s.iword, mode := f.mode, pc := f.pc, cede := f.cede, opa := opa, opb := opb
    lmask := lmask, ldone := 0, ctr := ctr, body := body, logs := [], results := [], refs := []
    wmode := s.wmode, seq := f.issued, asked := [], preds := 0, half := [], pos := [], err := false, retries := 0, finished := false }

/-- A new operation of the fibre in issue. -/
def State.newOp (s : State) (f : Fibre) (unit : Nat) (lmask : Word) (opa opb : Dword)
    (ctr : Option Nat) (body : OpBody) : Nat × State :=
  let o := s.opOf f unit lmask opa opb ctr body
  let s1 := { s with eng := { s.eng with ops := Sparse.put s.eng.ops s.fresh o }
                     fresh := s.fresh + 1 }
  (s.fresh, match ctr with
    | some c => s1.modFibre s1.cur fun f => f.raiseCtr c
    | none => s1)

/-- The fibre holds a record (R173). -/
def State.hasRecord (s : State) (loc : Nat) : Bool :=
  s.eng.recs.any fun e => e.1 / 4 == loc

/-- A PARKED fibre whose last record has replayed becomes READY, unless a trap or the debugger holds
it (R173, R192). -/
def State.unpark (s : State) (loc : Nat) : State :=
  if s.hasRecord loc then s
  else s.modFibre loc fun f =>
    if f.st = .parked ∧ f.trapWait = none then { f with st := .ready } else f

/-- An operation that was held for want of a frame writes its record, once its fibre has one (R168). What it
missed may have come in the meantime: the record is ripe then (R173). -/
def State.promoteHeld (s : State) (loc : Nat) : State :=
  let mine (h : Held) : Bool := ((Sparse.find s.eng.ops h.op).map fun o => o.loc == loc).getD false
  match s.eng.held.find? mine, s.freeFrame loc with
  | some h, some i =>
    (match Sparse.find s.eng.ops h.op with
    | some o =>
      let s1 := ({ s with eng := { s.eng with held := s.eng.held.erase h } }).putRecord h.op o i h.akind h.trouble
      { s1 with eng := { s1.eng with recs := Sparse.adjust s1.eng.recs (loc * 4 + i) fun r => { r with ripe := r.ripe || h.ripe } } }
    | none => s)
  | _, _ => s

/-- The record from which an operation was replayed is done with: its frame frees, a held operation
takes it, and a fibre without a record goes on (R173). -/
def State.freeRecord (s : State) (id : Nat) : State :=
  match s.recordOf id with
  | none => s
  | some e =>
    let s1 : State := { s with eng := { s.eng with recs := Sparse.erase s.eng.recs e.1 } }
    (s1.promoteHeld (e.1 / 4)).unpark (e.1 / 4)

/-- An operation is over: its counter falls, its record's frame frees, and it leaves the machine. A fibre
without a record left becomes READY (R173). -/
def State.endOp (s : State) (id : Nat) : State :=
  match Sparse.find s.eng.ops id with
  | none => s
  | some o =>
    let s1 := match o.ctr with
      | some c => s.modFibre o.loc fun f => f.lowerCtr c
      | none => s
    (s1.freeRecord id).removeOp id

end Sys2Proof.Machine
end

