-- ==== Sys2Proof/Machine/Cache.lean ====
section
/-! DEFINITION. The caches between a core and the homes of its lines (R71, R76, R82, R90, R91, R93): what an L1 has
fetched, the lines of the cluster caches, the merge window, the home caches and the snoop filters. What is dirty in an
L1 stands in `Mem.l1`. -/

namespace Sys2Proof.Machine

/-! ### Banks -/

/-- A bank that no map lists: CACHE with owner 0 (R81). -/
def Bank.reset : Bank := ⟨.cache, 0, 0, []⟩

/-- Bank `b` (cluster × 32 + bank). -/
def Mem.bank (m : Mem) (b : Nat) : Bank := (Sparse.find m.banks b).getD Bank.reset

/-- The bank is in transit (R86). -/
def Mem.inTransit (m : Mem) (b : Nat) : Bool := m.switches.any fun s => s.bank == b

/-- The banks of a cluster that are ways of its cache and take new lines: CACHE banks that are not in transit (R82,
R86). -/
def Mem.cacheBanks (m : Mem) (cluster : Nat) : List Nat :=
  ((List.range 32).map fun i => cluster * 32 + i).filter fun b => (m.bank b).mode == .cache && !m.inTransit b

/-! ### Snoop filters (R91) -/

/-- The die that homes a line, by its number: that of a vault line's frame, or of a line of host memory (R46, R62). -/
def lineDie (line : Nat) : Nat := if line < 2 ^ 60 then line / 32 % 4 else Config.hostDie (line - 2 ^ 60) % 4

/-- The sets of a die's snoop filter: 2,097,152 entries, 16 ways (R71). -/
def filterSets : Nat := 131072

/-- Two lines fall into one set of 16 ways of one die. -/
def sameSet (index : Nat → Nat) (sets x y : Nat) : Bool := lineDie x == lineDie y && index x % sets == index y % sets

/-- The filter of its die tracks a line that an L1 or a cluster cache takes: a full set recalls the copies of its
entry least recently used, whose dirty data is home before the new line is tracked (R91). -/
def Mem.track (m : Mem) (line : Nat) : Mem :=
  let others := m.filter.erase line
  let m1 :=
    if m.filter.contains line || decide (others.length < 16) then m
    else
      let set := others.filter (sameSet Config.filterSet filterSets line)
      match set.getLast? with
      | some old => if set.length < 16 then m else m.recallLine old
      | none => m
  { m1 with filter := line :: m1.filter.erase line }

/-! ### Home caches (R90) -/

/-- The sets of a die's home cache: 64 MiB of 128-byte lines, 16 ways (R71). -/
def homeSets : Nat := 32768

/-- A line leaves its home cache: what the device keeps with it goes as well (R146, R162). -/
def Mem.homeOut (m : Mem) (line : Nat) : Mem :=
  { m with
    homec := Sparse.erase m.homec line
    raceRecs := Sparse.erase m.raceRecs line
    bounce := Sparse.erase m.bounce line }

/-- Lines of a set of 16 ways that holds more. -/
def overfull (index : Nat → Nat) (sets : Nat) (lines : List Nat) : Option (List Nat) :=
  (lines.map fun x => lines.filter (sameSet index sets x)).find? fun l => decide (16 < l.length)

/-- Lines leave home-cache sets that hold more than 16; which one leaves is a free value. -/
def State.trimHome (s : State) : Nat → State
  | 0 => s
  | n + 1 =>
    match overfull Config.homeSet homeSets (s.mem.homec.map (·.1)) with
    | none => s
    | some l =>
      match l[Config.victim s.draws % l.length]? with
      | none => s
      | some line => State.trimHome ({ s with mem := s.mem.homeOut line }.drew 1) n

/-! ### Cluster caches (R82) -/

/-- The set of a vault line in the cluster caches: bits [17:7] of its physical address. -/
def Mem.ccSet (m : Mem) (line : Nat) : Nat := (m.physOf (.vault (line * 128))).addr / 128 % 2048

/-- A use of a line of a cluster's cache. -/
def Mem.ccTouch (m : Mem) (k : Nat) : Mem := { m with ccUse := k :: m.ccUse.erase k }

/-- A dirty line over an older one of the same line. -/
def L1Line.over (l old : L1Line) : L1Line :=
  { bytes := l.bytes.foldl (fun acc e => Sparse.put acc e.1 e.2) old.bytes
    tags := l.tags.foldl (fun acc e => Sparse.put acc e.1 e.2) old.tags
    epoch := old.epoch, poison := l.poison || old.poison }

/-- The other lines of a cluster's cache in the set of a line, with the ways that hold them. -/
def Mem.ccOthers (m : Mem) (cluster line : Nat) : List (Nat × Nat) :=
  m.ccache.filterMap fun e =>
    let x := e.1 % 2 ^ 32
    if e.1 / 2 ^ 32 = cluster ∧ x ≠ line ∧ m.ccSet x = m.ccSet line then some (x, e.2.bank) else none

/-- A line enters its set of a cluster's cache, over what the cache holds of it: in the way that has it, or in an
empty way, or in that of the line least recently used, which leaves for its home (R82). Without a CACHE bank it does
not. -/
def Mem.ccPut (m : Mem) (cluster line : Nat) (l : L1Line) (draw : Nat) : Mem :=
  let k := l1Key cluster line
  match Sparse.find m.ccache k with
  | some e => { m with ccache := Sparse.put m.ccache k ⟨l.over e.line, e.bank⟩ }.ccTouch k
  | none =>
    let banks := m.cacheBanks cluster
    let held := (m.ccOthers cluster line).filter fun x => banks.contains x.2
    let empty := banks.filter fun b => !held.any fun x => x.2 == b
    match empty[Config.cacheWay draw % empty.length]? with
    | some b => { m with ccache := Sparse.put m.ccache k ⟨l, b⟩ }.ccTouch k
    | none =>
      match (m.ccUse.reverse.findSome? fun u => held.find? fun x => l1Key cluster x.1 == u).or held.head? with
      | some x =>
        let m1 := m.ccOut cluster x.1
        { m1 with ccache := Sparse.put m1.ccache k ⟨l, x.2⟩ }.ccTouch k
      | none => m

/-- A core's dirty line moves into a way of its cluster's cache (R76, R82). -/
def Mem.castOut (m : Mem) (core line draw : Nat) : Mem :=
  match Sparse.find m.l1 (l1Key core line) with
  | none => m
  | some l => { m with l1 := Sparse.erase m.l1 (l1Key core line) }.ccPut (core / 4) line l draw

/-- A line leaves a core's L1: what is dirty in it goes into its cluster's cache, or, where no bank is one, home. Where
the L1 does not hold it the cluster's cache gives it up (R76, R82, R90). -/
def State.lineOut (s : State) (core line : Nat) : State :=
  let held := (Sparse.find s.mem.copies (copyKey core line)).isSome
  let m := s.mem.dropCopy core line
  match Sparse.find m.l1 (l1Key core line) with
  | some _ =>
    if (m.cacheBanks (core / 4)).isEmpty then { s with mem := m.writeBack core line }
    else { s with mem := m.castOut core line s.draws }.drew 1
  | none => { s with mem := if held then m else m.writeBack core line }

/-! ### The merge window (R93, R94) -/

/-- A line as its home has it, data and tags. -/
def Mem.homeLine (m : Mem) (p : PLoc) : LineCopy :=
  ⟨m.homeAt p.line 128, [m.tagAt p.line, m.tagAt (p.line.offset 64)]⟩

/-- A core that has read a line past some open entries of its cluster joins those no more: their data may be older
than what it has read (R132). -/
def Mem.bar (m : Mem) (core line : Nat) (past : Merge → Bool) : Mem :=
  { m with merges := m.merges.map fun e =>
      if e.cluster = core / 4 ∧ e.line = line ∧ past e = true ∧ !e.barred.contains core then
        { e with barred := core :: e.barred }
      else e }

/-- A core that acquires joins no entry of its cluster that is open: their reads were performed before (R94, R138). -/
def Mem.barAll (m : Mem) (core : Nat) : Mem :=
  { m with merges := m.merges.map fun e =>
      if e.cluster = core / 4 ∧ !e.barred.contains core then { e with barred := core :: e.barred } else e }

/-- A line that misses in the cluster's cache, through the merge window: an open entry of the same line and ASID
serves its data and tags, and a read that goes to the home opens an entry while fewer than 256 are open (R93, R94). With
merging disabled the home serves it (R95). -/
def Mem.mergedLine (m : Mem) (core : Nat) (asid : BitVec 16) (merging : Bool) (p : PLoc) : LineCopy × Mem :=
  let home := m.homeLine p
  let past := (m.bar core p.key fun _ => true).atHome p.key false
  match m.merges.find? fun e => e.cluster = core / 4 ∧ e.line = p.key ∧ e.asid = asid with
  | some e =>
    if merging && !e.barred.contains core then (⟨e.data, e.tags⟩, m.bar core p.key fun x => x.asid != asid)
    else (home, past)
  | none =>
    if merging && decide ((m.merges.filter fun e => e.cluster = core / 4).length < 256) then
      (home, { past with merges := ⟨core / 4, p.key, asid, home.data, home.tags, []⟩ :: past.merges })
    else (home, past)

/-! ### A core's reads -/

/-- What stands dirty in a line, over a copy of it. -/
def LineCopy.under (c : LineCopy) (l : L1Line) : LineCopy :=
  ⟨(List.range 128).map fun i => (Sparse.find l.bytes i).getD (c.data.getD i 0),
    (List.range 2).map fun i => (Sparse.find l.tags i).getD (c.tags.getD i 0)⟩

/-- A line from beyond a core's L1: from its cluster's cache, else through the merge window from its home. Such a line of
the vault may stay in the cluster's cache: whether it does is a free value (R82, R93). -/
def State.nextLevel (s : State) (core : Nat) (asid : BitVec 16) (merging : Bool) (p : PLoc) : LineCopy × State :=
  match p with
  | .vault a =>
    let line := a / 128
    (match Sparse.find s.mem.ccache (l1Key (core / 4) line) with
    | some e =>
      ((s.mem.homeLine p).under e.line,
        { s with mem := (s.mem.bar core line fun _ => true).ccTouch (l1Key (core / 4) line) })
    | none =>
      let (c, m) := s.mem.mergedLine core asid merging p
      (c, { s with
        mem := if Config.ccFills s.draws then m.ccPut (core / 4) line ⟨[], [], 0, false⟩ s.draws else m }.drew 1))
  | _ =>
    let (c, m) := s.mem.mergedLine core asid merging p
    (c, { s with mem := m })

/-- The lines that a core's L1 takes: those of the vault, and those of host memory on the die that homes them (R62,
R76). -/
def l1Takes (core : Nat) : PLoc → Bool
  | .vault _ => true
  | .host a => dieOf core == Config.hostDie (a / 128) % 4
  | .peer _ => false

/-- A line as a core reads it, but for what it has written itself: its L1's clean copy, which serves for as long as
the device keeps it, else the next level's line, which enters the L1 (R71, R76). -/
def State.lineFor (s : State) (core : Nat) (asid : BitVec 16) (merging : Bool) (p : PLoc) : LineCopy × State :=
  let fetch (s : State) : LineCopy × State :=
    let (c, s1) := s.nextLevel core asid merging p
    (c, if l1Takes core p then
      { s1 with mem := { s1.mem with copies := Sparse.put s1.mem.copies (copyKey core p.key) c }.track p.key }
    else s1)
  match Sparse.find s.mem.copies (copyKey core p.key) with
  | some c => if Config.l1Keeps s.draws then (c, s.drew 1) else fetch (s.drew 1)
  | none => fetch s

/-- What a core has written of a place and holds dirty. -/
def Mem.ownAt (m : Mem) (core : Nat) (p : PLoc) (i : Nat) : Option Byte :=
  match p with
  | .vault a => m.ownByte core (a + i)
  | _ => none

/-- Bytes of one line as a core reads them: what it has written stands above the line (R76). -/
def State.readLine (s : State) (core : Nat) (asid : BitVec 16) (merging : Bool) (p : PLoc) (n : Nat) :
    List Byte × State :=
  match p with
  | .peer _ => (s.mem.homeAt p n, s)
  | _ =>
    let (c, s1) := s.lineFor core asid merging p
    ((List.range n).map fun i => (s.mem.ownAt core p i).getD (c.data.getD (p.addr % 128 + i) 0), s1)

/-- The tag of the block at a place as a core reads it; where its L1 holds the line, of the same moment as the line's
data (R94, R102). -/
def State.readTag (s : State) (core : Nat) (asid : BitVec 16) (merging : Bool) (p : PLoc) : BitVec 16 :=
  match p with
  | .vault a =>
    let c := match Sparse.find s.mem.copies (copyKey core p.key) with
      | some c => c
      | none => (s.nextLevel core asid merging p).1
    (s.mem.ownTag core a).getD (c.tags.getD (a / 64 % 2) 0)
  | _ => s.mem.tagAt p

end Sys2Proof.Machine
end

