-- ==== Sys2Proof/Machine/Access.lean ====
section
/-! DEFINITION. Accesses of a fibre or an engine to the three spaces (R7 to R11): where they are
performed, what they meet, reads through the merge window (R93), writes into the L1 or through to
the home (R142, R143), release marks (R143, R144), folds of commutative ranges (R158) and the race
detector (R162, R163). -/

namespace Sys2Proof.Machine

/-! ### Banks -/

/-- The banks that a cluster scratch access touches, by the running bank number; 32 and more lie
past the last bank (R10). -/
def banksOf (a n : Nat) : List Nat :=
  (List.range ((a % 2 ^ 18 + n + 2 ^ 18 - 1) / 2 ^ 18)).map fun i => a / 2 ^ 18 + i

/-- References that an earlier operation holds to a bank go on while the bank is in transit (R86): the
operation runs as though the later switches were not there. -/
def pastSwitches {α : Type} (s : State) (id : Nat) (body : State → α × State) : α × State :=
  let all := s.mem.switches
  let (a, s1) := body { s with mem := { s.mem with switches := all.filter fun w => w.since ≤ id } }
  (a, { s1 with mem := { s1.mem with switches := all } })

/-- The checks of R10 in ascending byte order; an access to a bank in transit is held (R86). -/
def cscrCheck (m : Mem) (cluster : Nat) (asid : BitVec 16) : List Nat → Acc Unit
  | [] => .ok ()
  | b :: rest =>
    if 32 ≤ b then .refuse causeScrrange 0
    else if m.inTransit (cluster * 32 + b) then .wait
    else
      let k := m.bank (cluster * 32 + b)
      if k.mode ≠ .scratch then .refuse causeBankmode 0
      else if k.owner ≠ asid then .refuse causeBankown 0
      else cscrCheck m cluster asid rest

/-- A 64-bit word of cluster scratch that the bytes touch is poisoned (R96). -/
def cscrPoisoned (m : Mem) (at0 n : Nat) : Bool :=
  m.cpoison.any fun w => decide (at0 / 8 ≤ w) && decide (w ≤ (at0 + n - 1) / 8)

/-- The sectors of 32 bytes that `n` bytes touch (R84). -/
def sectorsOf (at0 n : Nat) : List Nat := (List.range ((at0 % 32 + n + 31) / 32)).map (at0 / 32 + ·)

/-- Writes bytes to cluster scratch and sets the valid bits of their sectors (R84); a poisoned word is clean
again once all 64 bits of it are covered (R96). Whether two lanes of one store that cover a word together do so R96 leaves
open: each lane is judged alone (DESIGN CHOICE, log 100). -/
def Mem.cscrWrite (m : Mem) (at0 : Nat) (b : List Byte) : Mem :=
  { m with
    cscr := writeBytes m.cscr at0 b
    cvalid := (sectorsOf at0 b.length).foldl (fun v x => Sparse.put v x true) m.cvalid
    cpoison := m.cpoison.filter fun w =>
      !(decide (at0 ≤ w * 8) && decide (w * 8 + 8 ≤ at0 + b.length)) }

/-! ### Spots -/

/-- A run of bytes where an access is performed: physical memory, cluster scratch (by
cluster × 2^23 + offset), or a group's scratch. -/
inductive Spot where
  | mem (p : PLoc) (n : Nat)
  | cscr (a n : Nat)
  | gscr (group off n : Nat)
  deriving DecidableEq, Repr

/-- The space of a code of R7. -/
def Space.ofCode : Nat → Space
  | 0 => .global
  | 1 => .cluster
  | _ => .group

/-- The address of a lane in a space: scratch addresses are the low 32 bits (R8). -/
def Space.address (sp : Space) (a : Dword) : Dword :=
  match sp with
  | .global => a
  | _ => BitVec.ofNat 64 (a.toNat % 2 ^ 32)

/-- The scratch length of a group. -/
def State.scrLen (s : State) (grp : Nat) : Nat :=
  match Sparse.find s.groups grp with
  | some g => g.scrLen
  | none => 0

/-- Where an access of `n` bytes is performed, or what it meets (R28, R10, R11). -/
def State.locate (s : State) (w : Who) (grp : Nat) (k : AKind) (sp : Space) (a n : Nat) :
    Acc (List Spot) × State :=
  match sp with
  | .global =>
    match resolve s w k a n with
    | (.ok l, s1) => (.ok (l.map fun p => .mem p.1 p.2), s1)
    | (.miss m, s1) => (.miss m, s1)
    | (.refuse c z, s1) => (.refuse c z, s1)
    | (.poison, s1) => (.poison, s1)
    | (.wait, s1) => (.wait, s1)
  | .cluster =>
    match cscrCheck s.mem (clusterOf w.core) w.asid (banksOf a n) with
    | .ok _ =>
      let at0 := clusterOf w.core * 2 ^ 23 + a
      let reads := match k with
        | .write => false
        | _ => true
      if reads && cscrPoisoned s.mem at0 n then (.poison, s) else (.ok [.cscr at0 n], s)
    | .miss m => (.miss m, s)
    | .refuse c z => (.refuse c z, s)
    | .poison => (.poison, s)
    | .wait => (.wait, s)
  | .group =>
    if s.scrLen grp < a + n then (.refuse causeScrrange 0, s) else (.ok [.gscr grp a n], s)

/-- The numbers of the lines of a spot at their homes; those of cluster scratch stand behind all others. A
group's scratch has no home beyond its core. -/
def Spot.lines : Spot → List Nat
  | .mem p n => (lineCuts p.addr n).map fun c => (p.offset c.1).key
  | .cscr a n => (lineCuts a n).map fun c => 2 ^ 62 + (a + c.1) / 128
  | .gscr _ _ _ => []

/-- The size code of the leaf by which an access was placed; none outside global memory (R169). -/
def State.szOf (s : State) (w : Who) (sp : Space) (va : Nat) : Nat :=
  match sp with
  | .global => s.leafSz (clusterOf w.core) w.asid va
  | _ => 0

/-- The frames of spots (R51). -/
def Spot.frames : Spot → List Nat
  | .mem (.vault a) _ => [a / 4096]
  | _ => []

/-! ### Folds before an access (R158) -/

/-- The physical lines of spots. -/
def Spot.physLines (m : Mem) : Spot → List Phys
  | .mem p n => (lineCuts p.addr n).map fun c => m.physOf (p.offset c.1)
  | _ => []

/-- Folds the lines that an access touches, block by block, or says what stands in the way of a fold (R158,
R321). -/
def State.foldSpots (s : State) (err : Bool) (l : List Spot) : Option Trouble × State :=
  foldBlocks s err (s.mem.heldIn (l.flatMap (Spot.physLines s.mem)))

/-! ### Reads -/

/-- The merge table serves reads of the cluster (R95). -/
def State.merging (s : State) (cluster : Nat) : Bool :=
  !bitOf (Sparse.get clmergeReset s.reg.clmerge cluster) 8

/-- Bytes from a place on as a core reads them, line by line. -/
def State.readLines (s : State) (w : Who) (merging : Bool) (p : PLoc) : List (Nat × Nat) → List Byte × State
  | [] => ([], s)
  | (o, n) :: rest =>
    let (b, s1) := s.readLine w.core w.asid merging (p.offset o) n
    let (bs, s2) := s1.readLines w merging p rest
    (b ++ bs, s2)

/-- The bytes of one spot as the core of `w` reads them; a read that `joins` goes through the merge window (R93). -/
def State.readSpot (s : State) (w : Who) (joins : Bool) : Spot → List Byte × State
  | .mem p n => s.readLines w (joins && s.merging (clusterOf w.core)) p (lineCuts p.addr n)
  | .cscr a n => (readBytes s.mem.cscr a n, s)
  | .gscr g o n =>
    (match Sparse.find s.groups g with
      | some grp => readBytes grp.scratch o n
      | none => List.replicate n 0, s)

/-- The bytes of an access. -/
def State.readSpots (s : State) (w : Who) (joins : Bool) : List Spot → List Byte × State
  | [] => ([], s)
  | x :: rest =>
    let (b, s1) := s.readSpot w joins x
    let (bs, s2) := s1.readSpots w joins rest
    (b ++ bs, s2)

/-! ### Release marks (R143, R144) -/

/-- A write leaves a release mark at its home line, one that is there already but once; a fifth mark waits for
the drain of the oldest (R143). -/
def Mem.addMark (m : Mem) (line : Nat) (k : Mark) : Mem :=
  let old := Sparse.get [] m.marks line
  if old.contains k then m
  else match old with
    | [] => { m with marks := Sparse.put m.marks line [k] }
    | oldest :: rest =>
      if old.length = 4 then
        let m1 := m.drain oldest
        { m1 with marks := Sparse.put m1.marks line (rest ++ [k]) }
      else { m with marks := Sparse.put m.marks line (old ++ [k]) }

/-- A plain write. -/
def WMode.plain : WMode := ⟨none, false, false⟩

/-- What a write of a line leaves at its home: a mark when it has gone through (R143), the core among those of
its release writes (R142, R162), and no merge entry of its cluster (R93). -/
def Mem.noteWrite (m : Mem) (core : Nat) (md : WMode) (line : Nat) : Mem :=
  let m1 := match md.through with
    | some e => m.addMark line ⟨core, e⟩
    | none => m
  let m2 := m1.closeMerge (clusterOf core) line
  if md.rel || md.through.isSome then
    { m2 with relWrites := Sparse.put m2.relWrites line (core :: (Sparse.get [] m2.relWrites line).erase core) }
  else m2

/-- A write of a line is performed in the core's L1: it writes lines of the vault there, unless it goes through to
their homes (R143, R146, R308). -/
def WMode.inL1 (md : WMode) : PLoc → Bool
  | .vault _ => !(md.home || md.through.isSome)
  | _ => false

/-- Before a line is written: one that is written in the core's L1 is tracked (R91); one that is written at its home
lies in the home cache, and the core has no clean copy of it (R90, R132). -/
def Mem.readyLine (m : Mem) (core : Nat) (md : WMode) (p : PLoc) : Mem :=
  if md.inL1 p then m.track p.key
  else
    match p with
    | .peer _ => m
    | _ => (m.dropCopy core p.key).atHome p.key true

/-- Writes bytes of one line. -/
def Mem.writeLine (m : Mem) (core : Nat) (md : WMode) (p : PLoc) (b : List Byte) : Mem :=
  let m1 := m.readyLine core md p
  (if md.inL1 p then m1.storeAt core p b else m1.homeWrite (some core) p b).noteWrite core md p.key

/-- Writes the tag of a block. -/
def Mem.writeTag (m : Mem) (core : Nat) (md : WMode) (p : PLoc) (t : BitVec 16) : Mem :=
  let m1 := m.readyLine core md p
  (if md.inL1 p then m1.tagStore core p t else m1.homeTag (some core) p t).noteWrite core md p.key

/-- Writes the bytes of one spot. -/
def State.writeSpot (s : State) (core : Nat) (md : WMode) (x : Spot) (b : List Byte) : State :=
  match x with
  | .mem p n =>
    { s with
        mem := (lineCuts p.addr n).foldl
          (fun m c => m.writeLine core md (p.offset c.1) ((b.drop c.1).take c.2)) s.mem }
  | .cscr a _ => { s with mem := x.lines.foldl (fun m l => m.noteWrite core md l) (s.mem.cscrWrite a b) }
  | .gscr g o _ => { s with
      groups := Sparse.adjust s.groups g fun grp =>
        { grp with scratch := writeBytes grp.scratch o b } }

/-- Bytes that a spot covers. -/
def Spot.size : Spot → Nat
  | .mem _ n => n
  | .cscr _ n => n
  | .gscr _ _ n => n

/-- Writes the bytes of an access. -/
def State.writeSpots (s : State) (core : Nat) (md : WMode) (b : List Byte) : List Spot → State
  | [] => s
  | x :: rest => (s.writeSpot core md x (b.take x.size)).writeSpots core md (b.drop x.size) rest

/-- A run of bytes inside spots: `n` bytes from offset `o`. -/
def subSpots (o n : Nat) : List Spot → List Spot
  | [] => []
  | x :: rest =>
    if x.size ≤ o then subSpots (o - x.size) n rest
    else
      let k := min n (x.size - o)
      let y := match x with
        | .mem p _ => Spot.mem (p.offset o) k
        | .cscr a _ => .cscr (a + o) k
        | .gscr g a _ => .gscr g (a + o) k
      if k = n then [y] else y :: subSpots 0 (n - k) rest

/-- The drains that a full pending set has sent are done: the set is empty, and the cores that it named stand
among those that the next acquire synchronises with (R144, R162). -/
def Fibre.flushed (f : Fibre) : Fibre :=
  { f with pendSet := [], flushing := false, syncSet := (f.syncSet ++ f.pendSet.map (·.core)).eraseDups }

/-- A read of marked lines collects their marks into the fibre's pending set, and the cores of their
release writes (R144, R162). A pending set without room for them has its drains sent at once: the
answer is `false`, and the read waits until they are done (R144). -/
def State.collect (s : State) (loc : Nat) (lines : List Nat) : Bool × State :=
  match s.fibre loc, lines with
  | none, _ => (true, s)
  | some _, [] => (true, s)
  | some f0, _ =>
    let owed := f0.pendSet.filter fun k => k.core ≠ coreOf loc
    if f0.flushing && owed.any s.mem.drains.contains then (false, s)
    else
      let f := if f0.flushing then f0.flushed else f0
      let found := lines.flatMap fun l => Sparse.get [] s.mem.marks l
      let fresh := found.filter fun k => !f.pendSet.contains k
      let cores := lines.flatMap fun l => Sparse.get [] s.mem.relWrites l
      if 16 < f.pendSet.length + fresh.eraseDups.length then
        (false, ({ s with mem := { s.mem with drains := (owed ++ s.mem.drains).eraseDups } }).setFibre loc
          { f with flushing := true })
      else (true, s.setFibre loc
        { f with pendSet := f.pendSet ++ fresh.eraseDups, syncSet := (f.syncSet ++ cores).eraseDups })

/-! ### The race detector (R162, R163) -/

/-- Appends a record to a region's race log (R163). -/
def State.raceLog (s : State) (rgn : Nat) (b : List Byte) : State :=
  match s.rcb rgn with
  | none => s
  | some r =>
    if r.rlbase = 0 ∨ r.rlseq - r.rlhead = 2 ^ r.rllog2 then
      s.setRcb rgn { r with rlovf := (r.rlovf + 1) % 2 ^ 32 }
    else
      (physWrite s (r.rlbase + 32 * (r.rlseq % 2 ^ r.rllog2)) b).setRcb rgn
        { r with rlseq := r.rlseq + 1 }

/-- The words of a line that `n` bytes from `a` touch, as a mask. -/
def wordMask (a n : Nat) : Word :=
  maskOf ((List.range 32).filter fun i =>
    decide (a % 128 < i * 4 + 4) && decide (i * 4 < a % 128 + n))

/-- The lowest word of a mask. -/
def lowWord (m : Word) : Nat := (lanesOf m).headD 0

/-- What the detector does with a plain access of `n` bytes of one line at `va`: the report names the lowest word
that both accesses touch (DESIGN CHOICE, log 83). The record lies with the line in its home cache, and goes with it. -/
def State.raceLine (s : State) (loc : Nat) (f : Fibre) (seq : Nat) (write : Bool) (line va n : Nat) : State :=
  let core := coreOf loc
  let words := wordMask va n
  let count (x y : Nat) : Nat := Sparse.getN s.mem.relCount (x * 192 + y)
  let old := Sparse.find s.mem.raceRecs line
  let s1 := match old with
    | some r =>
      if r.core ≠ core ∧ r.words &&& words ≠ 0 ∧ count core r.core ≤ r.count then
        let (clk, s0) := s.readClk core
        s0.raceLog f.region (leBytes 8 (va / 128 * 128 + 4 * lowWord (r.words &&& words)) ++ leBytes 2 f.asid.toNat
          ++ leBytes 1 (if write then 3 else 1) ++ leBytes 1 0 ++ leBytes 2 r.core ++ leBytes 2 core
          ++ leBytes 4 r.loc ++ leBytes 4 loc ++ leBytes 8 clk.toNat)
      else s
    | none => s
  if write then
    let kept : Word := match old with
      | some r => if r.loc = loc ∧ r.seq = seq then r.words else 0
      | none => 0
    let now : RaceRec := ⟨core, loc, kept ||| words, count core core, seq⟩
    { s1 with mem := { s1.mem with raceRecs := Sparse.put s1.mem.raceRecs line now }.atHome line false }
  else s1

/-- The race detector sees a plain access of a region that enables it (R162). -/
def State.raceCheck (s : State) (loc : Nat) (f : Fibre) (seq : Nat) (write : Bool) (va : Nat) : List Spot → State
  | [] => s
  | x :: rest =>
    let on := match s.rcb f.region with
      | some r => r.race
      | none => false
    if !on then s
    else
      let s1 := match x with
        | .mem (.peer _) _ => s
        | .mem p n => (lineCuts p.addr n).foldl
            (fun (acc : State) (c : Nat × Nat) => acc.raceLine loc f seq write (p.offset c.1).key (va + c.1) c.2) s
        | _ => s
      s1.raceCheck loc f seq write (va + x.size) rest

/-- An acquire merges the vectors of the cores it synchronises with (R162). -/
def Mem.mergeCounts (m : Mem) (core : Nat) (others : List Nat) : Mem :=
  others.foldl (fun m d =>
    (m.relCount.filter fun e => e.1 / 192 = d).foldl
      (fun m e => { m with
          relCount := Sparse.setN m.relCount (core * 192 + e.1 % 192)
            (max (Sparse.getN m.relCount (core * 192 + e.1 % 192)) e.2) }) m) m

/-- A release at CLU scope or wider raises the core's release count (R162). -/
def Mem.raiseCount (m : Mem) (core : Nat) : Mem :=
  { m with
      relCount := Sparse.setN m.relCount (core * 192 + core)
        (Sparse.getN m.relCount (core * 192 + core) + 1) }

/-- Later reads of the core are served by nothing that was read before: its L1 gives its clean copies up, and it joins
no merge entry that is open (R138). -/
def Mem.refresh (m : Mem) (core : Nat) : Mem := (m.dropCore core).barAll core

/-- The start of a fibre on the core, and what a fibre of it has waited for, acquires from the cores whose work made it
(R136): the core's vector takes in theirs (R162), and later reads are fresh. -/
def State.startAcquire (s : State) (core : Nat) (others : List Nat) : State :=
  let m := (s.mem.mergeCounts core others).refresh core
  { s with mem := { m with icache := m.icache.filter fun l => l.core ≠ core } }

/-! ### Accesses under way -/

/-- The body is one that the load/store unit runs part by part. -/
def OpBody.isLsu : OpBody → Bool
  | .load _ _ _ _ _ _ | .store _ _ _ _ _ | .ldt _ _ _ | .stt _ _ _ | .tagset _ _ | .tagget _ _ => true
  | .atom _ _ _ _ _ _ _ _ _ | .cradd _ _ _ _ | .crclose _ => true
  | _ => false

/-- An access of the fibre that `p` picks out waits in the load/store unit or on a record: it has not been performed. -/
def State.lsuWaits (s : State) (loc : Nat) (p : Op → Bool) : Bool :=
  s.eng.ops.any fun e => e.2.loc == loc && e.2.body.isLsu && !e.2.finished && p e.2

/-! ### Watchpoints (R431) -/

/-- A watchpoint stands on `n` bytes from `va` for an access kind. -/
def State.watched (s : State) (f : Fibre) (k : AKind) (va n : Nat) : Bool :=
  let bit := match k with
    | .read | .tagrd => 0
    | .write | .tagwr => 1
    | _ => 2
  !f.debugger.skipBreak && s.io.wps.any fun w =>
    w.2.asid == f.asid && bitOf w.2.kinds bit &&
      decide (va < w.2.va.toNat / 2 ^ w.2.log2 * 2 ^ w.2.log2 + 2 ^ w.2.log2) &&
      decide (w.2.va.toNat / 2 ^ w.2.log2 * 2 ^ w.2.log2 < va + n)

end Sys2Proof.Machine
end

