-- ==== Sys2Proof/Machine/Scalar.lean ====
section
/-! DEFINITION. Scalar arithmetic (R277 to R279), special registers (R280) and predicates (R281). -/

namespace Sys2Proof.Machine

/-- An instruction on scalars: it cannot issue while one of its registers has a pending write
(R200). -/
def scalarOp (s : State) (regs : List Nat) (body : Fibre → Act) : Out :=
  runFibre s fun f => guardBusy s (resS s.cur regs) (body f)

/-- Writes s[d] of the fibre in issue. -/
def State.putS (s : State) (d : Nat) (v : Dword) : State := s.modFibre s.cur fun f => f.setS d v

/-- s[d] = g(s[a], s[b]) (R277). -/
def salu (d a b : BitVec 6) (g : Dword → Dword → Dword) (s : State) : Out :=
  scalarOp s [d.toNat, a.toNat, b.toNat] fun f => .done (s.putS d.toNat (g (f.s a.toNat) (f.s b.toNat)))

/-- s[d] = g(s[a]) (R277, R278). -/
def saluOne (d a : BitVec 6) (g : Dword → Dword) (s : State) : Out :=
  scalarOp s [d.toNat, a.toNat] fun f => .done (s.putS d.toNat (g (f.s a.toNat)))

/-! ### The functions of R277 -/

def aluMulh (a b : Dword) : Dword := BitVec.ofInt 64 (a.toInt * b.toInt / 2 ^ 64)

def aluMulhn (a b : Dword) : Dword := BitVec.ofNat 64 (a.toNat * b.toNat / 2 ^ 64)

/-- Quotient truncated toward zero; −1 for a zero divisor. −2^63 / −1 wraps to −2^63. -/
def aluDiv (a b : Dword) : Dword := if b = 0 then -1 else BitVec.ofInt 64 (Int.tdiv a.toInt b.toInt)

/-- 2^64 − 1 for a zero divisor. -/
def aluDivn (a b : Dword) : Dword := if b = 0 then -1 else BitVec.ofNat 64 (a.toNat / b.toNat)

/-- Remainder with the sign of the dividend; the dividend for a zero divisor. -/
def aluRem (a b : Dword) : Dword := if b = 0 then a else BitVec.ofInt 64 (Int.tmod a.toInt b.toInt)

def aluShl (a b : Dword) : Dword := a <<< (b.toNat % 64)

def aluShr (a b : Dword) : Dword := a >>> (b.toNat % 64)

def aluSar (a b : Dword) : Dword := a.sshiftRight (b.toNat % 64)

def aluMin (a b : Dword) : Dword := if a.toInt ≤ b.toInt then a else b

def aluMax (a b : Dword) : Dword := if a.toInt ≤ b.toInt then b else a

def aluMinn (a b : Dword) : Dword := if a.toNat ≤ b.toNat then a else b

def aluMaxn (a b : Dword) : Dword := if a.toNat ≤ b.toNat then b else a

/-- −1, 0 or +1, signed (R277). -/
def aluCmp (a b : Dword) : Dword := if a.toInt < b.toInt then -1 else if a = b then 0 else 1

/-- −1, 0 or +1, unsigned (R277). -/
def aluCmpn (a b : Dword) : Dword := if a.toNat < b.toNat then -1 else if a = b then 0 else 1

/-- Leading zeros, 0 to 64. -/
def aluClz (a : Dword) : Dword := BitVec.ofNat 64 (64 - bitLen a.toNat)

/-- Set bits among the lowest `n`. -/
def popCount : Nat → Nat → Nat
  | 0, _ => 0
  | n + 1, x => x % 2 + popCount n (x / 2)

def aluPopc (a : Dword) : Dword := BitVec.ofNat 64 (popCount 64 a.toNat)

/-- IMM14 sign-extended to 64 bits (R278). -/
def imm14 (i : BitVec 14) : Dword := i.signExtend 64

/-! ### SALU (R277) -/

def execAdd (d a b : BitVec 6) (s : State) : Out := salu d a b (· + ·) s

def execSub (d a b : BitVec 6) (s : State) : Out := salu d a b (· - ·) s

def execMul (d a b : BitVec 6) (s : State) : Out := salu d a b (· * ·) s

def execMulh (d a b : BitVec 6) (s : State) : Out := salu d a b aluMulh s

def execMulhn (d a b : BitVec 6) (s : State) : Out := salu d a b aluMulhn s

def execDiv (d a b : BitVec 6) (s : State) : Out := salu d a b aluDiv s

def execDivn (d a b : BitVec 6) (s : State) : Out := salu d a b aluDivn s

def execRem (d a b : BitVec 6) (s : State) : Out := salu d a b aluRem s

def execAnd (d a b : BitVec 6) (s : State) : Out := salu d a b (· &&& ·) s

def execOr (d a b : BitVec 6) (s : State) : Out := salu d a b (· ||| ·) s

def execXor (d a b : BitVec 6) (s : State) : Out := salu d a b (· ^^^ ·) s

def execAndn (d a b : BitVec 6) (s : State) : Out := salu d a b (fun x y => x &&& ~~~y) s

def execShl (d a b : BitVec 6) (s : State) : Out := salu d a b aluShl s

def execShr (d a b : BitVec 6) (s : State) : Out := salu d a b aluShr s

def execSar (d a b : BitVec 6) (s : State) : Out := salu d a b aluSar s

def execMin (d a b : BitVec 6) (s : State) : Out := salu d a b aluMin s

def execMax (d a b : BitVec 6) (s : State) : Out := salu d a b aluMax s

def execMinn (d a b : BitVec 6) (s : State) : Out := salu d a b aluMinn s

def execMaxn (d a b : BitVec 6) (s : State) : Out := salu d a b aluMaxn s

/-- Writes s[d] and the condition flags of a compare (R269, R277). -/
def State.putCmp (s : State) (d : Nat) (v a b : Dword) : State :=
  s.modFibre s.cur fun f => { f.setS d v with cf := compareFlags a b }

def execCmp (d a b : BitVec 6) (s : State) : Out :=
  scalarOp s [d.toNat, a.toNat, b.toNat] fun f =>
    .done (s.putCmp d.toNat (aluCmp (f.s a.toNat) (f.s b.toNat)) (f.s a.toNat) (f.s b.toNat))

def execCmpn (d a b : BitVec 6) (s : State) : Out :=
  scalarOp s [d.toNat, a.toNat, b.toNat] fun f =>
    .done (s.putCmp d.toNat (aluCmpn (f.s a.toNat) (f.s b.toNat)) (f.s a.toNat) (f.s b.toNat))

def execClz (d a : BitVec 6) (s : State) : Out := saluOne d a aluClz s

def execPopc (d a : BitVec 6) (s : State) : Out := saluOne d a aluPopc s

def execMov (d a : BitVec 6) (s : State) : Out := saluOne d a id s

/-! ### Immediates (R278, R279) -/

def execAddi (d a : BitVec 6) (i : BitVec 14) (s : State) : Out := saluOne d a (· + imm14 i) s

def execAndi (d a : BitVec 6) (i : BitVec 14) (s : State) : Out := saluOne d a (· &&& imm14 i) s

def execOri (d a : BitVec 6) (i : BitVec 14) (s : State) : Out := saluOne d a (· ||| imm14 i) s

def execCmpi (d a : BitVec 6) (i : BitVec 14) (s : State) : Out :=
  scalarOp s [d.toNat, a.toNat] fun f =>
    .done (s.putCmp d.toNat (aluCmp (f.s a.toNat) (imm14 i)) (f.s a.toNat) (imm14 i))

def execMovz (d : BitVec 6) (h : BitVec 2) (i : BitVec 16) (s : State) : Out :=
  scalarOp s [d.toNat] fun _ => .done (s.putS d.toNat (i.setWidth 64 <<< (16 * h.toNat)))

def execMovk (d : BitVec 6) (h : BitVec 2) (i : BitVec 16) (s : State) : Out :=
  scalarOp s [d.toNat] fun f =>
    .done (s.putS d.toNat (putField (f.s d.toNat) (16 * h.toNat) 16 i.toNat))

def execMovs (d : BitVec 6) (h : BitVec 2) (i : BitVec 16) (s : State) : Out :=
  scalarOp s [d.toNat] fun _ => .done (s.putS d.toNat (i.signExtend 64 <<< (16 * h.toNat)))

/-! ### Special registers (R280) -/

/-- What SRD returns for special register `n`, but for CLK, which `execSrd` reads (R280). -/
def specialReg (s : State) (f : Fibre) (n : Nat) : Dword :=
  let core := coreOf s.cur
  let w (k : Nat) : Dword := BitVec.ofNat 64 k
  let grid : Bool := match Sparse.find s.groups f.group with
    | some g => g.kind = .grid
    | none => false
  match n with
  | 0 => w (fidOf s.cur)
  | 1 => w (slotOf s.cur % 8)
  | 2 => w (slotOf s.cur / 8 % 4)
  | 3 => w core
  | 4 => w (clusterOf core)
  | 5 => w (dieOf core)
  | 6 => if grid then ((Sparse.find s.groups f.group).map (·.gid)).getD 0 else 0
  | 7 => if f.teller then 0 else w f.lid
  | 8 => w f.region
  | 10 => f.exec.setWidth 64
  | 11 => f.lr
  | 12 => f.wdesc
  | 13 => f.fstat.setWidth 64
  | 14 => f.issued
  | 15 => f.asid.setWidth 64
  | _ => 0

/-- SRD (R280). -/
def execSrd (d : BitVec 6) (n : BitVec 4) (s : State) : Out :=
  scalarOp s [d.toNat] fun f =>
    if n = 9 then
      let (c, s1) := s.readClk (coreOf s.cur)
      .done (s1.putS d.toNat c)
    else .done (s.putS d.toNat (specialReg s f n.toNat))

/-- SWR (R280): EXEC can only lose bits, and a link value has bits [63:52] zero. No other special
register is written; its number stands in the word, so its ILL is check 3 of R251. -/
def execSwr (a : BitVec 6) (n : BitVec 4) (s : State) : Out :=
  if n = 10 then
    scalarOp s [a.toNat] fun f =>
      .done (s.modFibre s.cur fun g => { g with exec := g.exec &&& (f.s a.toNat).setWidth 32 })
  else if n = 11 then
    scalarOp s [a.toNat] fun f =>
      if field (f.s a.toNat) 52 12 ≠ 0 then .trap (illTrap 6)
      else .done (s.modFibre s.cur fun g => { g with lr := f.s a.toNat })
  else runFibre s fun _ => .trap (illTrap 3)

/-! ### Predicates (R281) -/

/-- Writes the active lanes of p[d]; inactive lanes keep their bits. -/
def predOp (d : BitVec 3) (g : Fibre → Word) (s : State) : Out :=
  runFibre s fun f =>
    .done (s.modFibre s.cur fun h =>
      h.setP d.toNat ((f.p d.toNat &&& ~~~f.active) ||| (g f &&& f.active)))

def execPand (d a b : BitVec 3) (s : State) : Out := predOp d (fun f => f.p a.toNat &&& f.p b.toNat) s

def execPor (d a b : BitVec 3) (s : State) : Out := predOp d (fun f => f.p a.toNat ||| f.p b.toNat) s

def execPxor (d a b : BitVec 3) (s : State) : Out := predOp d (fun f => f.p a.toNat ^^^ f.p b.toNat) s

def execPandn (d a b : BitVec 3) (s : State) : Out :=
  predOp d (fun f => f.p a.toNat &&& ~~~f.p b.toNat) s

def execPnot (d a : BitVec 3) (s : State) : Out := predOp d (fun f => ~~~f.p a.toNat) s

def execPset (d : BitVec 3) (s : State) : Out := predOp d (fun _ => BitVec.allOnes 32) s

def execPclr (d : BitVec 3) (s : State) : Out := predOp d (fun _ => 0) s

/-- PMOVS: bit lane of s[a]. -/
def execPmovs (d : BitVec 3) (a : BitVec 6) (s : State) : Out :=
  scalarOp s [a.toNat] fun f =>
    .done (s.modFibre s.cur fun h =>
      h.setP d.toNat ((f.p d.toNat &&& ~~~f.active) ||| ((f.s a.toNat).setWidth 32 &&& f.active)))

/-- SMOVP: all 64 bits, the active lanes of p[a]; nothing with no active lane (R253). -/
def execSmovp (d : BitVec 6) (a : BitVec 3) (s : State) : Out :=
  scalarOp s [d.toNat] fun f =>
    if f.active = 0 then .done s
    else .done (s.putS d.toNat ((f.p a.toNat &&& f.active).setWidth 64))

end Sys2Proof.Machine
end

