-- ==== Sys2Proof/WellFormed.lean ====
section
/-! DEFINITION. Which instructions are well formed: the checks of R251 that a word's own fields
decide. `reservedCode` is check 2 for codes held in a field of the constructor, `badField` is check
3 and `badRegister` is check 4. The checks that need the fibre (5 and 6, and the limits of a 64-bit
MODE.ET) stand with the meanings. Events carry no word: they are well formed when the numbers that
name a queue or a place lie in the device's ranges. -/

namespace Sys2Proof

/-- Codes that a format register may hold (R103): every listed format, RAW included, without the
block-accumulator pair and without the reserved codes. -/
def formatCode (c : Nat) : Bool :=
  c == 0 || (1 ≤ c && c ≤ 9) || (0x10 ≤ c && c ≤ 0x1B) || (0x26 ≤ c && c ≤ 0x29) ||
    (0x30 ≤ c && c ≤ 0x35) || c == 0x3C || c == 0x3D

/-- Conversion targets of VCVT and VCVTS: not RAW and not A96F or A96I (R298). -/
def cvtTarget (c : Nat) : Bool :=
  formatCode c && c != 0 && c != 0x3C && c != 0x3D

/-- The value of a MODE field that the word itself may not hold (R248, R264). -/
def badModeField (f v : Nat) : Bool :=
  match f with
  | 0 => 8 ≤ v
  | 1 => 2 ≤ v
  | 2 => !formatCode v
  | 3 => 6 ≤ v
  | 4 => 2 ≤ v
  | 5 => 2 ≤ v
  | 6 => 2 ≤ v
  | 7 => 32 ≤ v
  | 8 => 6 ≤ v
  | _ => true

/-- A `MODE` value that R248 forbids: a reserved bit, element type, rounding mode or scope. -/
def badMode (v : Nat) : Bool :=
  v / 2 ^ 24 != 0 || !formatCode (v / 2 ^ 4 % 64) || 6 ≤ v / 2 ^ 10 % 8 || 6 ≤ v / 2 ^ 21 % 8

/-- Consecutive vector registers of one memory access of size code `z` (R247, R306). -/
def sizeRegs (z : Nat) : Nat :=
  if z = 3 then 2 else if z = 4 then 4 else 1

/-- Registers an ATOM reads from VD on: the operand, and for CAS the compare value (R313). -/
def atomRegs (w o : Nat) : Nat :=
  (if w = 1 then 2 else 1) * (if o = 10 then 2 else 1)

/-- Float operations of ATOM and SATOM; they have no 64-bit form (R314). -/
def atomFloat (o : Nat) : Bool := 11 ≤ o

/-- Check 2 of R251 for codes that stand in an operand of the constructor. -/
def Instr.reservedCode : Instr → Bool
  | .bra c _ => 10 ≤ c.toNat
  | .ld _ _ _ p _ z => p.toNat == 3 || 5 ≤ z.toNat
  | .st _ _ _ p z => p.toNat == 3 || 5 ≤ z.toNat
  | .ldacq _ _ _ p _ _ => p.toNat == 3
  | .strel _ _ _ p _ => p.toNat == 3
  | .atom _ _ _ w _ o => o.toNat == 15 || (w.toNat == 1 && atomFloat o.toNat)
  | .satom _ _ _ w _ o => o.toNat == 15 || (w.toNat == 1 && atomFloat o.toNat)
  | .vcvt _ _ _ t => !cvtTarget t.toNat
  | .vcvts _ _ _ t => !cvtTarget t.toNat
  | _ => false

/-- The B field names a scalar under BS, so its bit 6 must be zero (R247). -/
def badScalarB (b : BitVec 7) (s : BitVec 1) : Bool := s.toNat == 1 && 64 ≤ b.toNat

/-- Check 3 of R251 for values that stand in an operand of the constructor. -/
def Instr.badField : Instr → Bool
  | .mode v => badMode v.toNat
  | .modeField f v => badModeField f.toNat v.toNat
  | .ld _ _ _ _ x z => x.toNat == 1 && 2 ≤ z.toNat
  | .ldacq _ _ _ _ x z => x.toNat == 1 && 2 ≤ z.toNat
  | .satom _ _ b _ _ o => o.toNat != 10 && b.toNat != 0
  | .fenceAcq s => 6 ≤ s.toNat
  | .fenceRel s => 6 ≤ s.toNat
  | .fenceAr s => 6 ≤ s.toNat
  | .fenceSc s => 6 ≤ s.toNat
  | .fenceTx s => 6 ≤ s.toNat
  | .mdrain _ p t => p.toNat == 3 || t.toNat % 2 ^ p.toNat != 0
  | .mdraina _ p t => p.toNat == 3 || t.toNat % 2 ^ p.toNat != 0
  | .vadd _ _ b s | .vsub _ _ b s | .vmul _ _ b s | .vmulh _ _ b s
  | .vand _ _ b s | .vor _ _ b s | .vxor _ _ b s | .vandn _ _ b s
  | .vshl _ _ b s | .vshr _ _ b s | .vsar _ _ b s | .vrot _ _ b s
  | .vmin _ _ b s | .vmax _ _ b s | .vabsd _ _ b s | .vavg _ _ b s
  | .vcmpeq _ _ b s | .vcmpne _ _ b s | .vcmplt _ _ b s | .vcmple _ _ b s
  | .vfadd _ _ _ b s | .vfsub _ _ _ b s | .vfmul _ _ _ b s | .vfdiv _ _ _ b s
  | .vfmin _ _ b s | .vfmax _ _ b s | .vfminnum _ _ b s | .vfmaxnum _ _ b s
  | .vsel _ _ b s | .vclamp _ _ b s | .vcsign _ _ b s
  | .vdot4 _ _ b s _ _ | .vdot8 _ _ b s _ _
  | .vshfl _ _ b s | .vshflx _ _ b s | .vshflup _ _ b s | .vshfldn _ _ b s
  | .vbfe _ _ b s | .vbfi _ _ b s | .vperm _ _ b s | .vfunnel _ _ b s
  | .rand32 _ _ b s | .randf _ _ b s => badScalarB b s
  | _ => false

/-- Check 4 of R251: a register field that would run past the last register of its file. -/
def Instr.badRegister : Instr → Bool
  | .ld d _ _ _ _ z => 128 < d.toNat + sizeRegs z.toNat
  | .st d _ _ _ z => 128 < d.toNat + sizeRegs z.toNat
  | .ldacq d _ _ _ _ z => 128 < d.toNat + sizeRegs z.toNat
  | .strel d _ _ _ z => 128 < d.toNat + sizeRegs z.toNat
  | .atom d _ _ w _ o => 128 < d.toNat + atomRegs w.toNat o.toNat
  | .cpissue a => 60 < a.toNat
  | .mma a b _ _ _ => 62 < a.toNat || 62 < b.toNat
  | .mmaz a b _ _ _ => 62 < a.toNat || 62 < b.toNat
  | .mmat a b _ _ => 62 < a.toNat || 62 < b.toNat
  | .mread _ d => 125 < d.toNat
  | .mwrite _ v => 125 < v.toNat
  | .rquery _ _ x => 113 < x.toNat
  | .cquery _ _ x => 121 < x.toNat
  | .texs _ x => 124 < x.toNat
  | .texd _ x => 122 < x.toNat
  | .texc _ x => 123 < x.toNat
  | .texl _ x => 124 < x.toNat
  | .texg _ _ x => 124 < x.toNat
  | .rastt _ x => 116 < x.toNat
  | .rtestAcc x => 121 < x.toNat
  | .rtestRej x => 121 < x.toNat
  | .cont a x => 62 < a.toNat || 116 < x.toNat
  | .enq a => 56 < a.toNat
  | .solicit a _ => 60 < a.toNat
  | .tmove _ b _ => 62 < b.toNat
  | .cradd _ v => 126 < v.toNat
  | _ => false

/-- An instruction whose word passes checks 2 to 4 of R251. -/
def Instr.wf (i : Instr) : Bool :=
  !i.reservedCode && !i.badField && !i.badRegister

end Sys2Proof
end

