-- ==== Sys2Proof/Machine/Control.lean ====
section
/-! DEFINITION. SYS but for EXIT and HCALL (R260 to R263, R426, R427), MODE (R264 to R266), waits on
counters (R268), branches, calls and returns with their window moves (R196 to R199, R270 to R273),
and structured divergence (R274, R275). -/

namespace Sys2Proof.Machine

/-! ### SYS -/

/-- NOP (R260). -/
def execNop (s : State) : Out := runFibre s fun _ => .done s

/-- TRAP (R427). -/
def execTrap (i : BitVec 16) (s : State) : Out := runFibre s fun _ => .trap ⟨trapUSER, 0, i.toNat, 0⟩

/-- A debugger is attached to the fibre's region (R430). -/
def State.attached (s : State) (f : Fibre) : Bool := s.io.dbgRegions.any fun r => s.inSubtree r f.region

/-- A debug stop with the program counter on the next instruction (R427). -/
def debugStop (s : State) : Act := .moved (s.retire.modFibre s.cur Fibre.stop)

/-- BKPT (R427). -/
def execBkpt (s : State) : Out :=
  runFibre s fun f => if s.attached f then debugStop s else .trap (plainTrap trapBREAK)

/-- HALT (R427). -/
def execHalt (s : State) : Out :=
  runFibre s fun f => if s.attached f then debugStop s else .done s

/-- YIELD (R262). -/
def execYield (s : State) : Out :=
  runFibre s fun _ => .moved (s.retire.modFibre s.cur fun f => { f with st := .ready })

/-- CEDE by itself: the prefix of the next word (R263). The step decodes a prefix with its successor;
here the program counter stays on the prefix and the successor is to issue under it. -/
def execCede (s : State) : Out :=
  runFibre s fun _ => .moved (s.modFibre s.cur fun f => { f with cede := true })

/-- A register value is a bad code address: bits [1:0] or [63:48] not zero (R272). -/
def badTarget (a : Dword) : Bool := field a 0 2 != 0 || field a 48 16 != 0

/-- TRET (R426). -/
def execTret (s : State) : Out :=
  runFibre s fun f =>
    if !f.inHandler then .trap (illTrap 6)
    else if s.busy s.cur (resS s.cur [60, 61, 62, 63]) then .stall
    else if badTarget (f.s 60) then .trap (plainTrap trapBADPC)
    else .jump (s.modFibre s.cur Fibre.leaveHandler) ((f.s 60).setWidth 48)

/-! ### MODE -/

/-- The place and width of a field of MODE (R264). -/
def modeFieldAt : Nat → Nat × Nat
  | 0 => (0, 3)
  | 1 => (3, 1)
  | 2 => (4, 6)
  | 3 => (10, 3)
  | 4 => (13, 1)
  | 5 => (14, 1)
  | 6 => (15, 1)
  | 7 => (16, 5)
  | _ => (21, 3)

/-- MODE form 0 (R264). -/
def execMode (v : BitVec 24) (s : State) : Out :=
  runFibre s fun _ => .done (s.modFibre s.cur fun f => { f with mode := v.setWidth 32 })

/-- MODE form 1 (R264). -/
def execModeField (f : BitVec 4) (v : BitVec 6) (s : State) : Out :=
  runFibre s fun _ =>
    let at0 := modeFieldAt f.toNat
    .done (s.modFibre s.cur fun g => { g with mode := putField g.mode at0.1 at0.2 v.toNat })

/-- MODEW (R266). -/
def execModew (a : BitVec 6) (s : State) : Out :=
  scalarOp s [a.toNat] fun f =>
    let v : Word := (f.s a.toNat).setWidth 32
    if badMode v.toNat then .trap (illTrap 6)
    else .done (s.modFibre s.cur fun g => { g with mode := v })

/-- MODER (R266). -/
def execModer (d : BitVec 6) (s : State) : Out :=
  scalarOp s [d.toNat] fun f => .done (s.putS d.toNat (f.mode.setWidth 64))

/-- FSTR (R266). Vector instructions complete when they issue, so none is ever outstanding. -/
def execFstr (d : BitVec 6) (s : State) : Out :=
  scalarOp s [d.toNat] fun f => .done (s.putS d.toNat (f.fstat.setWidth 64))

/-- FSTW (R266). -/
def execFstw (a : BitVec 6) (s : State) : Out :=
  scalarOp s [a.toNat] fun f =>
    if field (f.s a.toNat) 5 59 ≠ 0 then .trap (illTrap 6)
    else .done (s.modFibre s.cur fun g => { g with fstat := (f.s a.toNat).setWidth 32 })

/-! ### Waits (R268) -/

/-- A counter is at or below a 6-bit threshold; 63 is always met. -/
def Fibre.below (f : Fibre) (c t : Nat) : Bool := t == 63 || decide (f.counter c ≤ t)

/-- WAIT. -/
def execWait (l st c m : BitVec 6) (s : State) : Out :=
  runFibre s fun f =>
    if f.below ctrLD l.toNat && f.below ctrST st.toNat && f.below ctrCP c.toNat
        && f.below ctrMX m.toNat then .done s
    else .stall

/-- WAITX. -/
def execWaitx (a : BitVec 6) (c : BitVec 3) (s : State) : Out :=
  scalarOp s [a.toNat] fun f =>
    if f.counter c.toNat ≤ (f.s a.toNat).toNat then .done s else .stall

/-! ### Branches -/

/-- A word offset as a 48-bit number. -/
def off48 {w : Nat} (o : BitVec w) : BitVec 48 := o.signExtend 48

/-- BRA (R270). -/
def execBra (c : BitVec 4) (o : BitVec 22) (s : State) : Out :=
  runFibre s fun f => if braTaken f c.toNat then .jump s (f.target (off48 o)) else .done s

/-- BRX (R272). -/
def execBrx (a : BitVec 6) (s : State) : Out :=
  scalarOp s [a.toNat] fun f =>
    if badTarget (f.s a.toNat) then .trap (plainTrap trapBADPC)
    else .jump s ((f.s a.toNat).setWidth 48)

/-! ### The window (R196 to R199) -/

/-- The frame base, the lowest resident register, the frame size and the ring size of a window, in
registers (R196, R198). -/
def winB (w : Dword) : Nat := wDepth w * 8
def winLo (w : Dword) : Nat := wSpill w * 8
def winF (w : Dword) : Nat := wFsz w * 8
def winQ (w : Dword) : Nat := wRing w * 8

/-- The units that a call spills, lowest first (R198). -/
def spillUnits (w : Dword) (c : Nat) : List Nat :=
  (List.range ((winB w + 8 * c + winF w - (winLo w + winQ w) + 7) / 8)).map fun i => wSpill w + i

/-- The units that a return fills, highest first (R198). -/
def fillUnits (w : Dword) (c : Nat) : List Nat :=
  (List.range ((winLo w - (winB w - 8 * c) + 7) / 8)).map fun i => wSpill w - 1 - i

/-- Ring positions of a unit. -/
def unitPos (w : Dword) (u : Nat) : List Nat :=
  (List.range 8).map fun i => (u * 8 + i) % winQ w

/-- Ring positions that a call brings into the frame (R198). -/
def newPos (w : Dword) (c : Nat) : List Nat :=
  (List.range (winF w)).filterMap fun n =>
    if winB w + winF w ≤ winB w + 8 * c + n then some ((winB w + 8 * c + n) % winQ w) else none

/-- The window after a call or a return (R198). -/
def movedWindow (w : Dword) (isRet : Bool) (c : Nat) : Dword :=
  let depth := if isRet then wDepth w - c else wDepth w + c
  let spill := if isRet then wSpill w - (fillUnits w c).length else wSpill w + (spillUnits w c).length
  mkWdesc spill depth (wRing w) (wShbase w) (wFsz w)

/-- The 1,024 bytes of a unit of the ring (R197). -/
def unitBytes (f : Fibre) (u : Nat) : List Byte :=
  (unitPos f.wdesc u).flatMap fun p => leBytes 128 (Sparse.getZ f.ring p).toNat

/-- A fibre whose ring holds a unit read back from the spill area. -/
def Fibre.putUnit (f : Fibre) (u : Nat) (b : List Byte) : Fibre :=
  { f with ring := (List.range 8).foldl (fun r i =>
      Sparse.setZ r ((u * 8 + i) % winQ f.wdesc)
        (BitVec.ofNat 1024 (leNat ((b.drop (128 * i)).take 128)))) f.ring }

/-- Moves one unit: an access of the fibre itself of kind WRITE or READ (R199). `err` gives refused
accesses the error response (R32). -/
def moveUnit (s : State) (loc : Nat) (isRet err : Bool) (u : Nat) : Option Trouble × State :=
  match s.fibre loc with
  | none => (none, s)
  | some f =>
    let va := (f.spBase + BitVec.ofNat 64 (u * 1024)).toNat
    let w := s.who loc f
    match s.locate w f.group (if isRet then .read else .write) .global va 1024 with
    | (.ok l, s0) =>
      (match s0.foldSpots err l with
      | (some t, s1) => (some t, s1)
      | (none, s1) =>
        if isRet then
          match s1.collect loc (l.flatMap Spot.lines) with
          | (false, s2) => (some .wait, s2)
          | (true, s2) =>
            let (b, s3) := s2.readSpots w true l
            (none, s3.modFibre loc fun f => f.putUnit u b)
        else (none, s1.writeSpots w.core f.wmode (unitBytes f u) l))
    | (a, s1) =>
      match a.trouble (BitVec.ofNat 64 va) (s1.szOf w .global va) with
      | none => (none, s1)
      | some t =>
        if err && (t.kind == 2 || t.kind == 3 || t.kind == 4) then
          (none, if isRet then s1.modFibre loc fun f => f.putUnit u [] else s1)
        else (some t, s1)

/-- Moves units until one meets trouble; answers how many were moved. -/
def moveUnits (s : State) (loc : Nat) (isRet err : Bool) : List Nat → Option Trouble × Nat × State
  | [] => (none, 0, s)
  | u :: rest =>
    match moveUnit s loc isRet err u with
    | (some t, s1) => (some t, 0, s1)
    | (none, s1) =>
      let (t, n, s2) := moveUnits s1 loc isRet err rest
      (t, n + 1, s2)

/-- The window changes: its descriptor, and on a call the zeroed registers and the link value
(R198, R271). The fibre goes on at the target. -/
def finishMove (s : State) (isRet : Bool) (c : Nat) (target : BitVec 48) : State :=
  (s.modFibre s.cur fun f =>
    let w := f.wdesc
    if isRet then { f with wdesc := movedWindow w true c }
    else
      { f with
        wdesc := movedWindow w false c
        ring := (newPos w c).foldl (fun r p => Sparse.erase r p) f.ring
        lr := BitVec.ofNat 64 (f.nextPc.toNat + c * 2 ^ 48) }).retireTo target

/-- Starts a call or a return whose checks have passed (R199); its units move behind the fibre's earlier accesses
(R133). -/
def startMove (s : State) (f : Fibre) (isRet : Bool) (c : Nat) (target : BitVec 48) (opa : Dword) :
    Act :=
  let units := if isRet then fillUnits f.wdesc c else spillUnits f.wdesc c
  let touched := units.flatMap (unitPos f.wdesc) ++ (if isRet then [] else newPos f.wdesc c)
  if s.busy s.cur (touched.map fun p => .v (fidOf s.cur) p) || (!units.isEmpty && s.lsuWaits s.cur fun _ => true) then .stall
  else match moveUnits s s.cur isRet false units with
    | (none, _, s1) => .moved (finishMove s1 isRet c target)
    | (some .wait, _, s1) => .stallWith s1
    | (some t, n, s1) =>
      let (id, s2) := s1.newOp f 1 f.active opa 0 none (.move isRet c target n)
      let s3 := match t with
        | .miss _ m _ => s2.requestMissing (clusterOf (coreOf s.cur)) f.asid m
        | _ => s2
      .moved (s3.writeRecord id false (if isRet then AKind.read.code else AKind.write.code) t)

/-- The replay of a recorded call or return: it continues from the cursor and then changes the window
(R199). -/
def replayMove (s : State) (id : Nat) (o : Op) (isRet : Bool) (c : Nat) (target : BitVec 48)
    (moved : Nat) : State :=
  match s.fibre o.loc with
  | none => s
  | some f =>
    let units := (if isRet then fillUnits f.wdesc c else spillUnits f.wdesc c).drop moved
    match moveUnits s o.loc isRet o.err units with
    | (none, _, s1) =>
      let s2 := ({ s1 with cur := o.loc }.modFibre o.loc fun f => { f with cede := o.cede }).endOp id
      { finishMove s2 isRet c target with cur := s.cur }
    | (some t, n, s1) =>
      let s2 := s1.modOp id fun o => { o with body := .move isRet c target (moved + n), err := false }
      let s3 := match t with
        | .miss _ m _ => s2.requestMissing (clusterOf (coreOf o.loc)) o.asid m
        | _ => s2
      if t = .wait then s2
      else s3.writeRecord id true (if isRet then AKind.read.code else AKind.write.code) t

/-- The spill area of a call would be passed (R198). -/
def spillOverflow (f : Fibre) (c : Nat) : Bool :=
  match (spillUnits f.wdesc c).getLast? with
  | some u => decide (f.spLen < (u + 1) * 1024)
  | none => false

/-- CALL (R271). -/
def execCall (c : BitVec 4) (o : BitVec 22) (s : State) : Out :=
  runFibre s fun f =>
    if spillOverflow f c.toNat then .trap (plainTrap trapWINOVF)
    else startMove s f false c.toNat (f.target (off48 o)) 0

/-- CALLX (R272). -/
def execCallx (c : BitVec 4) (a : BitVec 6) (s : State) : Out :=
  scalarOp s [a.toNat] fun f =>
    if badTarget (f.s a.toNat) then .trap (plainTrap trapBADPC)
    else if spillOverflow f c.toNat then .trap (plainTrap trapWINOVF)
    else startMove s f false c.toNat ((f.s a.toNat).setWidth 48) (f.s a.toNat)

/-- RET (R272). -/
def execRet (a : BitVec 6) (s : State) : Out :=
  scalarOp s [a.toNat] fun f =>
    let link := f.s a.toNat
    let c := field link 48 4
    if field link 52 12 ≠ 0 ∨ field link 0 2 ≠ 0 then .trap (plainTrap trapBADPC)
    else if wDepth f.wdesc < c then .trap (plainTrap trapWINOVF)
    else startMove s f true c (link.setWidth 48) link

/-! ### Structured divergence (R275) -/

/-- The predicate of a CTRL operation, inverted under NEG. -/
def ctrlPred (f : Fibre) (p : BitVec 3) (n : BitVec 1) : Word :=
  if n = 1 then ~~~f.p p.toNat else f.p p.toNat

/-- The fibre in issue with a mask and a stack. -/
def State.putPath (s : State) (exec : Word) (stack : List StackEnt) : State :=
  s.modFibre s.cur fun f => { f with exec := exec, stack := stack }

/-- The path continues: behind the instruction, or at an address when it is empty. -/
def pathNext (s : State) (exec : Word) (stack : List StackEnt) (away : BitVec 48) : Act :=
  if exec = 0 then .jump (s.putPath exec stack) away else .done (s.putPath exec stack)

/-- IF. -/
def execIfOp (p : BitVec 3) (n : BitVec 1) (o : BitVec 19) (s : State) : Out :=
  runFibre s fun f =>
    let q := ctrlPred f p n
    let target := f.target (off48 o)
    if 32 ≤ f.stack.length then .trap (plainTrap trapCTLDEEP)
    else pathNext s (f.exec &&& q) (⟨.ifEnt, f.exec, f.exec &&& ~~~q, target⟩ :: f.stack) target

/-- ELSE. -/
def execElseOp (o : BitVec 19) (s : State) : Out :=
  runFibre s fun f =>
    match f.stack with
    | e :: rest =>
      let target := f.target (off48 o)
      if e.kind = .ifEnt then pathNext s e.pend (⟨.elseEnt, e.ent, 0, target⟩ :: rest) target
      else .trap (plainTrap trapCTLMIS)
    | [] => .trap (plainTrap trapCTLMIS)

/-- ENDIF. -/
def execEndif (s : State) : Out :=
  runFibre s fun f =>
    match f.stack with
    | e :: rest => if e.kind = .loopEnt then .trap (plainTrap trapCTLMIS) else .done (s.putPath e.ent rest)
    | [] => .trap (plainTrap trapCTLMIS)

/-- LOOP. -/
def execLoop (o : BitVec 19) (s : State) : Out :=
  runFibre s fun f =>
    if 32 ≤ f.stack.length then .trap (plainTrap trapCTLDEEP)
    else .done (s.putPath f.exec (⟨.loopEnt, f.exec, 0, f.target (off48 o)⟩ :: f.stack))

/-- Takes lanes out of every entry above the nearest LOOP; into that LOOP's PEND go the lanes `into`. -/
def leaveLoop (b into : Word) : List StackEnt → List StackEnt
  | [] => []
  | e :: rest =>
    if e.kind = .loopEnt then { e with pend := e.pend ||| into } :: rest
    else { e with ent := e.ent &&& ~~~b, pend := e.pend &&& ~~~b } :: leaveLoop b into rest

/-- BREAK and LCONT: `keep` says that the lanes come back with the loop's next turn. -/
def leavePath (p : BitVec 3) (n : BitVec 1) (keep : Bool) (s : State) : Out :=
  runFibre s fun f =>
    match f.stack with
    | [] => .trap (plainTrap trapCTLMIS)
    | top :: _ =>
      if f.stack.all fun e => e.kind ≠ .loopEnt then .trap (plainTrap trapCTLMIS)
      else
        let b := f.exec &&& ctrlPred f p n
        pathNext s (f.exec &&& ~~~b) (leaveLoop b (if keep then b else 0) f.stack) top.addr

/-- BREAK. -/
def execBreakOp (p : BitVec 3) (n : BitVec 1) (s : State) : Out := leavePath p n false s

/-- LCONT. -/
def execLcont (p : BitVec 3) (n : BitVec 1) (s : State) : Out := leavePath p n true s

/-- ENDLOOP. -/
def execEndloop (p : BitVec 3) (n : BitVec 1) (o : BitVec 19) (s : State) : Out :=
  runFibre s fun f =>
    match f.stack with
    | e :: rest =>
      if e.kind = .loopEnt then
        let go := (f.exec ||| e.pend) &&& ctrlPred f p n
        if go = 0 then .done (s.putPath e.ent rest)
        else .jump (s.putPath go ({ e with pend := 0 } :: rest)) (f.target (off48 o))
      else .trap (plainTrap trapCTLMIS)
    | [] => .trap (plainTrap trapCTLMIS)

end Sys2Proof.Machine
end

