-- ==== Sys2Proof/Machine/Real.lean ====
section
/-! DEFINITION. The functions of R296: reciprocal, square roots, powers and logarithms of two, sine and
cosine in turns, and the hyperbolic tangent. Each is computed to far more bits than any format holds
(fixed point with 256 fraction bits); the written result is a free value within the bound of R296
around it. -/

namespace Sys2Proof.Machine

/-- One in fixed point. -/
def fixOne : Nat := 2 ^ 256

/-- The natural logarithm of two, and pi, in fixed point. -/
def fixLn2 : Nat := 0xb17217f7d1cf79abc9e3b39803f2f6af40f343267298b62d8a0d175b8baafa2b
def fixPi : Nat := 0x3243f6a8885a308d313198a2e03707344a4093822299f31d0082efa98ec4e6c89

/-- The product of two fixed-point numbers. -/
def fixMul (a b : Nat) : Nat := a * b / fixOne

/-- A finite value's magnitude in fixed point, cut below. -/
def toFix (m : Nat) (e : Int) : Nat :=
  if 0 ≤ e + 256 then m * 2 ^ (e + 256).toNat else m / 2 ^ (-(e + 256)).toNat

/-- The sum x^n / n! from term `k` on, by Horner-free accumulation: `t` is the current term. -/
def expTerms (x : Nat) : Nat → Nat → Nat → Nat
  | 0, _, _ => 0
  | n + 1, k, t => t + expTerms x n (k + 1) (fixMul t x / (k + 1))

/-- 2^g for a fraction `g` below one. -/
def fixExp2 (g : Nat) : Nat := expTerms (fixMul g fixLn2) 80 0 fixOne

/-- The binary digits of log2 of `x` in [1, 2), by repeated squaring. -/
def log2Digits : Nat → Nat → Nat → Nat
  | 0, _, acc => acc
  | n + 1, x, acc =>
    let y := fixMul x x
    if 2 * fixOne ≤ y then log2Digits n (y / 2) (2 * acc + 1) else log2Digits n y (2 * acc)

/-- Alternating sums of sine and cosine: `t` is the current term, `x2` the argument's square. -/
def trigTerms (x2 : Nat) : Nat → Nat → Int → Int
  | 0, _, _ => 0
  | n + 1, k, t => t + trigTerms x2 n (k + 2) (-(t * x2 / fixOne / ((k + 1) * (k + 2) : Nat)))

/-- sin 2πr for r in [0, 1/4], and cos 2πr. -/
def fixSin (r : Nat) : Nat :=
  let x := fixMul (2 * r) fixPi
  (trigTerms (fixMul x x) 40 1 x).toNat

def fixCos (r : Nat) : Nat :=
  let x := fixMul (2 * r) fixPi
  (trigTerms (fixMul x x) 40 0 fixOne).toNat

/-- e^(−2x), for a fixed-point x below 64; above, one unit. -/
def fixExpMinus2 (x : Nat) : Nat :=
  if 64 * fixOne ≤ x then 1
  else
    let u := 2 * x * fixOne / fixLn2
    let i := u / fixOne
    let g := u % fixOne
    fixExp2 (fixOne - g) / 2 ^ (i + 1)

/-- The function instructions by number. -/
inductive Fun where
  | rcp | rsq | sqrt | exp2 | log2 | sin | cos | tanh
  deriving DecidableEq, Repr

def Fun.code : Fun → Nat
  | .rcp => 0
  | .rsq => 1
  | .sqrt => 2
  | .exp2 => 3
  | .log2 => 4
  | .sin => 5
  | .cos => 6
  | .tanh => 7

/-- What R296 says of f(a): a special result with its flags, an exact value, or a value close to the
given one whose written result has a bound. -/
inductive FunRes where
  | special (v : Val) (flags : Nat)
  | exact (v : Val)
  | near (v : Val)
  deriving DecidableEq, Repr

/-- The value is an integer; its parity when it is one. -/
def intOf (neg : Bool) (m : Nat) (e : Int) : Option Int :=
  if 0 ≤ e then some (signedMag neg (m * 2 ^ (min e.toNat 5000)))
  else if m % 2 ^ (-e).toNat = 0 then some (signedMag neg (m / 2 ^ (-e).toNat)) else none

/-- A power of two's exponent. -/
def powerOf (m : Nat) (e : Int) : Option Int :=
  if m = 2 ^ (bitLen m - 1) ∧ m ≠ 0 then some (e + (bitLen m : Int) - 1) else none

/-- An exponent kept where every format overflows or underflows the same way. -/
def clipExp (n : Int) : Int := clampInt (-3000) 3000 n

/-- sin 2πt for a turn fraction `t` in fixed point, with its sign. -/
def turnSin (t : Nat) : Val :=
  let q := fixOne / 4
  if t ≤ q then .fin false (fixSin t) (-256)
  else if t ≤ 2 * q then .fin false (fixSin (2 * q - t)) (-256)
  else if t ≤ 3 * q then .fin true (fixSin (t - 2 * q)) (-256)
  else .fin true (fixSin (4 * q - t)) (-256)

def turnCos (t : Nat) : Val :=
  let q := fixOne / 4
  if t ≤ q then .fin false (fixCos t) (-256)
  else if t ≤ 2 * q then .fin true (fixCos (2 * q - t)) (-256)
  else if t ≤ 3 * q then .fin true (fixCos (t - 2 * q)) (-256)
  else .fin false (fixCos (4 * q - t)) (-256)

/-- The turns of a finite value modulo one, in fixed point. -/
def turns (neg : Bool) (m : Nat) (e : Int) : Nat :=
  let t := if 0 ≤ e then 0 else toFix m e % fixOne
  if neg then (fixOne - t) % fixOne else t

/-- A finite value is a multiple of a quarter: its number of quarters modulo four. -/
def quarters (neg : Bool) (m : Nat) (e : Int) : Option Nat :=
  (intOf neg m (e + 2)).map fun n => (n % 4).toNat

/-- f(a) for a finite non-zero operand. -/
def Fun.finite (g : Fun) (neg : Bool) (m : Nat) (e : Int) : FunRes :=
  match g with
  | .rcp =>
    match powerOf m e with
    | some p => .exact (.fin neg 1 (-p))
    | none => let (q, x) := divSticky 1 m; .near (.fin neg q (x - e))
  | .rsq =>
    if neg then .special Val.invalid flagInvalid
    else
      match powerOf m e with
      | some p =>
        if p % 2 = 0 then .exact (.fin false 1 (-(p / 2)))
        else let (r, x) := sqrtSticky m e; let (q, y) := divSticky 1 r; .near (.fin false q (y - x))
      | none => let (r, x) := sqrtSticky m e; let (q, y) := divSticky 1 r; .near (.fin false q (y - x))
  | .sqrt =>
    if neg then .special Val.invalid flagInvalid
    else let (r, x) := sqrtSticky m e; .exact (.fin false r x)
  | .exp2 =>
    match intOf neg m e with
    | some n => .exact (.fin false 1 (clipExp n))
    | none =>
      let t := toFix m (if 2000 < e then 2000 else e)
      let i := t / fixOne
      let g := t % fixOne
      if neg then .near (.fin false (fixExp2 (fixOne - g)) (clipExp (-(i : Int) - 1) - 256))
      else .near (.fin false (fixExp2 g) (clipExp i - 256))
  | .log2 =>
    if neg then .special Val.invalid flagInvalid
    else
      match powerOf m e with
      | some p => .exact (Val.ofInt p)
      | none =>
        let k : Int := e + (bitLen m : Int) - 1
        let x := toFix m (-((bitLen m : Int) - 1))
        let d := log2Digits 120 x 0
        let n : Int := k * 2 ^ 120 + d
        .near (.fin (decide (n < 0)) n.natAbs (-120))
  | .sin =>
    match quarters neg m e with
    | some 0 => .exact (.fin neg 0 0)
    | some 1 => .exact (Val.ofInt 1)
    | some 2 => .exact (.fin neg 0 0)
    | some _ => .exact (Val.ofInt (-1))
    | none => .near (turnSin (turns neg m e))
  | .cos =>
    match quarters neg m e with
    | some 0 => .exact (Val.ofInt 1)
    | some 1 => .exact Val.zero
    | some 2 => .exact (Val.ofInt (-1))
    | some _ => .exact Val.zero
    | none => .near (turnCos (turns neg m e))
  | .tanh =>
    if e + (bitLen m : Int) < -30 then
      -- a (1 − a²/3) for a small argument
      let n := m * m
      let x := 2 * e
      let w : Nat := 2 ^ 300
      let third := if 0 ≤ x + 300 then n * 2 ^ (x + 300).toNat / 3 else n / 2 ^ (-(x + 300)).toNat / 3
      .near (.fin neg (m * (w - third - 1)) (e - 300))
    else
      let t := fixExpMinus2 (toFix m e)
      .near (.fin neg ((fixOne - t) * fixOne / (fixOne + t)) (-256))

/-- f(a) for any operand (R296). -/
def Fun.value (g : Fun) (a : Val) : FunRes :=
  match firstNaN [a] with
  | some (v, fl) => .special v fl
  | none =>
    match a with
    | .fin neg m e =>
      if m = 0 then
        match g with
        | .rcp | .rsq => .special (.inf neg) flagDivZero
        | .sqrt | .sin | .tanh => .special (.fin neg 0 0) 0
        | .exp2 | .cos => .special (Val.ofInt 1) 0
        | .log2 => .special (.inf true) flagDivZero
      else g.finite neg m e
    | .inf neg =>
      match g with
      | .rcp => .special (.fin neg 0 0) 0
      | .rsq => if neg then .special Val.invalid flagInvalid else .special (.fin false 0 0) 0
      | .sqrt | .log2 => if neg then .special Val.invalid flagInvalid else .special (.inf false) 0
      | .exp2 => if neg then .special (.fin false 0 0) 0 else .special (.inf false) 0
      | .sin | .cos => .special Val.invalid flagInvalid
      | .tanh => .special (.fin neg 1 0) 0
    | _ => .special a 0

/-- The last place of a finite value in a format, as an exponent of two (R296). -/
def FloatFmt.lastPlace (ff : FloatFmt) (m : Nat) (e : Int) : Int :=
  let emin : Int := 1 - (ff.bias : Int)
  let msb : Int := e + (bitLen m : Int) - 1
  (if msb < emin then emin else msb) - ff.fbits

/-- A finite value at or above one half and at or below two. -/
def nearOne (a : Val) : Bool :=
  match a with
  | .fin _ _ _ => Val.cmp a.abs (.fin false 1 (-1)) != .lt && Val.cmp a.abs (.fin false 1 1) != .gt
  | _ => false

/-- The bound of R296 on the written result under RNE, as (count, exponent of two): `a` is the
operand and m × 2^e the value of f(a). -/
def Fun.bound (g : Fun) (f : Fmt) (ff : FloatFmt) (a : Val) (m : Nat) (e : Int) : Nat × Int :=
  let ulp := ff.lastPlace m e
  match g with
  | .rsq | .exp2 | .tanh => (if f = .f32 then 2 else 1, ulp)
  | .log2 => if f = .f32 then (if nearOne a then (1, -22) else (2, ulp)) else (1, ulp)
  | .sin | .cos => if f = .f32 then (1, -22) else (1, -(ff.fbits : Int))
  | _ => (1, ulp)

/-- A count of 2^x in units of 2^e, cut below. -/
def unitsOf (n : Nat) (x e : Int) : Nat :=
  if e ≤ x then n * 2 ^ (x - e).toNat else n / 2 ^ (e - x).toNat

/-- The distance of an encoding from m × 2^e is within a bound. -/
def withinBound (ff : FloatFmt) (enc : Nat) (v : Val) (n : Nat) (x : Int) : Bool :=
  match ff.read enc, v with
  | .fin n1 m1 e1, .fin n2 m2 e2 =>
    let d := addFin n1 m1 e1 (!n2) m2 e2
    Val.cmp (.fin false d.1.natAbs d.2) (.fin false n x) != .gt
  | _, _ => true

/-- The bound of R296 on the written result: under another mode than RNE it is wider by one last place of f(a). -/
def Fun.limit (g : Fun) (f : Fmt) (ff : FloatFmt) (c : Rctx) (a : Val) (m : Nat) (e : Int) : Nat × Int :=
  let (n, x) := g.bound f ff a m e
  let u := ff.lastPlace m e
  if c.rm = .rne then (n, x)
  else if x ≤ u then (n + 2 ^ (u - x).toNat, x)
  else (n * 2 ^ (x - u).toNat + 1, u)

/-- The written result of a function instruction (R296): `free` picks the internal value within the
bound. A result that leaves the bound by its rounding is the correctly rounded one. -/
def Fun.write (g : Fun) (f : Fmt) (ff : FloatFmt) (c : Rctx) (a : Val) (free : Int) : Nat × Nat :=
  match g.value a with
  | .special v fl =>
    let (r, fl2) := ff.round f.five c v
    (r, orFlags fl fl2)
  | .exact v => ff.round f.five c v
  | .near v =>
    match v with
    | .fin neg m e =>
      let (n, x) := g.bound f ff a m e
      let wide := g.limit f ff c a m e
      let lim : Int := unitsOf n x e
      let k := clampInt (-lim) lim free
      let y := signedMag neg m + k
      let (r0, fl0) := ff.round f.five c (.fin (if y = 0 then neg else decide (y < 0)) y.natAbs e)
      let (r, fl) :=
        if withinBound ff r0 v wide.1 wide.2 then (r0, fl0) else ff.round f.five c v
      let tiny := match ff.read r with
        | .fin _ q _ => q != 0 && ff.subnormal r
        | _ => false
      (r, orFlags fl (flagInexact + (if tiny then flagUnderflow else 0)))
    | _ => ff.round f.five c v

end Sys2Proof.Machine
end

