-- ==== Sys2Proof/Machine/Vector.lean ====
section
/-! DEFINITION. Vector instructions (R283 to R304): operating types, element-wise operations,
conversions, shuffles, reductions, bit fields and random numbers. -/

namespace Sys2Proof.Machine

/-! ### Operating types (R283) -/

/-- The element type in MODE, read as its base format (R104). -/
def modeType (mode : Word) : Fmt := ((Fmt.ofCode (modeET mode)).map (·.1)).getD .raw

/-- The operating type of the integer class; none is ILL. -/
def intType : Fmt → Option Fmt
  | .s8 => some .s8 | .n8 => some .n8 | .s16 => some .s16 | .n16 => some .n16
  | .s32 => some .s32 | .n32 => some .n32 | .s64 => some .s64 | .n64 => some .n64
  | .f64 => some .s64 | .f32 => some .s32 | .f19 => some .s32 | .b16 => some .s16
  | .f16 => some .s16 | .e5m2 => some .s8 | .e4m3 => some .s8 | .e3m4 => some .s8
  | .raw => some .n32
  | .e2m1 | .s4 | .n4 | .t2 | .b1 | .a96f | .a96i => none

/-- The operating type of the float class; none is ILL. -/
def floatType : Fmt → Option Fmt
  | .s16 | .n16 => some .f16
  | .s32 | .n32 => some .f32
  | .s64 | .n64 => some .f64
  | .f64 => some .f64
  | .f32 => some .f32
  | .f19 => some .f19
  | .b16 => some .b16
  | .f16 => some .f16
  | .s8 | .n8 | .e5m2 | .e4m3 | .e3m4 | .e2m1 | .s4 | .n4 | .t2 | .b1 | .raw | .a96f | .a96i => none

/-- The untyped class acts on register pairs for the 64-bit types (R283); none is ILL. -/
def untypedPair : Fmt → Option Bool
  | .s64 | .n64 | .f64 => some true
  | .a96f | .a96i => none
  | _ => some false

/-- The class that R288 gives compares and their like: integer for an integer code or RAW, float
otherwise; the type is its operating type. -/
def mixedType (f : Fmt) : Option Fmt := if f.isFloat then floatType f else intType f

/-- Elements of a lane's word. -/
def Fmt.elems (f : Fmt) : Nat := if f.width = 64 then 1 else 32 / f.width

/-! ### Lanes -/

/-- A vector operand: 32 bits of a lane, or 64 from a register pair, low word first (R247). -/
def vGet (s : State) (loc : Nat) (f : Fibre) (n : Nat) (pair : Bool) : Nat → Nat :=
  let lo := s.v loc f n
  let hi := if pair then s.v loc f (n + 1) else 0
  fun i => (lane lo i).toNat + (lane hi i).toNat * 2 ^ 32

/-- Operand B: a vector register, or under BS a scalar for every lane (R247, R284). -/
def bGet (s : State) (loc : Nat) (f : Fibre) (b : BitVec 7) (bs : BitVec 1) (pair : Bool) : Nat → Nat :=
  if bs = 1 then
    let x := (f.s (b.toNat % 64)).toNat
    let y := if pair then x else x % 2 ^ 32
    fun _ => y
  else vGet s loc f b.toNat pair

/-- Writes values into lanes of a register. -/
def putLanes (v : VReg) : List (Nat × Nat) → VReg
  | [] => v
  | (i, x) :: rest => putLanes (setLane v i (BitVec.ofNat 32 x)) rest

/-- Writes lane values into v[n], or into the pair v[n], v[n+1]. -/
def State.writeLanes (s : State) (n : Nat) (pair : Bool) (res : List (Nat × Nat)) : State :=
  match s.fibre s.cur with
  | none => s
  | some f =>
    let s1 := s.setV s.cur n (putLanes (s.v s.cur f n) res)
    if pair then
      match s1.fibre s.cur with
      | none => s1
      | some f1 =>
        s1.setV s.cur (n + 1)
          (putLanes (s1.v s.cur f1 (n + 1)) (res.map fun e => (e.1, e.2 / 2 ^ 32)))
    else s1

/-- A field of a register pair must not name v127 (R247). -/
def pairBad (pair : Bool) (l : List Nat) : Bool := pair && l.any fun n => decide (126 < n)

/-- The registers of operands, with the high halves of pairs. -/
def pairRegs (pair : Bool) (l : List Nat) : List Nat := if pair then l ++ l.map (· + 1) else l

/-- The scoreboard entries of a V3 instruction: vector fields, and B as it is read. -/
def vecRes (s : State) (f : Fibre) (pair : Bool) (regs : List Nat) (b : Option (BitVec 7 × BitVec 1)) :
    List Res :=
  match b with
  | some (n, bs) =>
    if bs = 1 then resVs s.cur f (pairRegs pair regs) ++ resS s.cur [n.toNat % 64]
    else resVs s.cur f (pairRegs pair (n.toNat :: regs))
  | none => resVs s.cur f (pairRegs pair regs)

/-- Vector fields that are limited by R247. -/
def vecFields (regs : List Nat) (b : Option (BitVec 7 × BitVec 1)) : List Nat :=
  match b with
  | some (n, bs) => if bs = 1 then regs else n.toNat :: regs
  | none => regs

/-- The flags of lanes together. -/
def laneFlags (res : List (Nat × Nat × Nat)) : Nat := res.foldl (fun a e => a ||| e.2.2) 0

/-- The lanes that raise one of the flags. -/
def flagLanes (en : Nat) (res : List (Nat × Nat × Nat)) : Word :=
  maskOf ((res.filter fun e => e.2.2 &&& en != 0).map (·.1))

/-- Completes a lane-acting instruction with lane results (value, flags): the floating-point trap
before any lane is written, else the result and the flags (R120, R285). The draws of stochastic
rounding advance. -/
def vecFinish (s : State) (f : Fibre) (res : List (Nat × Nat × Nat)) (write : State → State) : Act :=
  let en := enabledFlags f.mode (laneFlags res)
  if en ≠ 0 then .trap ⟨trapFPE, en, 0, flagLanes en res⟩
  else
    .done (((write s).modFibre s.cur fun g => g.addFlags (laneFlags res)).drew 256)

/-- A lane-acting instruction on words or pairs: checks, operands, result per lane. `g` answers a
lane's value and flags. -/
def vecOp (s : State) (f : Fibre) (pair : Bool) (d : Nat) (srcs : List Nat)
    (b : Option (BitVec 7 × BitVec 1)) (lanes : List Nat) (g : Nat → Nat × Nat) : Act :=
  if pairBad pair (vecFields (d :: srcs) b) then .trap (illTrap 4)
  else if s.busy s.cur (vecRes s f pair (d :: srcs) b) then .stall
  else
    let res := lanes.map fun i => (i, g i)
    vecFinish s f res fun s => s.writeLanes d pair (res.map fun e => (e.1, e.2.1))

/-- Runs a body under an operating type, or raises ILL as check 6 (R285). -/
def withType {α : Type} (t : Option α) (body : α → Act) : Act :=
  match t with
  | some f => body f
  | none => .trap (illTrap 6)

/-! ### Elements -/

/-- Element `i` of width `w`. -/
def elem (w x i : Nat) : Nat := x / 2 ^ (w * i) % 2 ^ w

/-- Packs elements of width `w`, element 0 lowest; flags are ORed together (R284). -/
def packElems (w : Nat) : List (Nat × Nat) → Nat × Nat
  | [] => (0, 0)
  | (x, fl) :: rest =>
    let (y, fl2) := packElems w rest
    (x % 2 ^ w + y * 2 ^ w, orFlags fl fl2)

/-- Applies a function of the element number to each element of a lane. -/
def perElem (f : Fmt) (g : Nat → Nat × Nat) : Nat × Nat :=
  packElems f.width ((List.range f.elems).map g)

/-! ### Rounding -/

/-- The rounding mode of an instruction: RO, or MODE.RM when RO is 0 (R249). -/
def roMode (mode : Word) (ro : BitVec 2) : Rm :=
  match ro.toNat with
  | 1 => .rne
  | 2 => .rtz
  | 3 => .rdn
  | _ => Rm.ofCode (modeRM mode)

/-- The conversion context of a lane's element: the draw of stochastic rounding is fresh for each. -/
def vecCtx (s : State) (mode : Word) (ro : BitVec 2) (lane e : Nat) : Rctx :=
  ⟨roMode mode ro, modeFTZ mode, modeNANP mode, modeSAT mode, Config.rsrDraw (s.draws + lane * 8 + e)⟩

/-! ### Integer operations (R287) -/

/-- An element read under its type. -/
def readInt (f : Fmt) (x : Nat) : Int := if f.signed then signedOf f.width x else (x % 2 ^ f.width : Nat)

/-- An integer as w bits: wrapped, or clamped under SAT. -/
def writeInt (f : Fmt) (sat : Bool) (n : Int) : Nat :=
  let m := if sat then clampInt f.bounds.1 f.bounds.2 n else n
  (m % (2 ^ f.width : Int)).toNat

/-- A binary element-wise instruction of the integer class. -/
def intOp (d a b : BitVec 7) (bs : BitVec 1) (g : Fmt → Bool → Nat → Nat → Nat) (s : State) : Out :=
  runFibre s fun f =>
    withType (intType (modeType f.mode)) fun t =>
      let pair := decide (t.width = 64)
      let x := vGet s s.cur f a.toNat pair
      let y := bGet s s.cur f b bs pair
      vecOp s f pair d.toNat [a.toNat] (some (b, bs)) (lanesOf f.active) fun i =>
        perElem t fun e => (g t (modeSAT f.mode) (elem t.width (x i) e) (elem t.width (y i) e), 0)

def elAdd (t : Fmt) (sat : Bool) (a b : Nat) : Nat := writeInt t sat (readInt t a + readInt t b)

def elSub (t : Fmt) (sat : Bool) (a b : Nat) : Nat := writeInt t sat (readInt t a - readInt t b)

def elMul (t : Fmt) (sat : Bool) (a b : Nat) : Nat := writeInt t sat (readInt t a * readInt t b)

def elMulh (t : Fmt) (_ : Bool) (a b : Nat) : Nat :=
  writeInt t false (readInt t a * readInt t b / 2 ^ t.width)

def elShl (t : Fmt) (_ : Bool) (a b : Nat) : Nat := a * 2 ^ (b % t.width) % 2 ^ t.width

def elShr (t : Fmt) (_ : Bool) (a b : Nat) : Nat := a / 2 ^ (b % t.width)

def elSar (t : Fmt) (_ : Bool) (a b : Nat) : Nat :=
  (signedOf t.width a / 2 ^ (b % t.width) % (2 ^ t.width : Int)).toNat

def elRot (t : Fmt) (_ : Bool) (a b : Nat) : Nat :=
  let k := b % t.width
  (a * 2 ^ k + a / 2 ^ (t.width - k)) % 2 ^ t.width

def elMin (t : Fmt) (_ : Bool) (a b : Nat) : Nat := if readInt t a ≤ readInt t b then a else b

def elMax (t : Fmt) (_ : Bool) (a b : Nat) : Nat := if readInt t a ≤ readInt t b then b else a

def elAbsd (t : Fmt) (_ : Bool) (a b : Nat) : Nat := (readInt t a - readInt t b).natAbs

def elAvg (t : Fmt) (_ : Bool) (a b : Nat) : Nat :=
  writeInt t false ((readInt t a + readInt t b + 1) / 2)

def execVadd (d a b : BitVec 7) (bs : BitVec 1) (s : State) : Out := intOp d a b bs elAdd s

def execVsub (d a b : BitVec 7) (bs : BitVec 1) (s : State) : Out := intOp d a b bs elSub s

def execVmul (d a b : BitVec 7) (bs : BitVec 1) (s : State) : Out := intOp d a b bs elMul s

def execVmulh (d a b : BitVec 7) (bs : BitVec 1) (s : State) : Out := intOp d a b bs elMulh s

def execVshl (d a b : BitVec 7) (bs : BitVec 1) (s : State) : Out := intOp d a b bs elShl s

def execVshr (d a b : BitVec 7) (bs : BitVec 1) (s : State) : Out := intOp d a b bs elShr s

def execVsar (d a b : BitVec 7) (bs : BitVec 1) (s : State) : Out := intOp d a b bs elSar s

def execVrot (d a b : BitVec 7) (bs : BitVec 1) (s : State) : Out := intOp d a b bs elRot s

def execVmin (d a b : BitVec 7) (bs : BitVec 1) (s : State) : Out := intOp d a b bs elMin s

def execVmax (d a b : BitVec 7) (bs : BitVec 1) (s : State) : Out := intOp d a b bs elMax s

def execVabsd (d a b : BitVec 7) (bs : BitVec 1) (s : State) : Out := intOp d a b bs elAbsd s

def execVavg (d a b : BitVec 7) (bs : BitVec 1) (s : State) : Out := intOp d a b bs elAvg s

/-- A binary instruction of the untyped class, on the whole word or pair (R287). -/
def logicOp (d a b : BitVec 7) (bs : BitVec 1) (g : Nat → Nat → Nat → Nat) (s : State) : Out :=
  runFibre s fun f =>
    withType (untypedPair (modeType f.mode)) fun pair =>
      let x := vGet s s.cur f a.toNat pair
      let y := bGet s s.cur f b bs pair
      vecOp s f pair d.toNat [a.toNat] (some (b, bs)) (lanesOf f.active) fun i =>
        (g (if pair then 2 ^ 64 - 1 else 2 ^ 32 - 1) (x i) (y i), 0)

def execVand (d a b : BitVec 7) (bs : BitVec 1) (s : State) : Out := logicOp d a b bs (fun _ x y => x &&& y) s

def execVor (d a b : BitVec 7) (bs : BitVec 1) (s : State) : Out := logicOp d a b bs (fun _ x y => x ||| y) s

def execVxor (d a b : BitVec 7) (bs : BitVec 1) (s : State) : Out := logicOp d a b bs (fun _ x y => x ^^^ y) s

def execVandn (d a b : BitVec 7) (bs : BitVec 1) (s : State) : Out :=
  logicOp d a b bs (fun m x y => x &&& (m ^^^ y)) s

/-! ### Compares (R288) -/

/-- The four compares. -/
inductive Cmp where
  | eq | ne | lt | le
  deriving DecidableEq, Repr

/-- An integer compare. -/
def Cmp.int (c : Cmp) (a b : Int) : Bool :=
  match c with
  | .eq => a == b
  | .ne => a != b
  | .lt => decide (a < b)
  | .le => decide (a ≤ b)

/-- A float compare: result and flags. -/
def Cmp.float (c : Cmp) (a b : Val) : Bool × Nat :=
  if a.isNaN || b.isNaN then
    let sig := a.isSignalling || b.isSignalling
    match c with
    | .eq => (false, if sig then flagInvalid else 0)
    | .ne => (true, if sig then flagInvalid else 0)
    | _ => (false, flagInvalid)
  else
    match c with
    | .eq => (Val.cmp a b == .eq, 0)
    | .ne => (Val.cmp a b != .eq, 0)
    | .lt => (Val.cmp a b == .lt, 0)
    | .le => (Val.cmp a b != .gt, 0)

/-- One lane of a compare under its operating type. -/
def cmpLane (c : Cmp) (t : Fmt) (ftz : Bool) (a b : Nat) : Bool × Nat :=
  if t.isFloat then c.float (t.readFtz ftz a).1 (t.readFtz ftz b).1
  else (c.int (readInt t a) (readInt t b), 0)

/-- A compare into p[d]. -/
def cmpOp (d : BitVec 3) (a b : BitVec 7) (bs : BitVec 1) (c : Cmp) (s : State) : Out :=
  runFibre s fun f =>
    withType (mixedType (modeType f.mode)) fun t =>
      let pair := decide (t.width = 64)
      if t.width < 32 then .trap (illTrap 6)
      else if pairBad pair (vecFields [a.toNat] (some (b, bs))) then .trap (illTrap 4)
      else if s.busy s.cur (vecRes s f pair [a.toNat] (some (b, bs))) then .stall
      else
        let x := vGet s s.cur f a.toNat pair
        let y := bGet s s.cur f b bs pair
        let res := (lanesOf f.active).map fun i =>
          let r := cmpLane c t (modeFTZ f.mode) (x i) (y i)
          (i, (if r.1 then 1 else 0), r.2)
        let bits := maskOf ((res.filter fun e => e.2.1 == 1).map (·.1))
        vecFinish s f res fun s => s.modFibre s.cur fun g =>
          g.setP d.toNat ((g.p d.toNat &&& ~~~f.active) ||| (bits &&& f.active))

def execVcmpeq (d : BitVec 3) (a b : BitVec 7) (bs : BitVec 1) (s : State) : Out := cmpOp d a b bs .eq s

def execVcmpne (d : BitVec 3) (a b : BitVec 7) (bs : BitVec 1) (s : State) : Out := cmpOp d a b bs .ne s

def execVcmplt (d : BitVec 3) (a b : BitVec 7) (bs : BitVec 1) (s : State) : Out := cmpOp d a b bs .lt s

def execVcmple (d : BitVec 3) (a b : BitVec 7) (bs : BitVec 1) (s : State) : Out := cmpOp d a b bs .le s

/-! ### Float arithmetic (R289, R290, R304) -/

/-- The float format behind a type; every float-class type has one. -/
def floatOf (t : Fmt) : FloatFmt := t.float.getD ⟨8, 23, 127, .ieee, 0⟩

/-- A binary or unary element-wise instruction of the float class: `g` gives the exact result and
flags, which are rounded once. -/
def floatLane (t : Fmt) (c : Rctx) (r : Val × Nat) : Nat × Nat :=
  let (x, fl) := (floatOf t).round t.five c r.1
  (x, orFlags r.2 fl)

/-- A float instruction with operands A and B. -/
def floatOp (ro : BitVec 2) (d a b : BitVec 7) (bs : BitVec 1) (g : Rctx → Val → Val → Val × Nat)
    (s : State) : Out :=
  runFibre s fun f =>
    withType (floatType (modeType f.mode)) fun t =>
      let pair := decide (t.width = 64)
      let x := vGet s s.cur f a.toNat pair
      let y := bGet s s.cur f b bs pair
      vecOp s f pair d.toNat [a.toNat] (some (b, bs)) (lanesOf f.active) fun i =>
        perElem t fun e =>
          let c := vecCtx s f.mode ro i e
          floatLane t c (g c (t.readFtz c.ftz (elem t.width (x i) e)).1
            (t.readFtz c.ftz (elem t.width (y i) e)).1)

/-- a − b: the sum with the negated operand, whose NaN keeps its sign (R290). -/
def valSub (c : Rctx) (a b : Val) : Val × Nat := Val.add c a (if b.isNaN then b else b.negate)

def execVfadd (r : BitVec 2) (d a b : BitVec 7) (bs : BitVec 1) (s : State) : Out :=
  floatOp r d a b bs Val.add s

def execVfsub (r : BitVec 2) (d a b : BitVec 7) (bs : BitVec 1) (s : State) : Out :=
  floatOp r d a b bs valSub s

def execVfmul (r : BitVec 2) (d a b : BitVec 7) (bs : BitVec 1) (s : State) : Out :=
  floatOp r d a b bs (fun _ => Val.mul) s

def execVfdiv (r : BitVec 2) (d a b : BitVec 7) (bs : BitVec 1) (s : State) : Out :=
  floatOp r d a b bs (fun _ => Val.div) s

/-- VFMA (R304). -/
def execVfma (d a b c : BitVec 7) (s : State) : Out :=
  runFibre s fun f =>
    withType (floatType (modeType f.mode)) fun t =>
      let pair := decide (t.width = 64)
      let x := vGet s s.cur f a.toNat pair
      let y := vGet s s.cur f b.toNat pair
      let z := vGet s s.cur f c.toNat pair
      vecOp s f pair d.toNat [a.toNat, b.toNat, c.toNat] none (lanesOf f.active) fun i =>
        perElem t fun e =>
          let k := vecCtx s f.mode 0 i e
          let rd (v : Nat → Nat) : Val := (t.readFtz k.ftz (elem t.width (v i) e)).1
          floatLane t k (Val.fma k (rd x) (rd y) (rd z))

/-- An encoding as VFMIN returns it from an operand: a subnormal under FTZ is the zero of its sign,
and an F19 has its low bits clear (R291, R105). -/
def keepEncoding (t : Fmt) (ftz : Bool) (x : Nat) : Nat :=
  let ff := floatOf t
  let y := x / 2 ^ ff.low * 2 ^ ff.low
  if ftz && t.five && ff.subnormal y then y / 2 ^ (t.width - 1) * 2 ^ (t.width - 1) else y

/-- The smaller or larger of two encodings (R291). `num` returns the other operand when exactly one
is NaN. -/
def selectFloat (t : Fmt) (c : Rctx) (wantMax num : Bool) (a b : Nat) : Nat × Nat :=
  let x := (t.readFtz c.ftz a).1
  let y := (t.readFtz c.ftz b).1
  match firstNaN [x, y] with
  | some (v, fl) =>
    if num && !(x.isNaN && y.isNaN) then (keepEncoding t c.ftz (if x.isNaN then b else a), fl)
    else
      let (r, fl2) := (floatOf t).round t.five c v
      (r, orFlags fl fl2)
  | none =>
    let less := Val.cmp x y == .lt || (x.isZero && y.isZero && x.neg && !y.neg)
    (keepEncoding t c.ftz (if less != wantMax then a else b), 0)

/-- An element-wise instruction of the float class on encodings. -/
def floatSel (d a b : BitVec 7) (bs : BitVec 1) (wantMax num : Bool) (s : State) : Out :=
  runFibre s fun f =>
    withType (floatType (modeType f.mode)) fun t =>
      let pair := decide (t.width = 64)
      let x := vGet s s.cur f a.toNat pair
      let y := bGet s s.cur f b bs pair
      vecOp s f pair d.toNat [a.toNat] (some (b, bs)) (lanesOf f.active) fun i =>
        perElem t fun e =>
          selectFloat t (vecCtx s f.mode 0 i e) wantMax num (elem t.width (x i) e) (elem t.width (y i) e)

def execVfmin (d a b : BitVec 7) (bs : BitVec 1) (s : State) : Out := floatSel d a b bs false false s

def execVfmax (d a b : BitVec 7) (bs : BitVec 1) (s : State) : Out := floatSel d a b bs true false s

def execVfminnum (d a b : BitVec 7) (bs : BitVec 1) (s : State) : Out := floatSel d a b bs false true s

def execVfmaxnum (d a b : BitVec 7) (bs : BitVec 1) (s : State) : Out := floatSel d a b bs true true s

/-! ### Select (R292) -/

/-- VSEL: every lane of EXEC, by its guard bit. -/
def execVsel (d a b : BitVec 7) (bs : BitVec 1) (s : State) : Out :=
  runFibre s fun f =>
    withType (untypedPair (modeType f.mode)) fun pair =>
      let x := vGet s s.cur f a.toNat pair
      let y := bGet s s.cur f b bs pair
      vecOp s f pair d.toNat [a.toNat] (some (b, bs)) (lanesOf f.exec) fun i =>
        (if bitOf f.guard i then x i else y i, 0)

/-- VBCAST. -/
def execVbcast (d a : BitVec 7) (b : BitVec 6) (s : State) : Out :=
  runFibre s fun f =>
    withType (untypedPair (modeType f.mode)) fun pair =>
      let x := vGet s s.cur f a.toNat pair
      let src := (f.s b.toNat).toNat % 32
      vecOp s f pair d.toNat [a.toNat] (some (b.setWidth 7, 1)) (lanesOf f.active) fun _ => (x src, 0)

/-- An instruction whose class R288 gives, with D as a further source. -/
def mixedOp (d a b : BitVec 7) (bs : BitVec 1) (g : Fmt → Rctx → Nat → Nat → Nat → Nat × Nat)
    (s : State) : Out :=
  runFibre s fun f =>
    withType (mixedType (modeType f.mode)) fun t =>
      let pair := decide (t.width = 64)
      let x := vGet s s.cur f a.toNat pair
      let y := bGet s s.cur f b bs pair
      let z := vGet s s.cur f d.toNat pair
      vecOp s f pair d.toNat [a.toNat] (some (b, bs)) (lanesOf f.active) fun i =>
        perElem t fun e =>
          g t (vecCtx s f.mode 0 i e) (elem t.width (z i) e) (elem t.width (x i) e) (elem t.width (y i) e)

/-- VCLAMP's element. -/
def clampElem (t : Fmt) (c : Rctx) (d a b : Nat) : Nat × Nat :=
  if t.isFloat then
    let (x, fl) := selectFloat t c true false d a
    let (y, fl2) := selectFloat t c false false x b
    (y, orFlags fl fl2)
  else (elMin t false (elMax t false d a) b, 0)

/-- VCSIGN's element. -/
def csignElem (t : Fmt) (c : Rctx) (_ a b : Nat) : Nat × Nat :=
  if t.isFloat then
    let half := 2 ^ (t.width - 1)
    let x := a % half + b / half * half
    (x / 2 ^ (floatOf t).low * 2 ^ (floatOf t).low, 0)
  else if t.signed then
    let m : Int := (readInt t a).natAbs
    (writeInt t c.sat (if 0 ≤ readInt t b then m else -m), 0)
  else (a, 0)

def execVclamp (d a b : BitVec 7) (bs : BitVec 1) (s : State) : Out := mixedOp d a b bs clampElem s

def execVcsign (d a b : BitVec 7) (bs : BitVec 1) (s : State) : Out := mixedOp d a b bs csignElem s

/-! ### Dot products (R293) -/

/-- An element of a dot product, signed or unsigned. -/
def dotElem (w : Nat) (sg : Bool) (x i : Nat) : Int :=
  if sg then signedOf w (elem w x i) else (elem w x i : Nat)

/-- VDOT4 and VDOT8: `w` is the element width. -/
def dotOp (w : Nat) (d a b : BitVec 7) (bs y x : BitVec 1) (s : State) : Out :=
  runFibre s fun f =>
    let va := vGet s s.cur f a.toNat false
    let vb := bGet s s.cur f b bs false
    let vd := vGet s s.cur f d.toNat false
    let sa := decide (x = 1)
    let sb := decide (y = 1)
    let t : Fmt := if sa || sb then .s32 else .n32
    vecOp s f false d.toNat [a.toNat] (some (b, bs)) (lanesOf f.active) fun i =>
      let sum : Int := (List.range (32 / w)).foldl
        (fun acc k => acc + dotElem w sa (va i) k * dotElem w sb (vb i) k) (readInt t (vd i))
      (writeInt t (modeSAT f.mode) sum, 0)

def execVdot4 (d a b : BitVec 7) (bs y x : BitVec 1) (s : State) : Out := dotOp 8 d a b bs y x s

def execVdot8 (d a b : BitVec 7) (bs y x : BitVec 1) (s : State) : Out := dotOp 4 d a b bs y x s

/-! ### Unary (R294 to R297) -/

/-- A unary instruction of the untyped class. -/
def bitsOne (d a : BitVec 7) (g : Nat → Nat → Nat) (s : State) : Out :=
  runFibre s fun f =>
    withType (untypedPair (modeType f.mode)) fun pair =>
      let x := vGet s s.cur f a.toNat pair
      vecOp s f pair d.toNat [a.toNat] none (lanesOf f.active) fun i =>
        (g (if pair then 2 ^ 64 - 1 else 2 ^ 32 - 1) (x i), 0)

def execVmov (d a : BitVec 7) (s : State) : Out := bitsOne d a (fun _ x => x) s

def execVnot (d a : BitVec 7) (s : State) : Out := bitsOne d a (fun m x => m ^^^ x) s

/-- A unary element-wise instruction under a type. -/
def unaryOp (ty : Fmt → Option Fmt) (ro : BitVec 2) (d a : BitVec 7)
    (g : Fmt → Rctx → Nat → Nat × Nat) (s : State) : Out :=
  runFibre s fun f =>
    withType (ty (modeType f.mode)) fun t =>
      let pair := decide (t.width = 64)
      let x := vGet s s.cur f a.toNat pair
      vecOp s f pair d.toNat [a.toNat] none (lanesOf f.active) fun i =>
        perElem t fun e => g t (vecCtx s f.mode ro i e) (elem t.width (x i) e)

/-- VNEG's element. -/
def negElem (t : Fmt) (c : Rctx) (x : Nat) : Nat × Nat :=
  if t.isFloat then
    let y := (x + 2 ^ (t.width - 1)) % 2 ^ t.width
    (y / 2 ^ (floatOf t).low * 2 ^ (floatOf t).low, 0)
  else (writeInt t c.sat (-(readInt t x)), 0)

/-- VABS's element. -/
def absElem (t : Fmt) (c : Rctx) (x : Nat) : Nat × Nat :=
  if t.isFloat then
    (x % 2 ^ (t.width - 1) / 2 ^ (floatOf t).low * 2 ^ (floatOf t).low, 0)
  else (writeInt t c.sat (readInt t x).natAbs, 0)

def execVneg (d a : BitVec 7) (s : State) : Out := unaryOp mixedType 0 d a negElem s

def execVabs (d a : BitVec 7) (s : State) : Out := unaryOp mixedType 0 d a absElem s

def execVclz (d a : BitVec 7) (s : State) : Out :=
  unaryOp intType 0 d a (fun t _ x => (t.width - bitLen x, 0)) s

def execVpopc (d a : BitVec 7) (s : State) : Out :=
  unaryOp intType 0 d a (fun t _ x => (popCount t.width x, 0)) s

/-- The low `n` bits in reverse order. -/
def bitReverse : Nat → Nat → Nat
  | 0, _ => 0
  | n + 1, x => x % 2 * 2 ^ n + bitReverse n (x / 2)

def execVbrev (d a : BitVec 7) (s : State) : Out :=
  unaryOp intType 0 d a (fun t _ x => (bitReverse t.width x, 0)) s

/-- Rounds a float element to an integral value in its own format (R295). -/
def integralElem (t : Fmt) (c : Rctx) (rm : Rm) (inexact : Bool) (x : Nat) : Nat × Nat :=
  let ff := floatOf t
  match (t.readFtz c.ftz x).1 with
  | .fin neg m e =>
    let (q, diff) := roundTo { c with rm := rm } neg m e 0
    ((ff.round t.five { c with rm := .rtz } (.fin neg q 0)).1,
      if inexact && diff then flagInexact else 0)
  | .inf neg => (ff.infinity neg, 0)
  | .nan n sg fr => ff.nanResult c.nanp n sg fr

def execVfloor (d a : BitVec 7) (s : State) : Out :=
  unaryOp floatType 0 d a (fun t c x => integralElem t c .rdn false x) s

def execVceil (d a : BitVec 7) (s : State) : Out :=
  unaryOp floatType 0 d a (fun t c x => integralElem t c .rup false x) s

def execVtrunc (d a : BitVec 7) (s : State) : Out :=
  unaryOp floatType 0 d a (fun t c x => integralElem t c .rtz false x) s

def execVrint (r : BitVec 2) (d a : BitVec 7) (s : State) : Out :=
  unaryOp floatType r d a (fun t c x => integralElem t c c.rm true x) s

/-- VFRACT's element: a − floor(a), rounded toward zero (R295). -/
def fractElem (t : Fmt) (c : Rctx) (x : Nat) : Nat × Nat :=
  let ff := floatOf t
  match (t.readFtz c.ftz x).1 with
  | .fin neg m e =>
    let (q, _) := roundTo { c with rm := .rdn } neg m e 0
    let (n, k) := addFin neg m e (!neg) q 0
    ff.round t.five { c with rm := .rtz } (.fin false n.natAbs k)
  | .inf _ => (ff.canonicalNaN, flagInvalid)
  | .nan n sg fr => ff.nanResult c.nanp n sg fr

def execVfract (d a : BitVec 7) (s : State) : Out := unaryOp floatType 0 d a fractElem s

/-- A function instruction (R296); `wide` says that it has an F64 form. -/
def funOp (g : Fun) (wide : Bool) (ro : BitVec 2) (d a : BitVec 7) (s : State) : Out :=
  runFibre s fun f =>
    withType (floatType (modeType f.mode)) fun t =>
      if t = .f64 ∧ pairBad true [d.toNat, a.toNat] = true then .trap (illTrap 4)
      else if t = .f64 ∧ wide = false then .trap (illTrap 6)
      else
        let pair := decide (t.width = 64)
        let x := vGet s s.cur f a.toNat pair
        vecOp s f pair d.toNat [a.toNat] none (lanesOf f.active) fun i =>
          perElem t fun e =>
            let c := vecCtx s f.mode ro i e
            let enc := elem t.width (x i) e
            g.write t (floatOf t) c (t.readFtz c.ftz enc).1
              (Config.function g.code enc (s.draws + i * 8 + e))

def execVrcp (r : BitVec 2) (d a : BitVec 7) (s : State) : Out := funOp .rcp true r d a s

def execVrsq (r : BitVec 2) (d a : BitVec 7) (s : State) : Out := funOp .rsq true r d a s

def execVsqrt (r : BitVec 2) (d a : BitVec 7) (s : State) : Out := funOp .sqrt true r d a s

def execVexp2 (r : BitVec 2) (d a : BitVec 7) (s : State) : Out := funOp .exp2 false r d a s

def execVlog2 (r : BitVec 2) (d a : BitVec 7) (s : State) : Out := funOp .log2 false r d a s

def execVsin (r : BitVec 2) (d a : BitVec 7) (s : State) : Out := funOp .sin false r d a s

def execVcos (r : BitVec 2) (d a : BitVec 7) (s : State) : Out := funOp .cos false r d a s

def execVtanh (r : BitVec 2) (d a : BitVec 7) (s : State) : Out := funOp .tanh false r d a s

/-- The class mask of an encoding (R297). -/
def classMask (t : Fmt) (x : Nat) : Nat :=
  let ff := floatOf t
  match ff.read x with
  | .nan _ sg _ => if sg then 1 else 2
  | .inf neg => if neg then 4 else 0x200
  | .fin neg m _ =>
    if m = 0 then (if neg then 0x20 else 0x40)
    else if ff.subnormal x then (if neg then 0x10 else 0x80)
    else if neg then 8 else 0x100

def execVfclass (d a : BitVec 7) (s : State) : Out :=
  unaryOp floatType 0 d a (fun t _ x => (classMask t x, 0)) s

/-- VLANEID. -/
def execVlaneid (d : BitVec 7) (s : State) : Out :=
  runFibre s fun f => vecOp s f false d.toNat [] none (lanesOf f.active) fun i => (i, 0)

/-! ### Conversion (R298) -/

/-- VCVT and VCVTS. -/
def cvtOp (sat : Bool) (ro : BitVec 2) (d a : BitVec 7) (t : BitVec 6) (s : State) : Out :=
  runFibre s fun f =>
    let src := modeType f.mode
    let dst := ((Fmt.ofCode t.toNat).map (·.1)).getD .raw
    let ps := decide (src.width = 64)
    let pd := decide (dst.width = 64)
    if pairBad ps [a.toNat] || pairBad pd [d.toNat] then .trap (illTrap 4)
    else if src = .raw ∨ src = .a96f ∨ src = .a96i then .trap (illTrap 6)
    else
      if s.busy s.cur (resVs s.cur f (pairRegs ps [a.toNat] ++ pairRegs pd [d.toNat])) then .stall
      else
        let n := if ps || pd then 1 else 32 / max src.width dst.width
        let x := vGet s s.cur f a.toNat ps
        let res := (lanesOf f.active).map fun i =>
          (i, packElems dst.width ((List.range n).map fun e =>
            let c := vecCtx s f.mode ro i e
            convert src dst { c with sat := c.sat || sat } (elem src.width (x i) e)))
        vecFinish s f res fun s => s.writeLanes d.toNat pd (res.map fun e => (e.1, e.2.1))

def execVcvt (r : BitVec 2) (d a : BitVec 7) (t : BitVec 6) (s : State) : Out := cvtOp false r d a t s

def execVcvts (r : BitVec 2) (d a : BitVec 7) (t : BitVec 6) (s : State) : Out := cvtOp true r d a t s

/-! ### Shuffles (R299) -/

/-- A shuffle: `src` gives the source lane from the lane and the index word. -/
def shuffleOp (d a b : BitVec 7) (bs : BitVec 1) (src : Nat → Nat → Nat) (s : State) : Out :=
  runFibre s fun f =>
    withType (untypedPair (modeType f.mode)) fun pair =>
      let x := vGet s s.cur f a.toNat pair
      let y := bGet s s.cur f b bs pair
      vecOp s f pair d.toNat [a.toNat] (some (b, bs)) (lanesOf f.active) fun i =>
        (x (src i (y i % 2 ^ 32)), 0)

def execVshfl (d a b : BitVec 7) (bs : BitVec 1) (s : State) : Out :=
  shuffleOp d a b bs (fun _ k => k % 32) s

def execVshflx (d a b : BitVec 7) (bs : BitVec 1) (s : State) : Out :=
  shuffleOp d a b bs (fun i k => i ^^^ (k % 32)) s

def execVshflup (d a b : BitVec 7) (bs : BitVec 1) (s : State) : Out :=
  shuffleOp d a b bs (fun i k => if k ≤ i then i - k else i) s

def execVshfldn (d a b : BitVec 7) (bs : BitVec 1) (s : State) : Out :=
  shuffleOp d a b bs (fun i k => if i + k ≤ 31 then i + k else i) s

/-! ### Reductions (R300, R301) -/

/-- A reduction into s[d]: checks, then the value and flags from the active lanes. -/
def reduceOp (s : State) (f : Fibre) (pair : Bool) (d : BitVec 6) (a : BitVec 7)
    (g : (Nat → Nat) → List Nat → Nat × Nat) : Act :=
  if pairBad pair [a.toNat] then .trap (illTrap 4)
  else if s.busy s.cur (resVs s.cur f (pairRegs pair [a.toNat]) ++ resS s.cur [d.toNat]) then .stall
  else
    let lanes := lanesOf f.active
    let r := g (vGet s s.cur f a.toNat pair) lanes
    let en := enabledFlags f.mode r.2
    if en ≠ 0 then .trap ⟨trapFPE, en, 0, f.active⟩
    else
      .done (((s.putS d.toNat (BitVec.ofNat 64 r.1)).modFibre s.cur fun h => h.addFlags r.2).drew 256)

/-- An integer of a type extended to 64 bits (R300). -/
def extend64 (t : Fmt) (x : Nat) : Nat := (readInt t x % (2 ^ 64 : Int)).toNat

/-- One level of the tree of R301: adjacent entries combine, an absent one passes the other. -/
def treeLevel (g : Nat → Nat → Nat → Nat × Nat) (k : Nat) : List (Option Nat) → List (Option Nat) × Nat
  | x :: y :: rest =>
    let (l, fl) := treeLevel g (k + 1) rest
    match x, y with
    | some p, some q => let (r, fl2) := g k p q; (some r :: l, orFlags fl fl2)
    | some p, none => (some p :: l, fl)
    | none, q => (q :: l, fl)
  | l => (l, 0)

/-- The tree of R301 over 32 lanes. -/
def treeFold (g : Nat → Nat → Nat → Nat × Nat) : Nat → List (Option Nat) → Option Nat × Nat
  | 0, l => (l.head?.join, 0)
  | n + 1, l =>
    let (m, fl) := treeLevel (fun k => g (n * 16 + k)) 0 l
    let (r, fl2) := treeFold g n m
    (r, orFlags fl fl2)

/-- The active lanes' values in lane order. -/
def laneValues (x : Nat → Nat) (lanes : List Nat) : List (Option Nat) :=
  (List.range 32).map fun i => if lanes.contains i then some (x i) else none

/-- The value of a float reduction without a lane (R253). -/
def floatTree (g : Nat → Nat → Nat → Nat × Nat) (empty : Nat) (x : Nat → Nat) (lanes : List Nat) :
    Nat × Nat :=
  match treeFold g 5 (laneValues x lanes) with
  | (some v, fl) => (v, fl)
  | (none, _) => (empty, 0)

/-- A float reduction: the tree's value as a result of its type (R105, R301). -/
def floatReduce (t : Fmt) (g : Nat → Nat → Nat → Nat × Nat) (empty : Nat) (x : Nat → Nat) (lanes : List Nat) :
    Nat × Nat :=
  let r := floatTree g empty x lanes
  (t.whole r.1, r.2)

/-- An addition of the tree. -/
def treeAdd (s : State) (mode : Word) (ro : BitVec 2) (t : Fmt) (k a b : Nat) : Nat × Nat :=
  let c := vecCtx s mode ro (k % 32) (k / 32)
  floatLane t c (Val.add c (t.readFtz c.ftz a).1 (t.readFtz c.ftz b).1)

/-- Runs a reduction whose class R288 gives; 8-bit and 16-bit types are ILL (R300). -/
def mixedReduce (d : BitVec 6) (a : BitVec 7) (ro : BitVec 2)
    (g : Fibre → Fmt → (Nat → Nat) → List Nat → Nat × Nat) (s : State) : Out :=
  runFibre s fun f =>
    withType (mixedType (modeType f.mode)) fun t =>
      if pairBad (decide (t.width = 64)) [a.toNat] then .trap (illTrap 4)
      else if t.width < 32 ∨ (t.isFloat = false ∧ ro ≠ 0) then .trap (illTrap 6)
      else reduceOp s f (decide (t.width = 64)) d a (g f t)

/-- VRSUM. A single active lane of a float type passes through the tree unchanged, but for the unused bits of its
word. -/
def execVrsum (r : BitVec 2) (d : BitVec 6) (a : BitVec 7) (s : State) : Out :=
  mixedReduce d a r (fun f t x lanes =>
    if t.isFloat then floatReduce t (treeAdd s f.mode r t) 0 x lanes
    else
      let sum : Int := lanes.foldl (fun acc i => acc + readInt t (x i)) 0
      if t.width = 64 then (writeInt t (modeSAT f.mode) sum, 0)
      else ((sum % (2 ^ 64 : Int)).toNat, 0)) s

/-- VRMIN and VRMAX. -/
def extremeOp (wantMax : Bool) (d : BitVec 6) (a : BitVec 7) (s : State) : Out :=
  mixedReduce d a 0 (fun f t x lanes =>
    if t.isFloat then
      floatReduce t (fun _ p q => selectFloat t (vecCtx s f.mode 0 0 0) wantMax false p q)
        ((floatOf t).infinity wantMax) x lanes
    else
      let start := (t.bounds.1, t.bounds.2)
      let v : Int := lanes.foldl
        (fun acc i => if wantMax then max acc (readInt t (x i)) else min acc (readInt t (x i)))
        (if wantMax then start.1 else start.2)
      ((v % (2 ^ 64 : Int)).toNat, 0)) s

def execVrmin (d : BitVec 6) (a : BitVec 7) (s : State) : Out := extremeOp false d a s

def execVrmax (d : BitVec 6) (a : BitVec 7) (s : State) : Out := extremeOp true d a s

/-- A reduction of the untyped class. -/
def bitsReduce (d : BitVec 6) (a : BitVec 7) (g : Bool → (Nat → Nat) → List Nat → Nat) (s : State) : Out :=
  runFibre s fun f =>
    withType (untypedPair (modeType f.mode)) fun pair =>
      reduceOp s f pair d a fun x lanes => (g pair x lanes, 0)

def execVrand (d : BitVec 6) (a : BitVec 7) (s : State) : Out :=
  bitsReduce d a (fun pair x lanes =>
    lanes.foldl (fun acc i => acc &&& x i) (if pair then 2 ^ 64 - 1 else 2 ^ 32 - 1)) s

def execVror (d : BitVec 6) (a : BitVec 7) (s : State) : Out :=
  bitsReduce d a (fun _ x lanes => lanes.foldl (fun acc i => acc ||| x i) 0) s

def execVrxor (d : BitVec 6) (a : BitVec 7) (s : State) : Out :=
  bitsReduce d a (fun _ x lanes => lanes.foldl (fun acc i => acc ^^^ x i) 0) s

def execVballot (d : BitVec 6) (a : BitVec 7) (s : State) : Out :=
  bitsReduce d a (fun _ x lanes => (maskOf (lanes.filter fun i => x i != 0)).toNat) s

def execVfirst (d : BitVec 6) (a : BitVec 7) (s : State) : Out :=
  bitsReduce d a (fun _ x lanes => (lanes.map x).headD (2 ^ 64 - 1)) s

/-! ### Bit fields (R302) -/

/-- A bit-field instruction: word operands old D, A and B; 64-bit operating types are ILL. -/
def fieldOp (d a b : BitVec 7) (bs : BitVec 1) (g : Bool → Nat → Nat → Nat → Nat) (s : State) : Out :=
  runFibre s fun f =>
    let ty := modeType f.mode
    withType (untypedPair ty) fun pair =>
      if pair then .trap (illTrap 6)
      else
        let sg := match intType ty with
          | some t => t.signed
          | none => false
        let x := vGet s s.cur f a.toNat false
        let y := bGet s s.cur f b bs false
        let z := vGet s s.cur f d.toNat false
        vecOp s f false d.toNat [a.toNat] (some (b, bs)) (lanesOf f.active) fun i =>
          (g sg (z i) (x i) (y i), 0)

/-- Offset and width of a field operand. -/
def fieldSpec (b : Nat) : Nat × Nat := (b % 32, min (b / 2 ^ 8 % 64) (32 - b % 32))

def bfe (sg : Bool) (_ a b : Nat) : Nat :=
  let (off, wid) := fieldSpec b
  let x := a / 2 ^ off % 2 ^ wid
  if wid = 0 then 0
  else if sg && x / 2 ^ (wid - 1) % 2 == 1 then x + (2 ^ 32 - 2 ^ wid) else x

def bfi (_ : Bool) (d a b : Nat) : Nat :=
  let (off, wid) := fieldSpec b
  d - d / 2 ^ off % 2 ^ wid * 2 ^ off + a % 2 ^ wid * 2 ^ off

def permByte (d a b i : Nat) : Nat :=
  let k := elem 8 b i
  if 128 ≤ k then 0
  else if k % 8 < 4 then elem 8 a (k % 8) else elem 8 d (k % 8 - 4)

def perm (_ : Bool) (d a b : Nat) : Nat :=
  permByte d a b 0 + permByte d a b 1 * 2 ^ 8 + permByte d a b 2 * 2 ^ 16 + permByte d a b 3 * 2 ^ 24

def funnel (_ : Bool) (d a b : Nat) : Nat := (a * 2 ^ 32 + d) / 2 ^ (b % 32) % 2 ^ 32

def execVbfe (d a b : BitVec 7) (bs : BitVec 1) (s : State) : Out := fieldOp d a b bs bfe s

def execVbfi (d a b : BitVec 7) (bs : BitVec 1) (s : State) : Out := fieldOp d a b bs bfi s

def execVperm (d a b : BitVec 7) (bs : BitVec 1) (s : State) : Out := fieldOp d a b bs perm s

def execVfunnel (d a b : BitVec 7) (bs : BitVec 1) (s : State) : Out := fieldOp d a b bs funnel s

/-! ### Random numbers (R303) -/

/-- The rounds of the generator. -/
def randRounds : Nat → Nat → Nat → Nat
  | 0, x, _ => x
  | n + 1, x, y =>
    let x1 := (x ^^^ y) * 0x2C1B3C6D % 2 ^ 32
    randRounds n (x1 ^^^ (x1 / 2 ^ 16)) ((y + 0x9E3779B9) % 2 ^ 32)

/-- rand32 of a key and a counter. -/
def rand32 (k c : Nat) : Nat := randRounds 4 c k

/-- h × 2^−24 for h below 2^24, as an F32. -/
def unitFloat (h : Nat) : Nat := ((floatOf .f32).round true Rctx.plain (.fin false h (-24))).1

/-- RAND32 and RANDF: the fixed class. -/
def randOp (d a b : BitVec 7) (bs : BitVec 1) (g : Nat → Nat) (s : State) : Out :=
  runFibre s fun f =>
    let x := vGet s s.cur f a.toNat false
    let y := bGet s s.cur f b bs false
    vecOp s f false d.toNat [a.toNat] (some (b, bs)) (lanesOf f.active) fun i =>
      (g (rand32 (x i) (y i)), 0)

def execRand32 (d a b : BitVec 7) (bs : BitVec 1) (s : State) : Out := randOp d a b bs id s

def execRandf (d a b : BitVec 7) (bs : BitVec 1) (s : State) : Out :=
  randOp d a b bs (fun h => unitFloat (h / 2 ^ 8)) s

end Sys2Proof.Machine
end

