-- ==== Sys2Proof/Machine/Lsu.lean ====
section
/-! DEFINITION. Operations of the load/store unit: what each lane does (R166, R306 to R316), how a
whole operation runs and replays, and its completion (R308). -/

namespace Sys2Proof.Machine

/-! ### Places of registers -/

/-- Writes lane values into a register named by its place. A scalar takes the first value. -/
def State.putRes (s : State) (loc : Nat) (r : Res) (res : List (Nat × Nat)) : State :=
  match r with
  | .s fid n =>
    s.modFibre (loc / 4 * 4 + fid) fun f =>
      match res with
      | (_, x) :: _ => f.setS n (BitVec.ofNat 64 x)
      | [] => f
  | .v fid pos =>
    s.modFibre (loc / 4 * 4 + fid) fun f =>
      { f with ring := Sparse.setZ f.ring pos (putLanes (Sparse.getZ f.ring pos) res) }
  | .sh k =>
    s.modSlot loc fun sl =>
      { sl with shared := Sparse.setZ sl.shared k (putLanes (Sparse.getZ sl.shared k) res) }
  | .tile _ => s

/-! ### Parts of an operation -/

/-- Insertion of a lane by its key. -/
def insertBy (key : Nat → Nat) (i : Nat) : List Nat → List Nat
  | [] => [i]
  | j :: rest => if key i < key j then i :: j :: rest else j :: insertBy key i rest

/-- Lanes in the order of their keys: the order of the lanes that the device chooses (R127). -/
def orderBy (key : Nat → Nat) : List Nat → List Nat
  | [] => []
  | i :: rest => insertBy key i (orderBy key rest)

/-- The parts that a lane of an access is performed in: a 128-bit access is performed half by half, and the upper
halves are numbered from 32 up (R126, R172). -/
def lanePart (nb i : Nat) : List Nat := if nb = 16 then [i, i + 32] else [i]

/-- The parts of an operation in the order they are performed: those of its active lanes, or one part. LDT and
STT move each block that has an active lane as one part, numbered 0 and 16. -/
def Op.parts (o : Op) : List Nat :=
  match o.body with
  | .ldt _ _ _ | .stt _ _ _ => [0, 16].filter fun b => field o.lmask b 16 != 0
  | .atom _ _ _ _ scalar _ _ _ draw =>
    if scalar then [0] else orderBy (Config.laneOrder draw) (lanesOf o.lmask)
  | .cradd _ _ _ draw => orderBy (Config.laneOrder draw) (lanesOf o.lmask)
  | .load _ nb _ _ _ _ | .store nb _ _ _ _ => (lanesOf o.lmask).flatMap (lanePart nb)
  | _ => [0]

/-- The lanes that are done with a part (R169): a lane of a 128-bit access is done with its second half. -/
def Op.partLanes (o : Op) (i : Nat) : Word :=
  match o.body with
  | .ldt _ _ _ | .stt _ _ _ => BitVec.ofNat 32 (field o.lmask i 16 * 2 ^ i)
  | .load _ nb _ _ _ _ | .store nb _ _ _ _ =>
    if (lanePart nb (i % 32)).all fun j => j == i || (Sparse.find o.results j).isSome then BitVec.ofNat 32 (2 ^ (i % 32))
    else 0
  | _ => BitVec.ofNat 32 (2 ^ i)

/-- The access kind of an operation (R26). -/
def OpBody.kind : OpBody → AKind
  | .load _ _ _ _ _ _ => .read
  | .store _ _ _ _ _ => .write
  | .ldt _ _ _ | .tagget _ _ => .tagrd
  | .stt _ _ _ | .tagset _ _ => .tagwr
  | .atom _ _ _ _ _ _ _ _ _ | .cradd _ _ _ _ | .crclose _ => .atomic
  | .move isRet _ _ _ => if isRet then .read else .write
  | .fetch _ => .exec
  | .enq _ _ | .treg _ _ _ | .tdrop _ | .tmove _ _ _ _ => .write
  | _ => .read

/-! ### What a part meets -/

/-- The outcome of one part: done with its result, or not performed. -/
inductive PartOut where
  | done (res : List Nat) (refs : List Nat)
  | trouble (t : Trouble)
  deriving DecidableEq, Repr

/-- A part that was not performed: under the error response a refused or poisoned part is done with
the given result (R32). -/
def partFail (o : Op) (zero : List Nat) (t : Trouble) : PartOut :=
  if o.err && (t.kind == 2 || t.kind == 3 || t.kind == 4) then .done zero [] else .trouble t

/-- The home lines of an access. -/
def linesOf (l : List Spot) : List Nat := l.flatMap Spot.lines

/-- The reads of an operation join merge entries: those of the load/store unit, the sampler, the ray engine and
the matrix engine do (R93). -/
def Op.joins (o : Op) : Bool := o.unit == 1 || o.unit == 2 || o.unit == 3 || o.unit == 6

/-- Bytes of spots as an operation reads them. -/
def State.readOf (s : State) (o : Op) (l : List Spot) : List Byte × State := s.readSpots o.who o.joins l

/-- The tag of the block at a place as an operation reads it, of the same moment as the block's data (R94, R102). -/
def State.tagOf (s : State) (o : Op) (p : PLoc) : BitVec 16 :=
  s.readTag o.who.core o.asid (o.joins && s.merging (clusterOf o.who.core)) p

/-- Runs `perform` where an access may be performed, after the folds of its lines, whose troubles are the access's
own (R321); a read that finds no room in the pending set waits (R144). -/
def withSpots (s : State) (o : Op) (zero : List Nat) (k : AKind) (sp : Space) (va : Dword) (n : Nat)
    (perform : List Spot → State → List Nat × State) : PartOut × State :=
  match s.locate o.who o.group k sp va.toNat n with
  | (.ok l, s1) =>
    (match s1.foldSpots o.err l with
    | (some t, s2) => (partFail o zero t, s2)
    | (none, s2) =>
      let (room, s3) := match k with
        | .write | .tagwr => (true, s2)
        | _ => s2.collect o.loc (linesOf l)
      if room then
        let (res, s4) := perform l s3
        (.done res (l.flatMap Spot.frames), s4)
      else (.trouble .wait, s3))
  | (a, s1) =>
    match a.trouble va (s1.szOf o.who sp va.toNat) with
    | some t => (partFail o zero t, s1)
    | none => (.trouble .wait, s1)

/-- The race detector on an operation's plain access. -/
def State.raceOf (s : State) (o : Op) (write : Bool) (va : Dword) (l : List Spot) : State :=
  match s.fibre o.loc with
  | some f => s.raceCheck o.loc f o.seq.toNat write va.toNat l
  | none => s

/-! ### Loads and stores (R307) -/

/-- The bytes of a lane's access that a part moves: their offset and number (R126, R172). -/
def partRun (nb i : Nat) : Nat × Nat := if nb = 16 then (i / 32 * 8, 8) else (0, nb)

/-- A lane's access in a scratch space is refused as a whole when any of its `nb` bytes is (R10, R11). -/
def wholeRefused (s : State) (o : Op) (k : AKind) (sp : Space) (a : Dword) (nb : Nat) : Option Trouble :=
  match sp, (s.locate o.who o.group k sp a.toNat nb).1 with
  | .global, _ => none
  | _, .refuse c z => some (.refuse a c z)
  | _, _ => none

/-- Runs `perform` on the bytes of a part of a lane's access of `nb` bytes at `a`. -/
def withPart (s : State) (o : Op) (zero : List Nat) (k : AKind) (sp : Space) (a : Dword) (nb i : Nat)
    (perform : List Spot → State → List Nat × State) : PartOut × State :=
  match wholeRefused s o k sp a nb with
  | some t => (partFail o zero t, s)
  | none => withSpots s o zero k sp (a + BitVec.ofNat 64 (partRun nb i).1) (partRun nb i).2 perform

/-- One part of a lane of a load. -/
def loadPart (s : State) (o : Op) (i nb : Nat) (sp : Space) (addr : List Dword) (sync : Bool) : PartOut × State :=
  let a := addr.getD (i % 32) 0
  let va := a + BitVec.ofNat 64 (partRun nb i).1
  withPart s o [0] .read sp a nb i fun l s =>
    let s1 := if sync then s else s.raceOf o false va l
    let (b, s2) := s1.readOf o l
    ([leNat b], s2)

/-- A byte that is written at `va`, and lies at `here`, is one of the `nb` bytes that a store writes from `a` on: at
the same address, or, in global memory, in the same place by another mapping (R127). -/
def State.meetsByte (s : State) (o : Op) (sp : Space) (va : Dword) (here : List Spot) (a : Dword) (nb : Nat) : Bool :=
  if (va - a).toNat < nb then true
  else
    let far := (4096 + va.toNat % 4096 - a.toNat % 4096) % 4096
    sp == .global && decide (far < nb) &&
      match (s.locate o.who o.group .write sp ((a.toNat + far) % 2 ^ 64) 1).1, here with
      | .ok [.mem p _], .mem q _ :: _ => s.mem.physOf p == s.mem.physOf q
      | _, _ => false

/-- Byte `j` of lane `i`'s store is written by no higher-numbered active lane (R127). -/
def lastWriter (s : State) (o : Op) (sp : Space) (addr : List Dword) (l : List Spot) (off nb i j : Nat) : Bool :=
  (lanesOf o.lmask).all fun k =>
    decide (k ≤ i) ||
      !s.meetsByte o sp (addr.getD i 0 + BitVec.ofNat 64 (off + j)) (subSpots j 1 l) (addr.getD k 0) nb

/-- Writes the bytes of a store that no higher lane writes, each where it lies. -/
def writeChosen (s : State) (core : Nat) (md : WMode) (l : List Spot) (b : List Byte)
    (mine : Nat → Bool) (nb : Nat) : State :=
  if (List.range nb).all mine then s.writeSpots core md b l
  else (List.range nb).foldl (fun acc j =>
    if mine j then acc.writeSpots core md [b.getD j 0] (subSpots j 1 l) else acc) s

/-- One part of a lane of a store. -/
def storePart (s : State) (o : Op) (i nb : Nat) (sp : Space) (addr : List Dword) (data : List Nat)
    (sync : Bool) : PartOut × State :=
  let run := partRun nb i
  let a := addr.getD (i % 32) 0
  let va := a + BitVec.ofNat 64 run.1
  withPart s o [] .write sp a nb i fun l s =>
    let s1 := if sync then s else s.raceOf o true va l
    ([], writeChosen s1 o.who.core o.wmode l (leBytes run.2 (data.getD (i % 32) 0 / 2 ^ (8 * run.1)))
      (lastWriter s1 o sp addr l run.1 nb (i % 32)) run.2)

/-! ### Tagged access (R311, R312) -/

/-- The place of a block. -/
def blockPlace : List Spot → Option PLoc
  | .mem p _ :: _ => some p
  | _ => none

/-- One block of LDT: its 16 words and its tag (R102). -/
def ldtPart (s : State) (o : Op) (i : Nat) (addr : Dword) : PartOut × State :=
  let va := BitVec.ofNat 64 (addr.toNat / 128 * 128 + i * 4)
  withSpots s o (List.replicate 17 0) .tagrd .global va 64 fun l s =>
    let s1 := s.raceOf o false va l
    let (b, s2) := s1.readOf o l
    let tag := match blockPlace l with
      | some p => (s2.tagOf o p).toNat
      | none => 0
    ((List.range 16).map (fun k => leNat ((b.drop (4 * k)).take 4)) ++ [tag], s2)

/-- Brings the dirty line that a core has of a place home, before an access that is performed there. -/
def Mem.settle (m : Mem) (core : Nat) (p : PLoc) : Mem :=
  match p with
  | .vault a => m.writeBack core (a / 128)
  | _ => m.dropCopy core p.key

/-- One block of STT: the active lanes' words and the tag, which leave the core together (R76, R102). -/
def sttPart (s : State) (o : Op) (i : Nat) (addr : Dword) (data : List Nat) (tags : Nat) :
    PartOut × State :=
  let va := BitVec.ofNat 64 (addr.toNat / 128 * 128 + i * 4)
  withSpots s o [] .tagwr .global va 64 fun l s =>
    let s1 := s.raceOf o true va l
    match blockPlace l with
    | none => ([], s1)
    | some p =>
      let words := (List.range 16).filter fun k => bitOf o.lmask (i + k)
      let m1 := words.foldl (fun m k =>
        m.writeLine o.who.core o.wmode (p.offset (4 * k)) (leBytes 4 (data.getD (i + k) 0))) s1.mem
      ([], { s1 with mem := m1.writeTag o.who.core o.wmode p (BitVec.ofNat 16 (tags / 2 ^ i)) })

/-- TAGSET (R312). -/
def tagsetPart (s : State) (o : Op) (addr : Dword) (tag : Nat) : PartOut × State :=
  let va := BitVec.ofNat 64 (addr.toNat / 64 * 64)
  withSpots s o [] .tagwr .global va 64 fun l s =>
    match blockPlace l with
    | some p => ([], { s with mem := s.mem.writeTag o.who.core o.wmode p (BitVec.ofNat 16 tag) })
    | none => ([], s)

/-- TAGGET (R312). -/
def taggetPart (s : State) (o : Op) (addr : Dword) : PartOut × State :=
  let va := BitVec.ofNat 64 (addr.toNat / 64 * 64)
  withSpots s o [0] .tagrd .global va 64 fun l s =>
    match blockPlace l with
    | some p => ([(s.tagOf o p).toNat], s)
    | none => ([0], s)

/-! ### Atomics (R313 to R315) -/

/-- F32 minimum or maximum as VFMINNUM and VFMAXNUM (R314). -/
def atomSelect (wantMax : Bool) (a b : Nat) : Nat := (selectFloat .f32 Rctx.plain wantMax true a b).1

/-- A float sum in RNE (R314). -/
def atomFadd (t : Fmt) (a b : Nat) : Nat :=
  ((floatOf t).round false Rctx.plain (Val.add Rctx.plain ((floatOf t).read a) ((floatOf t).read b)).1).1

/-- The new memory value of an atomic (R314), `nb` bytes wide. -/
def atomNew (op nb old b c : Nat) : Nat :=
  let w := 8 * nb
  match op with
  | 0 => (old + b) % 2 ^ w
  | 1 => (old + (2 ^ w - b % 2 ^ w)) % 2 ^ w
  | 2 => if signedOf w old ≤ signedOf w b then old else b
  | 3 => if signedOf w old ≤ signedOf w b then b else old
  | 4 => if old ≤ b then old else b
  | 5 => if old ≤ b then b else old
  | 6 => old &&& b
  | 7 => old ||| b
  | 8 => old ^^^ b
  | 9 => b
  | 10 => if old = c then b else old
  | 11 => atomFadd .f32 old b
  | 12 => atomFadd .b16 (old % 2 ^ 16) (b % 2 ^ 16) + atomFadd .b16 (old / 2 ^ 16) (b / 2 ^ 16) * 2 ^ 16
  | 13 => atomSelect false old b
  | _ => atomSelect true old b

/-- The space and address of an atomic lane, by its selector byte; none is refused with SCRRANGE
(R313). -/
def atomSpace (a : Dword) : Option (Space × Dword) :=
  match field a 56 8 with
  | 0xFE => if field a 32 24 = 0 then some (.group, BitVec.ofNat 64 (field a 0 32)) else none
  | 0xFD => if field a 32 24 = 0 then some (.cluster, BitVec.ofNat 64 (field a 0 32)) else none
  | _ => some (.global, a)

/-- An atomic of a core wants ownership of a line: with the bounce counter at 4 or more it runs at the home and
none passes; else ownership passes to a different core, and the counter rises when the last grant is less than
1,024 clocks old and falls otherwise. The counter lies with the line in its home cache (R146). -/
def Mem.noteOwner (m : Mem) (line core soon : Nat) : Mem :=
  let next : Option (Nat × Nat) :=
    match Sparse.find m.bounce line with
    | none => some (0, core)
    | some (n, last) =>
      if 4 ≤ n ∨ last = core then none else some (if soon < 1024 then min 7 (n + 1) else n - 1, core)
  match next with
  | none => m
  | some x => { m with bounce := Sparse.put m.bounce line x }.atHome line false

/-- The places of spots, line by line. -/
def placesOf (l : List Spot) : List PLoc :=
  l.flatMap fun x =>
    match x with
    | .mem p n => (lineCuts p.addr n).map fun c => p.offset c.1
    | _ => []

/-- Brings home what a core holds dirty of the lines of an access that is performed there. -/
def State.settleAll (s : State) (core : Nat) (l : List Spot) : State :=
  { s with mem := (placesOf l).foldl (fun m p => m.settle core p) s.mem }

/-- Notes the ownership that an atomic takes of each vault line that it touches. -/
def State.noteOwners (s : State) (core : Nat) (l : List Spot) : State :=
  (placesOf l).foldl (fun (acc : State) p =>
    match p with
    | .vault a =>
      { acc with
        mem := acc.mem.noteOwner (a / 128) core (Config.clocks core acc.draws)
        draws := acc.draws + 1 }
    | _ => acc) s

/-- One read-modify-write where it is performed (R146, R147): FIB and GRP scope in the core's L1, wider
scopes at the home, whose result does not depend on who owns the line. -/
def atomPerform (s : State) (o : Op) (op nb scope b c : Nat) (l : List Spot) : List Nat × State :=
  let core := o.who.core
  let home := decide (2 ≤ scope)
  let s1 := if home then (s.settleAll core l).noteOwners core l else s
  let (old, s2) := s1.readSpots o.who false l
  ([leNat old], s2.writeSpots core { o.wmode with home := home } (leBytes nb (atomNew op nb (leNat old) b c)) l)

/-- One lane of an atomic. -/
def atomPart (s : State) (o : Op) (i op nb scope : Nat) (scalar : Bool) (addr : List Dword)
    (b c : List Nat) : PartOut × State :=
  let a := addr.getD i 0
  match (if scalar then some (Space.global, a) else atomSpace a) with
  | none => (partFail o [0] (.refuse a causeScrrange 0), s)
  | some (sp, va) =>
    withSpots s o [0] .atomic sp va nb fun l s =>
      atomPerform s o op nb scope (b.getD i 0) (c.getD i 0) l

/-! ### Commutative ranges (R319 to R321) -/

/-- The identity of a range's operation (R319). -/
def rangeIdentity (op : RangeOp) (fmt : Nat) : Nat :=
  match Fmt.ofCode fmt with
  | some (f, _) =>
    match f.float, op with
    | some _, .add => 2 ^ (f.width - 1)
    | some ff, .min => ff.infinity false
    | some ff, .max => ff.infinity true
    | none, .add => 0
    | none, .min => f.encodeInt f.bounds.2
    | none, .max => f.encodeInt f.bounds.1
  | none => 0

/-- The lines that a core's partial store holds, least recently used first. -/
def heldLines (m : Mem) (core : Nat) : List Phys :=
  (m.partials.filter fun q => q.core = core).foldl
    (fun acc q => if acc.any fun p => p.sameLine q.phys then acc else acc ++ [q.phys]) []

/-- Combines an operand into the core's partial of an element, which was named at `va` through a leaf with HS `hs`; its
line becomes the most recently used. -/
def Mem.addPartial (m : Mem) (r : CRange) (core : Nat) (p : Phys) (va : Dword) (hs : Bool) (b : Nat) : Mem :=
  let w := 8 * rangeWidth r.fmt
  let mine (q : Partial) : Bool := q.core == core && q.phys == p && q.asid == r.asid && q.rid == r.rid
  let old := match m.partials.find? mine with
    | some q => q.bits
    | none => rangeIdentity r.op r.fmt
  let new : Partial := ⟨core, r.asid, r.rid, p, va, hs, r.op, r.fmt, rangeCombine r.op r.fmt old (b % 2 ^ w)⟩
  let rest := m.partials.filter fun q => !mine q
  let sameLine (q : Partial) : Bool := q.core == core && q.phys.sameLine p
  { m with partials := rest.filter (fun q => !sameLine q) ++ (rest.filter sameLine ++ [new]) }

/-- The open range of an identifier. -/
def Mem.range (m : Mem) (asid : BitVec 16) (rid : Nat) : Option CRange :=
  m.ranges.find? fun r => r.asid = asid ∧ r.rid = rid

/-- An operation is the CRCLOSE of a range. -/
def Op.closes (o : Op) (asid : BitVec 16) (rid : Nat) : Bool :=
  match o.body with
  | .crclose r => o.asid == asid && r == rid
  | _ => false

/-- An operation is a CRADD into a range that has lanes to be accepted. -/
def Op.adds (o : Op) (asid : BitVec 16) (rid : Nat) : Bool :=
  match o.body with
  | .cradd _ _ rids _ => o.asid == asid && !o.finished && (lanesOf o.lmask).any fun i => rids.getD i 0 == rid
  | _ => false

/-- A CRADD into a range has been issued and not been accepted wholly. -/
def State.adding (s : State) (asid : BitVec 16) (rid : Nat) : Bool :=
  s.eng.ops.any (fun e => e.2.adds asid rid) || s.sched.saves.any fun v => v.ops.any fun e => e.2.adds asid rid

/-- A CRADD that is a release write, or that goes through to its home after a lazy release, does not stay in its
core's partial store: it is folded at once, and the home line notes the write (R135, R142, R143). -/
def Mem.addThrough (m : Mem) (core : Nat) (md : WMode) (p : PLoc) : Mem :=
  if md.rel || md.through.isSome then (m.foldAt p).noteWrite core md p.key else m

/-- One lane of CRADD (R320): translated as an atomic, then combined into the core's partial. CRADDs that were issued
before a CRCLOSE are accepted before it folds (R321, R322; DEDUCED, log 86); a range that a kill closes accepts none. -/
def craddPart (s : State) (o : Op) (i : Nat) (addr : List Dword) (b rid : List Nat) : PartOut × State :=
  let va := addr.getD i 0
  let open0 (r : CRange) : Bool := !r.closing || s.eng.ops.any fun e => e.2.closes r.asid r.rid
  match (s.mem.range o.asid (rid.getD i 0)).filter open0 with
  | none => (.done [] [], s)
  | some r =>
    match s.locate o.who o.group .atomic .global va.toNat (rangeWidth r.fmt) with
    | (.ok (.mem p _ :: _), s1) =>
      let home := s1.mem.physOf p
      let core := o.who.core
      let lines := heldLines s1.mem core
      let full := decide (2048 ≤ lines.length) && !(lines.any fun q => q.sameLine home)
      match (if full then foldBlocks s1 o.err (s1.mem.heldIn (lines.take 1)) else (none, s1)) with
      | (some t, s2) => (.trouble t, s2)
      | (none, s2) =>
        let hs := s2.leafHs (clusterOf core) o.asid va.toNat
        (.done [] [], { s2 with mem := (s2.mem.addPartial r core home va hs (b.getD i 0)).addThrough core o.wmode p })
    | (.ok _, s1) => (.done [] [], s1)
    | (a, s1) =>
      match a.trouble va (s1.szOf o.who .global va.toNat) with
      | some t => (partFail o [] t, s1)
      | none => (.trouble .wait, s1)

/-- The body of CRCLOSE (R321): once the CRADDs issued before are accepted every line is folded, then the range is
gone. -/
def crclosePart (s : State) (o : Op) (rid : Nat) : PartOut × State :=
  if s.adding o.asid rid then (.trouble .wait, s) else
  match foldBlocks s o.err (rangeBlocks s.mem o.asid rid) with
  | (none, s1) =>
    (.done [] [], { s1 with mem := { s1.mem with
      ranges := s1.mem.ranges.filter fun r => r.asid ≠ o.asid ∨ r.rid ≠ rid } })
  | (some t, s1) => (.trouble t, s1)

/-! ### Running an operation -/

/-- One part of an LSU operation. -/
def runPart (s : State) (o : Op) (i : Nat) : PartOut × State :=
  match o.body with
  | .load _ nb _ sp addr sync => loadPart s o i nb sp addr sync
  | .store nb sp addr data sync => storePart s o i nb sp addr data sync
  | .ldt _ _ addr => ldtPart s o i addr
  | .stt addr data tags => sttPart s o i addr data tags
  | .tagset addr tag => tagsetPart s o addr tag
  | .tagget _ addr => taggetPart s o addr
  | .atom _ op nb scope scalar addr b c _ => atomPart s o i op nb scope scalar addr b c
  | .cradd addr b rid _ => craddPart s o i addr b rid
  | .crclose rid => crclosePart s o rid
  | _ => (.done [] [], s)

/-- Runs the parts of an operation that are not done, in order: what was not performed is answered by
part (R166, R172). -/
def runParts (s : State) (id : Nat) : List Nat → List (Nat × Trouble) × State
  | [] => ([], s)
  | i :: rest =>
    match Sparse.find s.eng.ops id with
    | none => ([], s)
    | some o =>
      if (Sparse.find o.results i).isSome then runParts s id rest
      else match runPart s o i with
        | (.done res refs, s1) =>
          let s2 := (s1.modOp id fun o =>
            { o with
              results := Sparse.put o.results i res
              ldone := o.ldone ||| o.partLanes i
              refs := o.refs ++ refs })
          runParts { s2 with mem := s2.mem.ref refs } id rest
        | (.trouble t, s1) =>
          let (ts, s2) := runParts s1 id rest
          ((i, t) :: ts, s2)

/-- Troubles in lane order. -/
def inLaneOrder (ts : List (Nat × Trouble)) : List Trouble :=
  (List.range 32).flatMap fun i => (ts.filter fun t => t.1 % 32 = i).map (·.2)

/-- The granules that troubles miss. -/
def missedGrans (ts : List Trouble) : List Nat :=
  ts.filterMap fun t => match t with
    | .miss _ (.granule g _ _) _ => some g
    | _ => none

/-- Asks the clearing engine for everything that the troubles of an operation miss (R166). -/
def State.requestAll (s : State) (id : Nat) (ts : List Trouble) : State :=
  match Sparse.find s.eng.ops id with
  | none => s
  | some o =>
    (ts.foldl (fun acc t => match t with
      | .miss _ m _ => acc.requestMissing (clusterOf (coreOf o.loc)) o.asid m
      | _ => acc) s).modOp id fun o => { o with asked := missedGrans ts }

/-- The values that an operation writes to its destinations when it is over (R307, R311 to R316). -/
def Op.writes (o : Op) : List (Res × List (Nat × Nat)) :=
  let res (i : Nat) : List Nat := Sparse.get [] o.results i
  let lanes := lanesOf o.lmask
  match o.body with
  | .load dst nb sx _ _ _ =>
    let val (i : Nat) : Nat :=
      let x := (res i).headD 0 + if nb = 16 then (res (i + 32)).headD 0 * 2 ^ 64 else 0
      if sx then (signedOf (8 * nb) x % (2 ^ 32 : Int)).toNat else x
    match dst with
    | [.s fid n] => [(.s fid n, [(0, (res 0).headD 0)])]
    | _ => (List.range dst.length).filterMap fun k =>
        (dst[k]?).map fun r => (r, lanes.map fun i => (i, val i / 2 ^ (32 * k)))
  | .ldt dst tag _ =>
    let tagOf (b : Nat) : Nat := (res b).getD 16 0
    [(dst, lanes.map fun i => (i, (res (i / 16 * 16)).getD (i % 16) 0)),
     (tag, [(0, tagOf 0 + tagOf 16 * 2 ^ 16)])]
  | .tagget dst _ => [(dst, [(0, (res 0).headD 0)])]
  | .atom dst _ _ _ scalar _ _ _ _ =>
    if scalar then dst.map fun r => (r, [(0, (res 0).headD 0)])
    else (List.range dst.length).filterMap fun k =>
      (dst[k]?).map fun r => (r, lanes.map fun i => (i, (res i).headD 0 / 2 ^ (32 * k)))
  | _ => []

/-- An operation completes: its destinations are written and its counter falls (R308). -/
def State.finishOp (s : State) (id : Nat) : State :=
  match Sparse.find s.eng.ops id with
  | none => s
  | some o => (o.writes.foldl (fun acc w => acc.putRes o.loc w.1 w.2) s).endOp id

/-- The bytes that an operation of the load/store unit names, as (space, offset, length): an address in global
memory by its place in a 4 KiB page, which every mapping of a byte shares; directory entries as a space of their own
(R444). -/
def Op.touches (o : Op) : List (Nat × Nat × Nat) :=
  let at0 (sp : Space) (n : Nat) (a : Dword) : Nat × Nat × Nat :=
    match sp with
    | .global => (0, a.toNat % 4096, n)
    | .cluster => (1, a.toNat, n)
    | .group => (2, a.toNat, n)
  let lanes (l : List Dword) : List Dword := (lanesOf o.lmask).filterMap (l[·]?)
  match o.body with
  | .load _ nb _ sp addr _ | .store nb sp addr _ _ => (lanes addr).map (at0 sp nb)
  | .ldt _ _ a | .stt a _ _ => [(0, a.toNat / 128 * 128 % 4096, 128)]
  | .tagset a _ | .tagget _ a => [(0, a.toNat / 64 * 64 % 4096, 64)]
  | .atom _ _ nb _ scalar addr _ _ _ =>
    if scalar then addr.map (at0 .global nb)
    else (lanes addr).filterMap fun a => (atomSpace a).map fun x => at0 x.1 nb x.2
  | .cradd addr _ _ _ => (lanes addr).map (at0 .global 8)
  | .crclose _ => [(0, 0, 4096)]
  | .hcall a => [(0, a.toNat % 4096, 64)]
  | .launch a _ => [(0, a.toNat % 4096, 256)]
  | .treg _ _ _ => [(3, coreOf o.loc * 512, 512)]
  | .tdrop ent => [(3, ent, 1)]
  | .tmove _ src _ _ => [(3, src, 1)]
  | _ => []

/-- Two runs of bytes have one in common, within a page for global memory. -/
def runsMeet (x y : Nat × Nat × Nat) : Bool :=
  x.1 == y.1 &&
    if x.1 = 0 then decide ((4096 + y.2.1 - x.2.1) % 4096 < x.2.2) || decide ((4096 + x.2.1 - y.2.1) % 4096 < y.2.2)
    else decide (y.2.1 < x.2.1 + x.2.2) && decide (x.2.1 < y.2.1 + y.2.2)

/-- For ordering a CRADD is a write and no read (R159). -/
def OpBody.isCradd : OpBody → Bool
  | .cradd _ _ _ _ | .crclose _ => true
  | _ => false

/-- An operation that reads returns before an acquire, and before a later write is performed. -/
def Op.reads (o : Op) : Bool :=
  !o.body.isCradd &&
    match o.body.kind with
    | .write | .tagwr => false
    | _ => true

/-- An operation makes a write that others see: the record of an HCALL (R160) and a LAUNCH's groups (R136) count. -/
def OpBody.writes (b : OpBody) : Bool :=
  match b with
  | .hcall _ | .launch _ _ => true
  | b => b.kind.writes

/-- A later operation of the fibre may not be performed before this one: a write not before a read (R133), and
accesses to one place not out of order (R132). CRADDs are not ordered among themselves: a read that races with them
includes any subset (R159). -/
def Op.precedes (o later : Op) : Bool :=
  (o.reads && later.body.writes) ||
    (o.touches.any (fun x => later.touches.any (runsMeet x)) &&
      match o.body, later.body with
      | .cradd _ _ _ _, .cradd _ _ _ _ => false
      | _, _ => true)

/-- A fence waits for the operation: an access of R317, a spill or a fill, or a change of a tile directory (R317,
R444). -/
def Op.fenced (o : Op) : Bool :=
  match o.body with
  | .crclose _ => false
  | .move _ _ _ _ | .treg _ _ _ | .tdrop _ | .tmove _ _ _ _ => true
  | b => b.isLsu

/-- The accesses of an operation are those of its fibre: the load/store unit's own, the reads of HCALL and LAUNCH
(R402, R416), and the changes of tile directories (R444). -/
def OpBody.inOrder (b : OpBody) : Bool :=
  match b with
  | .hcall _ | .launch _ _ | .treg _ _ _ | .tdrop _ | .tmove _ _ _ _ => true
  | _ => b.isLsu

/-- An operation waits in the load/store unit behind an earlier one of its fibre that has not been performed. -/
def State.behindOthers (s : State) (id : Nat) (o : Op) : Bool :=
  s.eng.ops.any fun e =>
    decide (e.1 < id) && e.2.loc == o.loc && e.2.body.inOrder && !e.2.finished && e.2.precedes o

/-- The operation holds no frame any more: what it has done is performed, and the rest is not under way (R51). -/
def State.letGo (s : State) (id : Nat) : State :=
  match Sparse.find s.eng.ops id with
  | none => s
  | some o => { s with mem := s.mem.unref o.refs }.modOp id fun o => { o with refs := [] }

/-- Runs the parts `now` of an operation, and unless all of them are performed the others, `later`, as well: a record
is written of all its lanes (R166). -/
def runSome (s : State) (id : Nat) (now later : List Nat) : List (Nat × Trouble) × State :=
  let (ts, s1) := runParts s id now
  if ts.isEmpty then ([], s1)
  else
    let (us, s2) := runParts s1 id later
    (ts ++ us, s2)

/-- Runs an LSU operation, first or again, once nothing of its fibre holds it back. Its parts are performed, or those
for which `now` holds: with every part done it is left for its completion, and a replay completes it at once; where a
part is refused, absent or poisoned it writes its record (R166); otherwise it waits inside the unit. -/
def runLsuOn (now : Nat → Bool) (s : State) (id : Nat) (replay : Bool) : State :=
  match Sparse.find s.eng.ops id with
  | none => s
  | some o =>
    if s.behindOthers id o then s
    else
      let later := o.parts.filter fun i => !now i
      let (ts, s1) := pastSwitches s id fun s => runSome s id (o.parts.filter now) later
      match ts with
      | [] =>
        if !later.isEmpty then s1.letGo id
        else if replay then s1.finishOp id
        else s1.modOp id fun o => { o with finished := true }
      | _ =>
        let l := inLaneOrder ts
        let s2 := ((s1.letGo id).requestAll id l).modOp id fun o => { o with err := false }
        match worst (l.filter fun t => t.kind ≠ 0) with
        | some t => s2.writeRecord id replay o.body.kind.code t
        | none => s2

/-- Runs an LSU operation with all its parts. -/
def runLsu (s : State) (id : Nat) (replay : Bool) : State := runLsuOn (fun _ => true) s id replay

/-- An arrival at a barrier is the release of R136 at GRP scope: the loads and atomics of the fibre that wait inside the
unit are performed first, so that none returns a value written behind the barrier (R138). -/
def State.readFirst (s : State) (loc : Nat) : State :=
  (s.eng.ops.filter fun e => e.2.loc == loc && e.2.body.isLsu && !e.2.finished && !s.recorded e.1).foldl
    (fun acc e => if e.2.reads then runLsu acc e.1 false else acc) s

/-- An arrival at a barrier (R142, R393, R396): it waits for the fibre's earlier stores; its earlier reads are performed
with it, and one that parks the fibre takes the arrival back. -/
def arrival (s : State) (arrive : State → Act) : Act :=
  if s.lsuWaits s.cur fun o => !o.reads then .stall
  else
    let s1 := s.readFirst s.cur
    match s1.fibre s.cur with
    | none => .stall
    | some f =>
      if f.st = .parked then .moved s1
      else if s1.lsuWaits s.cur fun _ => true then .stallWith s1
      else arrive s1

/-- An operation enters the load/store unit. Its accesses are performed at some time until its completion, part by
part: which of them are performed in the turn of the issue is a free value, and LSU_COMPLETE performs the others (R126,
R127, R308; DESIGN CHOICE, log 31). -/
def enterLsu (s : State) (id : Nat) : State := runLsuOn (Config.early s.draws) (s.drew 1) id false

/-! ### Issue -/

/-- The write of an issued operation is the release write of the last release, if that is still to
come (R135). -/
def Fibre.wrote (f : Fibre) (k : AKind) : Fibre := if k.writes then { f with relOpen := false } else f

/-- What watched lanes make of their instruction, once they are translated: the fibre stops; a lane that is refused
parks like any other and stops nothing; a translation that waits holds the instruction (R431). -/
def watchLanes (s : State) (f : Fibre) (k : AKind) : List (Nat × Nat) → Option State
  | [] => none
  | (va, n) :: rest =>
    match checkAll s (s.who s.cur f) k (pieces va n) with
    | (.ok _, s1) => some (s1.modFibre s.cur Fibre.stop)
    | (.wait, s1) => some s1.stall
    | (.miss m, s1) => some (s1.requestMissing (clusterOf (coreOf s.cur)) f.asid m).stall
    | _ => watchLanes s f k rest

/-- What watchpoints make of an instruction before any lane of it is performed; none where nothing is watched
(R431). -/
def watchGate (s : State) (f : Fibre) (k : AKind) (seen : List (Nat × Nat)) : Option State :=
  watchLanes s f k (seen.filter fun a => s.watched f k a.1 a.2)

/-- Issues a memory operation whose registers are free: no active lane makes no access (R253); a
counter at its limit holds it (R267); a watchpoint stops the fibre before any lane is performed
(R431); else it enters the load/store unit, and its destinations are pending. -/
def issueLsu (s : State) (f : Fibre) (ctr : Nat) (lmask : Word) (opa opb : Dword) (dst : List Res)
    (seen : List (Nat × Nat)) (body : OpBody) : Nat × Option State :=
  if f.ctrFull ctr then (0, none)
  else match watchGate s f body.kind seen with
    | some t => (0, some t)
    | none =>
      let (id, s1) := s.newOp f 1 lmask opa opb (some ctr) body
      (id + 1, some ((enterLsu (s1.addPend s.cur id dst) id).modFibre s.cur (Fibre.wrote · body.kind)))

/-- The outcome of an issue: stalled, stopped by a watchpoint, or issued. -/
def issued : Nat × Option State → Act
  | (_, none) => .stall
  | (0, some s) => .moved s
  | (_, some s) => .done s

/-- The blocks of a line that have an active lane, for watchpoints (R311, R431). -/
def seenBlocks (f : Fibre) (va : Dword) : List (Nat × Nat) :=
  ([0, 16].filter fun b => field f.active b 16 != 0).map fun b => (va.toNat / 128 * 128 + b * 4, 64)

/-- The global addresses among those of an atomic's active lanes, for watchpoints (R313, R431). -/
def seenAtoms (lanes : List Nat) (addr : List Dword) (nb : Nat) : List (Nat × Nat) :=
  lanes.filterMap fun i =>
    match atomSpace (addr.getD i 0) with
    | some (.global, a) => some (a.toNat, nb)
    | _ => none

/-- The addresses of the active lanes of an instruction in global space, for watchpoints. -/
def seenLanes (sp : Space) (lanes : List Nat) (addr : List Dword) (nb : Nat) : List (Nat × Nat) :=
  match sp with
  | .global => lanes.map fun i => ((addr.getD i 0).toNat, nb)
  | _ => []

/-- The lane addresses of an M-format instruction (R8). -/
def laneAddrs (s : State) (f : Fibre) (a : BitVec 6) (i : BitVec 7) (nb : Nat) (sp : Space) :
    List Dword :=
  let base := f.s a.toNat
  let v := s.v s.cur f i.toNat
  (List.range 32).map fun k =>
    sp.address (base + if i = 127 then BitVec.ofNat 64 (k * nb) else (lane v k).signExtend 64)

/-- The register list of an access: `k` registers from v[d] (R247). -/
def regRun (d k : Nat) : List Nat := (List.range k).map fun j => d + j

/-- Bytes of a size code (R306). -/
def sizeBytes (z : Nat) : Nat := 2 ^ z

/-- Data of a lane from consecutive registers. -/
def laneData (s : State) (f : Fibre) (d k : Nat) : List Nat :=
  let vs := (regRun d k).map fun n => s.v s.cur f n
  (List.range 32).map fun i => leNat (vs.flatMap fun v => leBytes 4 (lane v i).toNat)

/-- The index register of an M-format instruction, if it has one. -/
def indexReg (i : BitVec 7) : List Nat := if i = 127 then [] else [i.toNat]

/-! ### LD, ST, SLD, SST -/

/-- LD (R306 to R308). -/
def execLd (d : BitVec 7) (a : BitVec 6) (i : BitVec 7) (p : BitVec 2) (x : BitVec 1) (z : BitVec 3)
    (s : State) : Out :=
  runFibre s fun f =>
    let k := Sys2Proof.sizeRegs z.toNat
    let nb := sizeBytes z.toNat
    let sp := Space.ofCode p.toNat
    let dst := resVs s.cur f (regRun d.toNat k)
    guardBusy s (resS s.cur [a.toNat] ++ dst ++ resVs s.cur f (indexReg i)) <|
      if f.active = 0 then .done s
      else
        let addr := laneAddrs s f a i nb sp
        issued (issueLsu s f ctrLD f.active (f.s a.toNat) 0 dst (seenLanes sp (lanesOf f.active) addr nb)
          (.load dst nb (decide (x = 1)) sp addr false))

/-- ST (R306 to R308). -/
def execSt (d : BitVec 7) (a : BitVec 6) (i : BitVec 7) (p : BitVec 2) (z : BitVec 3) (s : State) : Out :=
  runFibre s fun f =>
    let k := Sys2Proof.sizeRegs z.toNat
    let nb := sizeBytes z.toNat
    let sp := Space.ofCode p.toNat
    guardBusy s (resS s.cur [a.toNat] ++ resVs s.cur f (regRun d.toNat k ++ indexReg i)) <|
      if f.active = 0 then .done s
      else
        let addr := laneAddrs s f a i nb sp
        let data := (laneData s f d.toNat k).map (· % 2 ^ (8 * nb))
        issued (issueLsu s f ctrST f.active (f.s a.toNat) 0 [] (seenLanes sp (lanesOf f.active) addr nb)
          (.store nb sp addr data false))

/-- The address of SLD and SST (R310). -/
def slotAddr (f : Fibre) (a : BitVec 6) (o : BitVec 14) : Dword := f.s a.toNat + o.signExtend 64 * 8

/-- SLD (R310). -/
def execSld (d a : BitVec 6) (o : BitVec 14) (s : State) : Out :=
  scalarOp s [d.toNat, a.toNat] fun f =>
    let va := slotAddr f a o
    let dst := [Res.s (fidOf s.cur) d.toNat]
    issued (issueLsu s f ctrLD 1 (f.s a.toNat) 0 dst [(va.toNat, 8)] (.load dst 8 false .global [va] false))

/-- SST (R310). -/
def execSst (d a : BitVec 6) (o : BitVec 14) (s : State) : Out :=
  scalarOp s [d.toNat, a.toNat] fun f =>
    let va := slotAddr f a o
    issued (issueLsu s f ctrST 1 (f.s a.toNat) (f.s d.toNat) [] [(va.toNat, 8)]
      (.store 8 .global [va] [(f.s d.toNat).toNat] false))

/-! ### LDT, STT, TAGSET, TAGGET -/

/-- LDT (R311). -/
def execLdt (d : BitVec 7) (a t : BitVec 6) (s : State) : Out :=
  runFibre s fun f =>
    let dv := resV (fidOf s.cur) f.wdesc d.toNat
    let dt := Res.s (fidOf s.cur) t.toNat
    guardBusy s (resS s.cur [a.toNat] ++ [dv, dt]) <|
      if f.active = 0 then .done s
      else
        let va := f.s a.toNat
        issued (issueLsu s f ctrLD f.active va 0 [dv, dt] (seenBlocks f va) (.ldt dv dt va))

/-- STT (R311). -/
def execStt (d : BitVec 7) (a t : BitVec 6) (s : State) : Out :=
  runFibre s fun f =>
    guardBusy s (resS s.cur [a.toNat, t.toNat] ++ resVs s.cur f [d.toNat]) <|
      let tags := f.s t.toNat
      if f.active = 0 then .done s
      else if field tags 32 32 ≠ 0 then .trap (illTrap 6)
      else
        let va := f.s a.toNat
        issued (issueLsu s f ctrST f.active va tags [] (seenBlocks f va)
          (.stt va (laneData s f d.toNat 1) tags.toNat))

/-- TAGSET (R312). -/
def execTagset (a b : BitVec 6) (s : State) : Out :=
  scalarOp s [a.toNat, b.toNat] fun f =>
    if field (f.s b.toNat) 16 48 ≠ 0 then .trap (illTrap 6)
    else
      let va := f.s a.toNat
      issued (issueLsu s f ctrST f.active va (f.s b.toNat) [] [(va.toNat / 64 * 64, 64)]
        (.tagset va (f.s b.toNat).toNat))

/-- TAGGET (R312). -/
def execTagget (d a : BitVec 6) (s : State) : Out :=
  scalarOp s [d.toNat, a.toNat] fun f =>
    let va := f.s a.toNat
    let dst := Res.s (fidOf s.cur) d.toNat
    issued (issueLsu s f ctrLD f.active va 0 [dst] [(va.toNat / 64 * 64, 64)] (.tagget dst va))

/-! ### ATOM and SATOM -/

/-- The lanes of an atomic whose address is not a multiple of its width (R313). -/
def misaligned (lanes : List Nat) (addr : List Dword) (nb : Nat) : List Nat :=
  lanes.filter fun i => (addr.getD i 0).toNat % nb != 0

/-- ATOM (R313 to R315). -/
def execAtom (d : BitVec 7) (a : BitVec 6) (i : BitVec 7) (w r : BitVec 1) (o : BitVec 4) (s : State) :
    Out :=
  runFibre s fun f =>
    let k := if w = 1 then 2 else 1
    let nb := 4 * k
    let regs := regRun d.toNat (Sys2Proof.atomRegs w.toNat o.toNat)
    let dst := if r = 1 then resVs s.cur f (regRun d.toNat k) else []
    guardBusy s (resS s.cur [a.toNat] ++ resVs s.cur f (regs ++ indexReg i)) <|
      if f.active = 0 then .done s
      else
        let addr := laneAddrs s f a i nb .global
        let bad := misaligned (lanesOf f.active) addr nb
        if bad ≠ [] then .trap ⟨trapALIGN, 0, 0, maskOf bad⟩
        else
          let cmp := if o = 10 then laneData s f (d.toNat + k) k else []
          issued (issueLsu (s.drew 1) f (if r = 1 then ctrLD else ctrST) f.active
            (f.s a.toNat) 0 dst (seenAtoms (lanesOf f.active) addr nb)
            (.atom dst o.toNat nb (modeSC f.mode) false addr (laneData s f d.toNat k) cmp s.draws))

/-- SATOM (R316). -/
def execSatom (d a b : BitVec 6) (w r : BitVec 1) (o : BitVec 4) (s : State) : Out :=
  scalarOp s [d.toNat, a.toNat, b.toNat] fun f =>
    let nb := if w = 1 then 8 else 4
    let va := f.s a.toNat
    let cut (x : Dword) : Nat := x.toNat % 2 ^ (8 * nb)
    let dst := if r = 1 then [Res.s (fidOf s.cur) d.toNat] else []
    if va.toNat % nb ≠ 0 then .trap ⟨trapALIGN, 0, 0, 1⟩
    else issued (issueLsu s f (if r = 1 then ctrLD else ctrST) f.active va (f.s d.toNat) dst [(va.toNat, nb)]
      (.atom dst o.toNat nb (modeSC f.mode) true [va] [cut (f.s d.toNat)] [cut (f.s b.toNat)] 0))

/-! ### Commutative ranges -/

/-- The formats a range operation allows (R319). -/
def rangeFormat (op fmt : Nat) : Bool :=
  match Fmt.ofCode fmt with
  | some (f, scaled) =>
    !scaled && (match f with
      | .f32 | .s32 | .n32 | .s64 | .n64 => true
      | .f16 | .b16 => op == 0
      | _ => false)
  | none => false

/-- The control word of CRDECL is malformed (R319). -/
def rangeBad (base c : Dword) : Bool :=
  field c 56 8 != 0 || field c 46 2 != 0 || field c 48 2 == 3 || !rangeFormat (field c 48 2) (field c 40 6)
    || field c 0 40 == 0 || field c 0 40 % 128 != 0 || !canonical base.toNat || base.toNat % 128 != 0

/-- CRDECL (R319). -/
def execCrdecl (a b : BitVec 6) (s : State) : Out :=
  scalarOp s [a.toNat, b.toNat] fun f =>
    let base := f.s a.toNat
    let c := f.s b.toNat
    let len := field c 0 40
    let mine := s.mem.ranges.filter fun r => r.asid = f.asid
    if rangeBad base c then .trap (illTrap 6)
    else if mine.any fun r => r.rid = field c 50 6 ∨
        (base.toNat < r.base + r.len ∧ r.base < base.toNat + len) then .trap (illTrap 6)
    else if 512 ≤ s.mem.ranges.length then .stall
    else
      let op : RangeOp := match field c 48 2 with
        | 0 => .add
        | 1 => .min
        | _ => .max
      let r : CRange := ⟨f.asid, field c 50 6, base.toNat, len, op, field c 40 6, f.region, false⟩
      .done { s with mem := { s.mem with ranges := s.mem.ranges ++ [r] } }

/-- The open range of an address space that holds an address. -/
def rangeAt (m : Mem) (asid : BitVec 16) (va : Nat) : Option CRange :=
  m.ranges.find? fun r => r.asid = asid ∧ r.closing = false ∧ r.base ≤ va ∧ va < r.base + r.len

/-- A lane of CRADD: its range, address and operand. The offset stands behind the operand: in v[V+1]
for a format of at most 32 bits, in v[V+2] for a 64-bit format (R320). -/
def craddLane (s : State) (f : Fibre) (base : Dword) (v i : Nat) : Option (CRange × Dword × Nat) :=
  let word (n : Nat) : Word := lane (s.v s.cur f n) i
  let near := base + (word (v + 1)).signExtend 64
  let far := base + (word (v + 2)).signExtend 64
  match rangeAt s.mem f.asid near.toNat with
  | some r =>
    if rangeWidth r.fmt ≤ 4 then
      (if near.toNat % rangeWidth r.fmt = 0 then some (r, near, (word v).toNat) else none)
    else wide far word
  | none => wide far word
where
  wide (far : Dword) (word : Nat → Word) : Option (CRange × Dword × Nat) :=
    match rangeAt s.mem f.asid far.toNat with
    | some r =>
      if rangeWidth r.fmt = 8 ∧ v + 2 < 128 ∧ far.toNat % 8 = 0 then
        some (r, far, (word v).toNat + (word (v + 1)).toNat * 2 ^ 32)
      else none
    | none => none

/-- CRADD (R320). -/
def execCradd (a : BitVec 6) (v : BitVec 7) (s : State) : Out :=
  runFibre s fun f =>
    let regs := (regRun v.toNat 3).filter fun n => decide (n < 128)
    guardBusy s (resS s.cur [a.toNat] ++ resVs s.cur f regs) <|
      if f.active = 0 then .done s
      else
        let ls := (List.range 32).map fun i => craddLane s f (f.s a.toNat) v.toNat i
        if (lanesOf f.active).any fun i => (ls.getD i none).isNone then .trap (illTrap 6)
        else
          let addr := ls.map fun l => (l.map (·.2.1)).getD 0
          let b := ls.map fun l => (l.map (·.2.2)).getD 0
          let rid := ls.map fun l => (l.map (·.1.rid)).getD 0
          let seen := (lanesOf f.active).map fun i =>
            ((addr.getD i 0).toNat, ((ls.getD i none).map fun l => rangeWidth l.1.fmt).getD 0)
          issued (issueLsu (s.drew 1) f ctrST f.active (f.s a.toNat) 0 [] seen (.cradd addr b rid s.draws))

/-- CRCLOSE (R321). -/
def execCrclose (a : BitVec 6) (s : State) : Out :=
  scalarOp s [a.toNat] fun f =>
    let x := f.s a.toNat
    if field x 6 58 ≠ 0 then .trap (illTrap 6)
    else match s.mem.ranges.find? fun r => r.asid = f.asid ∧ r.rid = field x 0 6 ∧ r.closing = false with
      | none => .trap (illTrap 6)
      | some _ =>
        let ranges := s.mem.ranges.map fun r =>
          if r.asid = f.asid ∧ r.rid = field x 0 6 then { r with closing := true } else r
        if f.ctrFull ctrST then .stall
        else issued (issueLsu { s with mem := { s.mem with ranges := ranges } } f ctrST f.active x 0 [] []
          (.crclose (field x 0 6)))

end Sys2Proof.Machine
end

