-- ==== Sys2Proof/Machine/Order.lean ====
section
/-! DEFINITION. Ordering: releases and acquires (R135 to R145), fences (R317, R318), LDACQ and STREL
(R309), and the events that drain, write back and close what they rest on. -/

namespace Sys2Proof.Machine

/-! ### Releases (R142, R143) -/

/-- An operation of the load/store unit that the fibre has in flight. -/
def State.lsuBusy (s : State) (loc : Nat) (p : Op → Bool) : Bool :=
  s.eng.ops.any fun e => e.2.loc == loc && e.2.unit == 1 && p e.2

/-- A fence or an acquire ends the write mode that the last release left, once its release write has
been made (R135, R143). -/
def Fibre.closeRelease (f : Fibre) : Fibre :=
  if f.relOpen then f else { f with wthru := none, relNext := false }

/-- What a release does before its write: at FIB and GRP scope nothing leaves the core; a lazy release
closes the core's epoch, and the fibre's next writes go through to their homes; an eager one writes
every dirty line of the core back (R142, R143). The core's release count rises at CLU scope and
wider (R162). A fence ends the write mode of the release before it; a STREL is no fence, and what its release does
not set stays. -/
def State.release (s : State) (loc scope : Nat) (fence lazyDev : Bool) : State :=
  let core := coreOf loc
  if scope ≤ 1 then (if fence then s.modFibre loc Fibre.closeRelease else s)
  else if scope ≤ 3 || lazyDev then
    let e := Sparse.getN s.mem.epoch core
    let m := { s.mem.raiseCount core with epoch := Sparse.setN s.mem.epoch core (e + 1) }
    { s with mem := m }.modFibre loc fun f =>
      { f with wthru := some e, relNext := f.relNext && !fence, relOpen := true }
  else
    { s with mem := (s.mem.writeBackAll core).raiseCount core }.modFibre loc fun f =>
      { f with wthru := if fence then none else f.wthru, relNext := true, relOpen := true }

/-! ### Acquires (R144) -/

/-- The drains of an acquire are done: the pending set is empty, the core's vector of release counts
takes in those of the cores it synchronised with (R162), and its later reads are fresh. An acquire whose fibre has read
no release write since its last one synchronises with nothing: the L1 may keep its clean copies then (R138). -/
def State.acquired (s : State) (loc : Nat) (f : Fibre) : State :=
  let core := coreOf loc
  let from0 := ((f.pendSet.map fun k => k.core) ++ f.syncSet).eraseDups
  let m := s.mem.mergeCounts core from0
  { s with
      mem := if from0.isEmpty && Config.l1Keeps s.draws then m else m.refresh core }.drew 1 |>.modFibre loc
    fun f => { f with pendSet := [], syncSet := [], draining := false, flushing := false }

/-- One attempt of an acquire: at FIB and GRP scope no drain is sent; at CLU scope and wider the
drains of the pending set are sent once, and the acquire is over when they are done (R144). -/
def State.acquire (s : State) (loc scope : Nat) : Bool × State :=
  match s.fibre loc with
  | none => (true, s)
  | some f =>
    if scope ≤ 1 then (true, s)
    else
      let owed := f.pendSet.filter fun k => k.core ≠ coreOf loc
      if f.draining then
        if owed.any s.mem.drains.contains then (false, s) else (true, s.acquired loc f)
      else if owed.isEmpty then (true, s.acquired loc f)
      else
        (false, ({ s with mem := { s.mem with
          drains := (owed ++ s.mem.drains).eraseDups } }).modFibre loc fun f => { f with draining := true })

/-! ### Fences (R317, R318) -/

/-- The acquire half of a fence; `after` is what the fence does once it is over. -/
def acquireHalf (s : State) (scope : Nat) (after : State → State) : Act :=
  match s.acquire s.cur scope with
  | (true, s1) => .done (after s1)
  | (false, s1) => .stallWith s1

/-- FENCE.ACQ: after the fibre's earlier reads, the drains of its pending set. -/
def execFenceAcq (sc : BitVec 3) (s : State) : Out :=
  runFibre s fun _ =>
    if s.lsuBusy s.cur fun o => o.fenced && o.reads then .stall
    else
      acquireHalf (s.modFibre s.cur Fibre.closeRelease) sc.toNat fun t => t

/-- FENCE.REL: after the fibre's earlier accesses, its release. -/
def execFenceRel (sc : BitVec 3) (s : State) : Out :=
  runFibre s fun _ =>
    if s.lsuBusy s.cur Op.fenced then .stall else .done (s.release s.cur sc.toNat true false)

/-- A fence that is a release and then an acquire. A fence whose drains are under way has done its
release (R318). -/
def bothFence (scope : Nat) (before after : State → State) (s : State) : Out :=
  runFibre s fun f =>
    if f.draining then acquireHalf s scope after
    else if s.lsuBusy s.cur Op.fenced then .stall
    else acquireHalf ((before s).release s.cur scope true false) scope after

/-- FENCE.AR. -/
def execFenceAr (sc : BitVec 3) (s : State) : Out := bothFence sc.toNat (fun t => t) (fun t => t) s

/-- FENCE.SC: FENCE.AR whose core's dirty lines are at their homes and whose core reads nothing older behind it, so
that the order in which these fences are over is the order of R140. -/
def execFenceSc (sc : BitVec 3) (s : State) : Out :=
  bothFence sc.toNat
    (fun t => if sc.toNat ≤ 1 then t else { t with mem := t.mem.writeBackAll (coreOf t.cur) })
    (fun t => if sc.toNat ≤ 1 then t else { t with mem := t.mem.refresh (coreOf t.cur) }) s

/-- The sampler cache of a core is empty. -/
def Mem.emptySampler (m : Mem) (core : Nat) : Mem := { m with smp := m.smp.filter fun l => l.core ≠ core }

/-- FENCE.TX: FENCE.AR, then the core's sampler cache is empty, and it fills from fresh lines (R153, R154). -/
def execFenceTx (sc : BitVec 3) (s : State) : Out :=
  bothFence sc.toNat (fun t => t)
    (fun t => { t with mem := (t.mem.emptySampler (coreOf t.cur)).refresh (coreOf t.cur) }) s

/-! ### LDACQ and STREL (R309) -/

/-- The scope of a space: group scratch narrows to GRP, cluster scratch to CLU (R131). -/
def Space.narrow (sp : Space) (scope : Nat) : Nat :=
  match sp with
  | .global => scope
  | .cluster => min scope 2
  | .group => min scope 1

/-- LDACQ once its reads have returned: the drains of R144, then its destinations are written. -/
def ldacqGo (s : State) (id scope : Nat) : Act :=
  match s.acquire s.cur scope with
  | (true, s1) =>
    .done ((s1.finishOp id).modFibre s.cur fun f => { f.closeRelease with waitOp := none })
  | (false, s1) => .stallWith s1

/-- LDACQ: an acquire read at MODE.SC. Its operation is made at the first attempt and kept until the
acquire is over. -/
def execLdacq (d : BitVec 7) (a : BitVec 6) (i : BitVec 7) (p : BitVec 2) (x : BitVec 1)
    (z : BitVec 2) (s : State) : Out :=
  runFibre s fun f =>
    let k := Sys2Proof.sizeRegs z.toNat
    let nb := sizeBytes z.toNat
    let sp := Space.ofCode p.toNat
    let scope := sp.narrow (modeSC f.mode)
    match f.waitOp with
    | some id =>
      (match Sparse.find s.eng.ops id with
      | some o => if o.finished then ldacqGo s id scope else .stall
      | none => ldacqGo s id scope)
    | none =>
      let dst := resVs s.cur f (regRun d.toNat k)
      guardBusy s (resS s.cur [a.toNat] ++ dst ++ resVs s.cur f (indexReg i)) <|
        if f.active = 0 then .done s
        else
          let addr := laneAddrs s f a i nb sp
          match issueLsu s f ctrLD f.active (f.s a.toNat) 0 dst (seenLanes sp (lanesOf f.active) addr nb)
            (.load dst nb (decide (x = 1)) sp addr true) with
          | (_, none) => .stall
          | (0, some s1) => .moved s1
          | (n + 1, some s1) =>
            let s2 := s1.modFibre s.cur fun f => { f with waitOp := some n }
            match Sparse.find s2.eng.ops n with
            | some o => if o.finished then ldacqGo s2 n scope else .stallWith s2
            | none => .stallWith s2

/-- Every active lane of a release store has its home on the releasing core's die: the vault frame's, or the one
that homes a line of host memory (R46, R62, R142). -/
def ownDie (s : State) (f : Fibre) (sp : Space) (lanes : List Nat) (addr : List Dword) (nb : Nat) : Bool :=
  lanes.all fun i =>
    match (s.locate (s.who s.cur f) f.group .write sp (addr.getD i 0).toNat nb).1 with
    | .ok l => l.all fun x =>
      match x with
      | .mem (.vault a) _ => a / 4096 % 4 == dieOf (coreOf s.cur)
      | .mem (.host a) _ => Config.hostDie (a / 128) % 4 == dieOf (coreOf s.cur)
      | _ => false
    | _ => false

/-- STREL: a release write at MODE.SC. -/
def execStrel (d : BitVec 7) (a : BitVec 6) (i : BitVec 7) (p : BitVec 2) (z : BitVec 2) (s : State) :
    Out :=
  runFibre s fun f =>
    let k := Sys2Proof.sizeRegs z.toNat
    let nb := sizeBytes z.toNat
    let sp := Space.ofCode p.toNat
    let scope := sp.narrow (modeSC f.mode)
    guardBusy s (resS s.cur [a.toNat] ++ resVs s.cur f (regRun d.toNat k ++ indexReg i)) <|
      if f.active = 0 then .done s
      else if s.lsuBusy s.cur Op.fenced || f.ctrFull ctrST then .stall
      else
        let addr := laneAddrs s f a i nb sp
        let data := (laneData s f d.toNat k).map (· % 2 ^ (8 * nb))
        let seen := seenLanes sp (lanesOf f.active) addr nb
        match watchGate s f .write seen with
        | some t => .moved t
        | none =>
          let near := scope == 4 && ownDie s f sp (lanesOf f.active) addr nb
          issued (issueLsu (s.release s.cur scope false near) f ctrST f.active (f.s a.toNat) 0 [] []
            (.store nb sp addr data true))

/-! ### Events -/

/-- DRAIN: a marked core writes back its dirty lines of the marked epochs, whatever its fibres do
(R144, R145). -/
def execDrain (core : Nat) (s : State) : Out :=
  let mine := s.mem.drains.filter fun k => k.core = core
  let m := mine.foldl (fun m k => m.drain k) s.mem
  .next { s with mem := { m with drains := m.drains.filter fun k => k.core ≠ core } }

/-- DIRTY_LINE_WRITEBACK: a line, by its number, leaves a core's L1 or its cluster's cache (R134). -/
def execDirtyLineWriteback (core line : Nat) (s : State) : Out := .next (s.lineOut core line)

/-- MERGE_WINDOW_CLOSE: an entry of a cluster's merge table closes (R93). -/
def execMergeWindowClose (cluster line : Nat) (asid : BitVec 16) (s : State) : Out :=
  let merges := s.mem.merges.filter fun e => e.cluster ≠ cluster ∨ e.line ≠ line ∨ e.asid ≠ asid
  .next { s with mem := { s.mem with merges := merges } }

end Sys2Proof.Machine
end

