-- ==== Sys2Proof/Machine/Engine.lean ====
section
/-! DEFINITION. What the engines are built from: an engine operation is a program of accesses, run as
an agent of its own (R125, R148). The operation keeps a log of the values that its accesses returned,
so that a replay continues behind them and repeats none (R172). -/

namespace Sys2Proof.Machine

/-! ### Accesses of an engine -/

/-- One access. Every access answers a number. -/
inductive Req where
  /-- Bytes, least significant first. -/
  | read (sp : Space) (a : Dword) (n : Nat)
  | write (sp : Space) (a : Dword) (n val : Nat)
  /-- A 64-byte block with its tag: the bytes, then the tag from bit 512, then at bit 528 whether a copy
  of the block carries a tag (R101, R330). -/
  | block (sp : Space) (a : Dword)
  /-- Writes such a block in one access. -/
  | putBlock (a : Dword) (val : Nat)
  | setTag (a : Dword) (tag : Nat)
  | atom (a : Dword) (op nb scope b : Nat)
  /-- An entry of a FIFO bank of the core's cluster: log2 of its size in [3:0], its tags from bit 4, its
  bytes from bit 1028 (R83, R343). -/
  | pop (bank : Nat)
  | push (bank : Nat) (bytes : List Byte) (tags : List (BitVec 16))
  /-- Bytes of one line through the sampler path (R152), with bit 8 × n set; 0 under the error response.
  The bytes are refused with cause RSVD when they are malformed. -/
  | sample (a : Dword) (n : Nat) (bad : Nat → Bool)
  /-- The texels of a quad through the sampler path, read as one (R172, R383): each its bytes with bit 8 × n set, or 0
  under the error response, at steps of 8 × n + 1 bits. -/
  | quad (l : List Dword) (n : Nat)
  /-- A record that is refused with cause RSVD when it is malformed: the bytes with bit 8 × n set, and 0
  under the error response. -/
  | record (a : Dword) (n : Nat) (bad : Nat → Bool)
  /-- Bytes of memory at their home, with bit 8 × n set; 0 under the error response (R386). -/
  | home (a : Dword) (n : Nat)
  /-- Writes bytes at their home. -/
  | putHome (a : Dword) (n val : Nat)
  /-- One indivisible raster update: the depth at `z` and the identifier at `i` are written when the new
  depth is below the stored one (R386). The answer is the depth that stands then, with bit 32 set, and
  bit 33 when it was written; 0 under the error response. -/
  | zwrite (z i : Dword) (depth id : Nat)
  /-- A K-block of cluster scratch with its strip tag, by banks and offsets of the block and of the tag
  (R342): the bytes, then the tag from bit 512, read as one (R102). -/
  | panel (bank off tbank toff : Nat)

/-- The access kind (R26). -/
def Req.kind : Req → AKind
  | .read _ _ _ | .block _ _ | .sample _ _ _ | .quad _ _ | .record _ _ _ | .panel _ _ _ _ | .home _ _ => .read
  | .write _ _ _ _ | .putBlock _ _ | .putHome _ _ _ | .zwrite _ _ _ _ => .write
  | .setTag _ _ => .tagwr
  | .atom _ _ _ _ _ => .atomic
  | .pop _ => .read
  | .push _ _ _ => .write

/-- The bank of a FIFO access by its number in the cluster of a core. -/
def bankOf (core bank : Nat) : Nat := clusterOf core * 32 + bank

/-- The number of a popped entry. -/
def popValue (log2 : Nat) (e : FifoEnt) : Nat :=
  log2 + 16 * (leNat (e.tags.flatMap fun t => leBytes 2 t.toNat) + 2 ^ 1024 * leNat e.bytes)

/-- The address under which a FIFO access is reported: its bank, as issued (R169). -/
def fifoVa (bank : Nat) : Dword := BitVec.ofNat 64 bank

/-- Pops an entry: it waits while the ring is empty or the bank is in transit, and is never refused for
emptiness (R83). -/
def popFifo (s : State) (o : Op) (bank : Nat) : PartOut × State :=
  let b := bankOf o.who.core bank
  let k := s.mem.bank b
  if s.mem.inTransit b then (.trouble .wait, s)
  else if k.mode ≠ .fifo then (partFail o [0] (.refuse (fifoVa bank) causeBankmode 0), s)
  else match k.fifo with
    | [] => (.trouble .wait, s)
    | e :: rest =>
      if e.poison && !o.err then (.trouble (.poison (fifoVa bank) 0), s)
      else
        let banks := Sparse.put s.mem.banks b { k with fifo := rest }
        let v := if e.poison then popValue k.entry ⟨List.replicate (2 ^ k.entry) 0, [], false⟩
          else popValue k.entry e
        (.done [v] [], { s with mem := { s.mem with banks := banks } })

/-- Pushes an entry: it waits while the ring is full (R83). Bytes that make no whole entry of the bank are refused as
reserved (R324). -/
def pushFifo (s : State) (o : Op) (bank : Nat) (bytes : List Byte) (tags : List (BitVec 16)) :
    PartOut × State :=
  let b := bankOf o.who.core bank
  let k := s.mem.bank b
  if s.mem.inTransit b then (.trouble .wait, s)
  else if k.mode ≠ .fifo then (partFail o [0] (.refuse (fifoVa bank) causeBankmode 0), s)
  else if bytes.length ≠ 2 ^ k.entry then (partFail o [0] (.refuse (fifoVa bank) causeRsvd 0), s)
  else if 2 ^ 18 < (k.fifo.length + 1) * 2 ^ k.entry then (.trouble .wait, s)
  else
    let banks := Sparse.put s.mem.banks b { k with fifo := k.fifo ++ [⟨bytes, tags, false⟩] }
    (.done [0] [], { s with mem := { s.mem with banks := banks } })

/-- The tag part of a block's number: memory with a tag plane gives its tag, host memory 0, scratch
none (R330). -/
def blockTag (s : State) (o : Op) : List Spot → Nat
  | .mem p _ :: _ => 2 ^ 512 * (s.tagOf o p).toNat + 2 ^ 528
  | _ => 0

/-- The physical line of a place. -/
def Mem.lineOf (m : Mem) (p : PLoc) : Phys :=
  match m.physOf p with
  | .pool a => .pool (a / 128 * 128)
  | .pinned a => .pinned (a / 128 * 128)
  | .host a => .host (a / 128 * 128)
  | .peer a => .peer (a / 128 * 128)

/-- A line of the sampler cache. -/
def findSamp (m : Mem) (core : Nat) (p : Phys) : Option SampLine :=
  m.smp.find? fun l => l.core = core ∧ l.place = p

/-- The sampler cache of a core: 64 sets of 8 lines (R78). -/
def sampSets : Nat := 64
def sampWays : Nat := 8

/-- A line enters a core's sampler cache; the set's line that was filled first leaves when there are more than 8
(DESIGN CHOICE, log 41: the set is the line number's remainder). -/
def Mem.putSamp (m : Mem) (l : SampLine) : Mem :=
  let own (x : SampLine) : Bool := x.core == l.core && x.place.addr / 128 % sampSets == l.place.addr / 128 % sampSets
  { m with smp := l :: keepFirst own (sampWays - 1) m.smp }

/-- Bytes of one line through the sampler cache: a hit gives the line as it was filled, a miss fills it
through the core's L1 and the merge window, with the tags of the same moment (R79, R93, R154). Peer memory is read
each time (R25). -/
def sampleAt (s : State) (o : Op) (p : PLoc) (n : Nat) : Nat × State :=
  let core := o.who.core
  let off := p.addr % 128
  match p with
  | .peer _ => (leNat (s.mem.readAt core p n), s)
  | _ =>
    match findSamp s.mem core (s.mem.lineOf p) with
    | some l => (leNat ((l.data.drop off).take n), s)
    | none =>
      let (data, s1) := s.readOf o [.mem p.line 128]
      let l : SampLine := ⟨core, s.mem.lineOf p, data, [s1.tagOf o p.line, s1.tagOf o (p.line.offset 64)]⟩
      (leNat ((data.drop off).take n), { s1 with mem := s1.mem.putSamp l })

/-- The physical line behind a leaf, whatever frame holds it; a peer's has no place in a cache (R69). -/
def TlbEnt.lineAt (e : TlbEnt) (va : Nat) : Option Phys :=
  let a := (pteAddr e.pte + va % 2 ^ e.log2) / 128 * 128
  match pteKind e.pte with
  | 0 => some (.pool a)
  | 2 => some (.pinned a)
  | 1 => e.host.map fun h => .host ((h.1 + va % 4096) / 128 * 128)
  | _ => none

/-- The sampler line of an address, once it has passed the checks of R28: a hit gives the line as it was filled,
whatever has become of its home (R79). -/
def State.sampled (s : State) (o : Op) (a : Dword) : Option SampLine × State :=
  match checkPage s o.who .read a.toNat with
  | (.ok e, s1) => ((e.lineAt a.toNat).bind (findSamp s1.mem o.who.core), s1)
  | _ => (none, s)

/-- Part of a K-block in cluster scratch: an offset at or beyond the bank's end is refused (R342). -/
def locatePanel (s : State) (o : Op) (bank off n : Nat) : Acc (List Spot) × State :=
  if 2 ^ 18 ≤ off then (.refuse causeScrrange 0, s)
  else s.locate o.who o.group .read .cluster (bank * 2 ^ 18 + off) n

/-- Reads a K-block with its tag as one (R102, R342). -/
def readPanel (s : State) (o : Op) (bank off tbank toff : Nat) : PartOut × State :=
  let fail (a : Acc (List Spot)) (at0 : Nat) (s : State) : PartOut × State :=
    match a.trouble (BitVec.ofNat 64 at0) 0 with
    | some t => (partFail o [0] t, s)
    | none => (.trouble .wait, s)
  match locatePanel s o bank off 64 with
  | (.ok d, s1) =>
    (match locatePanel s1 o tbank toff 2 with
    | (.ok g, s2) =>
      let (data, s3) := s2.readOf o d
      let (tag, s4) := s3.readOf o g
      (.done [leNat data + 2 ^ 512 * leNat tag] [], s4)
    | (a, s2) => fail a (tbank * 2 ^ 18 + toff) s2)
  | (a, s1) => fail a (bank * 2 ^ 18 + off) s1

/-- Reads a record and checks it. -/
def readRecord (s : State) (o : Op) (a : Dword) (n : Nat) (bad : Nat → Bool) : PartOut × State :=
  let zero : List Nat := [0]
  match withSpots s o [] .read .global a n fun l s => let (b, s1) := s.readOf o l; ([leNat b], s1) with
  | (.done [v] refs, s1) =>
    if bad v then (partFail o zero (.refuse a causeRsvd (s1.szOf o.who .global a.toNat)), s1)
    else (.done [v + 2 ^ (8 * n)] refs, s1)
  | (.done _ refs, s1) => (.done zero refs, s1)
  | (.trouble t, s1) => (.trouble t, s1)

/-- A trouble of an access at another address. -/
def Trouble.moved (t : Trouble) (va : Dword) : Trouble :=
  match t with
  | .miss _ m z => .miss va m z
  | .refuse _ c z => .refuse va c z
  | .poison _ z => .poison va z
  | .wait => .wait

/-- Bytes through the sampler path: of a line that the cache holds, else of a fill, which is a read of the whole line, so
that it never installs a part of one (R79, R80). -/
def sampleBytes (s : State) (o : Op) (a : Dword) (n : Nat) : PartOut × State :=
  match s.sampled o a with
  | (some l, s1) => (.done [leNat ((l.data.drop (a.toNat % 128)).take n)] [], s1)
  | (none, s1) =>
    withSpots s1 o [] .read .global (BitVec.ofNat 64 (a.toNat / 128 * 128)) 128 fun l s =>
      match blockPlace l with
      | some p => let (v, s1) := sampleAt s o (p.offset (a.toNat % 128)) n; ([v], s1)
      | none => ([0], s)

/-- Reads bytes through the sampler path and checks them. -/
def samplePart (s : State) (o : Op) (a : Dword) (n : Nat) (bad : Nat → Bool) : PartOut × State :=
  let zero : List Nat := [0]
  match sampleBytes s o a n with
  | (.done [v] refs, s1) =>
    if bad v then (partFail o zero (.refuse a causeRsvd (s1.szOf o.who .global a.toNat)), s1)
    else (.done [v + 2 ^ (8 * n)] refs, s1)
  | (.done _ refs, s1) => (.done zero refs, s1)
  | (.trouble t, s1) => (.trouble (t.moved a), s1)

/-- The texels of a quad. One that cannot be read leaves the whole quad to be read again (R172). -/
def quadPart (s : State) (o : Op) (n : Nat) : List Dword → PartOut × State
  | [] => (.done [0] [], s)
  | a :: rest =>
    match samplePart s o a n fun _ => false with
    | (.done v refs, s1) =>
      (match quadPart s1 o n rest with
      | (.done w more, s2) => (.done [v.headD 0 + 2 ^ (8 * n + 1) * w.headD 0] (refs ++ more), s2)
      | out => out)
    | out => out

/-- Bytes of spots at their home, once the core's own dirty bytes are there. -/
def homeBytes (s : State) (core : Nat) (l : List Spot) : List Byte × State :=
  let s1 := s.settleAll core l
  (l.flatMap fun x => match x with
    | .mem p n => s1.mem.homeAt p n
    | _ => [], s1)

/-- Writes bytes of spots at their home. -/
def putHomeBytes (s : State) (core : Nat) (b : List Byte) (l : List Spot) : State :=
  (s.settleAll core l).writeSpots core ⟨none, true, false⟩ b l

/-- a < b for two F32 encodings; a NaN is below nothing. -/
def below32 (a b : Nat) : Bool :=
  let ff : FloatFmt := ⟨8, 23, 127, .ieee, 0⟩
  !(ff.read a).isNaN && !(ff.read b).isNaN && Val.cmp (ff.read a) (ff.read b) == .lt

/-- The raster update of one sample. -/
def zwritePart (s : State) (o : Op) (z i : Dword) (depth id : Nat) : PartOut × State :=
  let core := o.who.core
  match s.locate o.who o.group .write .global i.toNat 8 with
  | (.ok li, s1) =>
    (match s1.foldSpots o.err li with
    | (some t, s2) => (partFail o [0] t, s2)
    | (none, s2) =>
      withSpots s2 o [0] .write .global z 4 fun l s =>
        let (b, s3) := homeBytes s core l
        let old := leNat b
        if below32 depth old then
          let s4 := putHomeBytes s3 core (leBytes 4 depth) l
          ([depth + 2 ^ 32 + 2 ^ 33], putHomeBytes s4 core (leBytes 8 id) li)
        else ([old + 2 ^ 32], s3))
  | (a, s1) =>
    match a.trouble i (s1.szOf o.who .global i.toNat) with
    | some t => (partFail o [0] t, s1)
    | none => (.trouble .wait, s1)

/-- Performs one access. -/
def Req.perform (s : State) (o : Op) : Req → PartOut × State
  | .read sp a n =>
    withSpots s o [0] .read sp a n fun l s =>
      let (b, s1) := s.readOf o l
      ([leNat b], s1)
  | .write sp a n val =>
    withSpots s o [0] .write sp a n fun l s =>
      ([0], s.writeSpots o.who.core WMode.plain (leBytes n val) l)
  | .block sp a =>
    withSpots s o [0] .read sp a 64 fun l s =>
      let (b, s1) := s.readOf o l
      ([leNat b + blockTag s1 o l], s1)
  | .putBlock a val =>
    withSpots s o [0] .write .global a 64 fun l s =>
      let data := leBytes 64 val
      match blockPlace l with
      | some p =>
        let s1 := s.writeSpots o.who.core WMode.plain data l
        if val / 2 ^ 528 = 1 then
          ([0], { s1 with mem := s1.mem.writeTag o.who.core WMode.plain p (BitVec.ofNat 16 (val / 2 ^ 512)) })
        else ([0], s1)
      | none => ([0], s)
  | .setTag a tag =>
    withSpots s o [0] .tagwr .global a 64 fun l s =>
      match blockPlace l with
      | some p => ([0], { s with mem := s.mem.writeTag o.who.core WMode.plain p (BitVec.ofNat 16 tag) })
      | none => ([0], s)
  | .atom a op nb scope b =>
    withSpots s o [0] .atomic .global a nb fun l s => atomPerform s o op nb scope b 0 l
  | .pop bank => popFifo s o bank
  | .push bank bytes tags => pushFifo s o bank bytes tags
  | .record a n bad => readRecord s o a n bad
  | .panel bank off tbank toff => readPanel s o bank off tbank toff
  | .home a n =>
    withSpots s o [0] .read .global a n fun l s =>
      let (b, s1) := homeBytes s o.who.core l
      ([leNat b + 2 ^ (8 * n)], s1)
  | .putHome a n val =>
    withSpots s o [0] .write .global a n fun l s => ([0], putHomeBytes s o.who.core (leBytes n val) l)
  | .zwrite z i depth id => zwritePart s o z i depth id
  | .sample a n bad => samplePart s o a n bad
  | .quad l n => quadPart s o n l

/-! ### Programs -/

/-- A program of accesses with a result. -/
inductive Prog (α : Type) where
  | ret (a : α)
  | ask (r : Req) (k : Nat → Prog α)

/-- One program after another. -/
def Prog.bind {α β : Type} (p : Prog α) (f : α → Prog β) : Prog β :=
  match p with
  | .ret a => f a
  | .ask r k => .ask r fun v => (k v).bind f

/-- What a program answers once the logged values have run out in it, and those left over; none where it stands at an
access of its own. -/
def Prog.eat {α : Type} : Prog α → List LogVal → Option (α × List LogVal)
  | .ret a, l => some (a, l)
  | .ask _ k, v :: l => (k v).eat l
  | .ask _ _, [] => none

/-- One access. -/
def ask (r : Req) : Prog Nat := .ask r .ret

/-- Runs a program for each item, passing a value along. -/
def Prog.fold {β γ : Type} (f : β → γ → Prog β) (acc : β) : List γ → Prog β
  | [] => .ret acc
  | x :: rest => (f acc x).bind fun b => Prog.fold f b rest

/-- How a run ended: with a result, or at an access that was not performed. -/
inductive Ran (α : Type) where
  | done (a : α)
  | stop (kind : AKind) (t : Trouble)

/-- The aligned words of an access of an engine that are single-copy units of their own, by address and bytes: a copy, a
tensor or a drain moves its words one by one (R126, R150, R330). -/
def Req.words : Req → Option (Nat × Nat)
  | .read _ a n => some (a.toNat, n)
  | .write _ a n _ => some (a.toNat, n)
  | .block _ a => some (a.toNat, 64)
  | _ => none

/-- The offsets in an access of the words that its first turn moves, or of the others. -/
def wordRuns (draw a n : Nat) (first : Bool) : List (Nat × Nat) :=
  ((List.range ((a % 4 + n + 3) / 4)).filter fun i => Config.firstWord draw i == first).map fun i =>
    (i * 4 - a % 4, min (i * 4 + 4 - a % 4) n - (i * 4 - a % 4))

/-- The value of an access whose words were read in two turns: what the first read of its words, and what the second read
of the others and, above the bytes, of their tag. -/
def mixWords (draw a n x y : Nat) : Nat :=
  let byte (i : Nat) : Nat :=
    (if Config.firstWord draw ((a % 4 + i) / 4) then x else y) / 2 ^ (8 * i) % 256
  ((List.range n).map fun i => byte i * 2 ^ (8 * i)).sum + y / 2 ^ (8 * n) * 2 ^ (8 * n)

/-- Writes some words of an access. -/
def writeRuns (s : State) (o : Op) (sp : Space) (a : Dword) (n val : Nat) (runs : List (Nat × Nat)) : PartOut × State :=
  withSpots s o [0] .write sp a n fun l s =>
    ([0], runs.foldl (fun (acc : State) r =>
      acc.writeSpots o.who.core WMode.plain (leBytes r.2 (val / 2 ^ (8 * r.1))) (subSpots r.1 r.2 l)) s)

/-- The first turn of an access: what is left for the second, the draw above the value read (R150). -/
def Req.begin (r : Req) (s : State) (o : Op) : PartOut × State :=
  match r with
  | .write sp a n val => writeRuns s o sp a n val (wordRuns s.draws a.toNat n true)
  | r => r.perform s o

/-- The second turn. -/
def Req.finish (r : Req) (s : State) (o : Op) (draw x : Nat) : PartOut × State :=
  match r, r.words with
  | .write sp a n val, _ => writeRuns s o sp a n val (wordRuns draw a.toNat n false)
  | r, some (a, n) =>
    (match r.perform s o with
    | (.done [y] refs, s1) => (.done [mixWords draw a n x y] refs, s1)
    | out => out)
  | r, none => r.perform s o

/-- An access of an engine is to be made in two turns, of which this is the first. -/
def Op.halves (o : Op) (s : State) (r : Req) : Bool := decide (2 ≤ o.unit) && r.words.isSome && Config.halves s.draws

/-- Runs a program behind the logged values `old`; `half` is what the first turn of the access at which it stands has
left. Answers the values of the accesses performed now, newest first, and what is left for a second turn. -/
def Prog.run {α : Type} (o : Op) :
    Prog α → List LogVal → List LogVal → Option (Nat × Nat) → State → Ran α × List LogVal × Option (Nat × Nat) × State
  | .ret a, _, new, _, s => (.done a, new, none, s)
  | .ask _ k, v :: old, new, half, s => (k v).run o old new half s
  | .ask r k, [], new, some (draw, x), s =>
    match r.finish s o draw x with
    | (.done res _, s1) => (k (res.headD 0)).run o [] (res.headD 0 :: new) none s1
    | (.trouble t, s1) => (.stop r.kind t, new, some (draw, x), s1)
  | .ask r k, [], new, none, s =>
    if o.halves s r then
      match r.begin s o with
      | (.done res _, s1) => (.stop r.kind .wait, new, some (s.draws, res.headD 0), s1.drew 1)
      | (.trouble t, s1) => (.stop r.kind t, new, none, s1)
    else match r.perform s o with
      | (.done res _, s1) => (k (res.headD 0)).run o [] (res.headD 0 :: new) none s1
      | (.trouble t, s1) => (.stop r.kind t, new, none, s1)

/-- What an operation's thread keeps between two turns of an access. -/
def Op.halfOf (o : Op) (key : Nat) : Option (Nat × Nat) :=
  (Sparse.find o.half (2 * key)).map fun d => (d, Sparse.getN o.half (2 * key + 1))

/-- Keeps it. -/
def Op.putHalf (o : Op) (key : Nat) (h : Option (Nat × Nat)) : Op :=
  match h with
  | some (d, x) => { o with half := Sparse.put (Sparse.put o.half (2 * key) d) (2 * key + 1) x }
  | none => { o with half := Sparse.erase (Sparse.erase o.half (2 * key)) (2 * key + 1) }

/-- Runs a thread of an operation: one lane, or the operation as a whole. -/
def runThread {α : Type} (s : State) (id key : Nat) (p : Prog α) : Ran α × State :=
  match Sparse.find s.eng.ops id with
  | none => (.stop .read .wait, s)
  | some o =>
    let old := Sparse.get [] o.logs key
    let ((r, new, half), s1) := pastSwitches s id fun s =>
      let (r, new, half, s1) := p.run o old [] (o.halfOf key) s
      ((r, new, half), s1)
    let s2 := if new.isEmpty && half == o.halfOf key then s1
      else s1.modOp id fun o => { o with logs := Sparse.put o.logs key (old ++ new.reverse) }.putHalf key half
    (r, s2)

/-- The record of an operation whose accesses met troubles, in lane order (R166): what is missing is
asked for, and the worst decides. Without any but waits the operation stays in its unit as it stands. -/
def State.parkOp (s : State) (id : Nat) (replay : Bool) (ts : List (AKind × Trouble)) : State :=
  match Sparse.find s.eng.ops id with
  | none => s
  | some _ =>
    let s1 := (s.letGo id).requestAll id (ts.map (·.2))
    match worst ((ts.map (·.2)).filter fun t => t.kind ≠ 0) with
    | some t =>
      let kind := match ts.find? fun x => x.2 = t with
        | some x => x.1
        | none => AKind.read
      (s1.modOp id fun o => { o with err := false }).writeRecord id replay kind.code t
    | none => s1

/-- Such a record, with where the operation stands for its cursor (R171). -/
def State.parkAt (s : State) (id : Nat) (pos : List Nat) (replay : Bool) (ts : List (AKind × Trouble)) : State :=
  (s.modOp id fun o => { o with pos := pos }).parkOp id replay ts

/-- A new operation with the next number: the engine itself makes it. -/
def State.addOp (s : State) (o : Op) : Nat × State :=
  (s.fresh, { s with eng := { s.eng with ops := Sparse.put s.eng.ops s.fresh o }, fresh := s.fresh + 1 })

end Sys2Proof.Machine
end

