-- ==== Sys2Proof/Machine/Leave.lean ====
section
/-! DEFINITION. Purses and leave (R235 to R238, R419), and the events that move coins. -/

namespace Sys2Proof.Machine

/-! ### Purses (R235) -/

/-- PURSEn of a cluster. -/
def State.purse (s : State) (cluster : Nat) : Dword := Sparse.get purseReset s.reg.purse cluster

/-- ALLOW of a purse. -/
def purseAllow (p : Dword) : Int := field p 32 24

/-- BAL of a purse. -/
def purseBal (p : Dword) : Int := (p.setWidth 32).toInt

/-- Writes PURSEn. -/
def State.setPurse (s : State) (cluster : Nat) (allow : Nat) (bal : Int) : State :=
  let p : Dword := BitVec.ofNat 64 (allow % 2 ^ 24 * 2 ^ 32 + (BitVec.ofInt 32 bal).toNat)
  { s with reg := { s.reg with purse := Sparse.set purseReset s.reg.purse cluster p } }

/-- LVCTL.DIS: every request is granted at once and BAL does not change (R238). -/
def State.leaveOff (s : State) : Bool := bitOf s.reg.lvctl 0

/-! ### Requests (R236, R237) -/

/-- PRIO of a region. -/
def State.prio (s : State) (rgn : Nat) : Nat :=
  match s.rcb rgn with
  | some r => r.prio
  | none => 0

/-- The head of a purse's queue: the highest PRIO, and the first to arrive among equals. -/
def State.headLeave (s : State) (cluster : Nat) : Option LeaveReq :=
  (s.co.leaves.filter fun r => r.cluster = cluster).foldl (fun best r =>
    match best with
    | none => some r
    | some b => if s.prio b.region < s.prio r.region then some r else some b) none

/-- Gives a request its leave: `bal` is BAL after the grant. -/
def State.giveLeave (s : State) (who : LeaveFor) (bal : Word) : State :=
  match who with
  | .fibre loc => s.modFibre loc fun f => { f with leave := some bal }
  | .transfer id => s.modOp id fun o =>
      match o.body with
      | .copy e i sch rsv st _ => { o with body := .copy e i sch rsv st true }
      | _ => o
  | .stage g st => { s with groups := Sparse.adjust s.groups g fun x =>
      { x with stageLeaves := st :: x.stageLeaves } }

/-- Grants the requests of a purse in order while its balance allows (R237). -/
def State.grantLeaves (s : State) (cluster : Nat) : Nat → State
  | 0 => s
  | n + 1 =>
    match s.headLeave cluster with
    | none => s
    | some r =>
      let p := s.purse cluster
      let bal := purseBal p
      let taken : State := { s with co := { s.co with leaves := s.co.leaves.erase r } }
      if s.leaveOff then (taken.giveLeave r.who (BitVec.ofInt 32 bal)).grantLeaves cluster n
      else if (r.cost : Int) ≤ bal ∨ purseAllow p ≤ 2 * bal then
        ((taken.setPurse cluster (purseAllow p).toNat (bal - r.cost)).giveLeave r.who
          (BitVec.ofInt 32 (bal - r.cost))).grantLeaves cluster n
      else s

/-- Grants what a purse can grant now. -/
def State.serveLeave (s : State) (cluster : Nat) : State :=
  s.grantLeaves cluster s.co.leaves.length

/-- Puts a request into its purse's queue. -/
def State.requestLeave (s : State) (r : LeaveReq) : State :=
  { s with co := { s.co with leaves := s.co.leaves ++ [r] } }.serveLeave r.cluster

/-- An instruction of the fibre in issue that needs leave: it asks once, waits for the grant, and goes
on with BAL after it (R237). -/
def needLeave (s : State) (f : Fibre) (cost : Nat) (go : Word → State → Act) : Act :=
  let cleared (t : State) : State := t.modFibre t.cur fun f => { f with leave := none }
  match f.leave with
  | some bal => go bal (cleared s)
  | none =>
    if s.co.leaves.any fun r => r.who == .fibre s.cur then .stall
    else
      let s1 := s.requestLeave ⟨clusterOf (coreOf s.cur), f.region, cost, .fibre s.cur⟩
      match s1.fibre s.cur with
      | some f1 =>
        match f1.leave with
        | some bal => go bal (cleared s1)
        | none => .stallWith s1
      | none => .stallWith s1

/-! ### LEAVE, refill, allowance -/

/-- A SYSX instruction: an unprivileged fibre raises ILL under check 5 of R251; its scalar registers
must be free (R200). -/
def privileged (s : State) (regs : List Nat) (body : Fibre → Act) : Out :=
  runFibre s fun f =>
    if !s.privOf f.region then .trap (illTrap 5) else guardBusy s (resS s.cur regs) (body f)

/-- LEAVE (R419). -/
def execLeave (d a : BitVec 6) (s : State) : Out :=
  privileged s [d.toNat, a.toNat] fun f =>
    let x := f.s a.toNat
    if field x 0 2 = 0 ∨ field x 2 30 ≠ 0 then .trap (illTrap 6)
    else needLeave s f (field x 32 32) fun bal s1 => .done (s1.putS d.toNat (bal.signExtend 64))

/-- PURSE_REFILL: BAL becomes the smaller of BAL + ALLOW and 2 × ALLOW, and the queue is served
(R235, R237). -/
def execPurseRefill (cluster : Nat) (s : State) : Out :=
  if Config.clusters ≤ cluster then .next s
  else
    let p := s.purse cluster
    let bal := min (purseBal p + purseAllow p) (2 * purseAllow p)
    .next ((s.setPurse cluster (purseAllow p).toNat bal).serveLeave cluster)

/-- Sets ALLOW of the purses in order, and serves their queues. -/
def State.setAllow (s : State) : Nat → List (BitVec 24) → State
  | _, [] => s
  | n, a :: rest =>
    if Config.clusters ≤ n then s
    else ((s.setPurse n a.toNat (purseBal (s.purse n))).serveLeave n).setAllow (n + 1) rest

/-- ALLOWANCE_SET: the Rosnal controller sets each purse's ALLOW, MODPWR and DEVSTAT.THROT (R235,
R459), of a device that is active (R456). -/
def execAllowanceSet (allow : List (BitVec 24)) (temp draw : BitVec 16) (throttle : Bool) (s : State) :
    Out :=
  if !s.barActive then .next s
  else
  let s1 := s.setAllow 0 allow
  let pwr := putField (putField s1.reg.modpwr 32 16 temp.toNat) 16 16 draw.toNat
  let stat := if throttle then setBit s1.reg.devstat 2 else clearBit s1.reg.devstat 2
  .next { s1 with reg := { s1.reg with modpwr := pwr, devstat := stat } }

end Sys2Proof.Machine
end

