-- ==== Sys2Proof/Machine/Copy.lean ====
section
/-! DEFINITION. The copy engine (R323 to R331): schedules, transfers, buffer handles, and the COPY
instructions. A transfer performs its accesses in the turns up to the event that completes it. -/

namespace Sys2Proof.Machine

/-! ### Entries (R324) -/

/-- A field of an entry's 256 bits. -/
def cpField (e lo len : Nat) : Nat := e / 2 ^ lo % 2 ^ len

def cpDrain (e : Nat) : Bool := cpField e 236 1 == 1
def cpHv (e : Nat) : Bool := cpField e 234 1 == 1
def cpHandle (e : Nat) : Nat := cpField e 228 6
def cpStage (e : Nat) : Nat := cpField e 216 12
def cpDpitch (e : Nat) : Nat := cpField e 192 24
def cpSpitch (e : Nat) : Nat := cpField e 168 24
def cpRows (e : Nat) : Nat := cpField e 152 16 + 1
def cpRowLen (e : Nat) : Nat := cpField e 128 24
def cpDspace (e : Nat) : Nat := cpField e 121 2
def cpDst (e : Nat) : Nat := cpField e 64 57
def cpSspace (e : Nat) : Nat := cpField e 57 2
def cpSrc (e : Nat) : Nat := cpField e 0 57

/-- Bytes of a transfer. -/
def cpBytes (e : Nat) : Nat := cpRowLen e * cpRows e

/-- An address breaks its space's rule: a scratch address has 32 bits, a FIFO bank number 5. -/
def cpAddrBad (space addr : Nat) : Bool :=
  match space with
  | 0 => false
  | 3 => addr / 32 != 0
  | _ => addr / 2 ^ 32 != 0

/-- A FIFO destination takes whole entries of its bank; a bank that is none, or not yet, has no entry size, and every
entry is a multiple of 64 bytes (R83, R324). -/
def cpFifoBad (m : Mem) (cluster e : Nat) : Bool :=
  let k := m.bank (cluster * 32 + cpDst e % 32)
  cpDspace e == 3 && cpBytes e % (if k.mode == .fifo then 2 ^ k.entry else 64) != 0

/-- The entry is malformed (R324, R325). -/
def cpBad (m : Mem) (cluster e : Nat) : Bool :=
  cpField e 237 19 != 0 || cpField e 235 1 != 0 || cpField e 123 5 != 0 || cpField e 59 5 != 0 ||
    cpRowLen e == 0 || cpSspace e == 3 || cpAddrBad (cpSspace e) (cpSrc e) ||
    cpAddrBad (cpDspace e) (cpDst e) || cpFifoBad m cluster e

/-- An address of a space, `off` bytes further: global addresses are sign-extended from bit 56. -/
def cpAddr (space addr off : Nat) : Dword :=
  if space = 0 then ((BitVec.ofNat 57 addr).signExtend 64) + BitVec.ofNat 64 off
  else BitVec.ofNat 64 (addr + off)

/-! ### The bytes of a transfer (R330) -/

/-- Rows as (source offset, destination offset, bytes). Rows that follow or overlap one another alike on
both sides are one run, so that a block which two of them make up is one whole block. -/
def cpRuns (e : Nat) : List (Nat × Nat × Nat) :=
  let sp := cpSpitch e
  if sp = cpDpitch e ∧ sp ≤ cpRowLen e then [(0, 0, sp * (cpRows e - 1) + cpRowLen e)]
  else (List.range (cpRows e)).map fun r => (r * sp, r * cpDpitch e, cpRowLen e)

/-- Cuts a run at 64-byte boundaries of source and destination. -/
def cutRun : Nat → Nat → Nat → Nat → List (Nat × Nat × Nat)
  | 0, _, _, _ => []
  | fuel + 1, src, dst, n =>
    if n = 0 then []
    else
      let k := min n (min (64 - src % 64) (64 - dst % 64))
      (src, dst, k) :: cutRun fuel (src + k) (dst + k) (n - k)

/-- Reads a piece; a whole block comes with its tag. -/
def readPiece (space : Nat) (a : Dword) (n : Nat) : Prog Nat :=
  if space = 0 && n == 64 && a.toNat % 64 == 0 then ask (.block .global a)
  else ask (.read (Space.ofCode space) a n)

/-- Copies one piece; `src` and `dst` are the entry's fields with the offsets added. -/
def copyPiece (e : Nat) (src dst n : Nat) : Prog Unit :=
  let sa := cpAddr (cpSspace e) (cpSrc e) (src - cpSrc e)
  let da := cpAddr (cpDspace e) (cpDst e) (dst - cpDst e)
  (readPiece (cpSspace e) sa n).bind fun v =>
    if cpDspace e = 0 ∧ n = 64 ∧ 2 ^ 528 ≤ v then (ask (.putBlock da v)).bind fun _ => .ret ()
    else (ask (.write (Space.ofCode (cpDspace e)) da n (v % 2 ^ (8 * n)))).bind fun _ => .ret ()

/-- The pieces of a transfer: source, destination, bytes. Offsets are kept apart from bases, so that a run whose base is
unaligned is cut where its addresses are. -/
def copyPieces (e : Nat) : List (Nat × Nat × Nat) :=
  (cpRuns e).flatMap fun r => cutRun (2 * r.2.2 / 64 + 4) (cpSrc e + r.1) (cpDst e + r.2.1) r.2.2

/-- A transfer to memory or scratch: each piece is read and written. -/
def copyProg (e : Nat) : Prog Unit := Prog.fold (fun _ p => copyPiece e p.1 p.2.1 p.2.2) () (copyPieces e)

/-- Takes `n` bytes from runs of source bytes. -/
def takeRun : Nat → List (Nat × Nat) → List (Nat × Nat) × List (Nat × Nat)
  | _, [] => ([], [])
  | n, (a, k) :: rest =>
    if n = 0 then ([], (a, k) :: rest)
    else if n < k then ([(a, n)], (a + n, k - n) :: rest)
    else let (x, y) := takeRun (n - k) rest; ((a, k) :: x, y)

/-- Cuts source runs into the 64-byte units of a FIFO push. -/
def fifoUnits : Nat → List (Nat × Nat) → List (List (Nat × Nat))
  | 0, _ => []
  | n + 1, runs => let (x, y) := takeRun 64 runs; x :: fifoUnits n y

/-- Reads one unit: its bytes, and its tag where it is one whole, aligned source block of memory with a
tag plane (R343). -/
def readUnit (e : Nat) (unit : List (Nat × Nat)) : Prog (List Byte × BitVec 16) :=
  match unit with
  | [(a, 64)] =>
    (readPiece (cpSspace e) (cpAddr (cpSspace e) (cpSrc e) (a - cpSrc e)) 64).bind fun v =>
      .ret (leBytes 64 v, BitVec.ofNat 16 (v / 2 ^ 512 % 2 ^ 16))
  | _ =>
    (Prog.fold (fun (acc : List Byte) p =>
      (ask (.read (Space.ofCode (cpSspace e)) (cpAddr (cpSspace e) (cpSrc e) (p.1 - cpSrc e)) p.2)).bind fun v =>
        .ret (acc ++ leBytes p.2 v)) [] unit).bind fun b => .ret (b, 0)

/-- Pushes one entry of `n` units. -/
def pushEntry (e : Nat) (units : List (List (Nat × Nat))) : Prog Unit :=
  (Prog.fold (fun (acc : List Byte × List (BitVec 16)) u =>
    (readUnit e u).bind fun x => .ret (acc.1 ++ x.1, acc.2 ++ [x.2])) ([], []) units).bind fun x =>
      (ask (.push (cpDst e % 32) x.1 x.2)).bind fun _ => .ret ()

/-- A transfer to a FIFO bank of entry size `2 ^ log2`: entries in ascending byte order. Rows that follow one another
are one run, so that a block which two of them make up is one whole block. Bytes behind the last whole entry make a push
that the bank refuses. -/
def fifoProg (e log2 : Nat) : Prog Unit :=
  let runs := if cpSpitch e = cpRowLen e then [(cpSrc e, cpBytes e)]
    else (List.range (cpRows e)).map fun r => (cpSrc e + r * cpSpitch e, cpRowLen e)
  let n := 2 ^ log2 / 64
  let units := fifoUnits ((cpBytes e + 63) / 64) runs
  Prog.fold (fun _ i => pushEntry e ((units.drop (i * n)).take n)) () (List.range ((units.length + n - 1) / n))

/-- The program of a transfer on a core. -/
def transferProg (s : State) (core e : Nat) : Prog Unit :=
  if cpDspace e = 3 then fifoProg e (max 6 (s.mem.bank (bankOf core (cpDst e % 32))).entry)
  else copyProg e

/-! ### Groups and handles -/

/-- Changes a group. -/
def State.modGroup (s : State) (g : Nat) (h : Group → Group) : State :=
  { s with groups := Sparse.adjust s.groups g h }

/-- A handle of a group; an unmapped name is FREE. -/
def Group.handle (g : Group) (n : Nat) : Handle := (Sparse.find g.handles n).getD ⟨.free, 0, 0⟩

/-- Handles that a core's groups have mapped. -/
def State.handlesUsed (s : State) (core : Nat) : Nat :=
  (s.groups.map fun e => if e.2.core = core then e.2.handles.length else 0).sum

/-- The group's name is mapped, at its first use if a handle of the core is free (R323). -/
def State.mapHandle (s : State) (g : Nat) (grp : Group) (n : Nat) : Option State :=
  if (Sparse.find grp.handles n).isSome then some s
  else if s.handlesUsed grp.core < 64 then
    some (s.modGroup g fun x => { x with handles := Sparse.put x.handles n ⟨.free, 0, 0⟩ })
  else none

/-- Sets a handle. -/
def State.setHandle (s : State) (g n : Nat) (h : Handle) : State :=
  s.modGroup g fun x => { x with handles := Sparse.put x.handles n h }

/-- The schedule of a group: base address and entries; a task group or a teller fibre has none (R323). -/
def State.schedule (s : State) (g : Group) : Dword × Nat :=
  if g.kind = .grid then
    match Sparse.find s.sched.launches g.launch with
    | some l => (l.lrec.csbase, if l.lrec.csbase = 0 then 0 else l.lrec.cscount)
    | none => (0, 0)
  else (0, 0)

/-- The fibres of a group by ascending LID, as locators. -/
def State.lidOrder (s : State) (g : Nat) : List Nat :=
  (List.range 32).filterMap fun l => (s.fibres.find? fun e => e.2.group = g ∧ e.2.lid = l).map (·.1)

/-- The step that made a stage eligible (R331). -/
def Group.stepFor (g : Group) (stage : Nat) : CpStep :=
  (g.steps.find? fun p => stage ≤ p.stage).getD ⟨0, 0, 0, 0, 0, 0, false⟩

/-- The fibre that a schedule transfer parks: the one whose step made it eligible, and once that has
gone the group's fibre of lowest LID (R331). -/
def State.schedLoc (s : State) (g : Nat) (p : CpStep) : Nat :=
  match s.fibre p.loc with
  | some f => if f.group = g then p.loc else (s.lidOrder g).headD p.loc
  | none => (s.lidOrder g).headD p.loc

/-- An operation of the copy engine for a group's schedule (R169, R331). -/
def State.schedOp (s : State) (g : Nat) (grp : Group) (p : CpStep) (body : OpBody) : Op :=
  { unit := 5, loc := s.schedLoc g p, group := g, asid := grp.asid, priv := s.privOf grp.region
    iword := p.iword, mode := p.mode, pc := p.pc, cede := p.cede, opa := 0, opb := 0, lmask := p.lmask
    ldone := 0, ctr := none, body := body, logs := [], results := [], refs := [], wmode := WMode.plain
    seq := 0, asked := [], preds := 0, half := [], pos := [], err := false
    retries := 0, finished := false }

/-- Reads an entry of a group's schedule: a READ of unit 5 (R325). -/
def readEntry (s : State) (o : Op) (base : Dword) (idx : Nat) : PartOut × State :=
  (Req.read .global (base + BitVec.ofNat 64 (32 * idx)) 32).perform s o

/-- What the engine finds when it reads entries of a schedule ahead: those that it can read, and whether one of the
others is absent or still translated. -/
structure Ahead where
  entries : List Nat
  absent : Bool
  deriving DecidableEq, Repr

/-- Reads entries ahead of the cursor, for the bytes of a stage and the end of a handle's stage (R325, R326): of the
first one that is absent it asks for the granule. An entry whose read is refused is none of any stage until the cursor
reaches it (DESIGN CHOICE, log 95). -/
def readAhead (s : State) (o : Op) (base : Dword) : List Nat → Ahead × State
  | [] => (⟨[], false⟩, s)
  | i :: rest =>
    match readEntry s o base i with
    | (.done r _, s1) =>
      let (a, s2) := readAhead s1 o base rest
      (⟨r.headD 0 :: a.entries, a.absent⟩, s2)
    | (.trouble (.miss _ m _), s1) => (⟨[], true⟩, s1.requestMissing (clusterOf o.who.core) o.asid m)
    | (.trouble .wait, s1) => (⟨[], true⟩, s1)
    | (.trouble _, s1) => readAhead s1 o base rest

/-- A fill or drain of the handle's stage remains in the schedule (R326). -/
def remains (ahead : List Nat) (n : Nat) (h : Handle) : Bool :=
  ahead.any fun e => cpHv e && cpHandle e == n && cpStage e == h.stage && cpDrain e == (h.st == .draining)

/-- Handles whose stage is over change state (R326). A CPISSUE is a stage of its own, numbered above
every schedule stage. A schedule stage is over only once the engine has seen all of the schedule that is left. -/
def State.settleHandles (s : State) (g : Nat) : State :=
  match Sparse.find s.groups g with
  | none => s
  | some grp =>
    if grp.handles.all fun e => e.2.left != 0 || e.2.st == .free || e.2.st == .full then s
    else
      let (base, count) := s.schedule grp
      let behind := if grp.sched.isSome then grp.cursor + 1 else grp.cursor
      let (ahead, s1) := readAhead s (s.schedOp g grp (grp.stepFor 0) (.schedRead 0)) base
        ((List.range (count - behind)).map fun i => behind + i)
      let left := grp.sched.toList ++ ahead.entries
      s1.modGroup g fun x => { x with
        handles := x.handles.map fun e =>
          let ended := e.2.left == 0 && (decide (2 ^ 32 ≤ e.2.stage) || (!ahead.absent && !remains left e.1 e.2))
          match e.2.st with
          | .filling => if ended then (e.1, ⟨.full, 0, 0⟩) else e
          | .draining => if ended then (e.1, ⟨.free, 0, 0⟩) else e
          | _ => e }

/-- The handle is in the state in which an entry of a stage may start on it (R325, R328). -/
def Handle.admits (h : Handle) (drain : Bool) (stage : Nat) : Bool :=
  if drain then h.st == .full || (h.st == .draining && h.stage == stage)
  else h.st == .free || (h.st == .filling && h.stage == stage)

/-- The handle after a transfer of a stage starts on it (R326). -/
def Handle.begin (h : Handle) (drain : Bool) (stage : Nat) : Handle :=
  ⟨if drain then .draining else .filling, stage, if h.stage = stage then h.left + 1 else 1⟩

/-- A started transfer of a stage is over. -/
def State.handleDone (s : State) (g n : Nat) : State :=
  s.modGroup g fun x => { x with
    handles := Sparse.adjust x.handles n fun h => { h with left := h.left - 1 } }

/-! ### Running transfers -/

/-- The stage that a transfer's handle carries. -/
def cpOwnStage (id e : Nat) (sch : Bool) : Nat := if sch then cpStage e else 2 ^ 32 + id

/-- A transfer has completed: its handle, its counter and its queue entry (R326, R328). -/
def State.endTransfer (s : State) (id : Nat) (o : Op) (e : Nat) : State :=
  let s1 := if cpHv e then s.handleDone o.group (cpHandle e) else s
  (s1.endOp id).settleHandles o.group

/-- The fibre that a schedule transfer parks now. -/
def State.relocate (s : State) (id : Nat) (o : Op) (sch : Bool) (e : Nat) : State :=
  if !sch then s
  else match Sparse.find s.groups o.group with
    | some grp => s.modOp id fun o => { o with loc := s.schedLoc o.group (grp.stepFor (cpStage e)) }
    | none => s

/-- The byte offset that a transfer has reached (R331): the bytes of the pieces, or of the entries, that it has
performed whole. -/
def State.copyReached (s : State) (id core e : Nat) : Nat :=
  let n := ((Sparse.find s.eng.ops id).map fun o => (Sparse.get [] o.logs 0).length).getD 0
  if cpDspace e = 3 then
    let log2 := max 6 (s.mem.bank (bankOf core (cpDst e % 32))).entry
    n / (2 ^ log2 / 64 + 1) * 2 ^ log2
  else ((copyPieces e).take (n / 2)).map (·.2.2) |>.sum

/-- Runs a started transfer from where it stands to its end or to what it meets (R330, R331). -/
def runCopy (s : State) (id : Nat) (replay : Bool) : State :=
  match Sparse.find s.eng.ops id with
  | none => s
  | some o =>
    match o.body with
    | .copy e _ sch _ true _ =>
      let s0 := s.relocate id o sch e
      (match runThread s0 id 0 (transferProg s0 o.who.core e) with
      | (.done _, s1) => s1.endTransfer id o e
      | (.stop k t, s1) => s1.parkAt id [s1.copyReached id o.who.core e] replay [(k, t)])
    | _ => s

/-- Transfers of a core that are in flight and not parked: at most 8 (R323). -/
def State.transfersOn (s : State) (core : Nat) : Nat :=
  (s.eng.ops.filter fun e =>
    match e.2.body with
    | .copy _ _ _ _ true _ => coreOf e.2.loc == core && !s.recorded e.1
    | _ => false).length

/-- Class 3 leave covers 1 MiB (R236). -/
def copyLeaveBytes : Nat := 2 ^ 20

/-- Class 3 leave costs a coin for each 64 KiB (R236). -/
def copyCost (bytes : Nat) : Nat := (bytes + 65535) / 65536

/-! ### Schedule entries (R325) -/

/-- The cursor passes its entry. -/
def State.passEntry (s : State) (g : Nat) : State :=
  (s.modGroup g fun x => { x with cursor := x.cursor + 1, sched := none, schedOp := none }).settleHandles g

/-- The entry at the cursor is refused, or cannot be read: its operation parks a fibre, and the cursor
waits on the record. -/
def State.parkEntry (s : State) (g : Nat) (o : Op) (t : Trouble) : State :=
  let (id, s1) := s.addOp o
  (s1.modGroup g fun x => { x with schedOp := some id }).parkOp id false [(.read, t)]

/-- Bytes of all entries of a stage. -/
def stageBytes (entries : List Nat) (stage : Nat) : Nat :=
  (entries.map fun e => if cpStage e = stage then cpBytes e else 0).sum

/-- The leave of a stage is granted, or not needed; else it is asked for once, when all of the schedule has been seen
(R325). -/
def State.stageLeave (s : State) (g : Nat) (grp : Group) (stage : Nat) : Bool × State :=
  let (base, count) := s.schedule grp
  if grp.stageLeaves.contains stage then (true, s)
  else if s.co.leaves.any fun r => r.who == .stage g stage then (false, s)
  else
    let (ahead, s1) := readAhead s (s.schedOp g grp (grp.stepFor stage) (.schedRead grp.cursor)) base (List.range count)
    let bytes := stageBytes ahead.entries stage
    if ahead.absent then (false, s1)
    else if bytes ≤ copyLeaveBytes then (true, s1)
    else
      let s2 := s1.requestLeave ⟨clusterOf grp.core, grp.region, copyCost bytes, .stage g stage⟩
      match Sparse.find s2.groups g with
      | some x => (x.stageLeaves.contains stage, s2)
      | none => (false, s2)

/-- Starts the entry at the cursor when its stage, handle and leave allow. -/
def State.startEntry (s : State) (g : Nat) (grp : Group) (e : Nat) : State :=
  if grp.stage < cpStage e then s
  else if 8 ≤ s.transfersOn grp.core then s
  else if cpHv e && !(grp.handle (cpHandle e)).admits (cpDrain e) (cpStage e) then s
  else match (if cpHv e then s.mapHandle g grp (cpHandle e) else some s) with
    | none => s
    | some s1 =>
      match s1.stageLeave g grp (cpStage e) with
      | (false, s2) => s2
      | (true, s2) =>
        let body := OpBody.copy e grp.cursor true false true true
        let (_, s3) := s2.addOp (s2.schedOp g grp (grp.stepFor (cpStage e)) body)
        let s4 := if cpHv e then
            s3.setHandle g (cpHandle e) ((grp.handle (cpHandle e)).begin (cpDrain e) (cpStage e))
          else s3
        s4.passEntry g

/-- Every fibre that a group still has is EXITING: no entry of its schedule starts any more (R323). -/
def State.leaving (s : State) (g : Nat) : Bool := !(s.fibres.any fun e => e.2.group == g && e.2.st != .exiting)

/-- The entry at the cursor, as the engine has read it, is started as soon as it may; a malformed one parks the fibre
whose step made its stage eligible (R325, R331). -/
def State.tryEntry (s : State) (g : Nat) (grp : Group) (e : Nat) : State :=
  if grp.stage < cpStage e then s
  else if cpBad s.mem (clusterOf grp.core) e then
    let o := s.schedOp g grp (grp.stepFor (cpStage e)) (.schedRead grp.cursor)
    s.parkEntry g o (.refuse ((s.schedule grp).1 + BitVec.ofNat 64 (32 * grp.cursor)) causeRsvd 0)
  else s.startEntry g grp e

/-- COPY_ENTRY_START: the engine reads the entry at a group's cursor when the cursor has reached it,
and starts it as soon as it may (R325). What it could not see of the schedule before may now end a handle's stage. -/
def execCopyEntryStart (group : Nat) (s0 : State) : Out :=
  let s := s0.settleHandles group
  match Sparse.find s.groups group with
  | none => .next s
  | some grp =>
    let (base, count) := s.schedule grp
    if count ≤ grp.cursor ∨ grp.schedOp.isSome = true ∨ s.regionActive grp.region = false ∨ s.leaving group = true then
      .next s
    else
      match grp.sched with
      | some e => .next (s.tryEntry group grp e)
      | none =>
        let o := s.schedOp group grp (grp.stepFor 0) (.schedRead grp.cursor)
        match readEntry s o base grp.cursor with
        | (.done r _, s1) =>
          .next ((s1.modGroup group fun x => { x with sched := some (r.headD 0) }).tryEntry group grp (r.headD 0))
        | (.trouble .wait, s1) => .next s1
        | (.trouble t, s1) => .next (s1.parkEntry group o t)

/-- A skipped entry counts for its handle as a completed transfer of its stage (R325). -/
def State.skipEntry (s : State) (g : Nat) (grp : Group) : State :=
  match grp.sched with
  | some e =>
    let h := grp.handle (cpHandle e)
    let s1 := if cpHv e && h.admits (cpDrain e) (cpStage e) then
        s.setHandle g (cpHandle e) { h.begin (cpDrain e) (cpStage e) with left := h.left }
      else s
    s1.passEntry g
  | none => s.passEntry g

/-- The record of a schedule entry is decided: the entry is read again, or skipped under the error
response (R325). -/
def replayEntry (s : State) (id : Nat) (o : Op) (idx : Nat) : State :=
  match Sparse.find s.groups o.group with
  | none => s.removeOp id
  | some grp =>
    let g := o.group
    if o.err then (s.removeOp id).skipEntry g grp
    else
      let (base, _) := s.schedule grp
      match readEntry s o base idx with
      | (.trouble t, s1) => s1.parkOp id true [(.read, t)]
      | (.done r _, s1) =>
        let e := r.headD 0
        let s2 := s1.modGroup g fun x => { x with sched := some e }
        if cpBad s2.mem (clusterOf grp.core) e then
          s2.parkOp id true [(.read, .refuse (base + BitVec.ofNat 64 (32 * idx)) causeRsvd 0)]
        else (s2.removeOp id).modGroup g fun x => { x with schedOp := none }

/-- CPISSUE_START: a queued transfer starts once its handle and leave allow, as a stage of its own
(R326, R328). -/
def execCpissueStart (id : Nat) (s : State) : Out :=
  match Sparse.find s.eng.ops id with
  | none => .next s
  | some o =>
    match o.body, Sparse.find s.groups o.group with
    | .copy e idx false rsv false lv, some grp =>
      let h := grp.handle (cpHandle e)
      let fits := if cpDrain e then h.st == .full else h.st == .free
      if !lv || !s.regionActive grp.region || (cpHv e && !fits) || decide (8 ≤ s.transfersOn grp.core) then .next s
      else
        (match (if cpHv e then s.mapHandle o.group grp (cpHandle e) else some s) with
        | none => .next s
        | some s1 =>
          let s2 := if cpHv e then
              s1.setHandle o.group (cpHandle e) (h.begin (cpDrain e) (2 ^ 32 + id))
            else s1
          .next (s2.modOp id fun o => { o with body := .copy e idx false rsv true lv }))
    | _, _ => .next s

/-- TRANSFER_COMPLETE: a started transfer performs its accesses and completes, or parks its fibre
(R326, R330, R331). -/
def execTransferComplete (id : Nat) (s : State) : Out :=
  if s.recorded id then .next s else .next (runCopy s id false)

/-! ### The COPY instructions (R327 to R329) -/

/-- Runs a body with the fibre's group. -/
def withGroup (s : State) (f : Fibre) (body : Group → Act) : Act :=
  match Sparse.find s.groups f.group with
  | some g => body g
  | none => .done s

/-- CPSTEP: adds to the group's stage counter, saturating. -/
def execCpstep (n : BitVec 7) (s : State) : Out :=
  runFibre s fun f =>
    withGroup s f fun g =>
      let stage := min (g.stage + n.toNat) (2 ^ 32 - 1)
      let p : CpStep := ⟨stage, s.cur, f.active, s.iword, f.mode, f.pc, f.cede⟩
      .done (s.modGroup f.group fun x =>
        { x with
          stage := stage
          steps := if n = 0 ∨ 4096 ≤ x.stage then x.steps else x.steps ++ [p] })

/-- CPISSUEs of a core that hold the shared part of the queue, and of a group that hold its reserved
entry (R329). -/
def State.queued (s : State) (p : Op → Bool → Bool) : Nat :=
  (s.eng.ops.filter fun e =>
    match e.2.body with
    | .copy _ _ false rsv _ _ => p e.2 rsv
    | _ => false).length

/-- Room in the copy queue for a group: `some reserved`, or none (R329). -/
def State.copyRoom (s : State) (g : Nat) (grp : Group) : Option Bool :=
  let placed := (s.groups.filter fun e => e.2.core = grp.core).length
  let shared := s.queued fun o r => coreOf o.loc == grp.core && !r
  if shared < 256 - placed then some false
  else if s.queued (fun o r => o.group == g && r) = 0 then some true
  else none

/-- CPISSUE. -/
def execCpissue (a : BitVec 6) (s : State) : Out :=
  scalarOp s ((List.range 4).map fun i => a.toNat + i) fun f =>
    withGroup s f fun g =>
      let part (i : Nat) : Nat := (f.s (a.toNat + i)).toNat
      let e := part 0 + part 1 * 2 ^ 64 + part 2 * 2 ^ 128 + part 3 * 2 ^ 192
      if cpBad s.mem (clusterOf (coreOf s.cur)) e then .trap (illTrap 6)
      else if f.ctrFull ctrCP then .stall
      else match s.copyRoom f.group g with
        | none => .stall
        | some rsv =>
          let big := decide (copyLeaveBytes < cpBytes e)
          let (id, s1) := s.newOp f 5 f.active (f.s a.toNat) (f.s (a.toNat + 1)) (some ctrCP)
            (.copy e 0 false rsv false (!big))
          .done (if big then
              s1.requestLeave ⟨clusterOf (coreOf s.cur), f.region, copyCost (cpBytes e), .transfer id⟩
            else s1)

/-- HWAITF and HWAITE: the handle is mapped, and the fibre waits for its state. -/
def waitHandle (s : State) (h : BitVec 6) (st : HandleState) : Out :=
  runFibre s fun f =>
    withGroup s f fun g =>
      match s.mapHandle f.group g h.toNat with
      | none => .stall
      | some s1 => if (g.handle h.toNat).st = st then .done s1 else .stallWith s1

/-- HWAITF. -/
def execHwaitf (h : BitVec 6) (s : State) : Out := waitHandle s h .full

/-- HWAITE. -/
def execHwaite (h : BitVec 6) (s : State) : Out := waitHandle s h .free

/-- HREL and HREL.PUB: once the fibre's earlier accesses are performed the handle goes from one state
to the other; in any other state ILL. -/
def releaseHandle (s : State) (h : BitVec 6) (old new : HandleState) : Out :=
  runFibre s fun f =>
    withGroup s f fun g =>
      if s.lsuBusy s.cur Op.fenced then .stall
      else if (g.handle h.toNat).st ≠ old then .trap (illTrap 6)
      else match s.mapHandle f.group g h.toNat with
        | none => .stall
        | some s1 => .done (s1.setHandle f.group h.toNat ⟨new, 0, 0⟩)

/-- HREL. -/
def execHrel (h : BitVec 6) (s : State) : Out := releaseHandle s h .full .free

/-- HREL.PUB. -/
def execHrelPub (h : BitVec 6) (s : State) : Out := releaseHandle s h .free .full

/-- The state codes of R326. -/
def HandleState.code : HandleState → Nat
  | .free => 0
  | .filling => 1
  | .full => 2
  | .draining => 3

/-- HQUERY. -/
def execHquery (a : BitVec 6) (h : BitVec 6) (s : State) : Out :=
  scalarOp s [a.toNat] fun f =>
    withGroup s f fun g =>
      .done (s.putS a.toNat (BitVec.ofNat 64 ((g.handle h.toNat).st.code + g.stage * 2 ^ 16)))

end Sys2Proof.Machine
end

