-- ==== Sys2Proof/Machine/Matrix.lean ====
section
/-! DEFINITION. The matrix engine (R333 to R355, R121 to R124): commands and batches, operand fetch,
the arithmetic of both classes, tiles, drains and loads. A command performs its accesses in the event
that starts it. -/

namespace Sys2Proof.Machine

/-! ### Tags and elements (R108 to R111, R121) -/

/-- The float accumulator (R112). -/
def a96f : FloatFmt := ⟨15, 80, 16383, .ieee, 0⟩

/-- The flags that matrix work reports (R124). -/
def mxFlags (fl : Nat) : Nat := fl &&& (flagInvalid + flagOverflow)

/-- The base format that a class admits for a tag, with whether it is block-scaled; none for a bad
block (R121). -/
def tagFormat (float : Bool) (tag : Nat) : Option (Fmt × Bool) :=
  match Fmt.ofCode (tag / 2 ^ 10 % 2 ^ 6) with
  | some (f, scaled) =>
    let ok := match f with
      | .raw | .n32 | .s64 | .n64 | .a96f | .a96i => false
      | .s32 | .s16 | .n16 | .s8 | .n8 | .s4 | .n4 | .t2 | .b1 => float || !scaled
      | _ => float
    if ok then some (f, scaled) else none
  | none => none

/-- Elements of a block with a tag (R340). -/
def tagCount (float : Bool) (tag : Nat) : Nat :=
  match tagFormat float tag with
  | some (f, _) => 512 / f.width
  | none => 64

/-- The value of a scale code in 0x001 to 0x3FB: magnitude and exponent (R109). -/
def scaleValue (c : Nat) : Nat × Int :=
  if c / 4 = 0 then (c % 4, -128) else (4 + c % 4, (c / 4 : Nat) - 129)

/-- The value of an element under a scale code (R110). -/
def scaledVal (c : Nat) (v : Val) : Val :=
  match v with
  | .nan _ _ _ => .nan false false (2 ^ 79)
  | .inf n => if c = 0 ∨ 0x3FC ≤ c then .nan false false (2 ^ 79) else .inf n
  | .fin n m e =>
    if c = 0 then Val.zero
    else if 0x3FC ≤ c then .nan false false (2 ^ 79)
    else let (sm, se) := scaleValue c; .fin n (m * sm) (e + se)

/-- The first `cnt` elements of a block, none for those of a bad block, with flags (R107, R110,
R121). -/
def blockElems (float : Bool) (tag data cnt : Nat) : List (Option Val) × Nat :=
  match tagFormat float tag with
  | none => (List.replicate cnt none, flagInvalid)
  | some (f, scaled) =>
    let xs := (List.range cnt).map fun i => f.read (data / 2 ^ (f.width * i) % 2 ^ f.width)
    (xs.map fun x => some (if scaled then scaledVal (tag % 2 ^ 10) x.1 else x.1),
      xs.foldl (fun acc x => orFlags acc x.2) 0)

/-- The K elements of a row from its blocks, as (tag, data); what no block covers is bad (R340). -/
def rowElems (float : Bool) : Nat → List (Nat × Nat) → List (Option Val) × Nat
  | k, [] => (List.replicate k none, if k = 0 then 0 else flagInvalid)
  | k, (tag, data) :: rest =>
    let n := min k (tagCount float tag)
    let (x, fx) := blockElems float tag data n
    let (y, fy) := rowElems float (k - n) rest
    (x ++ y, orFlags fx fy)

/-! ### Arithmetic (R122, R123) -/

/-- A product under A96F: NaN and flags, and zero without its sign. -/
def mxProduct (a b : Option Val) : Val × Nat :=
  match a, b with
  | some x, some y =>
    if x.isNaN || y.isNaN then (Val.invalid, 0)
    else
      let (p, fl) := Val.mul x y
      (if p.isZero then Val.zero else p, fl)
  | _, _ => (Val.invalid, flagInvalid)

/-- `add81`: the exact sum rounded once to an A96F. -/
def add81 (c : Nat) (p : Val) : Nat × Nat :=
  let (sum, f1) := Val.add Rctx.plain (a96f.read c) p
  let (r, f2) := a96f.round false Rctx.plain (if sum.isZero then Val.zero else sum)
  (r, orFlags f1 f2)

/-- An addition under A96I: it wraps, or clamps under SAT (R113). -/
def addA96i (sat : Bool) (c : Nat) (p : Int) : Nat :=
  let x := signedOf 96 c + p
  let y := if sat then clampInt (-(2 ^ 95)) (2 ^ 95 - 1) x else x
  (y % (2 ^ 96 : Int)).toNat

/-- An exact integer element. -/
def valInt : Val → Int
  | .fin n m _ => signedMag n m
  | _ => 0

/-- One step of an element's sum: the accumulator's bits and the flags. -/
def mxStep (float sat : Bool) (acc : Nat × Nat) (ab : Option Val × Option Val) : Nat × Nat :=
  if float then
    let (p, f1) := mxProduct ab.1 ab.2
    let (c, f2) := add81 acc.1 p
    (c, orFlags acc.2 (orFlags f1 f2))
  else
    match ab with
    | (some x, some y) => (addA96i sat acc.1 (valInt x * valInt y), acc.2)
    | _ => (acc.1, orFlags acc.2 flagInvalid)

/-! ### Operands (R340 to R344) -/

/-- An operand: captured registers with their tag, a panel in cluster scratch with its pair, or a FIFO
bank. -/
inductive MxSrc where
  | regs (vs : List VReg) (tag : Nat)
  | sram (a0 a1 : Dword)
  | fifo (bank : Nat)
  deriving DecidableEq, Repr

/-- Where a command's operand comes from when it starts. -/
def mxSrc (s : State) (core : Nat) (a0 a1 : Dword) (r : Option (List VReg)) : MxSrc :=
  match r with
  | some vs => .regs vs (field a0 16 16)
  | none =>
    if (s.mem.bank (bankOf core (field a0 18 5))).mode = .fifo then .fifo (field a0 18 5) else .sram a0 a1

/-- The bytes of block `b` of row `r` in captured registers (R344). -/
def regBlock (vs : List VReg) (r b : Nat) : Nat :=
  ((List.range 16).map fun w => (lane (vs.getD (16 * b + w) 0) r).toNat * 2 ^ (32 * w)).sum

/-- The units of a popped entry as (tag, data). -/
def popUnits (v : Nat) : List (Nat × Nat) :=
  (List.range (2 ^ (v % 16 - 6))).map fun i =>
    (v / 16 % 2 ^ 1024 / 2 ^ (16 * i) % 2 ^ 16, v / 16 / 2 ^ 1024 / 2 ^ (512 * i) % 2 ^ 512)

/-- Block `b` of row `r` of panel `p`, with the units of the last popped entry that are left. -/
def fetchBlock (src : MxSrc) (p r b : Nat) (buf : List (Nat × Nat)) :
    Prog ((Nat × Nat) × List (Nat × Nat)) :=
  match src with
  | .regs vs tag => .ret ((tag, regBlock vs r b), buf)
  | .sram a0 a1 =>
    let bank := (field a0 18 5 + field a1 39 5 * r) % 32
    let off := field a0 0 18 + p * field a1 18 18 + r * field a1 0 18 + b * 64
    (ask (.panel bank off (field a0 50 5) (field a0 32 18 + p * 2048 + (r * 32 + b) * 2))).bind fun v =>
      .ret ((v / 2 ^ 512, v % 2 ^ 512), buf)
  | .fifo bank =>
    match buf with
    | u :: rest => .ret (u, rest)
    | [] => (ask (.pop bank)).bind fun v =>
        match popUnits v with
        | u :: rest => .ret (u, rest)
        | [] => .ret ((0, 0), [])

/-- The blocks of a row, as many as K needs and at most 32. -/
def fetchRow (float : Bool) (src : MxSrc) (p r K : Nat) :
    Nat → Nat → List (Nat × Nat) → Prog (List (Nat × Nat) × List (Nat × Nat))
  | 0, _, buf => .ret ([], buf)
  | n + 1, k0, buf =>
    if K ≤ k0 then .ret ([], buf)
    else (fetchBlock src p r (31 - n) buf).bind fun x =>
      (fetchRow float src p r K n (k0 + tagCount float x.1.1) x.2).bind fun y => .ret (x.1 :: y.1, y.2)

/-- The rows of `np` panels, in order. -/
def fetchPanels (float : Bool) (src : MxSrc) (np K : Nat) (buf : List (Nat × Nat)) :
    Prog (List (List (Nat × Nat)) × List (Nat × Nat)) :=
  Prog.fold (fun acc i =>
    (fetchRow float src (i / 32) (i % 32) K 32 0 acc.2).bind fun x => .ret (acc.1 ++ [x.1], x.2))
    ([], buf) (List.range (32 * np))

/-! ### Tiles -/

/-- The key of a tile's element. -/
def tileKey (t i j : Nat) : Nat := t * 1024 + i * 32 + j

/-- New elements and flags of a command. -/
abbrev MxResult := List (Nat × Nat) × Nat

/-- Writes elements into a slot's tiles. -/
def putTile (m : Sparse (BitVec 96)) (l : List (Nat × Nat)) : Sparse (BitVec 96) :=
  l.foldl (fun acc e => Sparse.setZ acc e.1 (BitVec.ofNat 96 e.2)) m

/-- K of a pair for operand A (R341). -/
def mxK (a1 : Dword) : Nat := (field a1 44 10 + 1) * 32

/-- The sums of a command over its rows (R346). -/
def mxCompute (tile : Sparse (BitVec 96)) (c : MxCmd) (np : Nat) (ra rb : List (List (Option Val))) :
    MxResult :=
  (List.range (32 * np)).foldl (fun acc i =>
    (List.range (32 * np)).foldl (fun acc j =>
      let key := tileKey (c.tile + 2 * (i / 32) + j / 32) (i % 32) (j % 32)
      let c0 := if c.kind = .mmaz ∨ c.z = true then 0 else (Sparse.getZ tile key).toNat
      let (x, fl) := ((ra.getD i []).zip (rb.getD j [])).foldl (mxStep c.float c.sat) (c0, 0)
      (acc.1 ++ [(key, x)], orFlags acc.2 fl)) acc) ([], 0)

/-- MMA, MMAZ and MMAT: both operands are fetched, A before B, then the sums are made. -/
def mmaProg (s : State) (o : Op) (c : MxCmd) (tile : Sparse (BitVec 96)) : Prog MxResult :=
  let np := if c.kind = .mmat then 2 else 1
  let K := mxK c.a1
  let sa := mxSrc s o.who.core c.a0 c.a1 c.ra
  let sb := mxSrc s o.who.core c.b0 c.b1 c.rb
  (fetchPanels c.float sa np K []).bind fun x =>
    (fetchPanels c.float sb np K (if sa = sb then x.2 else [])).bind fun y =>
      let ra := x.1.map (rowElems c.float K)
      let rb := y.1.map (rowElems c.float K)
      let fl := (ra ++ rb).foldl (fun acc r => orFlags acc r.2) 0
      let (l, f2) := mxCompute tile c np (ra.map (·.1)) (rb.map (·.1))
      .ret (l, orFlags fl f2)

/-! ### Tensor shape records (R347) -/

/-- A field of a shape record, by byte offset and bytes. -/
def shF (v o n : Nat) : Nat := v / 2 ^ (8 * o) % 2 ^ (8 * n)

def shBase (v : Nat) : Nat := shF v 0 8
def shPitch (v : Nat) : Nat := shF v 8 4
def shM (v : Nat) : Nat := shF v 16 4
def shN (v : Nat) : Nat := shF v 20 4
def shRow0 (v : Nat) : Nat := shF v 24 4
def shCol0 (v : Nat) : Nat := shF v 28 4
def shFmt (v : Nat) : Nat := shF v 32 1
def shRnd (v : Nat) : Nat := shF v 33 1
def shSat (v : Nat) : Bool := shF v 34 1 % 2 == 1
def shTagw (v : Nat) : Bool := shF v 34 1 / 2 % 2 == 1

/-- A record breaks the table. -/
def shapeBad (v : Nat) : Bool :=
  shF v 12 4 != 0 || 64 ≤ shFmt v || 6 ≤ shRnd v || 4 ≤ shF v 34 1 || shF v 35 29 != 0

/-- The format of a record. -/
def shFormat (v : Nat) : Option (Fmt × Bool) := Fmt.ofCode (shFmt v)

/-- Formats of MLOAD (R349). -/
def loadFormat (float : Bool) (f : Fmt) : Bool :=
  match f with
  | .s32 | .n32 | .s64 | .n64 => true
  | .f64 | .f32 | .f19 | .b16 | .f16 | .a96f => float
  | .a96i => !float
  | _ => false

/-- The record of an MLOAD is refused. -/
def mloadBad (float : Bool) (v : Nat) : Bool :=
  shapeBad v || (match shFormat v with
    | some (f, scaled) => scaled || !loadFormat float f
    | none => true)

/-- Written in whole blocks (R350). -/
def wholeBlocks (v : Nat) (f : Fmt) (scaled : Bool) : Bool := scaled || decide (f.width < 8) || shTagw v

/-- The record of an MDRAIN is refused. -/
def mdrainBad (float : Bool) (v : Nat) : Bool :=
  shapeBad v || (match shFormat v with
    | some (f, scaled) =>
      (match f with
        | .raw => true
        | .a96f => !float || shTagw v
        | .a96i => float || shTagw v
        | _ => false) ||
      (wholeBlocks v f scaled &&
        (shBase v % 64 != 0 || shPitch v % 64 != 0 || shCol0 v * f.width % 512 != 0))
    | none => true)

/-- The record of an MDRAINA is refused (R351). -/
def mdrainaBad (v : Nat) : Bool :=
  shapeBad v || shTagw v || (match shFormat v with
    | some (.f32, false) | some (.s32, false) | some (.n32, false) | some (.s64, false)
    | some (.n64, false) => false
    | _ => true)

/-- The address of matrix element (row, col), in bits of the element's width. -/
def shAddr (v w row col : Nat) : Dword :=
  BitVec.ofNat 64 (shBase v + row * shPitch v + col * w / 8)

/-! ### Loads and drains (R349 to R351) -/

/-- The exact value of a matrix element as A96F, and the invalid flag of a signalling NaN (R116, R349). -/
def loadElem (f : Fmt) (bits : Nat) : Nat × Nat :=
  let (r, fl) := a96f.round false Rctx.plain (f.read bits).1
  (r, mxFlags fl)

/-- As `loadElem`, as A96I: exact, without a flag. -/
def loadInt (f : Fmt) (bits : Nat) : Nat × Nat := ((valInt (f.read bits).1 % (2 ^ 96 : Int)).toNat, 0)

/-- MLOAD: row by row; elements outside the extent are zero. -/
def mloadProg (c : MxCmd) : Prog MxResult :=
  (ask (.record c.a0 64 (mloadBad c.float))).bind fun x =>
    if x = 0 then .ret ([], 0)
    else
      let v := x % 2 ^ 512
      match shFormat v with
      | none => .ret ([], 0)
      | some (f, _) =>
        let cols := min 32 (shN v - shCol0 v)
        Prog.fold (fun (acc : MxResult) i =>
          let put (row : Nat) : MxResult :=
            let es := (List.range 32).map fun j =>
              let bits := row / 2 ^ (f.width * j) % 2 ^ f.width
              if j < cols then (if c.float then loadElem f bits else loadInt f bits) else (0, 0)
            (acc.1 ++ (List.range 32).map (fun j => (tileKey c.tile i j, (es.getD j (0, 0)).1)),
              es.foldl (fun fl e => orFlags fl e.2) acc.2)
          if shM v ≤ shRow0 v + i ∨ cols = 0 then
            .ret (acc.1 ++ (List.range 32).map fun j => (tileKey c.tile i j, 0), acc.2)
          else
            (ask (.read .global (shAddr v f.width (shRow0 v + i) (shCol0 v)) (cols * f.width / 8))).bind
              fun row => .ret (put row)) ([], 0) (List.range 32)

/-- The exact value of a tile element. -/
def tileVal (float : Bool) (bits : Nat) : Val :=
  if float then a96f.read bits else Val.ofInt (signedOf 96 bits)

/-- The rounding of a drain (R350); the draws of stochastic rounding follow one another. -/
def drainCtx (v draw : Nat) : Rctx := ⟨Rm.ofCode (shRnd v), false, false, shSat v, Config.rsrDraw draw⟩

/-- An element converted to a base format. -/
def drainElem (float : Bool) (f : Fmt) (v draw : Nat) (x : Val) : Nat × Nat :=
  let (r, fl) := f.round (drainCtx v draw) float x
  (r, mxFlags fl)

/-- The largest finite value of a base (R111). -/
def scaleMax (f : Fmt) : Val :=
  match f.float with
  | some ff => let (m, e) := ff.largest; .fin false m e
  | none => Val.ofInt f.bounds.2

/-- σ × M ≥ m for a scale code. -/
def scaleFits (f : Fmt) (m : Val) (c : Nat) : Bool :=
  let (sm, se) := scaleValue c
  match Val.cmp (Val.mul (.fin false sm se) (scaleMax f)).1 m with
  | .lt => false
  | _ => true

/-- The larger of two magnitudes. -/
def maxMag (a b : Val) : Val :=
  match Val.cmp a b.abs with
  | .lt => b.abs
  | _ => a

/-- The scale code of a block for the values that count, with the overflow flag (R111). -/
def chooseScale (f : Fmt) (ys : List Val) : Nat × Nat :=
  if ys.any fun y => y.isNaN || (y.isInf && decide (f ≠ .e5m2)) then (0x3FF, 0)
  else
    let m := (ys.filter fun y => !y.isInf).foldl maxMag Val.zero
    if m.isZero then (0, 0)
    else match (List.range 0x3FB).find? fun i => scaleFits f m (i + 1) with
      | some i => (i + 1, 0)
      | none => (0x3FB, flagOverflow)

/-- An element of a block-scaled block: the conversion of y / σ with saturation (R111). Under both classes the quotient is
converted as a value of a float source, so that a negative one sets the invalid flag in an unsigned base, which an exact
integer source would not (R119, R350; DESIGN CHOICE, log 91). Of an XB1 block with scale 0x000 or 0x3FF every element is +1,
as B1 has no zero (DESIGN CHOICE, log 91). -/
def scaledElem (float : Bool) (f : Fmt) (v draw code : Nat) (y : Val) : Nat × Nat :=
  let c := { drainCtx v draw with sat := true }
  if code = 0 ∨ code = 0x3FF then ((f.round c float Val.zero).1, 0)
  else if f = .b1 then (if y.neg && !y.isZero then 0 else 1, 0)
  else
    let (sm, se) := scaleValue code
    let q := if y.isInf then y else (Val.div y (.fin false sm se)).1
    let (r, fl) := f.round c true q
    (r, mxFlags fl)

/-- The tile element that stands at (row, col) of a span (R346, R348). -/
def spanElem (tile : Sparse (BitVec 96)) (c : MxCmd) (i j : Nat) : Val :=
  tileVal c.float (Sparse.getZ tile (tileKey (c.tile + 2 * (i / 32) + j / 32) (i % 32) (j % 32))).toNat

/-- Rows and columns of a span. -/
def spanRows (c : MxCmd) : Nat := if c.span = 4 then 64 else 32
def spanCols (c : MxCmd) : Nat := if c.span = 1 then 32 else 64

/-- A block of a drain's row: its bytes, its scale code if it has one, and its flags. -/
def drainBlock (tile : Sparse (BitVec 96)) (c : MxCmd) (v draw : Nat) (f : Fmt) (scaled : Bool) (i b : Nat) :
    Nat × Nat × Nat :=
  let n := 512 / f.width
  let inside (j : Nat) : Bool := decide (j < spanCols c) && decide (shCol0 v + j < shN v)
  let ys := (List.range n).map fun k =>
    if inside (b * n + k) then spanElem tile c i (b * n + k) else Val.zero
  let counted := (List.range n).filterMap fun k =>
    if inside (b * n + k) then some (spanElem tile c i (b * n + k)) else none
  let (code, f0) := if scaled then chooseScale f counted else (0, 0)
  let es := (List.range n).map fun k =>
    let y := ys.getD k Val.zero
    let at0 := draw + (i * 64 + b * n + k)
    if !inside (b * n + k) then ((f.round (drainCtx v at0) c.float Val.zero).1, 0)
    else if scaled then scaledElem c.float f v at0 code y
    else drainElem c.float f v at0 y
  (((List.range n).map fun k => (es.getD k (0, 0)).1 % 2 ^ f.width * 2 ^ (f.width * k)).sum, code,
    es.foldl (fun acc e => orFlags acc e.2) f0)

/-- Writes one row of a drain in whole blocks (R350). -/
def drainRowBlocks (tile : Sparse (BitVec 96)) (c : MxCmd) (v draw : Nat) (f : Fmt) (scaled : Bool)
    (fl i : Nat) : Prog Nat :=
  let n := 512 / f.width
  Prog.fold (fun fl b =>
    if shN v ≤ shCol0 v + b * n then .ret fl
    else
      let (data, code, f1) := drainBlock tile c v draw f scaled i b
      let a := shAddr v f.width (shRow0 v + i) (shCol0 v + b * n)
      let tag := shFmt v * 2 ^ 10 + (if scaled then code else 0)
      (ask (.write .global a 64 data)).bind fun _ =>
        if scaled || shTagw v then (ask (.setTag a tag)).bind fun _ => .ret (orFlags fl f1)
        else .ret (orFlags fl f1))
    fl (List.range ((spanCols c + n - 1) / n))

/-- Writes one row of a drain element by element, or adds its elements into memory (R350, R351). -/
def drainRowElems (tile : Sparse (BitVec 96)) (c : MxCmd) (v draw : Nat) (f : Fmt) (fl i : Nat) :
    Prog Nat :=
  Prog.fold (fun fl j =>
    if shN v ≤ shCol0 v + j then .ret fl
    else
      let a := shAddr v f.width (shRow0 v + i) (shCol0 v + j)
      let (x, f1) := drainElem c.float f v (draw + i * 64 + j) (spanElem tile c i j)
      let r := if c.kind = .mdraina then
          Req.atom a (if f = .f32 then 11 else 0) (f.width / 8) c.scope x
        else .write .global a (f.width / 8) x
      (ask r).bind fun _ => .ret (orFlags fl f1))
    fl (List.range (spanCols c))

/-- MDRAIN and MDRAINA: rows in order. -/
def drainProg (c : MxCmd) (tile : Sparse (BitVec 96)) (draw : Nat) : Prog MxResult :=
  let bad := if c.kind = .mdraina then mdrainaBad else mdrainBad c.float
  (ask (.record c.a0 64 bad)).bind fun x =>
    if x = 0 then .ret ([], 0)
    else
      let v := x % 2 ^ 512
      match shFormat v with
      | none => .ret ([], 0)
      | some (f, scaled) =>
        (Prog.fold (fun fl i =>
          if shM v ≤ shRow0 v + i then .ret fl
          else if wholeBlocks v f scaled then drainRowBlocks tile c v draw f scaled fl i
          else drainRowElems tile c v draw f fl i) 0 (List.range (spanRows c))).bind fun fl => .ret ([], fl)

/-- The program of a command (R346 to R351). -/
def mxProg (s : State) (o : Op) (c : MxCmd) : Prog MxResult :=
  let tile := (s.slot o.loc).tile
  match c.kind with
  | .mma | .mmaz | .mmat => mmaProg s o c tile
  | .mzero => .ret ((List.range 1024).map fun k => (c.tile * 1024 + k, 0), 0)
  | .mload => mloadProg c
  | .mdrain | .mdraina => drainProg c tile s.draws

/-- Accesses of a drain for each of its rows. -/
def drainRowCount (c : MxCmd) (v : Nat) (f : Fmt) (scaled : Bool) : Nat :=
  let n := 512 / f.width
  if c.kind ≠ .mdraina ∧ wholeBlocks v f scaled = true then
    ((List.range ((spanCols c + n - 1) / n)).filter fun b => decide (shCol0 v + b * n < shN v)).length *
      (if scaled || shTagw v then 2 else 1)
  else ((List.range (spanCols c)).filter fun j => decide (shCol0 v + j < shN v)).length

/-- Where a command stands behind the values that its accesses returned: the tile row of an MLOAD or a drain. The sums of
a multiplication are made when its last block has come: the first K-block not yet added is its first (R354). -/
def mxReached (c : MxCmd) : List LogVal → Nat
  | [] => 0
  | x :: rest =>
    match c.kind, shFormat (x % 2 ^ 512) with
    | .mload, _ => rest.length
    | .mdrain, some (f, scaled) | .mdraina, some (f, scaled) => rest.length / drainRowCount c (x % 2 ^ 512) f scaled
    | _, _ => 0

/-! ### Running commands (R338, R339, R354) -/

/-- The command of an operation. -/
def State.mxCmd (s : State) (id : Nat) : Option (Op × MxCmd) :=
  match Sparse.find s.eng.ops id with
  | some o =>
    match o.body with
    | .matrix c => some (o, c)
    | _ => none
  | none => none

/-- Changes a command. -/
def State.modCmd (s : State) (id : Nat) (g : MxCmd → MxCmd) : State :=
  s.modOp id fun o =>
    match o.body with
    | .matrix c => { o with body := .matrix (g c) }
    | _ => o

/-- The command has completed, or is gone. -/
def State.cmdDone (s : State) (id : Nat) : Bool :=
  match s.mxCmd id with
  | some (_, c) => c.phase == .complete
  | none => true

/-- Commands of closed batches in their order (R338). -/
def State.mxOrder (s : State) : List Nat := s.co.batches.flatMap fun b => b.ops

/-- Two commands of one slot name a common tile. -/
def mxShare (o1 : Op) (c1 : MxCmd) (o2 : Op) (c2 : MxCmd) : Bool :=
  slotOf o1.loc == slotOf o2.loc && decide (c1.tile < c2.tile + c2.span) && decide (c2.tile < c1.tile + c1.span)

/-- An earlier command with a common tile has not completed (R338). -/
def State.mxBlocked (s : State) (id : Nat) (o : Op) (c : MxCmd) : Bool :=
  (s.mxOrder.takeWhile fun n => n != id).any fun n =>
    match s.mxCmd n with
    | some (o2, c2) => c2.phase != .complete && mxShare o c o2 c2
    | none => false

/-- A batch back at its own quadrant's engine (R355). -/
def State.ownEngine (s : State) (id : Nat) (loc : Nat) : State :=
  let batches := s.co.batches.map fun b => if b.ops.contains id then { b with engine := loc / 32 } else b
  { s with co := { s.co with batches := batches } }

/-- Runs a command from where it stands: its result goes to its tiles, or its record parks the fibre
that closed its batch (R354). A FIFO that is empty or full lets it wait. -/
def runMatrix (s : State) (id : Nat) (replay : Bool) : State :=
  match s.mxCmd id with
  | none => s
  | some (o, c) =>
    match runThread s id 0 (mxProg s o c) with
    | (.done (l, fl), s1) =>
      let s2 := s1.modSlot o.loc fun sl => { sl with tile := putTile sl.tile l }
      let s3 := ((s2.drew 4096).modOp id fun o => { o with logs := [] }).modCmd id
        fun c => { c with phase := .computed, flags := mxFlags fl }
      s3.freeRecord id
    | (.stop k t, s1) =>
      let s2 := s1.modCmd id fun c => { c with phase := .started }
      let at0 := match Sparse.find s2.eng.ops id with
        | some x => [mxReached c (Sparse.get [] x.logs 0)]
        | none => []
      if t.kind = 0 then s2 else (s2.ownEngine id o.loc).parkAt id at0 replay [(k, t)]

/-- MATRIX_COMMAND_START: a command of a closed batch starts once earlier commands with a common tile
have completed (R337, R338); one that waits at a FIFO goes on. -/
def execMatrixCommandStart (id : Nat) (s : State) : Out :=
  match s.mxCmd id with
  | none => .next s
  | some (o, c) =>
    if (c.phase = .queued ∨ c.phase = .started) ∧ s.recorded id = false ∧ s.mxBlocked id o c = false then
      .next (runMatrix s id false)
    else .next s

/-- A batch whose commands and predecessors are complete completes: MX falls, the flags reach FSTAT,
and the tiles lose their pending write (R335, R337). -/
def State.endBatch (s : State) (b : Batch) : State :=
  let flags := b.ops.foldl (fun acc n =>
    match s.mxCmd n with
    | some (_, c) => orFlags acc c.flags
    | none => acc) 0
  let s1 := b.ops.foldl (fun acc n => acc.endOp n) s
  { s1 with co := { s1.co with batches := s1.co.batches.erase b } }.modFibre b.loc fun f =>
    (if b.counted then f.lowerCtr ctrMX else f).addFlags flags

/-- Completes the batches of a fibre in order. -/
def State.settleBatches (s : State) (loc : Nat) : Nat → State
  | 0 => s
  | n + 1 =>
    match s.co.batches.find? fun b => b.loc = loc with
    | some b => if b.ops.all s.cmdDone then (s.endBatch b).settleBatches loc n else s
    | none => s

/-- MATRIX_COMMAND_COMPLETE: a command whose result stands completes, and with it perhaps batches. -/
def execMatrixCommandComplete (id : Nat) (s : State) : Out :=
  match s.mxCmd id with
  | none => .next s
  | some (o, c) =>
    if c.phase = .computed then
      let s1 := s.modCmd id fun c => { c with phase := .complete }
      .next (s1.settleBatches o.loc s1.co.batches.length)
    else .next s

/-- Kinds that may migrate (R339). -/
def MxKind.migrates : MxKind → Bool
  | .mma | .mmaz | .mmat | .mzero => true
  | _ => false

/-- BATCH_MIGRATION: the batch of a command, waiting at the head of its engine's queue, moves to an idle
engine of its cluster (R339). How long both have waited is timing. -/
def execBatchMigration (id engine : Nat) (s : State) : Out :=
  match s.co.batches.find? fun b => b.ops.contains id with
  | none => .next s
  | some b =>
    let first := s.co.batches.find? fun x => x.engine = b.engine ∧ x.ops ≠ []
    let unstarted := b.ops.all fun n =>
      match s.mxCmd n with
      | some (_, c) => c.phase == .queued && c.kind.migrates
      | none => false
    if first = some b ∧ unstarted = true ∧ engine / 16 = b.engine / 16 ∧ engine < 4 * Config.cores ∧
        (s.co.batches.any fun x => x.engine == engine) = false then
      let batches := s.co.batches.map fun x => if x = b then { x with engine := engine } else x
      .next { s with co := { s.co with batches := batches } }
    else .next s

/-! ### Closing a batch (R236, R336, R337) -/

/-- The weight of a format in half units. -/
def fmtWeight (f : Fmt) : Nat :=
  match f with
  | .s4 | .n4 | .e2m1 | .t2 | .b1 => 1
  | .b16 | .f16 | .s16 | .n16 => 8
  | .f19 => 16
  | .f32 | .s32 => 32
  | .f64 => 128
  | _ => 2

/-- The weight of a tag; one that the class does not admit weighs as 8-bit. -/
def tagWeight (float : Bool) (tag : Nat) : Nat :=
  match tagFormat float tag with
  | some (f, _) => fmtWeight f
  | none => 2

/-- Lengths and weights along a row's K extent from the tags of its blocks. -/
def weightRow (float : Bool) (tagOf : Nat → Option Nat) : Nat → Nat → Nat → List (Nat × Nat)
  | 0, _, k => if k = 0 then [] else [(k, 2)]
  | n + 1, b, k =>
    if k = 0 then []
    else
      let (len, w) := match tagOf b with
        | some t => (tagCount float t, tagWeight float t)
        | none => (64, 2)
      (min len k, w) :: weightRow float tagOf n (b + 1) (k - len)

/-- The tag of a block as the strip holds it now; none where it cannot be read. -/
def peekTag (s : State) (o : Op) (a0 : Dword) (p r b : Nat) : Option Nat :=
  match locatePanel s o (field a0 50 5) (field a0 32 18 + p * 2048 + (r * 32 + b) * 2) 2 with
  | (.ok l, s1) => some (leNat (s1.readOf o l).1)
  | _ => none

/-- The weights of every row of an operand. -/
def operandWeights (s : State) (o : Op) (float : Bool) (src : MxSrc) (np K : Nat) :
    List (List (Nat × Nat)) :=
  (List.range (32 * np)).map fun i =>
    match src with
    | .regs _ tag => weightRow float (fun _ => some tag) 32 0 K
    | .sram a0 _ => weightRow float (peekTag s o a0 (i / 32) (i % 32)) 32 0 K
    | .fifo _ => [(K, 2)]

/-- The sum over a pair of rows of the larger weight. -/
def pairWeight : Nat → List (Nat × Nat) → List (Nat × Nat) → Nat
  | 0, _, _ => 0
  | _ + 1, [], _ => 0
  | _ + 1, _, [] => 0
  | n + 1, (la, wa) :: ra, (lb, wb) :: rb =>
    let l := min la lb
    l * max wa wb + pairWeight n (if la = l then ra else (la - l, wa) :: ra)
      (if lb = l then rb else (lb - l, wb) :: rb)

/-- Weighted MACs of a command in half units (R236). -/
def cmdWeight (s : State) (id : Nat) : Nat :=
  match s.mxCmd id with
  | none => 0
  | some (o, c) =>
    match c.kind with
    | .mma | .mmaz | .mmat =>
      let np := if c.kind = .mmat then 2 else 1
      let K := mxK c.a1
      let wa := operandWeights s o c.float (mxSrc s o.who.core c.a0 c.a1 c.ra) np K
      let wb := operandWeights s o c.float (mxSrc s o.who.core c.b0 c.b1 c.rb) np K
      (wa.map fun a => (wb.map fun b => pairWeight 80 a b).sum).sum
    | _ => 0

/-- Weighted MACs of the open batch, in half units. -/
def openWeight (s : State) (f : Fibre) : Nat := (f.openBatch.map fun n => cmdWeight s n).sum

/-- LVCTL.MXTH: 16 to 31; other values act as 31 (R238). -/
def State.mxth (s : State) : Nat :=
  let t := field s.reg.lvctl 1 5
  if t < 16 then 31 else t

/-- The cost in coins of a batch's leave; none below the threshold (R236). -/
def batchCost (s : State) (f : Fibre) : Option Nat :=
  let h := openWeight s f
  if 2 ^ (s.mxth + 1) ≤ h then some ((h + 2 ^ 21 - 1) / 2 ^ 21) else none

/-- Commands in a quadrant's queue: those of its closed batches that have not completed (R333). -/
def State.queueUse (s : State) (engine : Nat) : Nat :=
  (s.co.batches.map fun b =>
    if b.engine = engine then (b.ops.filter fun n => !s.cmdDone n).length else 0).sum

/-- Moves the open batch to the queue under the fibre's next number (R337). -/
def State.moveBatch (s : State) (loc : Nat) (f : Fibre) : State :=
  let b : Batch := ⟨loc, f.nextBatch, loc / 32, f.openBatch, 0, !f.openBatch.isEmpty⟩
  let s1 := f.openBatch.foldl (fun acc n => acc.modCmd n fun c => { c with phase := .queued }) s
  let s2 := s1.modFibre loc fun f =>
    let g := { f with openBatch := [], nextBatch := f.nextBatch + 1 }
    if b.counted then g.raiseCtr ctrMX else g
  let s3 : State := { s2 with co := { s2.co with batches := s2.co.batches ++ [b] } }
  s3.settleBatches loc s3.co.batches.length

/-- Closes the open batch of the fibre in issue: room, leave, then the move. It cannot issue before
that (R337). -/
def closeOpen (s : State) (f : Fibre) (go : State → Act) : Act :=
  if 16 < s.queueUse (s.cur / 32) + f.openBatch.length then .stall
  else if f.ctrFull ctrMX then .stall
  else match batchCost s f with
    | some cost => needLeave s f cost fun _ s1 => go (s1.moveBatch s1.cur f)
    | none => go (s.moveBatch s.cur f)

/-- MFENCE (R337). -/
def execMfence (a : BitVec 6) (s : State) : Out :=
  runFibre s fun f =>
    guardBusy s (resS s.cur [a.toNat]) <|
      closeOpen s f fun s1 => .done (s1.putS a.toNat (BitVec.ofNat 64 f.nextBatch))

/-- MWAIT (R353). -/
def execMwait (a : BitVec 6) (s : State) : Out :=
  runFibre s fun f =>
    guardBusy s (resS s.cur [a.toNat]) <|
      let n := (f.s a.toNat).toNat
      if f.nextBatch ≤ n then .trap (illTrap 6)
      else if s.co.batches.any fun b => b.loc == s.cur && decide (b.num ≤ n) then .stall
      else .done s

/-! ### Issue (R334, R335, R341, R344) -/

/-- The class of MODE.ET; none raises ILL (R334). -/
def mxClass (m : Word) : Option Bool :=
  match modeET m with
  | 0x3C => some true
  | 0x3D => some false
  | _ => none

/-- Appends a command to the open batch, after closing a full one (R336). -/
def appendCmd (s : State) (f : Fibre) (opa opb : Dword) (c : MxCmd) : Act :=
  let add (s : State) : Act :=
    match s.fibre s.cur with
    | none => .done s
    | some f =>
      let (id, s1) := s.newOp f 6 f.active opa opb none (.matrix c)
      let s2 := s1.addPend s.cur id ((List.range c.span).map fun i => .tile (c.tile + i))
      .done (s2.modFibre s.cur fun f => { f with openBatch := f.openBatch ++ [id] })
  if 8 ≤ f.openBatch.length then closeOpen s f add else add s

/-- Class and tiles of a command are checked; then it is made and appended. -/
def issueCmd (s : State) (f : Fibre) (tile span : Nat) (make : Bool → Act) : Act :=
  match mxClass f.mode with
  | none => .trap (illTrap 6)
  | some float => if (s.slot s.cur).tiles < tile + span then .trap (illTrap 6) else make float

/-- The second scalar of a pair breaks R341. -/
def pair1Bad (a1 : Dword) (isA mmat : Bool) : Bool :=
  field a1 54 10 != 0 || field a1 36 3 != 0 || (!isA && field a1 44 10 != 0) || field a1 18 18 % 64 != 0 ||
    (!mmat && field a1 18 18 != 0) || field a1 0 18 % 64 != 0

/-- The first scalar of a scratch pair breaks R341. -/
def pair0Bad (a0 : Dword) : Bool :=
  field a0 55 9 != 0 || field a0 23 9 != 0 || field a0 0 23 % 64 != 0 || field a0 32 23 % 64 != 0

/-- Registers of a register operand: base and count; none raises ILL (R344). -/
def regOperand (float : Bool) (K : Nat) (a0 a1 : Dword) : Option (Nat × Nat) :=
  let x := field a0 0 7
  let tag := field a0 16 16
  let nb := (K + tagCount float tag - 1) / tagCount float tag
  if field a0 7 9 != 0 || field a0 32 32 != 0 || field a1 39 5 != 0 || field a1 0 36 != 0 ||
      (tagFormat float tag).isNone || decide (128 < x + 16 * nb) then none
  else some (x, 16 * nb)

/-- The registers that an operand captures: `some none` for a scratch operand, none raises ILL. -/
def operandRegs (float isReg isA mmat : Bool) (K : Nat) (a0 a1 : Dword) : Option (Option (Nat × Nat)) :=
  if pair1Bad a1 isA mmat then none
  else if isReg then (regOperand float K a0 a1).map some
  else if pair0Bad a0 then none
  else some none

/-- MMA, MMAZ and MMAT at issue (R341 to R345). -/
def issueMma (s : State) (a b tile span : Nat) (regA regB : Bool) (kind : MxKind) (z : Bool) : Out :=
  runFibre s fun f =>
    guardBusy s (resS s.cur [a, a + 1, b, b + 1]) <|
      issueCmd s f tile span fun float =>
        let K := mxK (f.s (a + 1))
        let mmat := kind == .mmat
        match operandRegs float regA true mmat K (f.s a) (f.s (a + 1)),
            operandRegs float regB false mmat K (f.s b) (f.s (b + 1)) with
        | some ra, some rb =>
          let names (r : Option (Nat × Nat)) : List Nat :=
            match r with
            | some (x, n) => regRun x n
            | none => []
          let capture (r : Option (Nat × Nat)) : Option (List VReg) :=
            r.map fun e => (regRun e.1 e.2).map fun n => s.v s.cur f n
          guardBusy s (resVs s.cur f (names ra ++ names rb)) <|
            appendCmd s f (f.s a) (f.s b)
              { kind := kind, float := float, a0 := f.s a, a1 := f.s (a + 1), b0 := f.s b
                b1 := f.s (b + 1), ra := capture ra, rb := capture rb, tile := tile, span := span
                z := z, sat := modeSAT f.mode, scope := modeSC f.mode, phase := .staged, flags := 0 }
        | _, _ => .trap (illTrap 6)

/-- MMA. -/
def execMma (a b : BitVec 6) (t : BitVec 3) (y x : BitVec 1) (s : State) : Out :=
  issueMma s a.toNat b.toNat t.toNat 1 (x == 1) (y == 1) .mma false

/-- MMAZ. -/
def execMmaz (a b : BitVec 6) (t : BitVec 3) (y x : BitVec 1) (s : State) : Out :=
  issueMma s a.toNat b.toNat t.toNat 1 (x == 1) (y == 1) .mmaz false

/-- MMAT: four tiles from t0 or t4. -/
def execMmat (a b : BitVec 6) (z t : BitVec 1) (s : State) : Out :=
  issueMma s a.toNat b.toNat (4 * t.toNat) 4 false false .mmat (z == 1)

/-- A command of the MCTL group without operands. -/
def plainCmd (f : Fibre) (kind : MxKind) (float : Bool) (a0 : Dword) (tile span : Nat) : MxCmd :=
  { kind := kind, float := float, a0 := a0, a1 := 0, b0 := 0, b1 := 0, ra := none, rb := none
    tile := tile, span := span, z := false, sat := modeSAT f.mode, scope := modeSC f.mode
    phase := .staged, flags := 0 }

/-- MZERO (R349). -/
def execMzero (t : BitVec 3) (s : State) : Out :=
  runFibre s fun f =>
    issueCmd s f t.toNat 1 fun float => appendCmd s f 0 0 (plainCmd f .mzero float 0 t.toNat 1)

/-- MLOAD, MDRAIN and MDRAINA: the record's address is a multiple of 64 (R347). -/
def issueShape (s : State) (a tile span : Nat) (kind : MxKind) : Out :=
  runFibre s fun f =>
    guardBusy s (resS s.cur [a]) <|
      issueCmd s f tile span fun float =>
        if (f.s a).toNat % 64 ≠ 0 then .trap (illTrap 6)
        else appendCmd s f (f.s a) 0 (plainCmd f kind float (f.s a) tile span)

/-- MDRAIN (R350). -/
def execMdrain (a : BitVec 6) (p : BitVec 2) (t : BitVec 3) (s : State) : Out :=
  issueShape s a.toNat t.toNat (2 ^ p.toNat) .mdrain

/-- MDRAINA (R351). -/
def execMdraina (a : BitVec 6) (p : BitVec 2) (t : BitVec 3) (s : State) : Out :=
  issueShape s a.toNat t.toNat (2 ^ p.toNat) .mdraina

/-- MLOAD (R349). -/
def execMload (a : BitVec 6) (t : BitVec 3) (s : State) : Out := issueShape s a.toNat t.toNat 1 .mload

/-- A command of the open batch names a tile. -/
def opensTile (s : State) (f : Fibre) (t : Nat) : Bool :=
  f.openBatch.any fun n =>
    match s.mxCmd n with
    | some (_, c) => decide (c.tile ≤ t) && decide (t < c.tile + c.span)
    | none => false

/-- MREAD and MWRITE: class, selector, the batch that names the tile, and its pending write (R352). -/
def tileRow (s : State) (a d : Nat) (go : Fibre → Nat → Nat → State → Act) : Out :=
  runFibre s fun f =>
    guardBusy s (resS s.cur [a]) <|
      let x := f.s a
      issueCmd s f (field x 0 3) 1 fun _ =>
        if field x 8 56 ≠ 0 then .trap (illTrap 6)
        else guardBusy s (resVs s.cur f (regRun d 3)) <|
          let then0 (early : Bool) (s : State) : Act :=
            if s.busy s.cur [.tile (field x 0 3)] then (if early then .stallWith s else .stall)
            else go f (field x 0 3) (field x 3 5) s
          if opensTile s f (field x 0 3) then closeOpen s f (then0 true) else then0 false s

/-- MREAD. -/
def execMread (a : BitVec 6) (d : BitVec 7) (s : State) : Out :=
  tileRow s a.toNat d.toNat fun _ t row s =>
    let tile := (s.slot s.cur).tile
    let word (j w : Nat) : Word :=
      BitVec.extractLsb' (32 * w) 32 (Sparse.getZ tile (tileKey t row j))
    .done ([0, 1, 2].foldl (fun acc w => acc.setVLanes acc.cur (d.toNat + w) (List.range 32)
      fun j => word j w) s)

/-- MWRITE. -/
def execMwrite (a : BitVec 6) (v : BitVec 7) (s : State) : Out :=
  tileRow s a.toNat v.toNat fun f t row s =>
    let word (j w : Nat) : Nat := (lane (s.v s.cur f (v.toNat + w)) j).toNat
    let l := (List.range 32).map fun j =>
      (tileKey t row j, word j 0 + word j 1 * 2 ^ 32 + word j 2 * 2 ^ 64)
    .done (s.modSlot s.cur fun sl => { sl with tile := putTile sl.tile l })

end Sys2Proof.Machine
end

