-- ==== Sys2Proof/Machine/Teller.lean ====
section
/-! DEFINITION. Continuation records: emission, the teller's bins, the overflow ring, and the fibres that
the teller forms (R204 to R207, R439 to R441); what receiving lanes owe (R388, R411, R412). -/

namespace Sys2Proof.Machine

/-! ### Emission (R204, R220) -/

/-- A record's first 16 bytes with the emitting region (R204). -/
def stampRegion (b : List Byte) (rgn : Nat) : List Byte := b.take 13 ++ leBytes 3 rgn ++ b.drop 16

/-- The record has a reserved bit or an ENTRY that is not a multiple of 4. -/
def recBad (b : List Byte) : Bool := recReserved b != 0 || recEntry b % 4 != 0

/-- A record is discarded: LOSS rises, and a reply it owes is the identity with LOST (R204, R411). -/
def State.discard (s : State) (rgn : Nat) (r : ContRec) : State :=
  (s.loseRecord rgn).settleOwed r.owed false true

/-- Records that counted as outstanding are discarded (R204, R220). -/
def State.discardAll (s : State) (rgn : Nat) (recs : List ContRec) : State :=
  recs.foldl (fun acc r => (acc.discard rgn r).recordDown rgn (recEntry r.bytes) false) s

/-- The region accepts records (R211). -/
def State.acceptsRecords (s : State) (rgn : Nat) : Bool :=
  match s.rcb rgn with
  | some r => r.st != .killed
  | none => false

/-- Emits lane-grain records of one run toward a core's teller: what no live launch of the region
declares is discarded, the rest counts as outstanding (R204, R220, R439). -/
def State.emit (s : State) (core rgn : Nat) (after : List Nat) (op : Option Op) (recs : List ContRec) : State :=
  let ok (r : ContRec) : Bool :=
    !recBad r.bytes && !recGroup r.bytes && s.acceptsRecords rgn &&
      (s.declaring rgn (recEntry r.bytes) false).isSome
  let kept := recs.filter ok
  let s1 := (recs.filter fun r => !ok r).foldl (fun acc r => acc.discard rgn r) s
  let s2 := kept.foldl (fun acc r => acc.recordUp rgn (recEntry r.bytes) false) s1
  if kept.isEmpty then s2
  else
    let run : TellRun := ⟨core, rgn, after, kept, op⟩
    { s2 with sched := { s2.sched with tellIn := s2.sched.tellIn ++ [run] } }

/-- Emits records of a unit, each a run of its own: they enter in any order (R439). -/
def State.emitEach (s : State) (core rgn : Nat) (recs : List ContRec) : State :=
  recs.foldl (fun acc r => acc.emit core rgn [] none [r]) s

/-! ### The teller (R206, R207, R439) -/

/-- Records that a core's teller holds. -/
def State.tellerHolds (s : State) (core : Nat) : Nat :=
  ((s.sched.bins.filter fun b => b.core = core).map fun b => b.records.length).sum

/-- Records on their way to it. -/
def State.tellerComing (s : State) (core : Nat) : Nat :=
  ((s.sched.tellIn.filter fun t => t.core = core).map fun t => t.records.length).sum

/-- Records of one teller. -/
def tellerSize : Nat := 4096

/-- Free places of a region's continuation overflow ring; a region without a ring has none (R207). -/
def State.overflowRoom (s : State) (rgn : Nat) : Nat :=
  match s.rcb rgn with
  | some r => if r.covbase = 0 then 0 else 2 ^ r.covlog2 - (r.covtail + 2 ^ 32 - r.covhead) % 2 ^ 32
  | none => 0

/-- The teller and the overflow ring of a region have room for records of a declared entry (R207). -/
def State.tellerRoom (s : State) (core rgn entry n : Nat) : Bool :=
  !(s.acceptsRecords rgn) || (s.declaring rgn entry false).isNone ||
    decide (s.tellerHolds core + s.tellerComing core + n ≤ tellerSize + s.overflowRoom rgn)

/-- A fibre of the region remains on the core (R440). -/
def State.regionOnCore (s : State) (core rgn : Nat) : Bool :=
  s.fibres.any fun e => coreOf e.1 == core && e.2.region == rgn && e.2.st != .suspended

/-- Bins ripen: those named by a test go behind the other bins, in the order in which they ripen. -/
def ripen (bins : List Bin) (p : Bin → Bool) : List Bin :=
  let now (b : Bin) : Bool := !b.ripe && p b
  (bins.filter fun b => !now b) ++ (bins.filter now).map fun b => { b with ripe := true }

/-- A record joins its bin, or opens one (R206). A bin with fewer than 32 records takes further ones until its fibre is
placed, a ripe one too (DESIGN CHOICE, log 36). -/
def joinBin (core rgn : Nat) (r : ContRec) : List Bin → List Bin
  | [] => [⟨core, rgn, recEntry r.bytes, recKey r.bytes, [r], false, false⟩]
  | b :: rest =>
    if b.core = core ∧ b.region = rgn ∧ b.entry = recEntry r.bytes ∧ b.key = recKey r.bytes ∧
        b.records.length < 32 ∧ b.again = false then
      { b with records := b.records ++ [r] } :: rest
    else b :: joinBin core rgn r rest

/-- Puts a record of a run into the overflow ring of its region, which has room (R207). -/
def State.overflowPut (s : State) (core rgn run : Nat) (r : ContRec) : State :=
  match s.rcb rgn with
  | none => s
  | some c =>
    let mark : OverflowMark := ⟨rgn, c.covtail, core, r.owed, run, recEntry r.bytes⟩
    let s1 := physWrite s (c.covbase + 64 * (c.covtail % 2 ^ c.covlog2)) r.bytes
    { s1 with co := { s1.co with overflow := s1.co.overflow ++ [mark] } }.setRcb rgn
      { c with covtail := (c.covtail + 1) % 2 ^ 32 }

/-- The address of entry `i` of a region's overflow ring. -/
def Rcb.overflowAt (c : Rcb) (i : Nat) : Nat := c.covbase + 64 * (i % 2 ^ c.covlog2)

/-- What stands in the way of the next `n` entries of a region's overflow ring (R207, R410). -/
def State.ringTrouble (s : State) (rgn n : Nat) : Option Trouble :=
  (s.rcb rgn).bind fun c => (List.range n).findSome? fun i => s.physTrouble (c.overflowAt (c.covtail + i))

/-- A core's teller has room for a run, which stays together (R207, R439). -/
def State.fitsTeller (s : State) (t : TellRun) : Bool := decide (s.tellerHolds t.core + t.records.length ≤ tellerSize)

/-- The overflow ring has. -/
def State.fitsRing (s : State) (t : TellRun) : Bool := decide (t.records.length ≤ s.overflowRoom t.region)

/-- The records of a run enter the teller's bins in order. -/
def State.binRun (s : State) (core rgn : Nat) (recs : List ContRec) : State :=
  { s with sched := { s.sched with bins := recs.foldl (fun bins r => joinBin core rgn r bins) s.sched.bins } }

/-- The records of a run enter the overflow ring in order. -/
def State.ringRun (s : State) (t : TellRun) : State :=
  t.records.foldl (fun acc r => acc.overflowPut t.core t.region s.fresh r) { s with fresh := s.fresh + 1 }

/-- The fibre whose CONT made a run is still in its place. -/
def State.runMaker (s : State) (t : TellRun) : Option Op :=
  t.op.filter fun o => (s.fibre o.loc).any fun f => f.group == o.group

/-- An entry of a region's error log for an access to its ring that no fibre stands behind (R33). -/
def State.ringError (s : State) (rgn : Nat) (k : AKind) (t : Trouble) : State :=
  let asid := match s.rcb rgn with
    | some c => c.asid
    | none => 0
  s.errLog rgn ⟨t.va, asid, 8, k.code, t.cause, t.kind, 0xFFFF, 0, 0xFFFFFFFF⟩

/-- A run that the ring cannot take: its fibre writes a record of unit 8; without a fibre an absent granule is asked
for, and otherwise the records are discarded (R32, R33, R171, R207). -/
def State.runTrouble (s : State) (t : TellRun) (x : Trouble) : State :=
  let gone : State := { s with sched := { s.sched with tellIn := s.sched.tellIn.erase t } }
  match s.runMaker t, x with
  | some o, _ =>
    let s1 : State := { gone with
      eng := { gone.eng with ops := Sparse.put gone.eng.ops gone.fresh { o with body := .tell t.core t.region t.records } }
      fresh := gone.fresh + 1 }
    s1.parkOp gone.fresh false [(.write, x)]
  | none, .miss _ m _ => s.requestFor [] ((s.rcb t.region).elim 0 (·.asid)) m
  | none, _ => (gone.ringError t.region .write x).discardAll t.region t.records

/-- Bins ripen between runs: full ones, and those of regions without a fibre on their core (R206, R439,
R440). -/
def State.ripenBins (s : State) : State :=
  let bins := ripen s.sched.bins fun b => b.records.length == 32 || !s.regionOnCore b.core b.region
  { s with sched := { s.sched with bins := bins } }

/-- A run reaches the teller: its bins, or the overflow ring where they have no room for it (R207, R439). The core's
writes are then at their homes, as a release at DEV scope has it (R399). -/
def State.arriveRun (s : State) (t : TellRun) : State :=
  if s.fitsTeller t then
    let s0 : State := { s with
      sched := { s.sched with tellIn := s.sched.tellIn.erase t }, mem := (s.mem.writeBackAll t.core).raiseCount t.core }
    (s0.binRun t.core t.region t.records).ripenBins
  else match s.ringTrouble t.region t.records.length with
    | some x => s.runTrouble t x
    | none =>
      ({ s with
        sched := { s.sched with tellIn := s.sched.tellIn.erase t }
        mem := (s.mem.writeBackAll t.core).raiseCount t.core }).ringRun t

/-- TELLER_RECORD_ARRIVAL: a run on its way to a core's teller whose fibre's earlier accesses are performed, and that
has room, arrives; which of them does is a free value (R399, R439). -/
def execTellerRecordArrival (core : Nat) (s : State) : Out :=
  let ready := s.sched.tellIn.filter fun t =>
    t.core == core && (s.fitsTeller t || s.fitsRing t) && t.after.all fun id => (Sparse.find s.eng.ops id).isNone
  let waits (t : TellRun) : Bool :=
    !s.fitsTeller t && (s.runMaker t).isNone && ((s.ringTrouble t.region t.records.length).any fun x => x.kind == 1)
  let now := ready.filter fun t => !waits t
  match now[Config.nextRun s.draws % now.length]? with
  | some t => .next ((s.drew 1).arriveRun t)
  | none => .next (match ready with
    | t :: _ => s.arriveRun t
    | [] => s)

/-- The replay of a run that the ring could not take: under the error response its records are discarded (R32). -/
def replayTell (s : State) (id : Nat) (o : Op) (core rgn : Nat) (recs : List ContRec) : State :=
  let t : TellRun := ⟨core, rgn, [], recs, some o⟩
  match (if s.fitsTeller t then none else s.ringTrouble rgn recs.length) with
  | some x =>
    if o.err && x.kind != 1 then (s.discardAll rgn recs).endOp id else s.parkOp id true [(.write, x)]
  | none => ({ s with sched := { s.sched with tellIn := t :: s.sched.tellIn } }).endOp id

/-- A record of the overflow ring returns to its teller's bins; one that the device cannot read is discarded (R32,
R33). -/
def State.returnMark (s : State) (c : Rcb) (m : OverflowMark) : State :=
  let at0 := c.overflowAt m.idx
  let s1 : State := { s with co := { s.co with overflow := s.co.overflow.erase m } }.modRcb m.region fun c =>
    { c with covhead := (c.covhead + 1) % 2 ^ 32 }
  match s.physTrouble at0 with
  | some x =>
    ((((s1.ringError m.region .read x).loseRecord m.region).settleOwed m.owed false true)).recordDown m.region m.entry false
  | none => s1.binRun m.core m.region [⟨physRead s at0 64, m.owed⟩]

/-- OVERFLOW_RETURN: the run at the head of a region's overflow ring returns to the teller it came from once that has
room for it and the ring can be read (R58, R207, R439). -/
def execOverflowReturn (rgn : Nat) (s : State) : Out :=
  match s.rcb rgn, s.co.overflow.filter fun m => m.region = rgn with
  | some c, m :: rest =>
    let run := m :: rest.takeWhile fun x => x.run == m.run
    let at0 := run.map fun x => c.overflowAt x.idx
    if tellerSize < s.tellerHolds m.core + run.length then .next s
    else match at0.findSome? fun a => (s.physTrouble a).filter fun x => x.kind == 1 with
      | some (.miss _ g _) => .next (s.requestFor [] c.asid g)
      | _ =>
        match at0.flatMap fun a => physHeld s a 64 with
        | [] => .next ((run.foldl (fun acc x => acc.returnMark c x) s).ripenBins)
        | held => .next (askHost s held)
  | _, _ => .next s

/-- BIN_RIPEN: a bin's window has passed, or no fibre of its region remains on the core (R206, R440). The
bin is named by its place among the core's bins. -/
def execBinRipen (core bin : Nat) (s : State) : Out :=
  match (s.sched.bins.filter fun b => b.core = core)[bin]? with
  | none => .next s
  | some b =>
    let bins := ripen s.sched.bins fun x => x == b
    .next { s with sched := { s.sched with bins := bins } }

/-! ### Placing fibres -/

/-- A fibre at its start (R201): READY, all lanes active, frame of 128 registers. -/
def Fibre.start (pc : BitVec 48) : Fibre :=
  { st := .ready, pc := pc, exec := BitVec.allOnes 32, stack := [], sreg := [], pred := []
    mode := 0x27, fstat := 0, cf := 0, lr := 0, issued := 0, wdesc := mkWdesc 0 0 16 0 16
    ring := [], spBase := 0, spLen := 0, ctr := [], pendSet := [], draining := false, flushing := false, wthru := none
    relNext := false, relOpen := false, syncSet := []
    fbArr := [], nbWait := [], fbIn := false, nbIn := false, waitOp := none, leave := none
    openBatch := [], nextBatch := 0, query := [], beamCredit := 0, inHandler := false
    hidden := ⟨0, 0, 0, 0, 0, 0⟩, trapWait := none, debugger := ⟨false, 0, false⟩, cede := false
    fetched := none, region := 0, asid := 0, lid := 0, group := 0, launch := 0, owes := [], tests := []
    teller := false }

/-- The fibre of a role in a position: window, starting MODE and spill area (R196, R215, R218). -/
def roleFibre (l : LaunchRec) (r : Role) (loc : Nat) : Fibre :=
  { Fibre.start (BitVec.ofNat 48 r.entry) with
    mode := if r.mset then r.mode else 0x27
    wdesc := mkWdesc 0 0 r.ring r.shbase r.fsz
    spBase := l.spbase + BitVec.ofNat 64 (loc * l.spkb * 1024), spLen := l.spkb * 1024 }

/-- The slots of a quadrant, by its number core × 4 + quadrant. -/
def State.quadSlots (s : State) (quad : Nat) : List Slot :=
  s.slots.filterMap fun e => if e.1 / 8 = quad then some e.2 else none

/-- Free vector registers of a quadrant (R195). -/
def State.freeRegs (s : State) (quad : Nat) : Nat := 1024 - ((s.quadSlots quad).map fun x => x.regs).sum

/-- Free tiles of a quadrant's store (R333). -/
def State.freeTiles (s : State) (quad : Nat) : Nat := 16 - ((s.quadSlots quad).map fun x => x.tiles).sum

/-- Tiles per slot by the TILES code (R213). -/
def tileCount (code : Nat) : Nat := if code = 0 then 0 else 2 ^ code

/-- The role of a declared entry. -/
def Launch.roleOf (l : Launch) (d : Decl) : Role :=
  (l.lrec.roles[d.role]?).getD ⟨0, 1, 0, 1, false, 0⟩

/-- A place for a fibre that a core's teller has formed: a free position of a fitting teller slot, else a
new one in an EMPTY slot (R195, R206). -/
def State.tellerPlace (s : State) (core q h tiles : Nat) (asid : BitVec 16) : Option Nat :=
  let locs := (List.range 128).map fun i => core * 128 + i
  let joins (loc : Nat) : Bool :=
    match Sparse.find s.slots (slotOf loc) with
    | some x => x.kind == .teller && x.asid == asid && x.q == q && x.h == h && (s.fibre loc).isNone
    | none => false
  let opens (loc : Nat) : Bool :=
    loc % 4 == 0 && (Sparse.find s.slots (slotOf loc)).isNone &&
      decide (4 * q + h ≤ s.freeRegs (loc / 32)) && decide (tiles ≤ s.freeTiles (loc / 32))
  match locs.find? joins with
  | some l => some l
  | none => locs.find? opens

/-- Gives each receiving lane v0 to v11 from its record (R205). -/
def State.loadRecords (s : State) (loc : Nat) (recs : List ContRec) : State :=
  (List.range 12).foldl (fun acc i =>
    acc.setVLanes loc i (List.range recs.length) fun k =>
      BitVec.ofNat 32 (cpField (leNat ((recs.getD k ⟨[], .nothing⟩).bytes.drop 16)) (32 * i) 32)) s

/-- Puts a group on the chip: its fibres READY, its slots, LIVE and its launch's count raised. Its start
acquires what the given cores did (R136, R208, R220). -/
def State.putGroup (s : State) (id : Nat) (g : Group) (slots : List (Nat × Slot)) (fibres : List (Nat × Fibre))
    (from0 : List Nat) : State :=
  let s1 : State := { s with
    groups := Sparse.put s.groups id g
    slots := slots.foldl (fun acc e => Sparse.put acc e.1 e.2) s.slots
    fibres := fibres.foldl (fun acc e => Sparse.put acc e.1 e.2) s.fibres }
  ((s1.modRcb g.region fun r => { r with live := r.live + 1 }).modLaunch g.launch fun l =>
    { l with placed := l.placed + 1 }).startAcquire g.core from0

/-- A group that holds nothing yet. -/
def Group.fresh (kind : GroupKind) (core launch region : Nat) (asid : BitVec 16) : Group :=
  { kind := kind, gid := 0, lin := 0, core := core, launch := launch, region := region, asid := asid
    members := [], scrBase := 0, scrLen := 0, scratch := [], nbar := [], stage := 0, cursor := 0, handles := []
    sched := none, schedOp := none, stageLeaves := [], steps := [], cens := [], succ := 0, record := []
    queue := 0, recs := [], relaunched := false }

/-- The lanes of a list of debts. -/
def owedLanes (recs : List ContRec) : Sparse (Nat × Nat) × Sparse Nat :=
  (List.range recs.length).foldl (fun acc i =>
    match (recs.getD i ⟨[], .nothing⟩).owed with
    | .reply c e => (Sparse.put acc.1 i (c, e), acc.2)
    | .test t => (acc.1, Sparse.put acc.2 i t)
    | .nothing => acc) ([], [])

/-- Forms the fibre of a ripe bin in a position (R205, R206, R441). -/
def State.formFibre (s : State) (b : Bin) (lid : Nat) (l : Launch) (d : Decl) (loc : Nat) (asid : BitVec 16) :
    State :=
  let role := l.roleOf d
  let n := b.records.length
  let g := s.fresh
  let grp := { Group.fresh .teller b.core lid b.region asid with
    members := [loc], recs := b.records, relaunched := b.again }
  let (owes, tests) := owedLanes b.records
  let f := { roleFibre l.lrec role loc with
    pc := BitVec.ofNat 48 b.entry, exec := BitVec.ofNat 32 (2 ^ n - 1), region := b.region, asid := asid
    group := g, launch := lid, owes := owes, tests := tests, teller := true }
  let slot : Slot := match Sparse.find s.slots (slotOf loc) with
    | some x => x
    | none => { Slot.empty with
        kind := .teller, asid := asid, q := role.ring * 8, h := l.lrec.shr * 8
        regs := 32 * role.ring + l.lrec.shr * 8, tiles := tileCount l.lrec.tiles }
  let s1 := ({ s with fresh := s.fresh + 1 }.putGroup g grp [(slotOf loc, slot)] [(loc, f)] (b.core :: l.core.toList)).loadRecords
    loc b.records
  let s2 : State := { s1 with sched := { s1.sched with bins := s1.sched.bins.erase b } }
  b.records.foldl (fun acc _ => acc.recordDown b.region b.entry false) s2

/-- PRIO of a bin: that of its first record, where its records differ (R206; DESIGN CHOICE, log 36). -/
def Bin.prio (b : Bin) : Nat :=
  match b.records with
  | r :: _ => recPrio r.bytes
  | [] => 0

/-- The best of a list of bins: highest PRIO, and the first to ripen among equals. -/
def bestBin (l : List Bin) : Option Bin :=
  l.foldl (fun best b =>
    match best with
    | none => some b
    | some x => if x.prio < b.prio then some b else some x) none

/-- Where a bin's fibre can be placed: launch, declared entry and position. -/
def State.binPlace (s : State) (b : Bin) : Option (Nat × Launch × Decl × Nat × BitVec 16) :=
  if !s.regionActive b.region then none
  else match s.declaring b.region b.entry false, s.rcb b.region with
    | some (lid, l, d), some r =>
      let role := l.roleOf d
      if !s.placing || !s.ctxRoom r.asid then none
      else (s.tellerPlace b.core (role.ring * 8) (l.lrec.shr * 8) (tileCount l.lrec.tiles) r.asid).map fun loc =>
        (lid, l, d, loc, r.asid)
    | _, _ => none

/-- TELLER_PLACEMENT: the best of a core's ripe bins that fit becomes a fibre: one that finds no place holds no other
back (R206; DESIGN CHOICE, log 36). A ripe bin whose entry no live launch declares is discarded (R204). -/
def execTellerPlacement (core : Nat) (s : State) : Out :=
  let ripe := s.sched.bins.filter fun b => b.core = core ∧ b.ripe = true
  let dead := ripe.filter fun b => (s.declaring b.region b.entry false).isNone
  match dead with
  | b :: _ =>
    let s1 : State := { s with sched := { s.sched with bins := s.sched.bins.erase b } }
    .next (s1.discardAll b.region b.records)
  | [] =>
    match bestBin (ripe.filter fun b => (s.binPlace b).isSome) with
    | none => .next s
    | some b =>
      match s.binPlace b with
      | some (lid, l, d, loc, asid) => .next (s.formFibre b lid l d loc asid)
      | none => .next s

end Sys2Proof.Machine
end

