-- ==== Sys2Proof/Machine/Ray.lean ====
section
/-! DEFINITION. The ray engine (R357 to R379, R437, R438): nodes, exact tests, the traversal of a lane one
node at a time, query slots, cones and beams. -/

namespace Sys2Proof.Machine

/-! ### F32 exactly -/

/-- The layout of F32 (R105). -/
def f32 : FloatFmt := ⟨8, 23, 127, .ieee, 0⟩

/-- The exact value of an F32. -/
def f32Val (w : Word) : Val := f32.read w.toNat

/-- Neither NaN nor infinite. -/
def f32Finite (w : Word) : Bool := field w 23 8 != 255

/-- NaN. -/
def f32NaN (w : Word) : Bool := (f32Val w).isNaN

/-- A finite F32 in units of 2^-149. -/
def fx (w : Word) : Int :=
  match f32Val w with
  | .fin n m e => signedMag n (m * 2 ^ (e + 149).toNat)
  | _ => 0

/-- Rounds to F32 in a rounding mode. -/
def toF32 (rm : Rm) (v : Val) : Word := BitVec.ofNat 32 (f32.round false { Rctx.plain with rm := rm } v).1

/-- An exact quotient of integers, zero without a sign; the denominator is not zero. -/
def ratio (n d : Int) : Val := if n = 0 then Val.zero else (Val.div (Val.ofInt n) (Val.ofInt d)).1

/-- a ≤ b for values that are not NaN. -/
def Val.le (a b : Val) : Bool :=
  match Val.cmp a b with
  | .gt => false
  | _ => true

/-- The larger and the smaller of two values. -/
def Val.max (a b : Val) : Val := if a.le b then b else a
def Val.min (a b : Val) : Val := if a.le b then a else b

/-! ### Nodes (R357 to R361) -/

/-- The node that a pointer names in a window: KIND 0 stands for a bad one (R361). -/
def nodeOf (base p level : Nat) : NodeRef :=
  if ptrBad p ∨ ptrAddr p / 2 ^ 38 * 2 ^ 38 ≠ base ∨
      (ptrKind p = 1 ∧ ptrAddr p % 2 ^ 38 / 64 + 1 = 2 ^ 32) then ⟨0, 0, level⟩
  else ⟨ptrAddr p % 2 ^ 38 / 64, ptrKind p, level⟩

def boxOrg (v a : Nat) : Word := BitVec.ofNat 32 (ndF v (4 * a) 4)
def boxExp (v a : Nat) : Nat := ndF v (12 + a) 1
/-- A box node is bad (R361). -/
def boxBad (v : Nat) : Bool :=
  ndF v 15 1 != 1 || [0, 1, 2].any fun a => boxExp v a == 0 || boxExp v a == 255 || !f32Finite (boxOrg v a)

def instId (v : Nat) : Nat := ndF v 56 3
def instMask (v : Nat) : Nat := ndF v 59 1

/-- An instance node is bad (R359, R361). -/
def instBad (v : Nat) : Bool := ndF v 60 1 != 2 || ndF v 61 3 != 0 || ptrKind (instChild v) == 2

/-- A leaf is bad (R360, R361). -/
def leafBad (v : Nat) : Bool := ndF v 63 1 != 3 || ndF v 53 10 != 0 || ndF v 52 1 / 8 != 0

/-- Vertex q of a leaf. -/
def leafVtx (v q : Nat) : List Word := [0, 1, 2].map fun a => BitVec.ofNat 32 (ndF v (12 * q + 4 * a) 4)

/-! ### Slabs (R363) -/

/-- Entry and exit of one axis, rounded outward or inward to F32; none for the empty interval. -/
def slabAxis (inward : Bool) (o d lo hi : Int) : Option (Val × Val) :=
  if d = 0 then (if lo ≤ o ∧ o ≤ hi then some (.inf true, .inf false) else none)
  else
    let a := if 0 < d then lo else hi
    let b := if 0 < d then hi else lo
    let down (v : Val) : Val := f32Val (toF32 .rdn v)
    let up (v : Val) : Val := f32Val (toF32 .rup v)
    if inward then some (up (ratio (a - o) d), down (ratio (b - o) d))
    else some (down (ratio (a - o) d), up (ratio (b - o) d))

/-- The meeting of intervals; none when one is empty. -/
def meetSlabs : List (Option (Val × Val)) → Option (Val × Val)
  | [] => some (.inf true, .inf false)
  | none :: _ => none
  | some (a, b) :: rest =>
    match meetSlabs rest with
    | some (x, y) => some (Val.max a x, Val.min b y)
    | none => none

/-- The exact bounds of child `c` of a box node on an axis, in units of 2^-149 (R358). -/
def childBounds (v c a : Nat) : Int × Int :=
  let org := fx (boxOrg v a)
  let unit : Int := (2 ^ (boxExp v a + 22) : Nat)
  (org + ndF v (16 + 6 * c + a) 1 * unit, org + (ndF v (16 + 6 * c + 3 + a) 1 + 1) * unit)

/-- Entry and exit of a child's box for a ray. -/
def childSlab (inward : Bool) (o d : List Word) (v c : Nat) : Option (Val × Val) :=
  meetSlabs ((List.range 3).map fun a =>
    let (lo, hi) := childBounds v c a
    slabAxis inward (fx (o.getD a 0)) (fx (d.getD a 0)) lo hi)

/-- Inserts a child by ascending key; equal keys keep ascending child index. -/
def insertKid (x : Nat × Val) : List (Nat × Val) → List (Nat × Val)
  | [] => [x]
  | y :: rest =>
    match Val.cmp x.2 y.2 with
    | .gt => y :: insertKid x rest
    | _ => x :: y :: rest

/-- Children whose interval meets [tmin, +∞), as (child, max(entry, tmin)) by rank (R363, R366). -/
def rankKids (o d : List Word) (tmin : Val) (v : Nat) : List (Nat × Val) :=
  ((List.range 8).filterMap fun c =>
    if ptrKind (boxChild v c) = 0 then none
    else match childSlab false o d v c with
      | some (a, b) => if (Val.max a tmin).le b then some (c, Val.max a tmin) else none
      | none => none).foldr insertKid []

/-! ### Triangles (R364) -/

def dot3 (a b : List Int) : Int := a.getD 0 0 * b.getD 0 0 + a.getD 1 0 * b.getD 1 0 + a.getD 2 0 * b.getD 2 0

def cross3 (a b : List Int) : List Int :=
  [a.getD 1 0 * b.getD 2 0 - a.getD 2 0 * b.getD 1 0, a.getD 2 0 * b.getD 0 0 - a.getD 0 0 * b.getD 2 0,
    a.getD 0 0 * b.getD 1 0 - a.getD 1 0 * b.getD 0 0]

def sub3 (a b : List Int) : List Int := (List.range 3).map fun i => a.getD i 0 - b.getD i 0

/-- The three edge functions are of one sign, and on the pair's shared edge the triangle owns it. `side`
is the edge function that vanishes there. -/
def inside (u : List Int) (side : Nat) (owns : Bool) : Bool :=
  (u.all (fun x => decide (0 ≤ x)) || u.all fun x => decide (x ≤ 0)) && (u.getD side 0 != 0 || owns)

/-- tmin ≤ n / d < tmax, exactly, for d > 0. -/
def inRange (n d : Int) (tmin tmax : Word) : Bool :=
  decide (fx tmin * d ≤ n * 2 ^ 149) &&
    (match f32Val tmax with
    | .fin _ _ _ => decide (n * 2 ^ 149 < fx tmax * d)
    | .inf neg => !neg
    | _ => false)

/-- The hit of a ray on a triangle: t, u and v, each rounded once. -/
def triHit (o d : List Word) (tmin tmax : Word) (cullb : Bool) (p0 p1 p2 : List Word) (side : Nat)
    (owns : Bool) : Option (Word × Word × Word) :=
  if !((p0 ++ p1 ++ p2).all f32Finite) then none
  else
    let ds := d.map fx
    let a := sub3 (p0.map fx) (o.map fx)
    let b := sub3 (p1.map fx) (o.map fx)
    let c := sub3 (p2.map fx) (o.map fx)
    let u := [dot3 ds (cross3 b c), dot3 ds (cross3 c a), dot3 ds (cross3 a b)]
    let det := u.getD 0 0 + u.getD 1 0 + u.getD 2 0
    let n := dot3 a (cross3 (sub3 b a) (sub3 c a))
    if det = 0 ∨ (cullb = true ∧ 0 < det) ∨ inside u side owns = false then none
    else
      let sgn : Int := if 0 < det then 1 else -1
      if inRange (n * sgn) (det * sgn) tmin tmax then
        some (toF32 .rne (ratio n det), toF32 .rne (ratio (u.getD 1 0) det), toF32 .rne (ratio (u.getD 2 0) det))
      else none

/-- Triangle `k` of a leaf is there. -/
def leafHas (v k : Nat) : Bool := k == 0 || ndF v 52 1 / 4 % 2 == 1

/-- Triangle `k` of a leaf is opaque. -/
def leafOpaque (v k : Nat) : Bool := ndF v 52 1 / 2 ^ k % 2 == 1

/-- The test of triangle `k` of a leaf: (q0, q1, q2) or (q2, q1, q3); their shared edge is opposite
vertex 0 of the one and vertex 2 of the other. A ray that crosses it, and could hit either triangle there, hits one
of the two (R360, R364). -/
def leafHit (o d : List Word) (tmin tmax : Word) (cullb : Bool) (v k : Nat) (inst : Word) : Option Hit :=
  let first := Config.edgeOwner v (leNat ((o ++ d).flatMap fun w => leBytes 4 w.toNat))
  let q (i : Nat) : List Word := leafVtx v i
  let tri (j : Nat) (owns : Bool) : Option (Word × Word × Word) :=
    if j = 0 then triHit o d tmin tmax cullb (q 0) (q 1) (q 2) 0 owns
    else triHit o d tmin tmax cullb (q 2) (q 1) (q 3) 2 owns
  let other := 1 - k
  let alone := !leafHas v other || (tri other true).isNone
  (tri k (alone || (if k = 0 then first else !first))).map fun x => ⟨x.1, x.2.1, x.2.2, BitVec.ofNat 32 (ndF v 48 4 + k), inst⟩

/-! ### Lanes -/

/-- Outcome codes (R367). -/
def outMISS : Nat := 0
def outHIT : Nat := 1
def outCAND : Nat := 2
def outINVALID : Nat := 3
def outBADNODE : Nat := 4
def outDEEP : Nat := 5

def RayLane.term (l : RayLane) : Bool := l.flags % 2 == 1
def RayLane.cullb (l : RayLane) : Bool := l.flags / 2 % 2 == 1
def RayLane.opq (l : RayLane) : Bool := l.flags / 4 % 2 == 1

/-- Origin and direction in the space that the lane is in. -/
def RayLane.o (l : RayLane) : List Word := l.obj.take 3
def RayLane.d (l : RayLane) : List Word := l.obj.drop 3

/-- A direction whose components are all zero. -/
def zeroDir (d : List Word) : Bool := d.all fun w => field w 0 31 == 0

/-- A ray breaks R362. -/
def rayInvalid (ray : List Word) (tmin tmax : Word) : Bool :=
  !(ray.all f32Finite) || zeroDir (ray.drop 3) || !f32Finite tmin || f32NaN tmax ||
    !((f32Val tmin).le (f32Val tmax))

/-- A lane at the start of a traversal. -/
def RayLane.start (ray : List Word) (tmin tmax : Word) (mask flags : Nat) (cone : Option (Word × Word))
    (root : NodeRef) (bad : Bool) : RayLane :=
  { world := ray, obj := ray, tmin := tmin, tmax0 := tmax, tmax := tmax, mask := mask, flags := flags
    hit := none, cand := none, trail := List.replicate 16 0, follow := List.replicate 16 0, stack := []
    drop := false, trailUsed := false, inst := none, instNode := 0, repush := false
    cur := some root, parent := none, lpos := 0, restart := none
    outcome := if bad then some outINVALID else none, cone := cone, ready := true, root := root }

/-- A lane ends. -/
def RayLane.finish (l : RayLane) (out : Nat) : RayLane := { l with outcome := some out, cur := none }

/-- The deepest level with a pending count (R366). -/
def RayLane.deepest (l : RayLane) : Option Nat := (List.range 16).reverse.find? fun i => l.trail.getD i 0 != 0

/-- Sets an entry of a list of 16. -/
def put16 (l : List Nat) (i x : Nat) : List Nat := l.set i x

/-- The lane is back in the space of a level. -/
def RayLane.atLevel (l : RayLane) (level : Nat) : RayLane :=
  match l.inst with
  | some (k, _) => if level ≤ k then { l with inst := none, obj := l.world } else l
  | none => l

/-- A push onto the short stack (R366). -/
def RayLane.push (l : RayLane) (n : NodeRef) : RayLane :=
  { l with stack := (n :: l.stack).take 8, drop := l.drop || decide (8 ≤ l.stack.length) }

/-- The lane has nothing to descend into: it pops, restarts or ends (R365, R366). -/
def RayLane.pop (l : RayLane) : RayLane :=
  match l.stack with
  | n :: rest =>
    let k := (l.deepest).getD n.level
    let trail := (List.range 16).map fun i =>
      if i < k then l.trail.getD i 0 else if i = k then l.trail.getD i 0 - 1 else 0
    let follow := (List.range 16).map fun i =>
      if i < k then l.follow.getD i 0 else if i = k then l.follow.getD i 0 + 1 else 0
    { l.atLevel n.level with stack := rest, trail := trail, follow := follow, cur := some n, parent := none, lpos := 0 }
  | [] =>
    match (if l.drop then l.deepest else none) with
    | some p =>
      { l with
        drop := false, trailUsed := true, inst := none, obj := l.world, cur := some l.root, lpos := 0
        restart := some p }
    | none => l.finish (if l.hit.isSome then outHIT else outMISS)

/-- The lane descends from a node at a level into the first of a list of children, and pushes the rest,
farthest first (R365, R366). -/
def RayLane.descend (l : RayLane) (level : Nat) (kids : List NodeRef) : RayLane :=
  match kids with
  | [] => l.pop
  | n :: rest =>
    let l1 := rest.reverse.foldl (fun acc k => acc.push k) l
    { l1 with
      cur := some n, parent := l.cur, lpos := 0, trail := put16 l1.trail (level + 1) rest.length
      follow := put16 l1.follow (level + 1) 0 }

/-- A hit on a triangle: the closest hit when opaque, else a candidate (R365, R371). -/
def RayLane.take (l : RayLane) (solid : Bool) (h : Hit) : RayLane :=
  if solid then
    let l1 := { l with hit := some h, tmax := h.t }
    if l.term then { l1 with outcome := some outHIT } else l1
  else { l with cand := some h, outcome := some outCAND }

/-- ID of the instance that the lane is in. -/
def RayLane.instWord (l : RayLane) : Word :=
  match l.inst with
  | some (_, id) => id
  | none => BitVec.allOnes 32

/-- Tests triangle `k` of the leaf at place `at0` among the node's hit leaves, unless it is behind the
lane. -/
def RayLane.test (l : RayLane) (v at0 k : Nat) : RayLane :=
  if l.outcome.isSome ∨ 2 * at0 + k < l.lpos then l
  else
    let l1 := { l with lpos := 2 * at0 + k + 1 }
    if !leafHas v k then l1
    else match leafHit l.o l.d l.tmin l.tmax l.cullb v k l.instWord with
      | some h => l1.take (l.opq || leafOpaque v k) h
      | none => l1

/-! ### Reading nodes -/

/-- Bytes of the structure as a number; what is missing is a trouble. -/
def readNode (s : State) (o : Op) (a n : Nat) : Except Trouble Nat × State :=
  match (Req.read .global (BitVec.ofNat 64 a) n).perform s o with
  | (.done r _, s1) => (.ok (r.headD 0), s1)
  | (.trouble t, s1) => (.error t, s1)

/-- What a visit leaves: the lane, and the trouble that stopped it. -/
abbrev Visit := Option Trouble × RayLane × State

/-- Tests the hit leaves of a node in order (R365). -/
def testLeaves (s : State) (o : Op) (base level : Nat) (l : RayLane) : Nat → List Nat → Visit
  | _, [] => (none, l, s)
  | at0, p :: rest =>
    if l.outcome.isSome then (none, l, s)
    else if 2 * at0 + 2 ≤ l.lpos then testLeaves s o base level l (at0 + 1) rest
    else
      let n := nodeOf base p (level + 1)
      if n.kind = 0 then (none, l.finish outBADNODE, s)
      else match readNode s o (n.addr base) 64 with
        | (.error t, s1) => (some t, l, s1)
        | (.ok v, s1) =>
          if leafBad v then (none, l.finish outBADNODE, s1)
          else testLeaves s1 o base level ((l.test v at0 0).test v at0 1) (at0 + 1) rest

/-- The restart's visit of a box node: the candidate of the followed rank, and the pending ones (R366). -/
def RayLane.retrace (l : RayLane) (base level p v : Nat) : RayLane :=
  let cands := (rankKids l.o l.d (f32Val l.tmin) v).filter fun k => ptrKind (boxChild v k.1) ≠ 3
  let r := l.follow.getD (level + 1) 0
  let pend := (cands.drop (r + 1)).filter fun k => k.2.le (f32Val l.tmax)
  let kid (k : Nat × Val) : NodeRef := nodeOf base (boxChild v k.1) (level + 1)
  let l1 := (pend.map kid).reverse.foldl (fun acc k => acc.push k) l
  let l2 := { l1 with trail := put16 l1.trail (level + 1) pend.length }
  if p ≤ level + 1 then { l2 with restart := none, cur := none }.pop
  else match cands[r]? with
    | some k => { l2 with cur := some (kid k) }
    | none => { l2 with restart := none, cur := none }.pop

/-- A lane visits a box node. -/
def visitBox (s : State) (o : Op) (base level v : Nat) (l : RayLane) : Visit :=
  match l.restart with
  | some p => (none, l.retrace base level p v, s)
  | none =>
    let hits := (rankKids l.o l.d (f32Val l.tmin) v).filter fun k => k.2.le (f32Val l.tmax)
    let leaves := (hits.filter fun k => ptrKind (boxChild v k.1) = 3).map fun k => boxChild v k.1
    match testLeaves s o base level l 0 leaves with
    | (some t, l1, s1) => (some t, l1, s1)
    | (none, l1, s1) =>
      if l1.outcome.isSome then (none, l1, s1)
      else
        let inner := (hits.filter fun k => ptrKind (boxChild v k.1) ≠ 3).map fun k =>
          nodeOf base (boxChild v k.1) (level + 1)
        (none, l1.descend level inner, s1)

/-- A row of XFORM applied to a vector: the exact sum, rounded once in RNE (R365). -/
def xformRow (v r : Nat) (x : List Word) (w : Bool) : Word :=
  let m (c : Nat) : Val := f32Val (BitVec.ofNat 32 (ndF v (16 * r + 4 * c) 4))
  let mul (c : Nat) : Val := (Val.mul (m c) (f32Val (x.getD c 0))).1
  let add (a b : Val) : Val := (Val.add Rctx.plain a b).1
  toF32 .rne (add (add (add (mul 0) (mul 1)) (mul 2)) (if w then m 3 else Val.zero))

/-- A lane visits an instance node (R359, R365, R438). -/
def visitInst (s : State) (base level v : Nat) (l : RayLane) : Visit :=
  if instBad v ∨ l.inst.isSome then (none, l.finish outBADNODE, s)
  else if l.mask &&& instMask v = 0 ∨ ptrKind (instChild v) = 0 then (none, { l with restart := none }.pop, s)
  else
    let obj := ((List.range 3).map fun r => xformRow v r l.o true) ++
      (List.range 3).map fun r => xformRow v r l.d false
    if rayInvalid obj l.tmin l.tmax then (none, { l with restart := none }.pop, s)
    else
      (none, { l with
        obj := obj, inst := some (level, BitVec.ofNat 32 (instId v)), instNode := (l.cur.getD l.root).idx
        cur := some (nodeOf base (instChild v) (level + 1)), lpos := 0
        trail := put16 l.trail (level + 1) 0
        follow := match l.restart with
          | some _ => l.follow
          | none => put16 l.follow (level + 1) 0 }, s)

/-- A lane visits its next node (R365, R366). -/
def visitLane (s : State) (o : Op) (base : Nat) (l : RayLane) : Visit :=
  match l.cur with
  | none => (none, l.pop, s)
  | some n =>
    if 16 ≤ n.level then (none, l.finish outDEEP, s)
    else if n.kind = 0 then (none, l.finish outBADNODE, s)
    else match readNode s o (n.addr base) (nodeSize n.kind) with
      | (.error t, s1) => (some t, l, s1)
      | (.ok v, s1) =>
        if n.kind = 1 then
          (if boxBad v then (none, l.finish outBADNODE, s1) else visitBox s1 o base n.level v l)
        else if n.kind = 2 then visitInst s1 base n.level v l
        else if leafBad v then (none, l.finish outBADNODE, s1)
        else
          let l1 := (l.test v 0 0).test v 0 1
          (none, if l1.outcome.isSome then l1 else l1.pop, s1)

/-! ### Queries (R367 to R372) -/

/-- The operation of a query slot's traversal. -/
def State.rayOp (s : State) (id : Nat) : Option (Op × RayOp) :=
  match Sparse.find s.eng.ops id with
  | some o =>
    match o.body with
    | .ray q => some (o, q)
    | _ => none
  | none => none

/-- Changes a query. -/
def State.modRay (s : State) (id : Nat) (g : RayOp → RayOp) : State :=
  s.modOp id fun o =>
    match o.body with
    | .ray q => { o with body := .ray (g q) }
    | _ => o

/-- The cone query record of a lane is read (R370): reserved bits make the lane invalid, a refused read
ends it with BADNODE (R32), with t and width of a cone of zeros (DESIGN CHOICE, log 90). -/
def readCone (s : State) (o : Op) (q : RayOp) (i : Nat) (l : RayLane) : Visit :=
  match (Req.record (q.recs + BitVec.ofNat 64 (64 * i)) 64 fun _ => false).perform s o with
  | (.trouble t, s1) => (some t, l, s1)
  | (.done r _, s1) =>
    let v := r.headD 0
    if v = 0 then (none, { l with ready := true }.finish outBADNODE, s1)
    else
      let w (k : Nat) : Word := BitVec.ofNat 32 (ndF v (4 * k) 4)
      let ray := (List.range 6).map w
      let neg (x : Word) : Bool := bitOf x 31 && field x 0 31 != 0
      let bad := rayInvalid ray (w 6) (w 7) || !f32Finite (w 8) || !f32Finite (w 9) || neg (w 8) || neg (w 9)
        || ndF v 42 22 != 0 || 8 ≤ ndF v 41 1
      (none, RayLane.start ray (w 6) (w 7) (ndF v 40 1) (ndF v 41 1 % 8) (some (w 8, w 9)) l.root bad, s1)

/-- A lane that parks pushes its node back, with the TRAIL count of its level raised (R373). One whose cone record
has not been read has no node yet. -/
def RayLane.pushBack (l : RayLane) : RayLane :=
  match l.outcome, l.cur with
  | none, some n =>
    if !l.ready then l
    else { l.push n with cur := none, repush := true, trail := put16 l.trail n.level (l.trail.getD n.level 0 + 1) }
  | _, _ => l

/-- A lane that goes on pops its node first, with FOLLOW left as it is (R373). -/
def RayLane.popBack (l : RayLane) : RayLane :=
  match l.repush, l.stack with
  | true, n :: rest =>
    { l with cur := some n, repush := false, stack := rest, trail := put16 l.trail n.level (l.trail.getD n.level 0 - 1) }
  | _, _ => l

/-- One step of a lane of a query. -/
def stepLane (s : State) (o : Op) (q : RayOp) (i : Nat) (l : RayLane) : Visit :=
  if l.ready then visitLane s o q.base l.popBack else readCone s o q i l

/-- The words that a lane reports, with the cone width where there is one (R369, R370). -/
def RayLane.words (l : RayLane) (cone : Bool) : List Nat :=
  let h := match l.outcome with
    | some 2 => l.cand
    | some 3 => none
    | _ => l.hit
  let t := match h with
    | some x => x.t
    | none => l.tmax0
  let rest := match h with
    | some x => [x.u, x.v, x.prim, x.inst]
    | none => [0, 0, BitVec.allOnes 32, BitVec.allOnes 32]
  let status := (l.outcome.getD 0) + (if l.trailUsed then 256 else 0)
  let width : List Nat := if cone then
      let (w0, sp) := l.cone.getD (0, 0)
      [(toF32 .rne (Val.fma Rctx.plain (f32Val sp) (f32Val t) (f32Val w0)).1).toNat]
    else []
  t.toNat :: (rest.map fun x => x.toNat) ++ [status] ++ width

/-- A query whose lanes have all stopped stops: results, slot state, RY (R367). -/
def State.stopQuery (s : State) (id : Nat) (o : Op) (q : RayOp) : State :=
  if q.lanes.any fun e => e.2.outcome.isNone then s
  else
    let cand := q.lanes.any fun e => e.2.outcome == some outCAND
    let s1 := (List.range q.dst.length).foldl (fun acc k =>
      match q.dst[k]? with
      | some r => acc.putRes o.loc r (q.lanes.map fun e => (e.1, (e.2.words q.cone).getD k 0))
      | none => acc) s
    let st := if cand then QueryState.stopped else .done
    let s2 := ((s1.dropPend o.loc id).modFibre o.loc fun f =>
      { f.lowerCtr ctrRY with query := Sparse.put f.query q.slot ⟨st, id⟩ }).freeRecord id
    let s3 := s2.modOp id fun o => { o with ctr := none }
    if cand then s3 else s3.removeOp id

/-- The lanes of a query that have stopped. -/
def RayOp.ended (q : RayOp) : Word :=
  q.lanes.foldl (fun m e => if e.2.outcome.isSome then m ||| BitVec.ofNat 32 (2 ^ e.1) else m) 0

/-- The record of a query whose running lanes all lack something; `ts` are their troubles by lane
(R166). LDONE gives the lanes that have stopped (R169), and the others push their nodes back (R373). -/
def State.parkRay (s : State) (id : Nat) (q : RayOp) (ts : List Trouble) : State :=
  let q1 := if ts.all fun t => t.kind == 0 then q
    else { q with lanes := q.lanes.map fun e => (e.1, e.2.pushBack) }
  (s.modOp id fun o => { o with ldone := q.ended &&& o.lmask, body := .ray q1 }).parkOp id false
    (ts.map fun t => (.read, t))

/-- A lane of a query takes its next step. When every running lane lacks something, the query parks its
fibre (R166). -/
def stepQuery (s : State) (id i : Nat) (o : Op) (q : RayOp) : State :=
  match Sparse.find q.lanes i with
  | none => s
  | some l =>
    if l.outcome.isSome then s
    else
      let (t, l1, s1) := stepLane s o q i l
      let q1 := { q with lanes := Sparse.put q.lanes i l1 }
      let s2 := s1.modRay id fun _ => q1
      match t with
      | none => s2.stopQuery id o q1
      | some _ =>
        let ts := q1.running.map fun e => (stepLane s2 o q1 e.1 e.2).1
        if ts.all fun t => t.isSome then s2.parkRay id q1 (ts.filterMap fun t => t) else s2

/-- The lanes that a query starts with, and what it does at once when none of them runs. -/
def startQuery (s : State) (f : Fibre) (n : Nat) (opa : Dword) (q : RayOp) : Act :=
  if f.ctrFull ctrRY then .stall
  else
    let old := Sparse.find f.query n
    let s0 := match old with
      | some x => s.removeOp x.op
      | none => s
    let (id, s1) := s0.newOp f 3 f.active opa 0 (some ctrRY) (.ray q)
    let s2 := (s1.addPend s.cur id q.dst).modFibre s.cur fun f =>
      { f with query := Sparse.put f.query n ⟨.running, id⟩ }
    match s2.rayOp id with
    | some (o, q) => .done (s2.stopQuery id o q)
    | none => .done s2

/-- The state of a query slot. -/
def Fibre.slotState (f : Fibre) (n : Nat) : QueryState :=
  match Sparse.find f.query n with
  | some x => x.st
  | none => .idle

/-- RQUERY (R369). -/
def execRquery (a : BitVec 6) (n : BitVec 2) (v : BitVec 7) (s : State) : Out :=
  runFibre s fun f =>
    let dst := (regRun (v.toNat + 9) 6).map (resV (fidOf s.cur) f.wdesc)
    guardBusy s (resS s.cur [a.toNat] ++ resVs s.cur f (regRun v.toNat 15)) <|
      let root := (f.s a.toNat).toNat
      if f.active = 0 then .done s
      else if ptrBad root ∨ ptrKind root = 0 ∨ ptrKind root = 3 then .trap (illTrap 6)
      else if f.slotState n.toNat = .running then .stall
      else
        let base := windowBase root
        let w (k i : Nat) : Word := lane (s.v s.cur f (v.toNat + k)) i
        let lanes := (lanesOf f.active).map fun i =>
          let ray := (List.range 6).map fun k => w k i
          let bad := rayInvalid ray (w 6 i) (w 7 i) || field (w 8 i) 11 21 != 0
          (i, RayLane.start ray (w 6 i) (w 7 i) (field (w 8 i) 0 8) (field (w 8 i) 8 3) none (nodeOf base root 0) bad)
        startQuery s f n.toNat (f.s a.toNat) ⟨n.toNat, false, base, 0, dst, lanes⟩

/-- CQUERY (R370). -/
def execCquery (a : BitVec 6) (n : BitVec 2) (v : BitVec 7) (s : State) : Out :=
  runFibre s fun f =>
    let dst := (regRun v.toNat 7).map (resV (fidOf s.cur) f.wdesc)
    guardBusy s (resS s.cur [a.toNat] ++ resVs s.cur f (regRun v.toNat 7)) <|
      let recs := f.s a.toNat
      if f.active = 0 then .done s
      else if recs.toNat % 64 ≠ 0 then .trap (illTrap 6)
      else if f.slotState n.toNat = .running then .stall
      else
        let x := Config.coneRoot recs.toNat s.draws
        let root := x % 2 ^ 57 / 64 * 64 + 1 + x / 2 ^ 57 % 2
        let base := windowBase root
        let lanes := (lanesOf f.active).map fun i =>
          (i, { RayLane.start [] 0 0 0 0 none (nodeOf base root 0) false with ready := false })
        startQuery (s.drew 1) f n.toNat recs ⟨n.toNat, true, base, recs, dst, lanes⟩

/-- RCOMMIT and RRESUME: the active lanes at CAND move, and a new stop follows (R371, R442). -/
def moveCands (s : State) (n : Nat) (move : RayLane → RayLane) : Out :=
  runFibre s fun f =>
    if f.slotState n ≠ .stopped then .trap (illTrap 6)
    else if f.active = 0 then .done s
    else match (Sparse.find f.query n).bind fun x => (s.rayOp x.op).map fun y => (x.op, y) with
      | none => .done s
      | some (id, o, q) =>
        if s.busy s.cur q.dst ∨ f.ctrFull ctrRY = true then .stall
        else
          let lanes := q.lanes.map fun e =>
            if bitOf f.active e.1 && e.2.outcome == some outCAND then (e.1, move e.2) else e
          let q1 := { q with lanes := lanes }
          let s1 := (s.modOp id fun o => { o with
            ctr := some ctrRY, body := .ray q1, iword := s.iword, mode := f.mode, pc := f.pc, cede := f.cede
            lmask := f.active }).modFibre s.cur fun f =>
              { f.raiseCtr ctrRY with query := Sparse.put f.query n ⟨.running, id⟩ }
          .done ((s1.addPend s.cur id q.dst).stopQuery id o q1)

/-- RCOMMIT. -/
def execRcommit (n : BitVec 2) (s : State) : Out :=
  moveCands s n.toNat fun l =>
    match l.cand with
    | some h =>
      { l with
        hit := some h, tmax := h.t, cand := none
        outcome := if l.term then some outHIT else none }
    | none => l

/-- RRESUME. -/
def execRresume (n : BitVec 2) (s : State) : Out :=
  moveCands s n.toNat fun l => { l with cand := none, outcome := none }

/-- The state codes of R367. -/
def QueryState.code : QueryState → Nat
  | .idle => 0
  | .running => 1
  | .stopped => 2
  | .done => 3

/-- RSTAT (R372). -/
def execRstat (a : BitVec 6) (n : BitVec 2) (s : State) : Out :=
  scalarOp s [a.toNat] fun f =>
    if f.active = 0 then .done s
    else
      let cands := match (Sparse.find f.query n.toNat).bind fun x => s.rayOp x.op with
        | some (_, q) =>
          if f.slotState n.toNat = .stopped then
            q.lanes.filterMap fun e => if e.2.outcome = some outCAND then some e.1 else none
          else []
        | none => []
      .done (s.putS a.toNat (BitVec.ofNat 64
        ((f.slotState n.toNat).code + (maskOf cands &&& f.active).toNat * 2 ^ 32)))

/-! ### Beams (R374 to R379, R437) -/

def bmVec (q : List Byte) (o : Nat) : List Word := (List.range 3).map fun i => BitVec.ofNat 32 (bmF q (o + 4 * i) 4)
def bmNu (q : List Byte) : Nat := bmF q 48 1 % 8 + 1
def bmNv (q : List Byte) : Nat := bmF q 48 1 / 8 % 8 + 1
def bmCullb (q : List Byte) : Bool := bmF q 49 1 / 2 % 2 == 1
def bmMask (q : List Byte) : Nat := bmF q 50 1
def bmTmin (q : List Byte) : Word := BitVec.ofNat 32 (bmF q 52 4)
def bmTmax (q : List Byte) : Word := BitVec.ofNat 32 (bmF q 56 4)
def bmHitbuf (q : List Byte) : Nat := bmF q 72 8
def bmCount (q : List Byte) : Nat := bmF q 80 8
def bmEntry (q : List Byte) : Nat := bmF q 88 8
def bmRays (q : List Byte) : Nat := bmNu q * bmNv q

/-- A beam query record is refused (R374). -/
def beamBad (v : Nat) : Bool :=
  let q := leBytes 128 v
  bmF q 48 1 / 64 != 0 || bmF q 49 1 &&& 0xFD != 0 || bmF q 51 1 != 0 || bmF q 60 4 != 0 || bmF q 96 32 != 0 ||
    ptrBad (bmRoot q) || (ptrKind (bmRoot q) != 1 && ptrKind (bmRoot q) != 2) ||
    bmHitbuf q % 16 != 0 || bmCount q % 8 != 0 || bmEntry q % 4 != 0

/-- The direction of ray `j`: exact, rounded once (R374). -/
def beamDir (q : List Byte) (j : Nat) : List Word :=
  let col := Val.ofInt (j % bmNu q : Nat)
  let row := Val.ofInt (j / bmNu q : Nat)
  (List.range 3).map fun i =>
    let at0 (o : Nat) : Val := f32Val ((bmVec q o).getD i 0)
    let add (a b : Val) : Val := (Val.add Rctx.plain a b).1
    toF32 .rne (add (at0 12) (add (Val.mul col (at0 24)).1 (Val.mul row (at0 36)).1))

/-- The corner rays. -/
def beamCorners (q : List Byte) : List Nat :=
  [0, bmNu q - 1, (bmNv q - 1) * bmNu q, bmRays q - 1]

/-- A beam is invalid (R374). -/
def beamInvalid (q : List Byte) : Bool :=
  let tmin := bmTmin q
  let tmax := bmTmax q
  !((bmVec q 0 ++ bmVec q 12 ++ bmVec q 24 ++ bmVec q 36).all f32Finite) || !f32Finite tmin || f32NaN tmax ||
    !((f32Val tmin).le (f32Val tmax)) || (bitOf tmin 31 && field tmin 0 31 != 0) ||
    (beamCorners q).any fun j => zeroDir (beamDir q j) || !((beamDir q j).all f32Finite)

/-- The current closest t of a ray. -/
def BeamOp.closest (b : BeamOp) (q : List Byte) (j : Nat) : Word :=
  match Sparse.find b.best j with
  | some h => h.t
  | none => bmTmax q

/-- The largest current closest t among the rays. -/
def BeamOp.farthest (b : BeamOp) (q : List Byte) : Val :=
  (List.range (bmRays q)).foldl (fun acc j => Val.max acc (f32Val (b.closest q j))) (f32Val (bmTmin q))

/-- The interval of the grid's directions on an axis. -/
def beamSpan (q : List Byte) (a : Nat) : Int × Int :=
  let xs := (beamCorners q).map fun j => fx ((beamDir q j).getD a 0)
  (xs.foldl min (xs.headD 0), xs.foldl max (xs.headD 0))

/-- Entry and exit of an axis for an interval of directions and t ≥ 0, outward. -/
def spanAxis (o dlo dhi lo hi : Int) : Option (Val × Val) :=
  let down (n d : Int) : Val := f32Val (toF32 .rdn (ratio n d))
  let up (n d : Int) : Val := f32Val (toF32 .rup (ratio n d))
  if 0 < dlo then
    some (Val.min (down (lo - o) dlo) (down (lo - o) dhi), Val.max (up (hi - o) dlo) (up (hi - o) dhi))
  else if dhi < 0 then
    some (Val.min (down (hi - o) dlo) (down (hi - o) dhi), Val.max (up (lo - o) dlo) (up (lo - o) dhi))
  else if lo ≤ o ∧ o ≤ hi then some (.inf true, .inf false)
  else if o < lo then (if 0 < dhi then some (down (lo - o) dhi, .inf false) else none)
  else if dlo < 0 then some (down (hi - o) dlo, .inf false)
  else none

/-- The grid's directions miss a child (R375). -/
def beamNone (b : BeamOp) (q : List Byte) (v c : Nat) : Bool :=
  match meetSlabs ((List.range 3).map fun a =>
      let (lo, hi) := childBounds v c a
      let (dlo, dhi) := beamSpan q a
      spanAxis (fx ((bmVec q 0).getD a 0)) dlo dhi lo hi) with
  | some (x, y) => !((Val.max x (f32Val (bmTmin q))).le (Val.min y (b.farthest q)))
  | none => true

/-- Every corner ray hits a child under the inward test (R375). -/
def beamAll (q : List Byte) (v c : Nat) : Bool :=
  (beamCorners q).all fun j =>
    match childSlab true (bmVec q 0) (beamDir q j) v c with
    | some (x, y) => (Val.max x (f32Val (bmTmin q))).le (Val.min y (f32Val (bmTmax q)))
    | none => false

/-- The operation of a beam. -/
def State.beamOp (s : State) (id : Nat) : Option (Op × BeamOp) :=
  match Sparse.find s.eng.ops id with
  | some o =>
    match o.body with
    | .beam b => some (o, b)
    | _ => none
  | none => none

/-- Changes a beam. -/
def State.setBeam (s : State) (id : Nat) (b : BeamOp) : State :=
  s.modOp id fun o =>
    match o.body with
    | .beam _ => { o with body := .beam b }
    | _ => o

/-- The values of a ray's hit for the two doublewords of its entry (R378). -/
def hitWords (h : Hit) : Nat × Nat :=
  (h.t.toNat * 2 ^ 32 + h.prim.toNat,
    h.t.toNat * 2 ^ 32 + (if h.inst = BitVec.allOnes 32 then 0xFFFFFF else h.inst.toNat % 2 ^ 24))

/-- A value to be combined at an offset of the hit buffer: one that is still owed there keeps the lower (R378). -/
def owe (l : List (Nat × Nat)) (off x : Nat) : List (Nat × Nat) :=
  match l.find? fun e => e.1 == off with
  | some e => (l.filter fun e => e.1 != off) ++ [(off, min e.2 x)]
  | none => l ++ [(off, x)]

/-- A hit of a ray: the closest of them bounds the ray, and each is combined into the hit buffer (R378). -/
def BeamOp.hitRay (b : BeamOp) (j : Nat) (h : Hit) : BeamOp :=
  let (x, y) := hitWords h
  let closer := match Sparse.find b.best j with
    | some old => decide (h.t.toNat < old.t.toNat)
    | none => true
  { b with
    best := if closer then Sparse.put b.best j h else b.best
    comb := owe (owe b.comb (16 * j) x) (16 * j + 8) y }

/-- Every ray of the grid is tested against a leaf, with every triangle opaque (R375). -/
def beamLeaf (q : List Byte) (v : Nat) (b : BeamOp) : BeamOp :=
  (List.range (bmRays q)).foldl (fun acc j =>
    [0, 1].foldl (fun acc k =>
      if !leafHas v k then acc
      else match leafHit (bmVec q 0) (beamDir q j) (bmTmin q) (acc.closest q j) (bmCullb q) v k
          (BitVec.allOnes 32) with
        | some h => acc.hitRay j h
        | none => acc) acc) b

/-- Children of a node in the rank order of ray 0, those that it misses behind (R375; DESIGN CHOICE for these, log 96). -/
def beamOrder (q : List Byte) (v : Nat) (p : Nat → Bool) : List Nat :=
  let ranks := (rankKids (bmVec q 0) (beamDir q 0) (f32Val (bmTmin q)) v).map fun k => k.1
  (ranks.filter p) ++ (List.range 8).filter fun c => p c && !ranks.contains c

/-- The leaf children of a node are read and tested, in rank order; a none child and a bad one add nothing. `at0` is the
rank of the next, and those behind the beam are passed over. -/
def beamLeaves (s : State) (o : Op) (q : List Byte) (base level v : Nat) (live : Nat → Bool) (b : BeamOp) :
    Nat → List Nat → Option Trouble × BeamOp × State
  | _, [] => (none, b, s)
  | at0, c :: rest =>
    let n := nodeOf base (boxChild v c) (level + 1)
    if at0 < b.lpos ∨ live c = false ∨ n.kind = 0 then beamLeaves s o q base level v live b (at0 + 1) rest
    else match readNode s o (n.addr base) 64 with
      | (.error t, s1) => (some t, b, s1)
      | (.ok x, s1) =>
        let b1 := { (if leafBad x then b else beamLeaf q x b) with lpos := at0 + 1 }
        beamLeaves s1 o q base level v live b1 (at0 + 1) rest

/-- The beam's own stack (R375). -/
def beamStack : Nat := 64

/-- Children are pushed, the first of them on top, with their ranks; entries that a full stack drops from its bottom wait
for a restart (R366, R375). Nothing deeper is pending. -/
def BeamOp.push (b : BeamOp) (level : Nat) (kids : List (Nat × NodeRef)) : BeamOp :=
  let l := kids.map (·.2) ++ b.stack
  { b with
    stack := l.take beamStack, drop := b.drop || decide (beamStack < l.length)
    pend := (List.range 16).map fun i =>
      if i < level then b.pend.getD i [] else if i = level then kids.map (·.1) else [] }

/-- The deepest level with a pending child (R366). -/
def BeamOp.deepest (b : BeamOp) : Option Nat := (List.range 16).reverse.find? fun i => b.pend.getD i [] != []

/-- The beam goes on with the next entry of its stack, or restarts from its root for those that it has dropped (R366). -/
def BeamOp.next (b : BeamOp) (root : NodeRef) : BeamOp :=
  match b.stack with
  | n :: rest =>
    let k := (b.deepest).getD n.level
    let l := b.pend.getD k []
    { b with
      cur := some n, stack := rest, lpos := 0, pend := b.pend.set k (l.drop 1), follow := b.follow.set k (l.headD 0) }
  | [] =>
    match (if b.drop then b.deepest else none) with
    | some p => { b with drop := false, restart := some p, cur := some root, lpos := 0 }
    | none => { b with cur := none }

/-- The restart's visit of a node: its pending children are those ranked above the one on the path that are not none now;
it goes on with the one on the path (R366, R379). -/
def BeamOp.retrace (b : BeamOp) (level p : Nat) (live : Nat → Bool) (kids : List (Nat × Nat × NodeRef)) : BeamOp :=
  let r := b.follow.getD (level + 1) 0
  let b1 := b.push (level + 1) ((kids.filter fun k => decide (r < k.1) && live k.2.1).map fun k => (k.1, k.2.2))
  match (if p ≤ level + 1 then none else kids[r]?) with
  | some k => { b1 with cur := some k.2.2 }
  | none => { b1 with restart := none, cur := none }

/-- The beam visits a box node: leaves, then its splits, then its all children by the ranks of ray 0
(R375, R437). -/
def beamBox (s : State) (o : Op) (q : List Byte) (base : Nat) (n : NodeRef) (v : Nat) (b : BeamOp) :
    Option Trouble × BeamOp × State :=
  let kind (k c : Nat) : Bool := ptrKind (boxChild v c) == k
  let live (c : Nat) : Bool := !beamNone b q v c
  let all (c : Nat) : Bool := kind 1 c && beamAll q v c
  let order := beamOrder q v all
  let kids := (List.range order.length).map fun r =>
    (r, order.getD r 0, nodeOf base (boxChild v (order.getD r 0)) (n.level + 1))
  match b.restart with
  | some p => (none, b.retrace n.level p live kids, s)
  | none =>
    match beamLeaves s o q base n.level v live b 0 (beamOrder q v (kind 3)) with
    | (some t, b1, s1) => (some t, b1, s1)
    | (none, b1, s1) =>
      let split := (List.range 8).filter fun c => live c && (kind 2 c || (kind 1 c && !all c))
      let down := (kids.filter fun k => live k.2.1 && decide (n.level < 15)).map fun k => (k.1, k.2.2)
      (none, { b1.push (n.level + 1) down with
        splits := split.map fun c => (n.idx, BitVec.ofNat 64 (boxChild v c)), cur := none }, s1)

/-- The split record of a ray (R376). -/
def splitRecord (q : List Byte) (b : BeamOp) (node : Nat) (child : Dword) (j : Nat) : ContRec :=
  let words := (bmVec q 0 ++ beamDir q j ++ [bmTmin q, b.closest q j]).flatMap fun w => leBytes 4 w.toNat
  let v8 := bmMask q + (if bmCullb q then 2 ^ 9 else 0) + j * 2 ^ 16
  ⟨leBytes 8 (bmEntry q % 2 ^ 48) ++ leBytes 4 node ++ leBytes 4 0 ++ words ++ leBytes 4 v8
    ++ leBytes 8 child.toNat ++ leBytes 4 0, .nothing⟩

/-- A lane by which the engine traverses a split's subtree itself (R377), not yet on its way. -/
def splitLane (q : List Byte) (b : BeamOp) (child : Dword) (j : Nat) : RayLane :=
  let ray := bmVec q 0 ++ beamDir q j
  let t := b.closest q j
  { RayLane.start ray (bmTmin q) t (bmMask q) (4 + if bmCullb q then 2 else 0) none
    (nodeOf (windowBase (bmRoot q)) child.toNat 0) false with ready := false }

/-- It sets out, bounded by what is then its ray's closest t. -/
def RayLane.setOut (l : RayLane) (t : Word) : RayLane :=
  { l with
    tmax0 := t, tmax := t, ready := true, outcome := if rayInvalid l.world l.tmin t then some outINVALID else none }

/-- A split: the COUNT addition and one record per ray, or the spill (R376, R377). A refused addition still
emits. -/
def beamSplit (s : State) (id : Nat) (o : Op) (q : List Byte) (b : BeamOp) (node : Nat) (child : Dword)
    (rest : List (Nat × Dword)) : Option (AKind × Trouble) × State :=
  let n := bmRays q
  let core := o.who.core
  let b1 := { b with splits := rest }
  if 64 < b.emitted + n ∨ tellerSize < s.tellerHolds core + s.tellerComing core + n then
    let lanes := (List.range n).map fun j => (j, splitLane q b child j)
    (none, s.setBeam id { b1 with spill := true, subs := b.subs ++ lanes })
  else match (Req.atom (BitVec.ofNat 64 (bmCount q)) 0 8 b.scope n).perform s o with
    | (.trouble t, s1) => (some (.atomic, t), s1)
    | (.done _ _, s1) =>
      let rgn := match s1.fibre o.loc with
        | some f => f.region
        | none => 0
      let s2 := s1.emitEach core rgn ((List.range n).map (splitRecord q b node child))
      (none, s2.setBeam id { b1 with emitted := b.emitted + n })

/-- The beam is over: its status, and RY falls (R379). -/
def State.endBeam (s : State) (id : Nat) (o : Op) (b : BeamOp) : State :=
  let x := b.emitted + (if b.spill then 256 else 0) + (if b.invalid then 512 else 0)
  (s.putRes o.loc b.res [(0, x)]).endOp id

/-- The record of a beam. -/
def beamRecord (s : State) (id : Nat) (o : Op) (b : BeamOp) : Option (AKind × Trouble) × State :=
  match (Req.record b.addr 128 beamBad).perform s o with
  | (.trouble t, s1) => (some (.read, t), s1)
  | (.done r _, s1) =>
    if r.headD 0 = 0 then (none, s1.endBeam id o { b with invalid := true })
    else
      let q := leBytes 128 (r.headD 0)
      if beamInvalid q then (none, s1.endBeam id o { b with invalid := true })
      else
        let root := nodeOf (windowBase (bmRoot q)) (bmRoot q) 0
        if root.kind = 2 then
          (none, s1.setBeam id { b with query := some q, splits := [(root.idx, BitVec.ofNat 64 (bmRoot q))] })
        else (none, s1.setBeam id { b with query := some q, cur := some root })

/-- A ray that the engine traverses itself takes its next step (R377). -/
def beamSub (s : State) (id : Nat) (o : Op) (q : List Byte) (b : BeamOp) (j : Nat) (l : RayLane)
    (rest : List (Nat × RayLane)) : Option (AKind × Trouble) × State :=
  if l.outcome.isSome then
    let b1 := { b with subs := rest }
    (none, s.setBeam id (match l.hit with
      | some h => b1.hitRay j h
      | none => b1))
  else
    let l0 := if l.ready then l else l.setOut (b.closest q j)
    let (t, l1, s1) := visitLane s o (windowBase (bmRoot q)) l0
    (t.map fun t => (.read, t), s1.setBeam id { b with subs := (j, l1) :: rest })

/-- One step of a beam: its record, an owed combining atomic, a split, a spilled ray, a node, or its end
(R375 to R379, R437). A node or a leaf whose read is refused under the error response is skipped, as a bad one is
(DESIGN CHOICE, log 89). -/
def stepBeam (s : State) (id : Nat) (o : Op) (b : BeamOp) : Option (AKind × Trouble) × State :=
  match b.query with
  | none => beamRecord s id o b
  | some q =>
    match b.comb, b.splits, b.subs, b.cur with
    | (off, x) :: rest, _, _, _ =>
      (match (Req.atom (BitVec.ofNat 64 (bmHitbuf q + off)) 4 8 b.scope x).perform s o with
      | (.trouble t, s1) => (some (.atomic, t), s1)
      | (.done _ _, s1) => (none, s1.setBeam id { b with comb := rest }))
    | [], (n, c) :: rest, _, _ => beamSplit s id o q b n c rest
    | [], [], (j, l) :: rest, _ => beamSub s id o q b j l rest
    | [], [], [], none =>
      let b1 := b.next (nodeOf (windowBase (bmRoot q)) (bmRoot q) 0)
      if b1.cur.isNone then (none, s.endBeam id o b) else (none, s.setBeam id b1)
    | [], [], [], some n =>
      let skip : BeamOp := { b.push (n.level + 1) [] with restart := none, cur := none }
      if 16 ≤ n.level ∨ n.kind ≠ 1 then (none, s.setBeam id skip)
      else
        let base := windowBase (bmRoot q)
        match readNode s o (n.addr base) 128 with
        | (.error t, s1) => (some (.read, t), s1)
        | (.ok v, s1) =>
          if boxBad v then (none, s1.setBeam id skip)
          else
            let (t, b1, s2) := beamBox s1 o q base n v b
            (t.map fun t => (.read, t), s2.setBeam id b1)

/-- BQUERY (R374, R379): class 2 leave at a fibre's first and at every 16th (R236). -/
def execBquery (a b : BitVec 6) (s : State) : Out :=
  runFibre s fun f =>
    guardBusy s (resS s.cur [a.toNat, b.toNat]) <|
      if (f.s a.toNat).toNat % 64 ≠ 0 then .trap (illTrap 6)
      else if f.ctrFull ctrRY then .stall
      else
        let go (credit : Nat) (s : State) : Act :=
          let res := Res.s (fidOf s.cur) b.toNat
          let body : BeamOp :=
            { addr := f.s a.toNat, query := none, res := res, scope := modeSC f.mode, stack := [], cur := none
              lpos := 0, splits := [], pend := [], follow := List.replicate 16 0, drop := false, restart := none
              best := [], emitted := 0, spill := false, invalid := false
              subs := [], comb := [] }
          let (id, s1) := s.newOp f 3 f.active (f.s a.toNat) 0 (some ctrRY) (.beam body)
          .done ((s1.addPend s.cur id [res]).modFibre s.cur fun f => { f with beamCredit := credit })
        if f.beamCredit = 0 then needLeave s f 64 fun _ s1 => go 15 s1 else go (f.beamCredit - 1) s

/-- A beam parks its fibre: its record holds the top 8 entries of its stack, and a restart recovers the others (R379). -/
def State.parkBeam (s : State) (id : Nat) (b : BeamOp) (t : AKind × Trouble) : State :=
  let b1 := { b with stack := b.stack.take 8, drop := b.drop || decide (8 < b.stack.length) }
  (if t.2.kind = 0 then s else s.setBeam id b1).parkOp id false [t]

/-- NODE_VISIT: a lane of a query, or a beam, takes its next step (R365). -/
def execNodeVisit (id lane : Nat) (s : State) : Out :=
  if s.recorded id then .next s
  else match Sparse.find s.eng.ops id with
    | none => .next s
    | some o =>
      match o.body with
      | .ray q => .next (stepQuery s id lane o q)
      | .beam b =>
        (match stepBeam s id o b with
        | (none, s1) => .next s1
        | (some t, s1) =>
          .next (match s1.beamOp id with
            | some (_, b1) => s1.parkBeam id b1 t
            | none => s1))
      | _ => .next s

end Sys2Proof.Machine
end

