-- ==== Sys2Proof/Machine/Texture.lean ====
section
/-! DEFINITION. The sampler (R380 to R383): texture descriptors, levels, filters and the TEX
instructions. A lane's texels are read in the event that completes the instruction. -/

namespace Sys2Proof.Machine

/-! ### Descriptors (R380) -/

def txBase (v : Nat) : Nat := ndF v 0 8
def txLevels (v : Nat) : Nat := ndF v 12 1
def txCh (v : Nat) : Nat := ndF v 14 1
def txFilt (v : Nat) : Nat := ndF v 15 1
def txBorder (v : Nat) : Word := BitVec.ofNat 32 (ndF v 20 4)
def txBias (v : Nat) : Word := BitVec.ofNat 32 (ndF v 24 4)

/-- The format of texels; only six are allowed. -/
def txFmt (v : Nat) : Option Fmt :=
  match Fmt.ofCode (ndF v 13 1) with
  | some (.f32, false) => some .f32
  | some (.f16, false) => some .f16
  | some (.b16, false) => some .b16
  | some (.n8, false) => some .n8
  | some (.s8, false) => some .s8
  | some (.n16, false) => some .n16
  | _ => none

/-- The descriptor is refused. -/
def txBad (v : Nat) : Bool :=
  txBase v % 64 != 0 || txLevels v == 0 || 17 < txLevels v || (txFmt v).isNone ||
    !([1, 2, 4].contains (txCh v)) || 8 ≤ txFilt v || 16 ≤ ndF v 16 1 || ndF v 17 3 != 0 || ndF v 28 36 != 0

/-- Width and height of a level. -/
def txW (v l : Nat) : Nat := max 1 ((ndF v 8 2 + 1) / 2 ^ l)
def txH (v l : Nat) : Nat := max 1 ((ndF v 10 2 + 1) / 2 ^ l)

/-- Bytes of a texel. -/
def txSize (v : Nat) : Nat := txCh v * (((txFmt v).getD .f32).width / 8)

/-- Bytes from one row of a level to the next. -/
def txPitch (v l : Nat) : Nat := (txW v l * txSize v + 63) / 64 * 64

/-- Where a level starts, from BASE. -/
def txStart (v : Nat) : Nat → Nat
  | 0 => 0
  | l + 1 => txStart v l + txPitch v l * txH v l

/-! ### F32 arithmetic, rounded once in RNE each -/

def fAdd (a b : Word) : Word := toF32 .rne (Val.add Rctx.plain (f32Val a) (f32Val b)).1
def fMul (a b : Word) : Word := toF32 .rne (Val.mul (f32Val a) (f32Val b)).1
def fDiv (a b : Word) : Word := toF32 .rne (Val.div (f32Val a) (f32Val b)).1
def fSqrt (a : Word) : Word := toF32 .rne (Val.sqrt (f32Val a)).1

/-- log2 as VLOG2 gives it: a value within the bound of R296. -/
def fLog2 (a : Word) (draw : Nat) : Word :=
  BitVec.ofNat 32 (Fun.log2.write .f32 f32 Rctx.plain (f32Val a)
    (Config.function Fun.log2.code a.toNat draw)).1

/-- The canonical NaN and 1.0. -/
def nan32 : Word := BitVec.ofNat 32 f32.canonicalNaN
def one32 : Word := 0x3F800000

/-- A fraction n / d as an F32. -/
def fFrac (n d : Nat) : Word := toF32 .rne (ratio n d)

/-- A channel of a texel as an F32 (R380, R382); a NaN is the canonical one. -/
def texelWord (t : Fmt) (x : Nat) : Word :=
  match t with
  | .n8 => fFrac x 255
  | .n16 => fFrac x 65535
  | .s8 => toF32 .rne (ratio (max (-127) (signedOf 8 x)) 127)
  | t =>
    (match t.float with
    | some ff => if (ff.read x).isNaN then nan32 else toF32 .rne (ff.read x)
    | none => 0)

/-! ### Texels (R382) -/

/-- An index under an address mode; none lies in the border. -/
def txIndex (mode : Nat) (w : Nat) (i : Int) : Option Nat :=
  match mode with
  | 0 => some (i % (w : Int)).toNat
  | 1 => some (clampInt 0 (w - 1) i).toNat
  | 2 =>
    let k := (i % (2 * w : Int)).toNat
    some (if k < w then k else 2 * w - 1 - k)
  | _ => if 0 ≤ i ∧ i < w then some i.toNat else none

/-- The four channels of a texel; none when its read was refused. -/
abbrev Texel := Option (List Word)

/-- The address of a texel of a level. -/
def texelAddr (v l i j : Nat) : Dword := BitVec.ofNat 64 (txBase v + txStart v l + j * txPitch v l + i * txSize v)

/-- The four channels of a texel from its own: an absent one is 0, and absent channel 3 is 1.0. -/
def fourWords (v : Nat) (ch : Nat → Word) : List Word :=
  (List.range 4).map fun c => if c < txCh v then ch c else if c = 3 then one32 else 0

/-- A texel from what its read answered. -/
def texelRead (v x : Nat) : Texel :=
  let t := (txFmt v).getD .f32
  if x / 2 ^ (8 * txSize v) = 0 then none
  else some (fourWords v fun c => texelWord t (x / 2 ^ (t.width * c) % 2 ^ t.width))

/-- The address of a texel by its coordinates, under ADDR; none in the border. -/
def texelOf (v l : Nat) (i j : Int) : Option Dword :=
  match txIndex (ndF v 16 1 % 4) (txW v l) i, txIndex (ndF v 16 1 / 4) (txH v l) j with
  | some x, some y => some (texelAddr v l x y)
  | _, _ => none

/-- The texels of a quad from what its one read answered, in order; none when one of them was refused. -/
def quadTexels (v x : Nat) : List (Option Dword) → Option (List (List Word))
  | [] => some []
  | none :: rest => (quadTexels v x rest).map fun l => fourWords v (fun _ => txBorder v) :: l
  | some _ :: rest =>
    let step := 2 ^ (8 * txSize v + 1)
    match texelRead v (x % step), quadTexels v (x / step) rest with
    | some t, some l => some (t :: l)
    | _, _ => none

/-- Texels of a level, read as one quad. -/
def texels (v l : Nat) (at0 : List (Int × Int)) : Prog (Option (List (List Word))) :=
  let spots := at0.map fun p => texelOf v l p.1 p.2
  (ask (.quad (spots.filterMap id) (txSize v))).bind fun x => .ret (quadTexels v x spots)

/-- One texel. -/
def texel (v l : Nat) (i j : Int) : Prog Texel := (texels v l [(i, j)]).bind fun t => .ret (t.bind List.head?)

/-- A weighted sum of texels, channel by channel: each product rounded, added in order. -/
def weigh (ws : List Word) (ts : List (List Word)) : List Word :=
  (List.range 4).map fun c =>
    let terms := (List.range ts.length).map fun k => fMul (ws.getD k 0) ((ts.getD k []).getD c 0)
    match terms with
    | [] => 0
    | x :: rest => rest.foldl fAdd x

/-- u × width − 0.5 exactly, in units of 2^-150. -/
def txCoord (u : Word) (w : Nat) : Int := 2 * fx u * w - (2 ^ 149 : Nat)

/-- Floor of a coordinate. -/
def txFloor (x : Int) : Int := x / (2 ^ 150 : Nat)

/-- The fraction of a coordinate cut to 1/256. -/
def txPart (x : Int) : Nat := (x % (2 ^ 150 : Nat)).toNat / 2 ^ 142

/-- The texels of the linear footprint, in the order of R382. -/
def footprint (x y : Int) : List (Int × Int) :=
  let i := txFloor x
  let j := txFloor y
  [(i, j), (i + 1, j), (i, j + 1), (i + 1, j + 1)]

/-- One level under a linear or a nearest filter. -/
def filterLevel (v l : Nat) (linear : Bool) (u w : Word) : Prog Texel :=
  let x := txCoord u (txW v l)
  let y := txCoord w (txH v l)
  if linear then
    let a := txPart x
    let b := txPart y
    let ws := [fFrac ((256 - a) * (256 - b)) 65536, fFrac (a * (256 - b)) 65536, fFrac ((256 - a) * b) 65536,
      fFrac (a * b) 65536]
    (texels v l (footprint x y)).bind fun t => .ret (t.map (weigh ws))
  else texel v l (txFloor (x + (2 ^ 149 : Nat))) (txFloor (y + (2 ^ 149 : Nat)))

/-- λ cut toward zero, in units of 1/256; an infinite λ is past every level. -/
def lodCut (w : Word) : Int :=
  match f32Val w with
  | .inf neg => if neg then -(2 ^ 40) else 2 ^ 40
  | _ => Int.tdiv (fx w) (2 ^ 141 : Nat)

/-- The filter that λ selects is linear: of magnification, or of minification. -/
def lodLinear (v : Nat) (lod : Int) : Bool := txFilt v / (if lod ≤ 0 then 1 else 2) % 2 == 1

/-- The levels that λ selects: one, or two to blend. -/
def lodLevels (v : Nat) (lod : Int) : List Nat :=
  let top := txLevels v - 1
  let l := (lod / 256).toNat
  if lod ≤ 0 then [0]
  else if txFilt v / 4 = 0 then [min top ((lod + 128) / 256).toNat]
  else if top ≤ l then [top]
  else [l, l + 1]

/-- Filtering at λ: at one level or between two. -/
def filterAt (v : Nat) (lod : Int) (u w : Word) : Prog Texel :=
  let level (l : Nat) : Prog Texel := filterLevel v l (lodLinear v lod) u w
  match lodLevels v lod with
  | [l, k] =>
    let part := (lod % 256).toNat
    (level l).bind fun a => (level k).bind fun b =>
      .ret (a.bind fun x => b.map fun y => weigh [fFrac (256 - part) 256, fFrac part 256] [x, y])
  | ls => level (ls.headD 0)

/-- The level of TEXG: the one level, or the lower-numbered of two. -/
def gatherLevel (v : Nat) (lod : Int) : Nat :=
  if lod ≤ 0 then 0
  else min (txLevels v - 1) (if txFilt v / 4 = 0 then (lod + 128) / 256 else lod / 256).toNat

/-- λ of a lane in F32 (R381). -/
def texLod (v form : Nat) (ins : List Word) (draw : Nat) : Word :=
  let x (k : Nat) : Word := ins.getD k 0
  let len (a b : Nat) : Word :=
    let p := fMul (x a) (fFrac (txW v 0) 1)
    let q := fMul (x b) (fFrac (txH v 0) 1)
    fSqrt (fAdd (fMul p p) (fMul q q))
  match form with
  | 1 =>
    let a := len 2 3
    let b := len 4 5
    let m := if f32NaN a || f32NaN b then nan32 else if (f32Val a).le (f32Val b) then b else a
    fAdd (fLog2 m draw) (txBias v)
  | 2 => fAdd (fLog2 (fDiv (fMul (x 2) (x 4)) (x 3)) draw) (txBias v)
  | _ => fAdd (x 2) (txBias v)

/-- The four result words of a lane (R382). -/
def laneProg (v form chan : Nat) (ins : List Word) (draw : Nat) : Prog (List Word) :=
  let zeros : List Word := [0, 0, 0, 0]
  let words (t : Texel) : List Word := t.getD zeros
  let u := ins.getD 0 0
  let w := ins.getD 1 0
  if form = 3 then
    let l := (ins.getD 2 0).toNat
    if txLevels v ≤ l ∨ txW v l ≤ u.toNat ∨ txH v l ≤ w.toNat then .ret zeros
    else (texel v l u.toNat w.toNat).bind fun t => .ret (words t)
  else
    let lod := texLod v form ins draw
    if !f32Finite u || !f32Finite w || f32NaN lod then .ret [nan32, nan32, nan32, nan32]
    else if form = 4 then
      let l := gatherLevel v (lodCut lod)
      (texels v l (footprint (txCoord u (txW v l)) (txCoord w (txH v l)))).bind fun t =>
        .ret (match t with
          | some ts => ts.map fun x => x.getD chan 0
          | none => zeros)
    else (filterAt v (lodCut lod) u w).bind fun t => .ret (words t)

/-- Where a lane stands behind `n` quads: the level, and the texel at which the quad begins (R171). -/
def laneReached (v form : Nat) (ins : List Word) (draw n : Nat) : List Nat :=
  let lod := lodCut (texLod v form ins draw)
  let at0 (l : Nat) (half : Nat) : List Nat :=
    let part (x : Int) : Nat := (txFloor (x + half) % (2 ^ 32 : Int)).toNat
    [l, part (txCoord (ins.getD 0 0) (txW v l)), part (txCoord (ins.getD 1 0) (txH v l))]
  match form with
  | 3 => [(ins.getD 2 0).toNat, (ins.getD 0 0).toNat, (ins.getD 1 0).toNat]
  | 4 => at0 (gatherLevel v lod) 0
  | _ => at0 ((lodLevels v lod).getD n 0) (if lodLinear v lod then 0 else 2 ^ 149)

/-! ### The instructions (R381, R383) -/

/-- Runs the lanes of a texture instruction in order; answers what they met. -/
def texLanes (s : State) (id : Nat) (t : TexOp) (v : Nat) : List Nat → List (AKind × Trouble) × State
  | [] => ([], s)
  | i :: rest =>
    let done := match Sparse.find s.eng.ops id with
      | some o => (Sparse.find o.results i).isSome
      | none => true
    if done then texLanes s id t v rest
    else
      let p := if v = 0 then Prog.ret [0, 0, 0, 0] else laneProg v t.form t.chan (t.ins.getD i []) (t.draw + i)
      match runThread s id i p with
      | (.done ws, s1) =>
        texLanes (s1.modOp id fun o =>
          { o with
            results := Sparse.put o.results i (ws.map fun w => w.toNat)
            ldone := o.ldone ||| BitVec.ofNat 32 (2 ^ i) }) id t v rest
      | (.stop k tr, s1) => let (ts, s2) := texLanes s1 id t v rest; ((k, tr) :: ts, s2)

/-- Writes the result words of all lanes; TX falls. -/
def State.finishTex (s : State) (id : Nat) (t : TexOp) : State :=
  match Sparse.find s.eng.ops id with
  | none => s
  | some o =>
    ((List.range 4).foldl (fun acc k =>
      match t.dst[k]? with
      | some r => acc.putRes o.loc r (o.results.map fun e => (e.1, e.2.getD k 0))
      | none => acc) s).endOp id

/-- Where a texture instruction stands: its lowest lane that is not done, its level and its quad. -/
def State.texReached (s : State) (id : Nat) (t : TexOp) (v : Nat) : List Nat :=
  match Sparse.find s.eng.ops id with
  | some o =>
    let i := o.firstLane
    i :: laneReached v t.form (t.ins.getD i []) (t.draw + i) (Sparse.get [] o.logs i).length
  | none => []

/-- Runs a texture instruction from where it stands: its descriptor, then its lanes. -/
def runTex (s : State) (id : Nat) (replay : Bool) : State :=
  match Sparse.find s.eng.ops id with
  | none => s
  | some o =>
    match o.body with
    | .tex t =>
      (match runThread s id 32 (ask (.sample t.desc 64 txBad)) with
      | (.stop k tr, s1) => s1.parkOp id replay [(k, tr)]
      | (.done v, s1) =>
        match texLanes s1 id t v (lanesOf o.lmask) with
        | ([], s2) => s2.finishTex id t
        | (ts, s2) => s2.parkAt id (s2.texReached id t v) replay ts)
    | _ => s

/-- SAMPLE_COMPLETE: a texture instruction reads its texels and completes, or parks its fibre (R383). -/
def execSampleComplete (id : Nat) (s : State) : Out :=
  if s.recorded id then .next s else .next (runTex s id false)

/-- A TEX instruction with `n` inputs (R381). -/
def texOp (a : BitVec 6) (x : BitVec 7) (form n chan : Nat) (s : State) : Out :=
  runFibre s fun f =>
    let dst := resVs s.cur f (regRun x.toNat 4)
    guardBusy s (resS s.cur [a.toNat] ++ resVs s.cur f (regRun x.toNat (max 4 n))) <|
      let desc := f.s a.toNat
      if f.active = 0 then .done s
      else if desc.toNat % 64 ≠ 0 then .trap (illTrap 6)
      else if f.ctrFull ctrTX then .stall
      else
        let ins := (List.range 32).map fun i => (regRun x.toNat n).map fun k => lane (s.v s.cur f k) i
        let body : TexOp := ⟨form, chan, desc, ins, dst, s.draws⟩
        let (id, s1) := (s.drew 32).newOp f 2 f.active desc 0 (some ctrTX) (.tex body)
        .done (s1.addPend s.cur id dst)

/-- TEXS. -/
def execTexs (a : BitVec 6) (x : BitVec 7) (s : State) : Out := texOp a x 0 3 0 s

/-- TEXD. -/
def execTexd (a : BitVec 6) (x : BitVec 7) (s : State) : Out := texOp a x 1 6 0 s

/-- TEXC. -/
def execTexc (a : BitVec 6) (x : BitVec 7) (s : State) : Out := texOp a x 2 5 0 s

/-- TEXL. -/
def execTexl (a : BitVec 6) (x : BitVec 7) (s : State) : Out := texOp a x 3 3 0 s

/-- TEXG. -/
def execTexg (a : BitVec 6) (c : BitVec 2) (x : BitVec 7) (s : State) : Out := texOp a x 4 3 c.toNat s

end Sys2Proof.Machine
end

