-- ==== Sys2Proof/Machine/Raster.lean ====
section
/-! DEFINITION. The rasteriser (R384 to R389): visibility descriptors, coverage, depth, hierarchical
depth, tests and frames. Raster updates are performed at their homes, where every core's updates of a
sample meet. -/

namespace Sys2Proof.Machine

/-! ### Descriptors (R384) -/

def rsW (v : Nat) : Nat := ndF v 24 2 + 1
def rsH (v : Nat) : Nat := ndF v 26 2 + 1
def rsSpp (v : Nat) : Nat := 2 ^ (ndF v 28 1 % 4)
def rsCullb (v : Nat) : Bool := ndF v 29 1 % 2 == 1
def rsEvent (v : Nat) : Dword := BitVec.ofNat 64 (ndF v 32 8)
def rsEntry (v : Nat) : Nat := ndF v 40 8
def rsClearz (v : Nat) : Word := BitVec.ofNat 32 (ndF v 48 4)

/-- A depth lies in [0, 1]. -/
def depthOk (z : Word) : Bool :=
  !f32NaN z && (Val.zero).le (f32Val z) && (f32Val z).le (Val.ofInt 1)

/-- The descriptor is refused. -/
def rsBad (v : Nat) : Bool :=
  ndF v 0 8 % 8 != 0 || ndF v 8 8 % 4 != 0 || 3 ≤ ndF v 28 1 || 2 ≤ ndF v 29 1 || ndF v 30 2 != 0 ||
    ndF v 32 8 % 8 != 0 || 2 ^ 48 ≤ rsEntry v || !depthOk (rsClearz v) || ndF v 52 12 != 0

/-- Addresses of a sample's identifier and depth, and of a tile's hierarchical depth. -/
def rsIdAt (v i : Nat) : Dword := BitVec.ofNat 64 (ndF v 0 8 + 8 * i)
def rsZAt (v i : Nat) : Dword := BitVec.ofNat 64 (ndF v 8 8 + 4 * i)
def rsTilesX (v : Nat) : Nat := (rsW v + 7) / 8
def rsTilesY (v : Nat) : Nat := (rsH v + 7) / 8
def rsHzAt (v tx ty : Nat) : Dword := BitVec.ofNat 64 (ndF v 16 8 + 4 * (ty * rsTilesX v + tx))

/-- Sample positions within a pixel, in eighths. -/
def rsPos (spp : Nat) : List (Nat × Nat) :=
  match spp with
  | 1 => [(4, 4)]
  | 2 => [(2, 2), (6, 6)]
  | _ => [(3, 1), (7, 3), (1, 5), (5, 7)]

/-- A sample: pixel and number within it. -/
structure Samp where
  px : Nat
  py : Nat
  s : Nat
  deriving DecidableEq, Repr

/-- Index of a sample. -/
def Samp.index (v : Nat) (p : Samp) : Nat := (p.py * rsW v + p.px) * rsSpp v + p.s

/-- The samples of a tile, in order of index within each row. -/
def tileSamples (v tx ty : Nat) : List Samp :=
  (List.range 8).flatMap fun y => (List.range 8).flatMap fun x =>
    if ty * 8 + y < rsH v ∧ tx * 8 + x < rsW v then
      (List.range (rsSpp v)).map fun k => ⟨tx * 8 + x, ty * 8 + y, k⟩
    else []

/-! ### Coverage (R386) -/

/-- A vertex in units of 2^-149. -/
structure Vtx where
  x : Int
  y : Int
  z : Int
  deriving DecidableEq, Repr

/-- The edge function of a point for the edge from `a` to `b`. -/
def edgeFn (a b : Vtx) (x y : Int) : Int := (b.x - a.x) * (y - a.y) - (b.y - a.y) * (x - a.x)

/-- The edge is a top or a left edge of a triangle whose area is positive. -/
def topLeft (a b : Vtx) : Bool := (a.y == b.y && decide (a.x < b.x)) || decide (b.y < a.y)

/-- The signed area of R386. -/
def triArea (t : List Vtx) : Int :=
  match t with
  | [a, b, c] => edgeFn a b c.x c.y
  | _ => 0

/-- A covered sample with its depth, rounded and exact, and the weights of vertices 1 and 2. -/
structure Hitp where
  at0 : Samp
  z : Word
  exact : Val
  w1 : Word
  w2 : Word
  deriving DecidableEq, Repr

/-- The coverage of one sample. -/
def coverSample (v : Nat) (t : List Vtx) (p : Samp) : Option Hitp :=
  match t with
  | [a, b, c] =>
    let pos := (rsPos (rsSpp v)).getD p.s (4, 4)
    let x : Int := ((p.px * 8 + pos.1) * 2 ^ 146 : Nat)
    let y : Int := ((p.py * 8 + pos.2) * 2 ^ 146 : Nat)
    let e0 := edgeFn b c x y
    let e1 := edgeFn c a x y
    let e2 := edgeFn a b x y
    let area := triArea t
    let covers (e : Int) (p q : Vtx) : Bool :=
      if 0 < area then decide (0 < e) || (e == 0 && topLeft p q)
      else decide (e < 0) || (e == 0 && topLeft q p)
    if covers e0 b c && covers e1 c a && covers e2 a b then
      let z := ratio (a.z * e0 + b.z * e1 + c.z * e2) (area * (2 ^ 149 : Nat))
      let zr := toF32 .rne z
      if depthOk zr then some ⟨p, zr, z, toF32 .rne (ratio e1 area), toF32 .rne (ratio e2 area)⟩ else none
    else none
  | _ => none

/-- The triangle of a lane's nine words; none when it produces no sample. -/
def laneTri (v : Nat) (ins : List Word) : Option (List Vtx) :=
  let vs := (List.range 3).map fun i =>
    (⟨fx (ins.getD (3 * i) 0), fx (ins.getD (3 * i + 1) 0), fx (ins.getD (3 * i + 2) 0)⟩ : Vtx)
  if (ins.take 9).all f32Finite && triArea vs != 0 && !(rsCullb v && decide (triArea vs < 0)) then some vs
  else none

/-- The first and last tile that an extent of coordinates can touch, among `n`. -/
def tileSpan (n : Nat) (xs : List Int) : List Nat :=
  let lo := xs.foldl min (xs.headD 0) / (2 ^ 152 : Nat)
  let hi := xs.foldl max (xs.headD 0) / (2 ^ 152 : Nat)
  (List.range n).filter fun i => decide (lo ≤ (i : Int)) && decide ((i : Int) ≤ hi)

/-! ### Tiles (R386, R387) -/

/-- The depth of a sample, read at its home; none when the read was refused. -/
def readDepth (v : Nat) (p : Samp) : Prog (Option Nat) :=
  (ask (.home (rsZAt v (p.index v)) 4)).bind fun x => .ret (if x / 2 ^ 32 = 0 then none else some (x % 2 ^ 32))

/-- The hierarchical depth falls to the largest depth of the tile's samples: those in `known` as they were
read or written, the others read now. -/
def lowerHz (v tx ty : Nat) (known : List (Nat × Nat)) : Prog Unit :=
  (Prog.fold (fun (acc : Option Nat) p =>
    match known.find? fun k => k.1 = p.index v with
    | some k => .ret (acc.map fun m => max m k.2)
    | none => (readDepth v p).bind fun d => .ret (acc.bind fun m => d.map fun x => max m x))
    (some 0) (tileSamples v tx ty)).bind fun top =>
      match top with
      | some m => (ask (.atom (rsHzAt v tx ty) 4 4 4 m)).bind fun _ => .ret ()
      | none => .ret ()

/-- What a tile leaves: depths read or written, whether one was written, and samples to be tested. -/
structure TileRun where
  known : List (Nat × Nat)
  wrote : Bool
  tests : List Hitp

/-- One covered sample of a tile. -/
def tileStep (v prim : Nat) (tested : Bool) (r : TileRun) (h : Hitp) : Prog TileRun :=
  let i := h.at0.index v
  (readDepth v h.at0).bind fun d =>
    match d with
    | none => .ret r
    | some old =>
      if !below32 h.z.toNat old then .ret { r with known := (i, old) :: r.known }
      else if tested then .ret { r with known := (i, old) :: r.known, tests := r.tests ++ [h] }
      else (ask (.zwrite (rsZAt v i) (rsIdAt v i) h.z.toNat prim)).bind fun x =>
        if x = 0 then .ret r
        else .ret { r with known := (i, x % 2 ^ 32) :: r.known, wrote := r.wrote || decide (2 ^ 33 ≤ x) }

/-- One tile of a triangle; answers the samples to be tested. -/
def tileProg (v prim : Nat) (tested : Bool) (t : List Vtx) (tx ty : Nat) : Prog (List Hitp) :=
  match (tileSamples v tx ty).filterMap (coverSample v t) with
  | [] => .ret []
  | h :: rest =>
    let zmin := toF32 .rdn (rest.foldl (fun m x => Val.min m x.exact) h.exact)
    (ask (.home (rsHzAt v tx ty) 4)).bind fun hz =>
      if 2 ^ 32 ≤ hz ∧ f32NaN (BitVec.ofNat 32 hz) = false ∧ below32 zmin.toNat (hz % 2 ^ 32) = false then
        .ret []
      else
        (Prog.fold (tileStep v prim tested) ⟨[], false, []⟩ (h :: rest)).bind fun r =>
          if r.wrote then (lowerHz v tx ty r.known).bind fun _ => .ret r.tests else .ret r.tests

/-- The primitive identifier of a lane, and TESTED. -/
def lanePrim (ins : List Word) : Nat := (ins.getD 9 0).toNat + (ins.getD 10 0).toNat * 2 ^ 32
def laneTested (ins : List Word) : Bool := bitOf (ins.getD 11 0) 0

/-- The tiles that a triangle can touch, in order. -/
def triTiles (v : Nat) (t : List Vtx) : List (Nat × Nat) :=
  (tileSpan (rsTilesY v) (t.map fun p => p.y)).flatMap fun ty =>
    (tileSpan (rsTilesX v) (t.map fun p => p.x)).map fun tx => (tx, ty)

/-- The triangle of one lane (R386). -/
def triProg (v : Nat) (ins : List Word) : Prog (List Hitp) :=
  match laneTri v ins with
  | none => .ret []
  | some t =>
    Prog.fold (fun acc p => (tileProg v (lanePrim ins) (laneTested ins) t p.1 p.2).bind fun l => .ret (acc ++ l))
      [] (triTiles v t)

/-- The first of some covered samples that a tile's run has not passed behind the values of its accesses. -/
def sampReached (v prim : Nat) (tested : Bool) : List Hitp → TileRun → List LogVal → Option Samp
  | [], _, _ => none
  | h :: rest, r, l =>
    match (tileStep v prim tested r h).eat l with
    | some (r1, l1) => sampReached v prim tested rest r1 l1
    | none => some h.at0

/-- The first of some tiles that a lane's triangle has not passed, with the row and column of the sample within it: of
its first while the hierarchical depth is in hand (R171). -/
def tileReached (v : Nat) (ins : List Word) (t : List Vtx) : List (Nat × Nat) → List LogVal → List Nat
  | [], _ => []
  | p :: rest, l =>
    match (tileProg v (lanePrim ins) (laneTested ins) t p.1 p.2).eat l with
    | some (_, l1) => tileReached v ins t rest l1
    | none =>
      let at0 := sampReached v (lanePrim ins) (laneTested ins)
        ((tileSamples v p.1 p.2).filterMap (coverSample v t)) ⟨[], false, []⟩ (l.drop 1)
      [p.2 * rsTilesX v + p.1, at0.elim 0 fun x => x.py % 8, at0.elim 0 fun x => x.px % 8]

/-- Where a lane of a triangle stands behind the values that its accesses returned. -/
def triReached (v : Nat) (ins : List Word) (l : List LogVal) : List Nat :=
  match laneTri v ins with
  | some t => tileReached v ins t (triTiles v t) l
  | none => []

/-- Where an accepted test stands: at its sample. -/
def testReached (t : RTest) (l : List LogVal) : List Nat :=
  let v := l.headD 0
  let pix := t.sample / rsSpp v
  [pix / rsW v / 8 * rsTilesX v + pix % rsW v / 8, pix / rsW v % 8, pix % rsW v % 8]

/-- An accepted test (R388): the sample is written when its depth is still below the stored one. -/
def acceptProg (t : RTest) : Prog Unit :=
  (ask (.record t.desc 64 rsBad)).bind fun v =>
    let pix := t.sample / rsSpp v
    let p : Samp := ⟨pix % rsW v, pix / rsW v, t.sample % rsSpp v⟩
    if v = 0 ∨ rsH v ≤ p.py then .ret ()
    else (readDepth v p).bind fun d =>
      match d with
      | none => .ret ()
      | some old =>
        if !below32 t.z.toNat old then .ret ()
        else (ask (.zwrite (rsZAt v t.sample) (rsIdAt v t.sample) t.z.toNat t.prim.toNat)).bind fun x =>
          if x / 2 ^ 33 = 0 then .ret () else lowerHz v (p.px / 8) (p.py / 8) [(t.sample, x % 2 ^ 32)]

/-- A rejected test writes nothing. -/
def rejectProg (t : RTest) : Prog Unit := (ask (.record t.desc 64 rsBad)).bind fun _ => .ret ()

/-- RCLEAR (R389). -/
def clearProg (v : Nat) : Prog Unit :=
  let z := (rsClearz v).toNat
  (Prog.fold (fun _ i =>
    (ask (.putHome (rsIdAt v i) 8 (2 ^ 64 - 1))).bind fun _ =>
      (ask (.putHome (rsZAt v i) 4 z)).bind fun _ => .ret ()) ()
    (List.range (rsW v * rsH v * rsSpp v))).bind fun _ =>
      Prog.fold (fun _ k => (ask (.putHome (rsHzAt v (k % rsTilesX v) (k / rsTilesX v)) 4 z)).bind fun _ => .ret ())
        () (List.range (rsTilesX v * rsTilesY v))

/-! ### Running a raster instruction -/

/-- A test record (R388) with the test that it stands for. -/
def testRecord (v : Nat) (desc : Dword) (prim id : Nat) (h : Hitp) : ContRec :=
  let i := h.at0.index v
  ⟨leBytes 6 (rsEntry v) ++ leBytes 2 0 ++ leBytes 4 prim ++ leBytes 4 0 ++ leBytes 8 i ++ leBytes 4 h.z.toNat
    ++ leBytes 8 prim ++ leBytes 8 desc.toNat ++ leBytes 4 h.w1.toNat ++ leBytes 4 h.w2.toNat
    ++ leBytes 4 h.at0.px ++ leBytes 4 h.at0.py ++ leBytes 4 h.at0.s, .test id⟩

/-- How many test records a lane of an operation has emitted: kept beside the lanes' results. -/
def Op.emitted (o : Op) (lane : Nat) : Nat := (Sparse.get [] o.results (64 + lane)).headD 0

/-- Emits the test records of a lane (R386, R388). One that neither the teller nor the region's overflow ring has
room for stays in the unit's queue entry, with those behind it, until there is room (R207). One that would go to the ring,
and that the ring cannot take, is a trouble of the instruction; under the error response it is discarded (R32). -/
def State.emitTests (s : State) (id lane : Nat) (o : Op) (v : Nat) (desc : Dword) (prim : Nat) :
    List Hitp → Option (AKind × Trouble) × State
  | [] => (none, s)
  | h :: rest =>
    let rgn := match s.fibre o.loc with
      | some f => f.region
      | none => 0
    let passed (s : State) : State :=
      s.modOp id fun x => { x with results := Sparse.put x.results (64 + lane) [x.emitted lane + 1] }
    let trouble := if s.tellerHolds o.who.core + s.tellerComing o.who.core < tellerSize then none else s.ringTrouble rgn 1
    if !s.tellerRoom o.who.core rgn (rsEntry v) 1 then (some (.write, .wait), s)
    else match trouble with
    | some x =>
      if o.err && x.kind != 1 then (passed (s.loseRecord rgn)).emitTests id lane o v desc prim rest
      else (some (.write, x), s)
    | none =>
      let t : RTest := ⟨s.fresh, id, o.asid, desc, h.at0.index v, h.z, BitVec.ofNat 64 prim⟩
      let s1 : State := { s with co := { s.co with tests := s.co.tests ++ [t] }, fresh := s.fresh + 1 }
      let r := testRecord v desc prim s.fresh h
      (passed (s1.emitEach o.who.core rgn [⟨stampRegion r.bytes rgn, r.owed⟩])).emitTests id lane o v desc prim rest

/-- A lane of a raster instruction is done. -/
def State.laneDone (s : State) (id i : Nat) : State :=
  s.modOp id fun o =>
    { o with results := Sparse.put o.results i [], ldone := o.ldone ||| BitVec.ofNat 32 (2 ^ i) }

/-- Runs lanes in ascending order up to the first trouble (R386, R389). -/
def rastLanes (s : State) (id : Nat) (run : State → Nat → Option (AKind × Trouble) × State) :
    List Nat → Option (AKind × Trouble) × State
  | [] => (none, s)
  | i :: rest =>
    let done := match Sparse.find s.eng.ops id with
      | some o => (Sparse.find o.results i).isSome
      | none => true
    if done then rastLanes s id run rest
    else match run s i with
      | (none, s1) => rastLanes (s1.laneDone id i) id run rest
      | (t, s1) => (t, s1)

/-- One lane of a triangle instruction. -/
def triLane (id : Nat) (o : Op) (v : Nat) (desc : Dword) (ins : List (List Word)) (s : State) (i : Nat) :
    Option (AKind × Trouble) × State :=
  let words := ins.getD i []
  match runThread s id i (if v = 0 then .ret [] else triProg v words) with
  | (.done hs, s1) =>
    let gone := ((Sparse.find s1.eng.ops id).elim 0 fun x => x.emitted i)
    s1.emitTests id i o v desc (lanePrim words) (hs.drop gone)
  | (.stop k t, s1) => (some (k, t), s1)

/-- One lane of a test instruction. -/
def testLane (id : Nat) (accept : Bool) (tests : List (Nat × RTest)) (s : State) (i : Nat) :
    Option (AKind × Trouble) × State :=
  match tests.find? fun e => e.1 = i with
  | none => (none, s)
  | some (_, t) =>
    match runThread s id i (if accept then acceptProg t else rejectProg t) with
    | (.done _, s1) => (none, s1)
    | (.stop k t, s1) => (some (k, t), s1)

/-- Where a raster instruction stands: at its lowest lane that is not done (R171). -/
def rastReached (o : Op) (r : RastOp) : List Nat :=
  let i := o.firstLane
  let l := Sparse.get [] o.logs i
  match r with
  | .tri _ ins => triReached ((Sparse.get [] o.logs 32).headD 0) (ins.getD i []) l
  | .test _ ts => (ts.find? fun e => e.1 == i).elim [] fun e => testReached e.2 l
  | .clear _ => []

/-- A raster instruction parks its fibre. -/
def State.parkRast (s : State) (id : Nat) (replay : Bool) (t : AKind × Trouble) : State :=
  match Sparse.find s.eng.ops id with
  | some o =>
    (match o.body with
    | .rast r => s.parkAt id (rastReached o r) replay [t]
    | _ => s)
  | none => s

/-- Runs a raster instruction from where it stands. -/
def runRast (s : State) (id : Nat) (replay : Bool) : State :=
  match Sparse.find s.eng.ops id with
  | none => s
  | some o =>
    let finish (r : Option (AKind × Trouble) × State) : State :=
      match r with
      | (none, s1) => s1.endOp id
      | (some t, s1) => s1.parkRast id replay t
    match o.body with
    | .rast (.tri desc ins) =>
      (match runThread s id 32 (ask (.record desc 64 rsBad)) with
      | (.stop k t, s1) => s1.parkRast id replay (k, t)
      | (.done v, s1) => finish (rastLanes s1 id (triLane id o v desc ins) (lanesOf o.lmask)))
    | .rast (.test acc tests) => finish (rastLanes s id (testLane id acc tests) (lanesOf o.lmask))
    | .rast (.clear desc) =>
      (match runThread s id 32 ((ask (.record desc 64 rsBad)).bind fun v =>
          if v = 0 then .ret () else clearProg v) with
      | (.stop k t, s1) => s1.parkRast id replay (k, t)
      | (.done _, s1) => s1.endOp id)
    | _ => s

/-- RAST_COMPLETE: a raster instruction performs its updates and RS falls, or its fibre parks (R386). -/
def execRastComplete (id : Nat) (s : State) : Out :=
  if s.recorded id then .next s else .next (runRast s id false)

/-! ### Frames (R389, R156) -/

/-- An operation belongs to a frame of a descriptor. -/
def Op.rasters (o : Op) (asid : BitVec 16) (desc : Dword) : Bool :=
  o.asid == asid &&
    match o.body with
    | .rast (.tri d _) | .rast (.clear d) => d == desc
    | .rast (.test _ ts) => ts.any fun t => t.2.desc == desc
    | _ => false

/-- A test of a frame is decided late: undecided, or its RTEST has not completed. -/
def State.frameTests (s : State) (id : Nat) (asid : BitVec 16) (desc : Dword) : Bool :=
  let mine (t : RTest) : Bool := t.asid == asid && t.desc == desc && decide (t.src < id)
  s.co.tests.any mine || s.allOps.any fun e =>
    match e.2.body with
    | .rast (.test _ ts) => ts.any fun t => mine t.2
    | _ => false

/-- A release write of eight bytes that a unit makes for a core: the core's earlier writes are at their
homes, or marked, before it (R135, R142, R143). -/
def State.releaseWrite (s : State) (o : Op) (scope : Nat) (a : Dword) (val : Nat) : PartOut × State :=
  let core := o.who.core
  withSpots s o [] .write .global a 8 fun l s =>
    if scope ≤ 1 then ([], s.writeSpots core WMode.plain (leBytes 8 val) l)
    else if scope ≤ 3 then
      let e := Sparse.getN s.mem.epoch core
      let m := { s.mem.raiseCount core with epoch := Sparse.setN s.mem.epoch core (e + 1) }
      ([], { s with mem := m }.writeSpots core ⟨some e, false, false⟩ (leBytes 8 val) l)
    else
      let m := (s.mem.writeBackAll core).raiseCount core
      let s1 := { s with mem := m }.writeSpots core ⟨none, false, true⟩ (leBytes 8 val) l
      ([], { s1 with mem := s1.mem.writeBackAll core })

/-- Runs a frame's end: its descriptor is read, and the frame number is released to EVENT. -/
def runFrame (s : State) (id : Nat) (replay : Bool) : State :=
  match Sparse.find s.eng.ops id with
  | none => s
  | some o =>
    match o.body with
    | .frame desc num scope after =>
      if after.any s.opLive || s.frameTests id o.asid desc then s
      else match runThread s id 0 (ask (.record desc 64 rsBad)) with
        | (.stop k t, s1) => s1.parkOp id replay [(k, t)]
        | (.done v, s1) =>
          if v = 0 then s1.endOp id
          else match s1.releaseWrite o scope (rsEvent v) num.toNat with
            | (.done _ _, s2) => s2.endOp id
            | (.trouble t, s2) => s2.parkOp id replay [(.write, t)]
    | _ => s

/-- FRAME_EVENT: once the frame's writes are performed and its tests decided, its number is released to
the event word (R389). -/
def execFrameEvent (id : Nat) (s : State) : Out :=
  if s.recorded id then .next s else .next (runFrame s id false)

/-! ### The instructions (R385) -/

/-- RASTT (R386). -/
def execRastt (a : BitVec 6) (x : BitVec 7) (s : State) : Out :=
  runFibre s fun f =>
    guardBusy s (resS s.cur [a.toNat] ++ resVs s.cur f (regRun x.toNat 12)) <|
      let desc := f.s a.toNat
      let ins := (List.range 32).map fun i => (regRun x.toNat 12).map fun k => lane (s.v s.cur f k) i
      if f.active = 0 then .done s
      else if desc.toNat % 64 ≠ 0 then .trap (illTrap 6)
      else if (lanesOf f.active).any fun i => field ((ins.getD i []).getD 11 0) 1 31 != 0 then
        .trap (illTrap 6)
      else if f.ctrFull ctrRS then .stall
      else
        let (_, s1) := s.newOp f 4 f.active desc 0 (some ctrRS) (.rast (.tri desc ins))
        .done s1

/-- RFRAME (R389): not lane-acting, without a counter. -/
def execRframe (a b : BitVec 6) (s : State) : Out :=
  scalarOp s [a.toNat, b.toNat] fun f =>
    let desc := f.s a.toNat
    if desc.toNat % 64 ≠ 0 then .trap (illTrap 6)
    else
      let after := s.eng.ops.filterMap fun e => if e.2.rasters f.asid desc then some e.1 else none
      let (_, s1) := s.newOp f 4 f.active desc (f.s b.toNat) none
        (.frame desc (f.s b.toNat) (modeSC f.mode) after)
      .done s1

/-- The undecided test that a lane's token names. -/
def State.testFor (s : State) (f : Fibre) (x i : Nat) : Option RTest :=
  let w (k : Nat) : Nat := (lane (s.v s.cur f (x + k)) i).toNat
  s.co.tests.find? fun t =>
    t.asid == f.asid && t.sample == w 0 + w 1 * 2 ^ 32 && t.z.toNat == w 2 &&
      t.prim.toNat == w 3 + w 4 * 2 ^ 32 && t.desc.toNat == w 5 + w 6 * 2 ^ 32

/-- The tests that the lanes of an RTEST decide: each test by its lowest-numbered lane. -/
def State.decideTests (s : State) (f : Fibre) (x : Nat) : List Nat → List (Nat × RTest) × State
  | [] => ([], s)
  | i :: rest =>
    match s.testFor f x i with
    | none => s.decideTests f x rest
    | some t =>
      let s1 : State := { s with co := { s.co with tests := s.co.tests.filter fun u => u.id ≠ t.id } }
      let (l, s2) := s1.decideTests f x rest
      ((i, t) :: l, s2)

/-- RTEST (R388). -/
def rtest (accept : Bool) (x : BitVec 7) (s : State) : Out :=
  runFibre s fun f =>
    guardBusy s (resVs s.cur f (regRun x.toNat 7)) <|
      if f.active = 0 then .done s
      else if f.ctrFull ctrRS then .stall
      else
        let (tests, s1) := s.decideTests f x.toNat (lanesOf f.active)
        if tests.isEmpty then .done s
        else
          let lanes := maskOf (tests.map (·.1))
          let (_, s2) := s1.newOp f 4 lanes 0 0 (some ctrRS) (.rast (.test accept tests))
          .done s2

/-- RTEST.ACC. -/
def execRtestAcc (x : BitVec 7) (s : State) : Out := rtest true x s

/-- RTEST.REJ. -/
def execRtestRej (x : BitVec 7) (s : State) : Out := rtest false x s

/-- RCLEAR (R389). -/
def execRclear (a : BitVec 6) (s : State) : Out :=
  scalarOp s [a.toNat] fun f =>
    let desc := f.s a.toNat
    if desc.toNat % 64 ≠ 0 then .trap (illTrap 6)
    else if f.ctrFull ctrRS then .stall
    else
      let (_, s1) := s.newOp f 4 f.active desc 0 (some ctrRS) (.rast (.clear desc))
      .done s1

end Sys2Proof.Machine
end

