-- ==== Sys2Proof/Machine/Barrier.lean ====
section
/-! DEFINITION. The end of a fibre (R261, R192), fibre barriers (R392, R393), WINDOW (R394), named
barriers (R395, R396), and the subtractions that the device makes for finished groups and launches
(R205, R221). -/

namespace Sys2Proof.Machine

/-! ### Fibre barriers (R393) -/

/-- A participant has arrived at the phase under way: it has exited, or its arrival count is above the
phase count, while it neither is PARKED nor stands still for the debugger (R393, R431). -/
def State.arrived (s : State) (loc b phase : Nat) : Bool :=
  match s.fibre loc with
  | none => true
  | some f =>
    f.st == .exiting || (f.st != .parked && !f.debugger.stopped && decide (phase < Sparse.getN f.fbArr b))

/-- Completes the phase of a barrier of a slot when every participant has arrived, and some participant is left. -/
def State.settleFbar (s : State) (loc b : Nat) : State :=
  match Sparse.find (s.slot loc).fbar b with
  | none => s
  | some x =>
    let here (i : Nat) : Bool := bitOf x.mask i && (s.fibre (loc / 4 * 4 + i)).any fun f => f.st != .exiting
    if ([0, 1, 2, 3].any here) && [0, 1, 2, 3].all fun i => !bitOf x.mask i || s.arrived (loc / 4 * 4 + i) b x.phase then
      s.modSlot loc fun sl => { sl with fbar := Sparse.put sl.fbar b { x with phase := x.phase + 1 } }
    else s

/-- The four barriers of a slot. -/
def State.settleFbars (s : State) (loc : Nat) : State :=
  [0, 1, 2, 3].foldl (fun acc b => acc.settleFbar loc b) s

/-- The phase count of a barrier of the fibre in issue; a fibre outside the mask has none. -/
def State.fbarPhase (s : State) (b : Nat) : Option Nat :=
  match Sparse.find (s.slot s.cur).fbar b with
  | some x => if bitOf x.mask (fidOf s.cur) then some x.phase else none
  | none => none

/-- Runs a body with the phase count of a barrier; a fibre outside the mask raises ILL. -/
def withFbar (s : State) (b : Nat) (body : Fibre → Nat → Act) : Out :=
  runFibre s fun f =>
    match s.fbarPhase b with
    | none => .trap (illTrap 6)
    | some p => body f p

/-- The fibre in issue arrives. -/
def State.arriveFbar (s : State) (b : Nat) : State :=
  (s.modFibre s.cur fun f => { f with fbArr := Sparse.setN f.fbArr b (Sparse.getN f.fbArr b + 1) }).settleFbar
    s.cur b

/-- FARRIVE: a release at GRP scope (R136, R142). -/
def execFarrive (b : BitVec 2) (s : State) : Out :=
  withFbar s b.toNat fun f p =>
    if p < Sparse.getN f.fbArr b.toNat then .stall else arrival s fun s => .done (s.arriveFbar b.toNat)

/-- FWAITB. -/
def execFwaitb (b : BitVec 2) (s : State) : Out :=
  withFbar s b.toNat fun f p => if Sparse.getN f.fbArr b.toNat ≤ p then .done s else .stall

/-- FBAR: FARRIVE, then FWAITB. The arrival is made once; the wait goes on from there. -/
def execFbar (b : BitVec 2) (s : State) : Out :=
  withFbar s b.toNat fun f p =>
    let out (t : State) : State := t.modFibre t.cur fun f => { f with fbIn := false }
    if f.fbIn then (if Sparse.getN f.fbArr b.toNat ≤ p then .done (out s) else .stall)
    else if p < Sparse.getN f.fbArr b.toNat then .stall
    else arrival s fun s =>
      let s1 := s.arriveFbar b.toNat
      if (s1.fbarPhase b.toNat).getD 0 = p then
        .stallWith (s1.modFibre s.cur fun f => { f with fbIn := true })
      else .done s1

/-! ### WINDOW (R394) -/

/-- WINDOW's operand is out of range, or the new window breaks R196. -/
def windowBad (w x : Dword) (h : Nat) : Bool :=
  let fsz := field x 0 5
  let f := fsz * 8
  field x 5 7 != 0 || field x 22 42 != 0 || fsz == 0 || 16 < fsz || wRing w * 8 < f ||
    decide (wSpill w * 8 + wRing w * 8 < wDepth w * 8 + f) ||
    (fsz != 16 && decide (h < field x 12 10 + 128 - f))

/-- WINDOW. -/
def execWindow (a : BitVec 6) (s : State) : Out :=
  scalarOp s [a.toNat] fun f =>
    let x := f.s a.toNat
    if windowBad f.wdesc x (s.slot s.cur).h then .trap (illTrap 6)
    else
      let w := mkWdesc (wSpill f.wdesc) (wDepth f.wdesc) (wRing f.wdesc) (field x 12 10) (field x 0 5)
      let all (w : Dword) : List Res := (List.range 128).map (resV (fidOf s.cur) w)
      if s.busy s.cur (all f.wdesc ++ all w) then .stall
      else .done (s.modFibre s.cur fun f => { f with wdesc := w })

/-! ### Named barriers (R395, R396) -/

/-- Barriers of a core that its groups have mapped. -/
def State.nbarsUsed (s : State) (core : Nat) : Nat :=
  (s.groups.map fun e => if e.2.core = core then e.2.nbar.length else 0).sum

/-- NBINIT. -/
def execNbinit (n : BitVec 8) (c : BitVec 6) (s : State) : Out :=
  scalarOp s [c.toNat] fun f =>
    withGroup s f fun g =>
      let t := (f.s c.toNat).toNat
      let set : State := s.modGroup f.group fun x => { x with nbar := Sparse.put x.nbar n.toNat ⟨t, 0, 0⟩ }
      if t = 0 ∨ 32 < t then .trap (illTrap 6)
      else match Sparse.find g.nbar n.toNat with
        | some b => if b.tally ≠ 0 then .trap (illTrap 6) else .done set
        | none => if 256 ≤ s.nbarsUsed g.core then .stall else .done set

/-- Runs a body with a barrier that the fibre's group has initialised. -/
def withNbar (s : State) (n : Nat) (body : Fibre → NBar → Act) : Out :=
  runFibre s fun f =>
    match (Sparse.find s.groups f.group).bind fun g => Sparse.find g.nbar n with
    | none => .trap (illTrap 6)
    | some b => body f b

/-- One more arrival at a barrier. -/
def NBar.arrive (b : NBar) : NBar :=
  if b.target ≤ b.tally + 1 then { b with tally := 0, phase := b.phase + 1 } else { b with tally := b.tally + 1 }

/-- The fibre in issue arrives: its wait target is the phase under way. -/
def State.arriveNbar (s : State) (f : Fibre) (n : Nat) (b : NBar) : State :=
  (s.modGroup f.group fun g => { g with nbar := Sparse.put g.nbar n b.arrive }).modFibre s.cur fun f =>
    { f with nbWait := Sparse.put f.nbWait n b.phase }

/-- NBARRIVE: a release at GRP scope (R136, R142). -/
def execNbarrive (n : BitVec 8) (s : State) : Out :=
  withNbar s n.toNat fun f b => arrival s fun s => .done (s.arriveNbar f n.toNat b)

/-- The wait for a barrier: without an arrival since the last completed wait the target is the phase
count now, kept from the first attempt on. -/
def waitNbar (s : State) (n : Nat) : Act :=
  match s.fibre s.cur with
  | none => .done s
  | some f =>
    match (Sparse.find s.groups f.group).bind fun g => Sparse.find g.nbar n with
    | none => .done s
    | some b =>
      match Sparse.find f.nbWait n with
      | none => .stallWith (s.modFibre s.cur fun f => { f with nbWait := Sparse.put f.nbWait n b.phase })
      | some t =>
        if t < b.phase then
          .done (s.modFibre s.cur fun f => { f with nbWait := Sparse.erase f.nbWait n, nbIn := false })
        else .stallWith s

/-- NBWAIT. -/
def execNbwait (n : BitVec 8) (s : State) : Out := withNbar s n.toNat fun _ _ => waitNbar s n.toNat

/-- NBSYNC: NBARRIVE, then NBWAIT. -/
def execNbsync (n : BitVec 8) (s : State) : Out :=
  withNbar s n.toNat fun f b =>
    if f.nbIn then waitNbar s n.toNat
    else arrival s fun s =>
      waitNbar ((s.arriveNbar f n.toNat b).modFibre s.cur fun f => { f with nbIn := true }) n.toNat

/-! ### EXIT (R261, R192) -/

/-- The fibre in issue ends: its stack is discarded, what its lanes owe is settled (R388, R412), and its
slot's barriers count it as arrived. -/
def State.exitFibre (s : State) : State :=
  let s1 := (s.endLanes s.cur (List.range 32)).retire
  (s1.modFibre s.cur fun f => { f with st := .exiting, stack := [], fbIn := false, nbIn := false }).settleFbars
    s.cur

/-- An instruction that ends the fibre in issue: its open batch is closed first (R336). -/
def endFibre (s : State) (f : Fibre) : Act :=
  if f.openBatch.isEmpty then .moved s.exitFibre else closeOpen s f fun s1 => .moved s1.exitFibre

/-- EXIT. -/
def execExit (s : State) : Out := runFibre s fun f => endFibre s f

/-! ### Subtractions by the device (R205, R221) -/

/-- Cores that hold dirty lines. -/
def Mem.dirtyCores (m : Mem) : List Nat := (m.l1.map fun e => e.1 / 2 ^ 32).eraseDups

/-- A subtraction that is over, one that waits, or one that is dropped with an error-log entry. -/
inductive SubOut where
  | ended
  | waits
  deriving DecidableEq, Repr

/-- Drops a refused subtraction with an entry of no fibre (R33); its unit code is left open. -/
def State.dropSub (s : State) (d : DevSub) (t : Trouble) : State :=
  let unit := (Config.recordByte s.draws 10).toNat
  (s.drew 1).errLog d.region
    ⟨d.addr, d.asid, unit, AKind.atomic.code, t.cause, t.kind, 0xFFFF, 0, 0xFFFFFFFF⟩

/-- Subtracts 1 at an address, at DEV scope, as a release of the writes of the given cores. -/
def devSub (s : State) (d : DevSub) (cores : List Nat) : SubOut × State :=
  match s.locate ⟨d.core, d.asid, d.priv⟩ 0 .atomic .global d.addr.toNat 8 with
  | (.ok l, s0) =>
    (match s0.foldSpots true l with
    | (some (.miss _ m _), s1) => (.waits, s1.requestMissing (clusterOf d.core) d.asid m)
    | (some _, s1) => (.waits, s1)
    | (none, s1) =>
      let m := cores.foldl (fun m c => (m.writeBackAll c).raiseCount c) s1.mem
      let (b, s2) := homeBytes { s1 with mem := m } d.core l
      let s3 := putHomeBytes s2 d.core (leBytes 8 (atomNew 1 8 (leNat b) 1 0)) l
      let rel := (l.flatMap Spot.lines).foldl (fun r line =>
        Sparse.put r line (cores ++ Sparse.get [] r line).eraseDups) s3.mem.relWrites
      (.ended, { s3 with mem := { s3.mem with relWrites := rel } }))
  | (.miss m, s1) => (.waits, s1.requestMissing (clusterOf d.core) d.asid m)
  | (.wait, s1) => (.waits, s1)
  | (.refuse c z, s1) => (.ended, s1.dropSub d (.refuse d.addr c z))
  | (.poison, s1) => (.ended, s1.dropSub d (.poison d.addr 0))

/-- Performs the subtractions of finished groups that can be performed now. -/
def State.retrySubs (s : State) : State :=
  s.co.subs.foldl (fun acc d =>
    match devSub acc d [d.core] with
    | (.ended, s1) => { s1 with co := { s1.co with subs := s1.co.subs.erase d } }
    | (.waits, s1) => s1) s

/-! ### FIBRE_EMPTY (R192) -/

/-- An operation without a counter that keeps an EXITING fibre in its place. -/
def Op.holds (o : Op) : Bool :=
  match o.body with
  | .frame _ _ _ _ | .launch _ _ | .reply _ | .treg _ _ _ => true
  | _ => false

/-- A copy transfer that its group has started. -/
def Op.transfers (o : Op) (g : Nat) : Bool :=
  o.group == g &&
    match o.body with
    | .copy _ _ _ _ started _ => started
    | _ => false

/-- Nothing of an EXITING fibre is outstanding. -/
def State.mayEmpty (s : State) (loc : Nat) (f : Fibre) : Bool :=
  let last := !(s.fibres.any fun e => e.1 != loc && e.2.group == f.group)
  f.st == .exiting && f.idle && !s.hasRecord loc &&
    !(s.eng.held.any fun h => (Sparse.find s.eng.ops h.op).any fun o => o.loc == loc) &&
    !(s.eng.ops.any fun e => e.2.loc == loc && e.2.holds) &&
    !(last && s.eng.ops.any fun e => e.2.transfers f.group)

/-- A finished task group owes its successor subtraction. -/
def State.owesSub (s : State) (id : Nat) (g : Group) : State :=
  if g.succ = 0 then s
  else match Sparse.find s.groups id with
    | some _ => s
    | none =>
      let d : DevSub := ⟨g.core, g.region, g.asid, s.privOf g.region, g.succ⟩
      { s with co := { s.co with subs := s.co.subs ++ [d] } }.retrySubs

/-- FIBRE_EMPTY: an EXITING fibre with nothing outstanding leaves its position; the last of its group takes
the group off the chip. -/
def execFibreEmpty (loc : Nat) (s : State) : Out :=
  match s.fibre loc with
  | none => .next s
  | some f =>
    if !s.mayEmpty loc f then .next s
    else
      let s1 := s.emptyLocs [loc]
      let s2 := match Sparse.find s.groups f.group with
        | some g => s1.owesSub f.group g
        | none => s1
      .next (s2.ripenBins)

end Sys2Proof.Machine
end

