-- ==== Sys2Proof/Machine/Work.lean ====
section
/-! DEFINITION. Work created in flight: CONT, RETIRE, ENQ, LAUNCH (R398 to R402) and launch records
(R213 to R220), HCALL (R416), and the event that completes the operations of the load/store unit. -/

namespace Sys2Proof.Machine

/-! ### RETIRE and CONT (R399, R400) -/

/-- A stack entry without some lanes. -/
def StackEnt.without (e : StackEnt) (lanes : Word) : StackEnt :=
  { e with ent := e.ent &&& ~~~lanes, pend := e.pend &&& ~~~lanes }

/-- No lane of the fibre remains once some lanes are gone. -/
def Fibre.emptyWithout (f : Fibre) (lanes : Word) : Bool :=
  f.exec &&& ~~~lanes == 0 && f.stack.all fun e => (e.without lanes).ent == 0 && (e.without lanes).pend == 0

/-- The active lanes retire; without a lane left the fibre ends as at EXIT. -/
def retireNow (s : State) (f : Fibre) : Act :=
  if f.emptyWithout f.active then .moved s.exitFibre
  else
    .done ((s.endLanes s.cur (lanesOf f.active)).modFibre s.cur fun g =>
      { g with exec := g.exec &&& ~~~f.active, stack := g.stack.map fun e => e.without f.active })

/-- Closes the open batch when the fibre is to end with the instruction. -/
def beforeEnd (s : State) (f : Fibre) (go : State → Act) : Act :=
  if f.emptyWithout f.active && !f.openBatch.isEmpty then closeOpen s f go else go s

/-- RETIRE. -/
def execRetire (s : State) : Out := runFibre s fun f => beforeEnd s f fun t => retireNow t f

/-- The record of a lane under CONT. -/
def contRecord (s : State) (f : Fibre) (a x i : Nat) : ContRec :=
  let words := (regRun x 12).flatMap fun n => leBytes 4 (lane (s.v s.cur f n) i).toNat
  ⟨leBytes 8 (f.s a).toNat ++ leBytes 4 (field (f.s (a + 1)) 0 32) ++ leBytes 1 0 ++ leBytes 3 f.region ++ words,
    .nothing⟩

/-- The header pair of CONT is malformed. -/
def contBad (h k : Dword) : Bool :=
  bitOf h 48 || field h 54 10 != 0 || field h 0 48 % 4 != 0 || field k 32 32 != 0

/-- A TMOVE that has taken its first step: what follows its fibre's accesses does not wait for the rest (R407, R412). -/
def Op.moving (o : Op) : Bool :=
  match o.body with
  | .tmove _ _ _ _ => o.finished
  | _ => false

/-- The operations of the load/store unit that a fibre has in flight. -/
def State.lsuOps (s : State) (loc : Nat) : List Nat :=
  s.eng.ops.filterMap fun e => if e.2.loc = loc ∧ e.2.unit = 1 ∧ e.2.moving = false then some e.1 else none

/-- CONT. -/
def execCont (a : BitVec 6) (x : BitVec 7) (s : State) : Out :=
  runFibre s fun f =>
    guardBusy s (resS s.cur [a.toNat, a.toNat + 1] ++ resVs s.cur f (regRun x.toNat 12)) <|
      let lanes := lanesOf f.active
      let core := coreOf s.cur
      if f.active = 0 then beforeEnd s f fun t => retireNow t f
      else if contBad (f.s a.toNat) (f.s (a.toNat + 1)) then .trap (illTrap 6)
      else if !s.tellerRoom core f.region (field (f.s a.toNat) 0 48) lanes.length then .stall
      else
        let recs := lanes.map (contRecord s f a.toNat x.toNat)
        let o := s.opOf f 8 f.active (f.s a.toNat) (f.s (a.toNat + 1)) none (.tell core f.region recs)
        beforeEnd s f fun t => retireNow (t.emit core f.region (t.lsuOps t.cur) (some o) recs) f

/-! ### ENQ (R222, R223, R401) -/

/-- A queue descriptor: ring and control addresses of a core, and the ring's entries. -/
structure QDesc where
  ring : Nat
  head : Nat
  tail : Nat
  size : Nat
  valid : Bool
  deriving DecidableEq, Repr

/-- The descriptor of a queue for a core, as memory shows it. -/
def State.qdesc (s : State) (at0 core : Nat) : QDesc :=
  let n (o k : Nat) : Nat := physNat s (at0 + o) k
  let size := 2 ^ n 40 1
  ⟨n 0 8 + core * size * 64, n 8 8 + core * 16, n 8 8 + core * 16 + 8, size, n 42 1 % 2 == 1⟩

/-- The granules of physical pool addresses that are absent. -/
def State.absent (s : State) (at0 : List Nat) : List Nat :=
  ((at0.map fun a => a / 4096).filter fun g =>
    (poolFabric s.reg (g * 4096)).isSome &&
      match findFrame s.mem.frames g with
      | some (_, f) => !f.present
      | none => true).eraseDups

/-- A miss on queue memory: the fibre parks with unit code 1 and kind 1. -/
def missOf (at0 : Nat) : Trouble := .miss (BitVec.ofNat 64 at0) (.granule (at0 / 4096) false 0) 0

/-- ENQs of a core for one queue of a region that have not advanced TAIL. -/
def State.enqueuing (s : State) (core rgn queue : Nat) : Nat :=
  (s.eng.ops.filter fun e =>
    match e.2.body with
    | .enq q b => q == queue && coreOf e.2.loc == core && e.2.ctr.isSome &&
        ((s.fibre e.2.loc).map fun f => f.region) == some rgn && !b.isEmpty
    | _ => false).length

/-- The record of ENQ, with the fibre's region. -/
def enqRecord (f : Fibre) (a : Nat) : List Byte :=
  stampRegion ((List.range 8).flatMap fun i => leBytes 8 (f.s (a + i)).toNat) f.region

/-- Parks the fibre before the instruction, which issues again after the replay. -/
def parkBefore (s : State) (f : Fibre) (a at0 queue : Nat) : State :=
  let (id, s1) := s.newOp f 1 f.active (f.s a) 0 none (.enq queue [])
  (s1.requestMissing (clusterOf (coreOf s.cur)) f.asid (.granule (at0 / 4096) false 0)).writeRecord id false
    AKind.read.code (missOf at0)

/-- ENQ: its record joins the ring once the fibre's earlier accesses are performed. What a host may have changed of the
queue it gives up first (R58). -/
def execEnq (a : BitVec 6) (s : State) : Out :=
  scalarOp s ((List.range 8).map fun i => a.toNat + i) fun f =>
    let b := enqRecord f a.toNat
    let queue := leNat ((b.drop 12).take 1)
    let core := coreOf s.cur
    if !recGroup b ∨ recReserved b ≠ 0 ∨ recEntry b % 4 ≠ 0 then .trap (illTrap 6)
    else match s.qtabOf f.region with
      | none => .trap (plainTrap trapTASKQ)
      | some qtab =>
        let d := s.qdesc (qtab + 64 * queue) core
        match s.absent [qtab + 64 * queue] with
        | g :: _ => .moved (parkBefore s f a.toNat (g * 4096) queue)
        | [] =>
          match s.heldAt [(qtab + 64 * queue, 64)] with
          | b :: bs => .stallWith (askHost s (b :: bs))
          | [] =>
          if !d.valid then .trap (plainTrap trapTASKQ)
          else match s.absent [d.head, d.tail] with
            | g :: _ => .moved (parkBefore s f a.toNat (g * 4096) queue)
            | [] =>
              match s.heldAt [(d.head, 16)] with
              | b :: bs => .stallWith (askHost s (b :: bs))
              | [] =>
              let used := physNat s d.tail 8 - physNat s d.head 8 + s.enqueuing core f.region queue
              if d.size ≤ used ∨ f.ctrFull ctrST = true then .stall
              else
                let (_, s1) := (s.recordUp f.region (recEntry b) true).newOp f 1 f.active (f.s a.toNat) 0
                  (some ctrST) (.enq queue b)
                .done s1

/-- The record is written at TAIL, and TAIL advances with a release at DEV scope (R223). -/
def runEnq (s : State) (id : Nat) (o : Op) (queue : Nat) (b : List Byte) (replay : Bool) : State :=
  match s.fibre o.loc with
  | none => s.endOp id
  | some f =>
    match s.qtabOf f.region with
    | none => (s.recordDown f.region (recEntry b) true).endOp id
    | some qtab =>
      let core := o.who.core
      let d := s.qdesc (qtab + 64 * queue) core
      let tail := physNat s d.tail 8
      let slot := d.ring + 64 * (tail % d.size)
      match s.absent [qtab + 64 * queue, d.tail, slot] with
      | g :: _ => s.parkOp id replay [(.write, missOf (g * 4096))]
      | [] =>
        match s.heldAt [(qtab + 64 * queue, 64), (d.tail, 8)] with
        | x :: xs => askHost s (x :: xs)
        | [] =>
        let s1 := physWrite s slot b
        let s2 : State := { s1 with mem := (s1.mem.writeBackAll core).raiseCount core }
        (physWrite s2 d.tail (leBytes 8 (tail + 1))).endOp id

/-! ### Launch records (R213 to R219) -/

/-- A role descriptor (R215). -/
def parseRole (x : Nat) : Role :=
  ⟨x % 2 ^ 48, x / 2 ^ 48 % 32, x / 2 ^ 53 % 2 ^ 10, x / 2 ^ 104 % 256, x / 2 ^ 96 % 2 == 1,
    BitVec.ofNat 32 (x / 2 ^ 64)⟩

/-- A declared entry (R216). -/
def parseDecl (x : Nat) : Decl :=
  ⟨x % 2 ^ 48, x / 2 ^ 48 % 2 == 1, x / 2 ^ 49 % 2 == 1, x / 2 ^ 50 % 4, x / 2 ^ 52 % 32⟩

/-- A launch record from its bytes. -/
def parseLaunch (b : List Byte) : LaunchRec :=
  let n (o k : Nat) : Nat := leNat ((b.drop o).take k)
  let d (o : Nat) : Dword := BitVec.ofNat 64 (n o 8)
  let grid := n 8 8
  { rnum := n 0 3, heavy := n 4 4 / 16 % 4, ord := n 4 4 % 2 == 1
    nx := grid % 2 ^ 21 + 1, ny := grid / 2 ^ 21 % 2 ^ 21 + 1, nz := grid / 2 ^ 42 % 2 ^ 21 + 1
    xext := n 16 4, ngang := n 20 1, nrole := n 21 1, scrkb := n 22 1, tiles := n 23 1, shr := n 24 2
    spkb := n 26 2, spbase := d 32, csbase := d 40, cscount := n 48 2, qtab := d 56
    roles := (List.range 4).map fun i => parseRole (n (64 + 16 * i) 16)
    decls := (List.range 4).map fun i => parseDecl (n (128 + 8 * i) 8)
    done := d 160, args := (List.range 8).map fun i => d (192 + 8 * i) }

/-- A role in use is out of range, or its window breaks R196. -/
def roleBad (h : Nat) (x : Nat) (r : Role) : Bool :=
  x / 2 ^ 112 != 0 || x / 2 ^ 97 % 2 ^ 7 != 0 || x / 2 ^ 63 % 2 != 0 || r.ring == 0 || 128 < r.ring ||
    r.fsz == 0 || 16 < r.fsz || r.entry % 4 != 0 || r.ring < r.fsz ||
    (r.fsz != 16 && decide (h < r.shbase + 128 - r.fsz * 8)) || (r.mset && Sys2Proof.badMode r.mode.toNat)

/-- A declared entry is malformed. -/
def declBad (nrole x : Nat) (d : Decl) : Bool :=
  x / 2 ^ 57 != 0 || d.entry % 4 != 0 || (!d.group && d.nfib != 0) || (d.valid && decide (nrole ≤ d.role))

/-- The record breaks R219 in one of its own fields. -/
def launchBad (b : List Byte) : Bool :=
  let n (o k : Nat) : Nat := leNat ((b.drop o).take k)
  let l := parseLaunch b
  let rings := ((l.roles.take l.nrole).map fun r => r.ring * 8).sum
  n 3 1 != 0 || n 4 4 / 64 != 0 || n 4 4 / 2 % 8 != 0 || n 8 8 / 2 ^ 63 != 0 ||
    l.ngang == 0 || 32 < l.ngang || l.nrole == 0 || 4 < l.nrole || 32 < l.ngang * l.nrole || 192 < l.scrkb ||
    4 ≤ l.tiles || 128 < l.shr || n 28 4 != 0 || l.spbase.toNat % 1024 != 0 || l.csbase.toNat % 32 != 0 ||
    4096 < l.cscount || n 50 6 != 0 || l.qtab.toNat % 4096 != 0 || n 168 24 != 0 || 1024 < rings + l.shr * 8 ||
    ((List.range 4).any fun i =>
      let x := n (64 + 16 * i) 16
      if i < l.nrole then roleBad (l.shr * 8) x (parseRole x) else x != 0) ||
    ((List.range 4).any fun i => declBad l.nrole (n (128 + 8 * i) 8) (parseDecl (n (128 + 8 * i) 8)))

/-- The queue table of the record differs from that of another live launch of its region. -/
def State.qtabClash (s : State) (l : LaunchRec) : Bool :=
  l.qtab != 0 && s.allLaunches.any fun e =>
    e.2.lrec.rnum == l.rnum && e.2.lrec.qtab != 0 && e.2.lrec.qtab != l.qtab

/-- The status of a launch (R402): 0, or the lowest code that applies. `from0` is the region of the fibre
that launches. -/
def State.launchStatus (s : State) (b : List Byte) (from0 : Option Nat) : Nat :=
  let l := parseLaunch b
  if launchBad b then 1
  else match s.rcb l.rnum with
    | none => 2
    | some r =>
      if r.st ≠ .active then 2
      else if (match from0 with
        | some g => !s.inSubtree g l.rnum
        | none => false) then 3
      else if s.qtabClash l then 4
      else 0

/-- Entries of the launch table. -/
def launchTable : Nat := 1024

/-- LAUNCHes that have issued and not yet entered the table. -/
def State.launching (s : State) : Nat :=
  (s.eng.ops.filter fun e =>
    match e.2.body with
    | .launch _ _ => true
    | _ => false).length

/-- A launch enters the table (R220). It is a release at DEV scope of the core that made it. -/
def State.enterLaunch (s : State) (b : List Byte) (core : Option Nat) : State :=
  let l : Launch := ⟨parseLaunch b, 0, [], [], 0, 0, core⟩
  { s with sched := { s.sched with launches := Sparse.put s.sched.launches s.fresh l }, fresh := s.fresh + 1 }.modRcb
    l.lrec.rnum fun r => r

/-- LAUNCH (R402). -/
def execLaunch (a b : BitVec 6) (s : State) : Out :=
  scalarOp s [a.toNat, b.toNat] fun f =>
    let va := f.s a.toNat
    if va.toNat % 256 ≠ 0 then .trap (illTrap 6)
    else if launchTable ≤ s.sched.launches.length + s.launching then .stall
    else
      let dst := Res.s (fidOf s.cur) b.toNat
      let (id, s1) := s.newOp f 1 f.active va 0 none (.launch va dst)
      .done (s1.addPend s.cur id [dst])

/-- Reads the launch record, checks it, and writes the status. -/
def runLaunch (s : State) (id : Nat) (o : Op) (va : Dword) (dst : Res) (replay : Bool) : State :=
  match runThread s id 0 (ask (.read .global va 256)) with
  | (.stop k t, s1) => s1.parkOp id replay [(k, t)]
  | (.done v, s1) =>
    let b := leBytes 256 v
    let core := o.who.core
    let rgn := match s1.fibre o.loc with
      | some f => f.region
      | none => 0
    let code := s1.launchStatus b (some rgn)
    let s2 : State := { s1 with mem := (s1.mem.writeBackAll core).raiseCount core }
    let s3 := if code = 0 then s2.enterLaunch b (some core) else s2
    (s3.putRes o.loc dst [(0, code)]).endOp id

/-! ### HCALL (R416) -/

/-- Entries of the IOD buffer of HCALL records. -/
def hcallBuffer : Nat := 1024

/-- The vector of the HCALL ring (R450). -/
def hcallVector : Nat := 1

/-- Puts a record into the HCALL ring, which has room. -/
def State.hcallPut (s : State) (b : List Byte) : State :=
  let r := s.reg.hcr
  let s1 := s.hostWrite (ringAddr r.base r.tail.toNat 64) b
  ({ s1 with reg := { s1.reg with hcr := { r with tail := r.tail + 1 } } }).signal hcallVector (r.tail == r.head)

/-- HCALL. -/
def execHcall (a : BitVec 6) (s : State) : Out :=
  scalarOp s [a.toNat] fun f =>
    let va := f.s a.toNat
    if va.toNat % 64 ≠ 0 then .trap (illTrap 6)
    else if hcallBuffer ≤ s.io.hcWait.length ∨ f.ctrFull ctrST = true then .stall
    else
      let (_, s1) := s.newOp f 1 f.active va 0 (some ctrST) (.hcall va)
      .done s1

/-- The record with what the device writes into it. -/
def hcallStamp (b : List Byte) (o : Op) (rgn : Nat) : List Byte :=
  b.take 2 ++ leBytes 2 o.asid.toNat ++ leBytes 4 o.loc ++ (b.drop 8).take 8 ++ leBytes 4 rgn ++ b.drop 20

/-- Reads the record and posts its stamped copy; a full ring holds it in the IOD buffer. A refused record
under the error response posts nothing. -/
def runHcall (s : State) (id : Nat) (o : Op) (va : Dword) (replay : Bool) : State :=
  if o.finished then s
  else match runThread s id 0 (ask (.record va 64 fun _ => false)) with
    | (.stop k t, s1) => s1.parkOp id replay [(k, t)]
    | (.done v, s1) =>
      let rgn := match s1.fibre o.loc with
        | some f => f.region
        | none => 0
      let b := hcallStamp (leBytes 64 v) o rgn
      if v = 0 then s1.endOp id
      else if s1.io.hcWait.isEmpty && ringRoom s1.reg.hcr then (s1.hcallPut b).endOp id
      else if s1.io.hcWait.length < hcallBuffer then
        let s2 := (s1.modOp id fun o => { o with finished := true }).freeRecord id
        { s2 with io := { s2.io with hcWait := s2.io.hcWait ++ [⟨id, b⟩] } }
      else s1

/-- HCALL_RING_DELIVERY: the oldest record of the buffer enters the ring when it has room. -/
def execHcallRingDelivery (s : State) : Out :=
  match s.io.hcWait with
  | [] => .next s
  | e :: rest =>
    if ringRoom s.reg.hcr then
      .next (({ s with io := { s.io with hcWait := rest } }.hcallPut e.bytes).endOp e.op)
    else .next s

/-! ### Replies under way (R412) -/

/-- The values enter their reply slots, with a release at DEV scope. -/
def runReply (s : State) (id : Nat) (o : Op) (vals : List (Nat × Nat × Nat)) : State :=
  let m := (s.mem.writeBackAll o.who.core).raiseCount o.who.core
  (vals.foldl (fun (acc : State) v => acc.deliver v.1 v.2.1 (fun _ => v.2.2) false false) { s with mem := m }).endOp id

/-! ### Changes of tile directories (R404, R406, R407) -/

/-- The entry of a tile directory with an identifier. -/
def State.dirEnt (s : State) (e : Nat) : Option DirEnt := Sparse.find s.co.dirs e

/-- Entries of a core's directory; an entry is numbered core × 512 + index, as its identifier says. -/
def dirSize : Nat := 512

/-- Replaces or inserts an entry. -/
def State.putDir (s : State) (e : Nat) (x : DirEnt) : State :=
  { s with co := { s.co with dirs := Sparse.put s.co.dirs e x } }

/-- The lowest-numbered free entry of a core (R444). -/
def State.freeDir (s : State) (core : Nat) : Option Nat :=
  ((List.range dirSize).map fun i => core * dirSize + i).find? fun e => (s.dirEnt e).isNone

/-- Changes a move. -/
def State.modMove (s : State) (op : Nat) (g : Move → Move) : State :=
  { s with co := { s.co with moves := s.co.moves.map fun m => if m.op = op then g m else m } }

/-- An identifier that names no entry. -/
def noEntry : Nat := 2 ^ 64 - 1

/-- The register of a TMOVE receives a value, and the TMOVE is over. The move itself lasts until its switch has
reached both cores. -/
def State.endMove (s : State) (op val : Nat) : State :=
  let moves := if s.co.root.any fun x => x.move == some op
    then s.co.moves.map fun m => if m.op = op then { m with ended := true } else m
    else s.co.moves.filter fun m => m.op ≠ op
  let s1 : State := { s with co := { s.co with moves := moves } }
  match Sparse.find s1.eng.ops op with
  | none => s1
  | some o =>
    match o.body with
    | .tmove dst _ _ _ => (s1.putRes o.loc dst [(0, val)]).endOp op
    | _ => s1

/-- A directory entry becomes free; the move that it was the source of is complete (R407), or fails where its target
has taken no entry yet (DEDUCED, log 58). -/
def State.freeEnt (s : State) (e : Nat) : State :=
  let s1 : State := { s with co := { s.co with dirs := Sparse.erase s.co.dirs e } }
  match s1.co.moves.find? fun m => m.src = e ∧ m.ended = false with
  | some m => s1.endMove m.op (m.new.getD noEntry)
  | none => s1

/-- An entry that a fibre may drop or move: its address space; RESIDENT, or PINNED over RESIDENT (R406, R407, R445). -/
def DirEnt.mine (x : DirEnt) (asid : BitVec 16) : Bool := x.asid == asid && x.st == .resident

/-- TREG is performed: a RESIDENT entry, or none where the directory is full (R406). -/
def runTreg (s : State) (id : Nat) (o : Op) (dst : Res) (key payload : Dword) : State :=
  match s.freeDir (coreOf o.loc) with
  | none => (s.putRes o.loc dst [(0, noEntry)]).endOp id
  | some e => ((s.putDir e ⟨key, payload, o.asid, 0, false, .resident⟩).putRes o.loc dst [(0, e)]).endOp id

/-- TDROP is performed (R404, R406). -/
def runTdrop (s : State) (id : Nat) (o : Op) (ent : Nat) : State :=
  (match s.dirEnt ent with
    | none => s
    | some e =>
      if !e.mine o.asid then s
      else if e.pins = 0 then s.freeEnt ent
      else s.putDir ent { e with remove := true }).endOp id

/-- Step 1 of TMOVE (R407). -/
def runTmove (s : State) (id : Nat) (o : Op) (dst : Res) (src core : Nat) (payload : Dword) : State :=
  let fail : State := (s.putRes o.loc dst [(0, noEntry)]).endOp id
  match s.dirEnt src with
  | none => fail
  | some e =>
    if !e.mine o.asid then fail
    else
      let s1 := (s.putDir src { e with st := .moving }).modOp id fun o => { o with finished := true }
      { s1 with co := { s1.co with moves := s1.co.moves ++ [⟨id, src, core, payload, none, false⟩] } }

/-! ### LSU_COMPLETE -/

/-- No earlier operation of the load/store unit of the same fibre is in flight. -/
def State.oldestLsu (s : State) (id : Nat) (o : Op) : Bool :=
  (s.lsuOps o.loc).all fun k => decide (id ≤ k)

/-- An operation that changes a tile directory. -/
def OpBody.isDir : OpBody → Bool
  | .treg _ _ _ | .tdrop _ | .tmove _ _ _ _ => true
  | _ => false

/-- A change of a tile directory is performed behind the fibre's earlier reads (R133, R444). -/
def runDir (s : State) (id : Nat) (o : Op) : State :=
  if o.finished || s.behindOthers id o then s
  else match o.body with
    | .treg dst key payload => runTreg s id o dst key payload
    | .tdrop ent => runTdrop s id o ent
    | .tmove dst src core payload => runTmove s id o dst src core payload
    | _ => s

/-- LSU_COMPLETE: an operation whose lanes are done writes its destinations, and its counter falls;
one that has lanes left performs them (R308, R315, R40). ENQ, LAUNCH and REPLY, which release, follow the fibre's
earlier accesses; HCALL, and changes of tile directories, those that precede them. -/
def execLsuComplete (id : Nat) (s : State) : Out :=
  match Sparse.find s.eng.ops id with
  | none => .next s
  | some o =>
    if s.recorded id = true then .next s
    else match o.body with
      | .enq q b => .next (if s.oldestLsu id o then runEnq s id o q b false else s)
      | .reply vals => .next (if s.oldestLsu id o then runReply s id o vals else s)
      | .launch va dst => .next (if s.oldestLsu id o then runLaunch s id o va dst false else s)
      | .hcall va => .next (if s.behindOthers id o then s else runHcall s id o va false)
      | _ =>
        if o.body.isDir then .next (runDir s id o)
        else if o.body.isLsu = false then .next s
        else if o.finished then .next (s.finishOp id)
        else
          let s1 := runLsu s id false
          match Sparse.find s1.eng.ops id with
          | some o1 => .next (if o1.finished then s1.finishOp id else s1)
          | none => .next s1

end Sys2Proof.Machine
end

