-- ==== Sys2Proof/Machine/Census.lean ====
section
/-! DEFINITION. Tile directories (R403 to R407), the census root (R408), and censuses (R409 to R415). -/

namespace Sys2Proof.Machine

/-! ### Directories (R403 to R405) -/

/-- An identifier is malformed. -/
def dirIdBad (x : Dword) : Bool := field x 17 47 != 0 || 192 ≤ field x 9 8

/-- TREG (R406): the entry is inserted behind the fibre's earlier reads, and s[D] holds a pending write until then
(R444). -/
def execTreg (a b d : BitVec 6) (s : State) : Out :=
  scalarOp s [a.toNat, b.toNat, d.toNat] fun f =>
    let dst := Res.s (fidOf s.cur) d.toNat
    let (id, s1) := s.newOp f 1 f.active (f.s a.toNat) (f.s b.toNat) none (.treg dst (f.s a.toNat) (f.s b.toNat))
    .done (s1.addPend s.cur id [dst])

/-- TDROP (R406): SC is raised until its effect is performed. -/
def execTdrop (a : BitVec 6) (s : State) : Out :=
  scalarOp s [a.toNat] fun f =>
    let x := f.s a.toNat
    if dirIdBad x then .trap (illTrap 6)
    else if f.ctrFull ctrSC then .stall
    else .done (s.newOp f 1 f.active x 0 (some ctrSC) (.tdrop x.toNat)).2

/-- TMOVE (R407): an identifier that names no entry of the fibre's answers all ones, as step 1 says. -/
def execTmove (a b d : BitVec 6) (s : State) : Out :=
  scalarOp s [a.toNat, b.toNat, b.toNat + 1, d.toNat] fun f =>
    let x := f.s a.toNat
    let core := f.s b.toNat
    if 191 < core.toNat then .trap (illTrap 6)
    else if f.ctrFull ctrSC then .stall
    else
      let dst := Res.s (fidOf s.cur) d.toNat
      let (id, s1) := s.newOp f 1 f.active x core (some ctrSC) (.tmove dst x.toNat core.toNat (f.s (b.toNat + 1)))
      .done (s1.addPend s.cur id [dst])

/-- The sides of a core that a message has still to reach. -/
def RootMsg.waits (m : RootMsg) (core : Nat) : Bool := m.cores.any fun c => c / 2 == core

/-- The next message of the root for a core (R408). -/
def State.nextMsg (s : State) (core : Nat) : Option RootMsg := s.co.root.find? fun m => m.waits core

/-- A side has received its message. -/
def State.received (s : State) (m : RootMsg) (side : Nat) : State :=
  let root := (s.co.root.map fun x => if x = m then { x with cores := x.cores.erase side } else x).filter
    fun x => !x.cores.isEmpty
  { s with co := { s.co with root := root } }

/-- TMOVE_INSERT: step 2, and the switch takes its place in the root's order. -/
def execTmoveInsert (id : Nat) (s : State) : Out :=
  match s.co.moves.find? fun m => m.op = id ∧ m.new = none with
  | none => .next s
  | some m =>
    match s.dirEnt m.src with
    | none => .next s
    | some e =>
      match s.freeDir m.target with
      | none => .next ((s.putDir m.src { e with st := .resident }).endMove id noEntry)
      | some n =>
        let s1 := (s.putDir n ⟨e.key, m.payload, e.asid, 0, false, .inbound⟩).modMove id fun m =>
          { m with new := some n }
        let msg : RootMsg := ⟨none, some id, [m.src / dirSize * 2, m.target * 2 + 1]⟩
        .next { s1 with co := { s1.co with root := s1.co.root ++ [msg] } }

/-- SWITCH: the source or the target core of a move receives its switch (R404, R407). A source entry that is free
already, or another's, is left as it is. -/
def execSwitch (id : Nat) (target : Bool) (s : State) : Out :=
  match s.co.moves.find? fun m => m.op = id with
  | none => .next s
  | some m =>
    let core := if target then m.target else m.src / dirSize
    let side := core * 2 + (if target then 1 else 0)
    match s.nextMsg core with
    | none => .next s
    | some x =>
      if x.move ≠ some id ∨ !x.cores.contains side then .next s
      else
        let s1 := s.received x side
        let e := if target then m.new.getD 0 else m.src
        match (if !target && m.ended then none else s1.dirEnt e) with
        | none => .next s1
        | some y =>
          if target then
            let moves := s1.co.moves.filter fun k => k.op ≠ id ∨ k.ended = false
            .next ({ s1 with co := { s1.co with moves := moves } }.putDir e { y with st := .resident })
          else if y.pins = 0 then .next (s1.freeEnt e)
          else .next (s1.putDir e { y with remove := true })

/-! ### SOLICIT (R409) -/

/-- The control word of SOLICIT is malformed. -/
def solicitBad (c : Dword) : Bool :=
  let fmtOk := match Fmt.ofCode (censusFmt c) with
    | some (.f32, false) | some (.s32, false) | some (.n32, false) | some (.s64, false) | some (.n64, false) => true
    | _ => false
  let float := match Fmt.ofCode (censusFmt c) with
    | some (.f32, false) => true
    | _ => false
  field c 58 6 != 0 || 6 ≤ censusOp c || field c 0 48 % 4 != 0 ||
    (if censusOp c = 5 then censusFmt c != 0 else !fmtOk) || (float && (censusOp c == 3 || censusOp c == 4))

/-- Active censuses of the root. -/
def rootSize : Nat := 4096

/-- SOLICIT. -/
def execSolicit (a n : BitVec 6) (s : State) : Out :=
  scalarOp s ((List.range 4).map fun i => a.toNat + i) fun f =>
    withGroup s f fun g =>
      let w (i : Nat) : Dword := f.s (a.toNat + i)
      if solicitBad (w 2) ∨ (Sparse.find g.cens n.toNat).isSome then .trap (illTrap 6)
      else if rootSize ≤ (s.co.censuses.filter fun c => c.value.isNone).length ∨ f.ctrFull ctrSC = true then .stall
      else
        let after := s.lsuOps s.cur
        let (id, s1) := s.newOp f 7 f.active (w 0) (w 1) (some ctrSC) (.solicit n.toNat)
        let c : Census := ⟨id, s.cur, f.group, n.toNat, f.region, f.asid, w 0, w 1, w 2, w 3, after, none, [], [],
          false, false, none⟩
        let s2 := s1.modGroup f.group fun g => { g with cens := Sparse.put g.cens n.toNat id }
        .done { s2 with co := { s2.co with censuses := s2.co.censuses ++ [c] } }

/-- CENSUS_BROADCAST: once the fibre's earlier accesses are performed the root numbers the census and sends
it to every core (R408, R409). -/
def execCensusBroadcast (id : Nat) (s : State) : Out :=
  match s.census id with
  | none => .next s
  | some c =>
    if c.serial.isSome || c.after.any s.opLive then .next s
    else
      let core := coreOf c.loc
      let s1 : State := { s with mem := (s.mem.writeBackAll core).raiseCount core }
      let s2 := s1.modCensus id fun c => { c with serial := some s1.co.serial }
      let msg : RootMsg := ⟨some id, none, (List.range Config.cores).map fun k => k * 2⟩
      .next { s2 with co := { s2.co with serial := (s2.co.serial + 1) % 2 ^ 32, root := s2.co.root ++ [msg] } }

/-! ### The sweep (R405, R410, R411) -/

/-- The entry matches the census. -/
def DirEnt.meets (e : DirEnt) (c : Census) : Bool :=
  e.asid == c.asid && (e.key ^^^ c.key) &&& c.mask == 0 && !e.remove && e.st != .inbound

/-- The entries of a core that match, in ascending index. -/
def State.matching (s : State) (c : Census) (core : Nat) : List (Nat × DirEnt) :=
  s.co.dirs.filter fun e => e.1 / dirSize = core ∧ e.2.meets c = true

/-- Reply slots of a core that are in use. -/
def State.replySlots (s : State) (core : Nat) : Nat :=
  (s.co.censuses.map fun c =>
    (c.slots.filter fun x => x.ent / dirSize = core ∧ x.val.isNone = true).length).sum

/-- Reply slots of one core. -/
def replyStore : Nat := 8192

/-- A responder record (R411). -/
def responder (c : Census) (serial e : Nat) (x : DirEnt) : ContRec :=
  ⟨leBytes 6 (field c.ctl 0 48) ++ leBytes 2 0 ++ leBytes 4 serial ++ leBytes 1 0 ++ leBytes 3 c.region
    ++ leBytes 8 x.key.toNat ++ leBytes 8 x.payload.toNat ++ leBytes 4 e ++ leBytes 4 serial
    ++ leBytes 8 c.arg.toNat ++ leBytes 16 0, .reply c.id e⟩

/-- A core does its part of a sweep: it pins its matches, reserves their slots and emits their records; the last `lost`
of them, which the overflow ring refuses under the error response, are discarded, each a reply of the identity with LOST
(R32, R411). -/
def State.sweepCore (s : State) (c : Census) (serial core : Nat) (ms : List (Nat × DirEnt)) (lost : Nat) : State :=
  let s1 := ms.foldl (fun acc e => acc.putDir e.1 { e.2 with pins := e.2.pins + 1 }) s
  let s2 := s1.modCensus c.id fun c =>
    { c with swept := core :: c.swept, slots := c.slots ++ ms.map fun e => ⟨e.1, none⟩ }
  let recs := ms.map fun e => responder c serial e.1 e.2
  (recs.drop (recs.length - lost)).foldl (fun acc r => acc.discard c.region r)
    (s2.emitEach core c.region (recs.take (recs.length - lost)))

/-- What the record of a SOLICIT holds of the responder being spawned: its continuation record, and its directory
entry (R171), with its core. -/
def spawning (c : Census) (serial core : Nat) : List (Nat × DirEnt) → Sparse (List Nat)
  | [] => []
  | (e, d) :: _ => [(0, (responder c serial e d).bytes.map (·.toNat)), (1, [e]), (2, [core])]

/-- Records of a sweep that the teller cannot hold, and that go to the overflow ring (R207, R410). -/
def State.sweepSpills (s : State) (core n : Nat) : Nat :=
  min n (s.tellerHolds core + s.tellerComing core + n - tellerSize)

/-- What stands in the way of those records: the entries of the region's ring behind what is on its way there. -/
def State.sweepTrouble (s : State) (c : Census) (core n : Nat) : Option Trouble :=
  if s.sweepSpills core n = 0 then none
  else
    let coming := ((s.sched.tellIn.filter fun t => t.region = c.region).map fun t => t.records.length).sum
    s.ringTrouble c.region (min (s.sweepSpills core n + coming) (s.overflowRoom c.region))

/-- CENSUS_SWEEP: a broadcast reaches a core in root order. Without reply slots, or without room for the
records, it is held there; a continuation overflow ring that is absent, refused or poisoned parks the asker (R32,
R410). -/
def execCensusSweep (serial core : Nat) (s : State) : Out :=
  match s.nextMsg core, s.co.censuses.find? fun c => c.serial = some serial with
  | some msg, some c =>
    if msg.census ≠ some c.id then .next s
    else
      let ms := s.matching c core
      if replyStore < s.replySlots core + ms.length then .next s
      else if !s.tellerRoom core c.region (field c.ctl 0 48) ms.length then .next s
      else
        let go (lost : Nat) : State :=
          ((s.received msg (core * 2)).sweepCore c serial core ms lost).modOp c.id fun o => { o with err := false }
        match s.sweepTrouble c core ms.length with
        | none => .next (go 0)
        | some x =>
          if s.recorded c.id then .next s
          else if ((Sparse.find s.eng.ops c.id).elim true (·.err)) && x.kind != 1 then
            .next (go (s.sweepSpills core ms.length))
          else if (Sparse.find s.eng.ops c.id).isNone then .next (s.requestFor [] c.asid (.granule (x.va.toNat / 4096) false 0))
          else .next ((s.modOp c.id fun o => { o with results := spawning c serial core ms }).parkOp c.id false [(.write, x)])
  | _, _ => .next s

/-- The replay of a SOLICIT's record: the sweep that it stopped goes on, unless the ring still refuses it; under the
error response it goes on whatever the ring answers (R32, R173, R175). -/
def replaySolicit (s : State) (id : Nat) (o : Op) : State :=
  let core := (Sparse.get [] o.results 2).headD 0
  match (s.census id).bind fun c => s.sweepTrouble c core (s.matching c core).length with
  | some x => if o.err && x.kind != 1 then s.freeRecord id else s.parkOp id true [(.write, x)]
  | none => s.freeRecord id

/-! ### REPLY (R412) -/

/-- REPLY. -/
def execReply (x : BitVec 7) (s : State) : Out :=
  runFibre s fun f =>
    let lanes := lanesOf f.active
    let owed (i : Nat) : Option Census := (Sparse.find f.owes i).bind fun e => s.census e.1
    let wide (i : Nat) : Bool := (owed i).any fun c => censusWidth c.ctl == 8
    guardBusy s (resVs s.cur f ((regRun x.toNat 2).filter fun n => decide (n < 128))) <|
      if f.active = 0 then .done s
      else if lanes.any fun i => (owed i).isNone || (wide i && x == 127) then .trap (illTrap 6)
      else
        let word (n i : Nat) : Nat := (lane (s.v s.cur f n) i).toNat
        let vals := lanes.filterMap fun i => (Sparse.find f.owes i).map fun e =>
          (e.1, e.2, word x.toNat i + (if wide i then word (x.toNat + 1) i * 2 ^ 32 else 0))
        let (_, s1) := s.newOp f 1 f.active 0 0 none (.reply vals)
        .done (s1.modFibre s.cur fun f => { f with owes := lanes.foldl Sparse.erase f.owes })

/-! ### Completion (R413, R414) -/

/-- Combines two values of a census. -/
def combineTwo (ctl : Dword) (a b : Nat) : Nat :=
  let w := 8 * censusWidth ctl
  let f := match Fmt.ofCode (censusFmt ctl) with
    | some (f, _) => f
    | none => .n32
  match censusOp ctl, f with
  | 0, .f32 => atomFadd .f32 a b
  | 1, .f32 => (selectFloat .f32 Rctx.plain false false a b).1
  | 2, .f32 => (selectFloat .f32 Rctx.plain true false a b).1
  | 0, _ => (a + b) % 2 ^ w
  | 1, f =>
    if f.signed then (if signedOf w a ≤ signedOf w b then a else b) else min a b
  | 2, f =>
    if f.signed then (if signedOf w a ≤ signedOf w b then b else a) else max a b
  | 3, _ => a &&& b
  | _, _ => a ||| b

/-- Combines a list in order. -/
def combineAll (ctl : Dword) : List Nat → Option Nat
  | [] => none
  | x :: rest => some (rest.foldl (combineTwo ctl) x)

/-- The value of a census: cores combine their entries in ascending index, clusters their cores, dies their
clusters, and the root the dies (R413). -/
def Census.combined (c : Census) : Nat :=
  let core (k : Nat) : Option Nat := combineAll c.ctl ((c.slots.filter fun x => x.ent / dirSize = k).map fun x =>
    x.val.getD 0)
  let cluster (k : Nat) : Option Nat := combineAll c.ctl ((List.range 4).filterMap fun i => core (k * 4 + i))
  let die (d : Nat) : Option Nat := combineAll c.ctl ((List.range 12).filterMap fun i => cluster (d * 12 + i))
  if censusOp c.ctl = 5 then c.slots.length
  else (combineAll c.ctl ((List.range Config.dies).filterMap die)).getD c.identity

/-- An entry loses one pin; at zero a removed entry is free (R404). -/
def State.unpin (s : State) (e : Nat) : State :=
  match s.dirEnt e with
  | none => s
  | some x =>
    if x.pins ≤ 1 ∧ x.remove = true then s.freeEnt e else s.putDir e { x with pins := x.pins - 1 }

/-- CENSUS_COMPLETE: every core has swept and every reply is there. A census whose group is gone leaves no
value (R415). -/
def execCensusComplete (serial : Nat) (s : State) : Out :=
  match s.co.censuses.find? fun c => c.serial = some serial ∧ c.value = none with
  | none => .next s
  | some c =>
    if c.swept.length < Config.cores || c.slots.any fun x => x.val.isNone then .next s
    else
      let s1 := c.slots.foldl (fun acc x => acc.unpin x.ent) s
      let s2 := s1.endOp c.id
      let kept := s2.groupKnown c.group
      .next (if kept then s2.modCensus c.id fun c => { c with value := some (c.combined, c.slots.length) }
        else { s2 with co := { s2.co with censuses := s2.co.censuses.filter fun x => x.id ≠ c.id } })

/-- The cores that have swept a census's entries: its responders run there (R206, R410). -/
def Census.cores (c : Census) : List Nat := (c.slots.map fun x => x.ent / dirSize).eraseDups

/-- Runs a body with the census of a BUSY handle; a FREE handle raises ILL, and an incomplete census holds
the instruction. The reading is an acquire from the responders (R136). -/
def withCensus (s : State) (a n : BitVec 6) (body : Group → Census → Nat → Nat → State → Act) : Out :=
  scalarOp s [a.toNat] fun f =>
    withGroup s f fun g =>
      match (Sparse.find g.cens n.toNat).bind fun id => s.census id with
      | none => .trap (illTrap 6)
      | some c =>
        match c.value with
        | none => .stall
        | some (v, k) => body g c v k (s.startAcquire (coreOf s.cur) c.cores)

/-- CWAIT (R414). -/
def execCwait (a n : BitVec 6) (s : State) : Out :=
  withCensus s a n fun _ c _ k s1 =>
    .done (s1.putS a.toNat (BitVec.ofNat 64
      (k + (if c.noreply then 2 ^ 32 else 0) + (if c.lost then 2 ^ 33 else 0))))

/-- CREAD (R414). -/
def execCread (a n : BitVec 6) (s : State) : Out :=
  withCensus s a n fun _ c v _ s1 =>
    let s2 := (s1.putS a.toNat (BitVec.ofNat 64 v)).modGroup c.group fun g =>
      { g with cens := Sparse.erase g.cens n.toNat }
    .done { s2 with co := { s2.co with censuses := s2.co.censuses.filter fun x => x.id ≠ c.id } }

end Sys2Proof.Machine
end

