-- ==== Sys2Proof/Decode.lean ====
section
/-! DEFINITION. Decoding (R244, R246, R250, R251): a total function from a 32-bit word to an
instruction or to the first check of R251 that the word fails. After it the encoder, written from
the same tables. A word is read as a natural number; bit 0 is its least significant bit, and a word
lies in memory little-endian (R244). -/

namespace Sys2Proof

/-- The checks of R251 that a word alone decides, in their order. -/
inductive IllCheck where
  /-- Check 1: a reserved major. -/
  | major
  /-- Check 2: a reserved sub-operation code, or a VCVT target that is none. -/
  | selector
  /-- Check 3: a field marked zero or reserved holds something else. -/
  | field
  /-- Check 4: a register field breaks a limit of R247. -/
  | register
  deriving DecidableEq, Repr

/-- The number of a check, as the INFO field of the trap frame gives it (R425). -/
def IllCheck.number : IllCheck → Nat
  | .major => 1
  | .selector => 2
  | .field => 3
  | .register => 4

/-- Bits `lo` to `lo + len - 1` of a word, as a number. -/
def bits (w lo len : Nat) : Nat := w / 2 ^ lo % 2 ^ len

/-- Bits `lo` to `lo + len - 1` of a word, as a field of an instruction. -/
def fld (w lo len : Nat) : BitVec len := BitVec.ofNat len (w / 2 ^ lo)

/-- A form chosen by major and selector: the instruction with its fields read, and the parts of the
word that the form fixes (lowest bit, length, value). -/
structure Form where
  instr : Instr
  fixed : List (Nat × Nat × Nat)
  deriving DecidableEq, Repr

/-- Every fixed part of the word holds the value the form gives it. -/
def fixedOk (w : Nat) : List (Nat × Nat × Nat) → Bool
  | [] => true
  | (lo, len, v) :: rest => bits w lo len == v && fixedOk w rest

/-- Major 0x00 (R250): NOP, EXIT, TRAP, TRET, BKPT, HCALL, YIELD, HALT. -/
def select00 (w : Nat) : Except IllCheck Form :=
  match bits w 20 6 with
  | 0 => .ok ⟨.nop, [(0, 20, 0)]⟩
  | 1 => .ok ⟨.exit, [(0, 20, 0)]⟩
  | 2 => .ok ⟨(.trap (fld w 0 16)), [(16, 4, 0)]⟩
  | 3 => .ok ⟨.tret, [(0, 20, 0)]⟩
  | 4 => .ok ⟨.bkpt, [(0, 20, 0)]⟩
  | 5 => .ok ⟨(.hcall (fld w 14 6)), [(0, 14, 0)]⟩
  | 6 => .ok ⟨.yield, [(0, 20, 0)]⟩
  | 7 => .ok ⟨.halt, [(0, 20, 0)]⟩
  | _ => .error .selector

/-- Major 0x01 (R250): CEDE. -/
def select01 (_ : Nat) : Except IllCheck Form :=
  .ok ⟨.cede, [(0, 26, 0)]⟩

/-- Major 0x02 (R250): MODE, MODE_FIELD. -/
def select02 (w : Nat) : Except IllCheck Form :=
  match bits w 25 1 with
  | 0 => .ok ⟨(.mode (fld w 0 24)), [(24, 1, 0)]⟩
  | _ => .ok ⟨(.modeField (fld w 21 4) (fld w 0 6)), [(6, 15, 0)]⟩

/-- Major 0x03 (R250): MODEW, MODER, FSTR, FSTW. -/
def select03 (w : Nat) : Except IllCheck Form :=
  match bits w 0 8 with
  | 0 => .ok ⟨(.modew (fld w 14 6)), [(8, 6, 0), (20, 6, 0)]⟩
  | 1 => .ok ⟨(.moder (fld w 20 6)), [(8, 12, 0)]⟩
  | 2 => .ok ⟨(.fstr (fld w 20 6)), [(8, 12, 0)]⟩
  | 3 => .ok ⟨(.fstw (fld w 14 6)), [(8, 6, 0), (20, 6, 0)]⟩
  | _ => .error .selector

/-- Major 0x04 (R250): WAIT. -/
def select04 (w : Nat) : Except IllCheck Form :=
  .ok ⟨(.wait (fld w 20 6) (fld w 14 6) (fld w 8 6) (fld w 2 6)), [(0, 2, 0)]⟩

/-- Major 0x05 (R250): WAITX. -/
def select05 (w : Nat) : Except IllCheck Form :=
  if bits w 3 5 ≠ 0 then .error .selector
  else .ok ⟨.waitx (fld w 14 6) (fld w 0 3), [(20, 6, 0), (8, 6, 0)]⟩

/-- Major 0x06 (R250): BRA. -/
def select06 (w : Nat) : Except IllCheck Form :=
  .ok ⟨(.bra (fld w 22 4) (fld w 0 22)), []⟩

/-- Major 0x07 (R250): CALL. -/
def select07 (w : Nat) : Except IllCheck Form :=
  .ok ⟨(.call (fld w 22 4) (fld w 0 22)), []⟩

/-- Major 0x08 (R250): IF, ELSE, ENDIF, LOOP, BREAK, LCONT, ENDLOOP. -/
def select08 (w : Nat) : Except IllCheck Form :=
  match bits w 23 3 with
  | 0 => .ok ⟨(.ifOp (fld w 20 3) (fld w 19 1) (fld w 0 19)), []⟩
  | 1 => .ok ⟨(.elseOp (fld w 0 19)), [(19, 4, 0)]⟩
  | 2 => .ok ⟨.endif, [(0, 23, 0)]⟩
  | 3 => .ok ⟨(.loop (fld w 0 19)), [(19, 4, 0)]⟩
  | 4 => .ok ⟨(.breakOp (fld w 20 3) (fld w 19 1)), [(0, 19, 0)]⟩
  | 5 => .ok ⟨(.lcont (fld w 20 3) (fld w 19 1)), [(0, 19, 0)]⟩
  | 6 => .ok ⟨(.endloop (fld w 20 3) (fld w 19 1) (fld w 0 19)), []⟩
  | _ => .error .selector

/-- Major 0x09 (R250): BRX, CALLX, RET. -/
def select09 (w : Nat) : Except IllCheck Form :=
  match bits w 0 8 with
  | 0 => .ok ⟨(.brx (fld w 14 6)), [(8, 6, 0), (20, 6, 0)]⟩
  | 1 => .ok ⟨(.callx (fld w 20 4) (fld w 14 6)), [(8, 6, 0), (24, 2, 0)]⟩
  | 2 => .ok ⟨(.ret (fld w 14 6)), [(8, 6, 0), (20, 6, 0)]⟩
  | _ => .error .selector

/-- Major 0x0A (R250): ADD, SUB, MUL, MULH, MULHN, DIV, DIVN, REM, AND, OR, XOR, ANDN, SHL, SHR, SAR and the rest of the group. -/
def select0A (w : Nat) : Except IllCheck Form :=
  match bits w 0 8 with
  | 0 => .ok ⟨(.add (fld w 20 6) (fld w 14 6) (fld w 8 6)), []⟩
  | 1 => .ok ⟨(.sub (fld w 20 6) (fld w 14 6) (fld w 8 6)), []⟩
  | 2 => .ok ⟨(.mul (fld w 20 6) (fld w 14 6) (fld w 8 6)), []⟩
  | 3 => .ok ⟨(.mulh (fld w 20 6) (fld w 14 6) (fld w 8 6)), []⟩
  | 4 => .ok ⟨(.mulhn (fld w 20 6) (fld w 14 6) (fld w 8 6)), []⟩
  | 5 => .ok ⟨(.div (fld w 20 6) (fld w 14 6) (fld w 8 6)), []⟩
  | 6 => .ok ⟨(.divn (fld w 20 6) (fld w 14 6) (fld w 8 6)), []⟩
  | 7 => .ok ⟨(.rem (fld w 20 6) (fld w 14 6) (fld w 8 6)), []⟩
  | 8 => .ok ⟨(.and (fld w 20 6) (fld w 14 6) (fld w 8 6)), []⟩
  | 9 => .ok ⟨(.or (fld w 20 6) (fld w 14 6) (fld w 8 6)), []⟩
  | 10 => .ok ⟨(.xor (fld w 20 6) (fld w 14 6) (fld w 8 6)), []⟩
  | 11 => .ok ⟨(.andn (fld w 20 6) (fld w 14 6) (fld w 8 6)), []⟩
  | 12 => .ok ⟨(.shl (fld w 20 6) (fld w 14 6) (fld w 8 6)), []⟩
  | 13 => .ok ⟨(.shr (fld w 20 6) (fld w 14 6) (fld w 8 6)), []⟩
  | 14 => .ok ⟨(.sar (fld w 20 6) (fld w 14 6) (fld w 8 6)), []⟩
  | 15 => .ok ⟨(.min (fld w 20 6) (fld w 14 6) (fld w 8 6)), []⟩
  | 16 => .ok ⟨(.max (fld w 20 6) (fld w 14 6) (fld w 8 6)), []⟩
  | 17 => .ok ⟨(.minn (fld w 20 6) (fld w 14 6) (fld w 8 6)), []⟩
  | 18 => .ok ⟨(.maxn (fld w 20 6) (fld w 14 6) (fld w 8 6)), []⟩
  | 19 => .ok ⟨(.cmp (fld w 20 6) (fld w 14 6) (fld w 8 6)), []⟩
  | 20 => .ok ⟨(.cmpn (fld w 20 6) (fld w 14 6) (fld w 8 6)), []⟩
  | 21 => .ok ⟨(.clz (fld w 20 6) (fld w 14 6)), [(8, 6, 0)]⟩
  | 22 => .ok ⟨(.popc (fld w 20 6) (fld w 14 6)), [(8, 6, 0)]⟩
  | 23 => .ok ⟨(.mov (fld w 20 6) (fld w 14 6)), [(8, 6, 0)]⟩
  | _ => .error .selector

/-- Major 0x0B (R250): ADDI. -/
def select0B (w : Nat) : Except IllCheck Form :=
  .ok ⟨(.addi (fld w 20 6) (fld w 14 6) (fld w 0 14)), []⟩

/-- Major 0x0C (R250): ANDI. -/
def select0C (w : Nat) : Except IllCheck Form :=
  .ok ⟨(.andi (fld w 20 6) (fld w 14 6) (fld w 0 14)), []⟩

/-- Major 0x0D (R250): ORI. -/
def select0D (w : Nat) : Except IllCheck Form :=
  .ok ⟨(.ori (fld w 20 6) (fld w 14 6) (fld w 0 14)), []⟩

/-- Major 0x0E (R250): CMPI. -/
def select0E (w : Nat) : Except IllCheck Form :=
  .ok ⟨(.cmpi (fld w 20 6) (fld w 14 6) (fld w 0 14)), []⟩

/-- Major 0x0F (R250): MOVZ, MOVK, MOVS. -/
def select0F (w : Nat) : Except IllCheck Form :=
  match bits w 16 2 with
  | 0 => .ok ⟨(.movz (fld w 20 6) (fld w 18 2) (fld w 0 16)), []⟩
  | 1 => .ok ⟨(.movk (fld w 20 6) (fld w 18 2) (fld w 0 16)), []⟩
  | 2 => .ok ⟨(.movs (fld w 20 6) (fld w 18 2) (fld w 0 16)), []⟩
  | _ => .error .selector

/-- Major 0x10 (R250): SRD, SWR. -/
def select10 (w : Nat) : Except IllCheck Form :=
  match bits w 0 8 with
  | 0 => .ok ⟨(.srd (fld w 20 6) (fld w 8 4)), [(12, 8, 0)]⟩
  | 1 => .ok ⟨(.swr (fld w 14 6) (fld w 8 4)), [(12, 2, 0), (20, 6, 0)]⟩
  | _ => .error .selector

/-- Major 0x11 (R250): VADD, VSUB, VMUL, VMULH. -/
def select11 (w : Nat) : Except IllCheck Form :=
  match bits w 0 2 with
  | 0 => .ok ⟨(.vadd (fld w 17 7) (fld w 10 7) (fld w 3 7) (fld w 2 1)), [(24, 2, 0)]⟩
  | 1 => .ok ⟨(.vsub (fld w 17 7) (fld w 10 7) (fld w 3 7) (fld w 2 1)), [(24, 2, 0)]⟩
  | 2 => .ok ⟨(.vmul (fld w 17 7) (fld w 10 7) (fld w 3 7) (fld w 2 1)), [(24, 2, 0)]⟩
  | _ => .ok ⟨(.vmulh (fld w 17 7) (fld w 10 7) (fld w 3 7) (fld w 2 1)), [(24, 2, 0)]⟩

/-- Major 0x12 (R250): VAND, VOR, VXOR, VANDN. -/
def select12 (w : Nat) : Except IllCheck Form :=
  match bits w 0 2 with
  | 0 => .ok ⟨(.vand (fld w 17 7) (fld w 10 7) (fld w 3 7) (fld w 2 1)), [(24, 2, 0)]⟩
  | 1 => .ok ⟨(.vor (fld w 17 7) (fld w 10 7) (fld w 3 7) (fld w 2 1)), [(24, 2, 0)]⟩
  | 2 => .ok ⟨(.vxor (fld w 17 7) (fld w 10 7) (fld w 3 7) (fld w 2 1)), [(24, 2, 0)]⟩
  | _ => .ok ⟨(.vandn (fld w 17 7) (fld w 10 7) (fld w 3 7) (fld w 2 1)), [(24, 2, 0)]⟩

/-- Major 0x13 (R250): VSHL, VSHR, VSAR, VROT. -/
def select13 (w : Nat) : Except IllCheck Form :=
  match bits w 0 2 with
  | 0 => .ok ⟨(.vshl (fld w 17 7) (fld w 10 7) (fld w 3 7) (fld w 2 1)), [(24, 2, 0)]⟩
  | 1 => .ok ⟨(.vshr (fld w 17 7) (fld w 10 7) (fld w 3 7) (fld w 2 1)), [(24, 2, 0)]⟩
  | 2 => .ok ⟨(.vsar (fld w 17 7) (fld w 10 7) (fld w 3 7) (fld w 2 1)), [(24, 2, 0)]⟩
  | _ => .ok ⟨(.vrot (fld w 17 7) (fld w 10 7) (fld w 3 7) (fld w 2 1)), [(24, 2, 0)]⟩

/-- Major 0x14 (R250): VMIN, VMAX, VABSD, VAVG. -/
def select14 (w : Nat) : Except IllCheck Form :=
  match bits w 0 2 with
  | 0 => .ok ⟨(.vmin (fld w 17 7) (fld w 10 7) (fld w 3 7) (fld w 2 1)), [(24, 2, 0)]⟩
  | 1 => .ok ⟨(.vmax (fld w 17 7) (fld w 10 7) (fld w 3 7) (fld w 2 1)), [(24, 2, 0)]⟩
  | 2 => .ok ⟨(.vabsd (fld w 17 7) (fld w 10 7) (fld w 3 7) (fld w 2 1)), [(24, 2, 0)]⟩
  | _ => .ok ⟨(.vavg (fld w 17 7) (fld w 10 7) (fld w 3 7) (fld w 2 1)), [(24, 2, 0)]⟩

/-- Major 0x15 (R250): VCMPEQ, VCMPNE, VCMPLT, VCMPLE. -/
def select15 (w : Nat) : Except IllCheck Form :=
  match bits w 0 2 with
  | 0 => .ok ⟨(.vcmpeq (fld w 17 3) (fld w 10 7) (fld w 3 7) (fld w 2 1)), [(20, 6, 0)]⟩
  | 1 => .ok ⟨(.vcmpne (fld w 17 3) (fld w 10 7) (fld w 3 7) (fld w 2 1)), [(20, 6, 0)]⟩
  | 2 => .ok ⟨(.vcmplt (fld w 17 3) (fld w 10 7) (fld w 3 7) (fld w 2 1)), [(20, 6, 0)]⟩
  | _ => .ok ⟨(.vcmple (fld w 17 3) (fld w 10 7) (fld w 3 7) (fld w 2 1)), [(20, 6, 0)]⟩

/-- Major 0x16 (R250): VFADD, VFSUB, VFMUL, VFDIV. -/
def select16 (w : Nat) : Except IllCheck Form :=
  match bits w 0 2 with
  | 0 => .ok ⟨(.vfadd (fld w 24 2) (fld w 17 7) (fld w 10 7) (fld w 3 7) (fld w 2 1)), []⟩
  | 1 => .ok ⟨(.vfsub (fld w 24 2) (fld w 17 7) (fld w 10 7) (fld w 3 7) (fld w 2 1)), []⟩
  | 2 => .ok ⟨(.vfmul (fld w 24 2) (fld w 17 7) (fld w 10 7) (fld w 3 7) (fld w 2 1)), []⟩
  | _ => .ok ⟨(.vfdiv (fld w 24 2) (fld w 17 7) (fld w 10 7) (fld w 3 7) (fld w 2 1)), []⟩

/-- Major 0x17 (R250): VFMIN, VFMAX, VFMINNUM, VFMAXNUM. -/
def select17 (w : Nat) : Except IllCheck Form :=
  match bits w 0 2 with
  | 0 => .ok ⟨(.vfmin (fld w 17 7) (fld w 10 7) (fld w 3 7) (fld w 2 1)), [(24, 2, 0)]⟩
  | 1 => .ok ⟨(.vfmax (fld w 17 7) (fld w 10 7) (fld w 3 7) (fld w 2 1)), [(24, 2, 0)]⟩
  | 2 => .ok ⟨(.vfminnum (fld w 17 7) (fld w 10 7) (fld w 3 7) (fld w 2 1)), [(24, 2, 0)]⟩
  | _ => .ok ⟨(.vfmaxnum (fld w 17 7) (fld w 10 7) (fld w 3 7) (fld w 2 1)), [(24, 2, 0)]⟩

/-- Major 0x18 (R250): VSEL, VBCAST, VCLAMP, VCSIGN. -/
def select18 (w : Nat) : Except IllCheck Form :=
  match bits w 0 2 with
  | 0 => .ok ⟨(.vsel (fld w 17 7) (fld w 10 7) (fld w 3 7) (fld w 2 1)), [(24, 2, 0)]⟩
  | 1 => .ok ⟨(.vbcast (fld w 17 7) (fld w 10 7) (fld w 3 6)), [(2, 1, 1), (9, 1, 0), (24, 2, 0)]⟩
  | 2 => .ok ⟨(.vclamp (fld w 17 7) (fld w 10 7) (fld w 3 7) (fld w 2 1)), [(24, 2, 0)]⟩
  | _ => .ok ⟨(.vcsign (fld w 17 7) (fld w 10 7) (fld w 3 7) (fld w 2 1)), [(24, 2, 0)]⟩

/-- Major 0x19 (R250): VDOT4. -/
def select19 (w : Nat) : Except IllCheck Form :=
  .ok ⟨(.vdot4 (fld w 17 7) (fld w 10 7) (fld w 3 7) (fld w 2 1) (fld w 1 1) (fld w 0 1)), [(24, 2, 0)]⟩

/-- Major 0x1A (R250): VDOT8. -/
def select1A (w : Nat) : Except IllCheck Form :=
  .ok ⟨(.vdot8 (fld w 17 7) (fld w 10 7) (fld w 3 7) (fld w 2 1) (fld w 1 1) (fld w 0 1)), [(24, 2, 0)]⟩

/-- Major 0x1B (R250): VMOV, VNEG, VABS, VNOT, VCLZ, VPOPC, VBREV, VFRACT, VFLOOR, VCEIL, VTRUNC and the rest of the group. -/
def select1B (w : Nat) : Except IllCheck Form :=
  match bits w 0 10 with
  | 0 => .ok ⟨(.vmov (fld w 17 7) (fld w 10 7)), [(24, 2, 0)]⟩
  | 1 => .ok ⟨(.vneg (fld w 17 7) (fld w 10 7)), [(24, 2, 0)]⟩
  | 2 => .ok ⟨(.vabs (fld w 17 7) (fld w 10 7)), [(24, 2, 0)]⟩
  | 3 => .ok ⟨(.vnot (fld w 17 7) (fld w 10 7)), [(24, 2, 0)]⟩
  | 4 => .ok ⟨(.vclz (fld w 17 7) (fld w 10 7)), [(24, 2, 0)]⟩
  | 5 => .ok ⟨(.vpopc (fld w 17 7) (fld w 10 7)), [(24, 2, 0)]⟩
  | 6 => .ok ⟨(.vbrev (fld w 17 7) (fld w 10 7)), [(24, 2, 0)]⟩
  | 7 => .ok ⟨(.vfract (fld w 17 7) (fld w 10 7)), [(24, 2, 0)]⟩
  | 8 => .ok ⟨(.vfloor (fld w 17 7) (fld w 10 7)), [(24, 2, 0)]⟩
  | 9 => .ok ⟨(.vceil (fld w 17 7) (fld w 10 7)), [(24, 2, 0)]⟩
  | 10 => .ok ⟨(.vtrunc (fld w 17 7) (fld w 10 7)), [(24, 2, 0)]⟩
  | 11 => .ok ⟨(.vrint (fld w 24 2) (fld w 17 7) (fld w 10 7)), []⟩
  | 12 => .ok ⟨(.vrcp (fld w 24 2) (fld w 17 7) (fld w 10 7)), []⟩
  | 13 => .ok ⟨(.vrsq (fld w 24 2) (fld w 17 7) (fld w 10 7)), []⟩
  | 14 => .ok ⟨(.vsqrt (fld w 24 2) (fld w 17 7) (fld w 10 7)), []⟩
  | 15 => .ok ⟨(.vexp2 (fld w 24 2) (fld w 17 7) (fld w 10 7)), []⟩
  | 16 => .ok ⟨(.vlog2 (fld w 24 2) (fld w 17 7) (fld w 10 7)), []⟩
  | 17 => .ok ⟨(.vsin (fld w 24 2) (fld w 17 7) (fld w 10 7)), []⟩
  | 18 => .ok ⟨(.vcos (fld w 24 2) (fld w 17 7) (fld w 10 7)), []⟩
  | 19 => .ok ⟨(.vtanh (fld w 24 2) (fld w 17 7) (fld w 10 7)), []⟩
  | 20 => .ok ⟨(.vfclass (fld w 17 7) (fld w 10 7)), [(24, 2, 0)]⟩
  | 21 => .ok ⟨(.vlaneid (fld w 17 7)), [(10, 7, 0), (24, 2, 0)]⟩
  | _ => .error .selector

/-- Major 0x1C (R250): VCVT, VCVTS. -/
def select1C (w : Nat) : Except IllCheck Form :=
  match bits w 6 4 with
  | 0 => .ok ⟨(.vcvt (fld w 24 2) (fld w 17 7) (fld w 10 7) (fld w 0 6)), []⟩
  | 1 => .ok ⟨(.vcvts (fld w 24 2) (fld w 17 7) (fld w 10 7) (fld w 0 6)), []⟩
  | _ => .error .selector

/-- Major 0x1D (R250): VSHFL, VSHFLX, VSHFLUP, VSHFLDN. -/
def select1D (w : Nat) : Except IllCheck Form :=
  match bits w 0 2 with
  | 0 => .ok ⟨(.vshfl (fld w 17 7) (fld w 10 7) (fld w 3 7) (fld w 2 1)), [(24, 2, 0)]⟩
  | 1 => .ok ⟨(.vshflx (fld w 17 7) (fld w 10 7) (fld w 3 7) (fld w 2 1)), [(24, 2, 0)]⟩
  | 2 => .ok ⟨(.vshflup (fld w 17 7) (fld w 10 7) (fld w 3 7) (fld w 2 1)), [(24, 2, 0)]⟩
  | _ => .ok ⟨(.vshfldn (fld w 17 7) (fld w 10 7) (fld w 3 7) (fld w 2 1)), [(24, 2, 0)]⟩

/-- Major 0x1E (R250): VRSUM, VRMIN, VRMAX, VRAND, VROR, VRXOR, VBALLOT, VFIRST. -/
def select1E (w : Nat) : Except IllCheck Form :=
  match bits w 0 10 with
  | 0 => .ok ⟨(.vrsum (fld w 24 2) (fld w 17 6) (fld w 10 7)), [(23, 1, 0)]⟩
  | 1 => .ok ⟨(.vrmin (fld w 17 6) (fld w 10 7)), [(23, 3, 0)]⟩
  | 2 => .ok ⟨(.vrmax (fld w 17 6) (fld w 10 7)), [(23, 3, 0)]⟩
  | 3 => .ok ⟨(.vrand (fld w 17 6) (fld w 10 7)), [(23, 3, 0)]⟩
  | 4 => .ok ⟨(.vror (fld w 17 6) (fld w 10 7)), [(23, 3, 0)]⟩
  | 5 => .ok ⟨(.vrxor (fld w 17 6) (fld w 10 7)), [(23, 3, 0)]⟩
  | 6 => .ok ⟨(.vballot (fld w 17 6) (fld w 10 7)), [(23, 3, 0)]⟩
  | 7 => .ok ⟨(.vfirst (fld w 17 6) (fld w 10 7)), [(23, 3, 0)]⟩
  | _ => .error .selector

/-- Major 0x1F (R250): VBFE, VBFI, VPERM, VFUNNEL. -/
def select1F (w : Nat) : Except IllCheck Form :=
  match bits w 0 2 with
  | 0 => .ok ⟨(.vbfe (fld w 17 7) (fld w 10 7) (fld w 3 7) (fld w 2 1)), [(24, 2, 0)]⟩
  | 1 => .ok ⟨(.vbfi (fld w 17 7) (fld w 10 7) (fld w 3 7) (fld w 2 1)), [(24, 2, 0)]⟩
  | 2 => .ok ⟨(.vperm (fld w 17 7) (fld w 10 7) (fld w 3 7) (fld w 2 1)), [(24, 2, 0)]⟩
  | _ => .ok ⟨(.vfunnel (fld w 17 7) (fld w 10 7) (fld w 3 7) (fld w 2 1)), [(24, 2, 0)]⟩

/-- Major 0x20 (R250): PAND, POR, PXOR, PANDN, PNOT, PMOVS, SMOVP, PSET, PCLR. -/
def select20 (w : Nat) : Except IllCheck Form :=
  match bits w 0 8 with
  | 0 => .ok ⟨(.pand (fld w 20 3) (fld w 14 3) (fld w 8 3)), [(11, 3, 0), (17, 3, 0), (23, 3, 0)]⟩
  | 1 => .ok ⟨(.por (fld w 20 3) (fld w 14 3) (fld w 8 3)), [(11, 3, 0), (17, 3, 0), (23, 3, 0)]⟩
  | 2 => .ok ⟨(.pxor (fld w 20 3) (fld w 14 3) (fld w 8 3)), [(11, 3, 0), (17, 3, 0), (23, 3, 0)]⟩
  | 3 => .ok ⟨(.pandn (fld w 20 3) (fld w 14 3) (fld w 8 3)), [(11, 3, 0), (17, 3, 0), (23, 3, 0)]⟩
  | 4 => .ok ⟨(.pnot (fld w 20 3) (fld w 14 3)), [(8, 6, 0), (17, 3, 0), (23, 3, 0)]⟩
  | 5 => .ok ⟨(.pmovs (fld w 20 3) (fld w 14 6)), [(8, 6, 0), (23, 3, 0)]⟩
  | 6 => .ok ⟨(.smovp (fld w 20 6) (fld w 14 3)), [(8, 6, 0), (17, 3, 0)]⟩
  | 7 => .ok ⟨(.pset (fld w 20 3)), [(8, 12, 0), (23, 3, 0)]⟩
  | 8 => .ok ⟨(.pclr (fld w 20 3)), [(8, 12, 0), (23, 3, 0)]⟩
  | _ => .error .selector

/-- Major 0x21 (R250): RAND32, RANDF. -/
def select21 (w : Nat) : Except IllCheck Form :=
  match bits w 0 2 with
  | 0 => .ok ⟨(.rand32 (fld w 17 7) (fld w 10 7) (fld w 3 7) (fld w 2 1)), [(24, 2, 0)]⟩
  | 1 => .ok ⟨(.randf (fld w 17 7) (fld w 10 7) (fld w 3 7) (fld w 2 1)), [(24, 2, 0)]⟩
  | _ => .error .selector

/-- Major 0x22 (R250): LD. -/
def select22 (w : Nat) : Except IllCheck Form :=
  .ok ⟨(.ld (fld w 19 7) (fld w 13 6) (fld w 6 7) (fld w 4 2) (fld w 3 1) (fld w 0 3)), []⟩

/-- Major 0x23 (R250): ST. -/
def select23 (w : Nat) : Except IllCheck Form :=
  .ok ⟨(.st (fld w 19 7) (fld w 13 6) (fld w 6 7) (fld w 4 2) (fld w 0 3)), [(3, 1, 0)]⟩

/-- Major 0x24 (R250): SLD. -/
def select24 (w : Nat) : Except IllCheck Form :=
  .ok ⟨(.sld (fld w 20 6) (fld w 14 6) (fld w 0 14)), []⟩

/-- Major 0x25 (R250): SST. -/
def select25 (w : Nat) : Except IllCheck Form :=
  .ok ⟨(.sst (fld w 20 6) (fld w 14 6) (fld w 0 14)), []⟩

/-- Major 0x26 (R250): LDT, STT. -/
def select26 (w : Nat) : Except IllCheck Form :=
  match bits w 0 1 with
  | 0 => .ok ⟨(.ldt (fld w 19 7) (fld w 13 6) (fld w 6 6)), [(1, 5, 0), (12, 1, 0)]⟩
  | _ => .ok ⟨(.stt (fld w 19 7) (fld w 13 6) (fld w 6 6)), [(1, 5, 0), (12, 1, 0)]⟩

/-- Major 0x27 (R250): ATOM. -/
def select27 (w : Nat) : Except IllCheck Form :=
  .ok ⟨(.atom (fld w 19 7) (fld w 13 6) (fld w 6 7) (fld w 5 1) (fld w 4 1) (fld w 0 4)), []⟩

/-- Major 0x28 (R250): SATOM. -/
def select28 (w : Nat) : Except IllCheck Form :=
  .ok ⟨(.satom (fld w 20 6) (fld w 14 6) (fld w 8 6) (fld w 5 1) (fld w 4 1) (fld w 0 4)), [(6, 2, 0)]⟩

/-- Major 0x29 (R250): FENCE_ACQ, FENCE_REL, FENCE_AR, FENCE_SC, FENCE_TX. -/
def select29 (w : Nat) : Except IllCheck Form :=
  match bits w 23 3 with
  | 0 => .ok ⟨(.fenceAcq (fld w 20 3)), [(0, 20, 0)]⟩
  | 1 => .ok ⟨(.fenceRel (fld w 20 3)), [(0, 20, 0)]⟩
  | 2 => .ok ⟨(.fenceAr (fld w 20 3)), [(0, 20, 0)]⟩
  | 3 => .ok ⟨(.fenceSc (fld w 20 3)), [(0, 20, 0)]⟩
  | 4 => .ok ⟨(.fenceTx (fld w 20 3)), [(0, 20, 0)]⟩
  | _ => .error .selector

/-- Major 0x2A (R250): LDACQ. -/
def select2A (w : Nat) : Except IllCheck Form :=
  if bits w 2 1 ≠ 0 then .error .selector
  else .ok ⟨(.ldacq (fld w 19 7) (fld w 13 6) (fld w 6 7) (fld w 4 2) (fld w 3 1) (fld w 0 2)), []⟩

/-- Major 0x2B (R250): STREL. -/
def select2B (w : Nat) : Except IllCheck Form :=
  if bits w 2 1 ≠ 0 then .error .selector
  else .ok ⟨(.strel (fld w 19 7) (fld w 13 6) (fld w 6 7) (fld w 4 2) (fld w 0 2)), [(3, 1, 0)]⟩

/-- Major 0x2C (R250): CPSTEP, CPISSUE, HWAITF, HWAITE, HREL, HREL_PUB, HQUERY. -/
def select2C (w : Nat) : Except IllCheck Form :=
  match bits w 0 7 with
  | 0 => .ok ⟨(.cpstep (fld w 7 7)), [(14, 12, 0)]⟩
  | 1 => .ok ⟨(.cpissue (fld w 20 6)), [(7, 13, 0)]⟩
  | 2 => .ok ⟨(.hwaitf (fld w 7 6)), [(13, 13, 0)]⟩
  | 3 => .ok ⟨(.hwaite (fld w 7 6)), [(13, 13, 0)]⟩
  | 4 => if bits w 14 1 = 1 then .ok ⟨(.hrelPub (fld w 7 6)), [(13, 13, 2)]⟩
    else .ok ⟨(.hrel (fld w 7 6)), [(13, 13, 0)]⟩
  | 5 => .ok ⟨(.hquery (fld w 20 6) (fld w 7 6)), [(13, 7, 0)]⟩
  | _ => .error .selector

/-- Major 0x2D (R250): MMA, MMAZ, MMAT. -/
def select2D (w : Nat) : Except IllCheck Form :=
  if bits w 1 1 ≠ 0 ∨ bits w 3 1 ≠ 0 then .error .selector
  else match bits w 4 3 with
  | 0 => .ok ⟨(.mma (fld w 20 6) (fld w 14 6) (fld w 7 3) (fld w 2 1) (fld w 0 1)), [(1, 1, 0), (3, 1, 0), (10, 4, 0)]⟩
  | 1 => .ok ⟨(.mmaz (fld w 20 6) (fld w 14 6) (fld w 7 3) (fld w 2 1) (fld w 0 1)), [(1, 1, 0), (3, 1, 0), (10, 4, 0)]⟩
  | 2 => .ok ⟨(.mmat (fld w 20 6) (fld w 14 6) (fld w 10 1) (fld w 9 1)), [(0, 4, 0), (7, 2, 0), (11, 3, 0)]⟩
  | _ => .error .selector

/-- Major 0x2E (R250): MFENCE, MWAIT, MZERO, MDRAIN, MDRAINA, MLOAD, MREAD, MWRITE. -/
def select2E (w : Nat) : Except IllCheck Form :=
  match bits w 0 7 with
  | 0 => .ok ⟨(.mfence (fld w 20 6)), [(7, 13, 0)]⟩
  | 1 => .ok ⟨(.mwait (fld w 20 6)), [(7, 13, 0)]⟩
  | 2 => .ok ⟨(.mzero (fld w 7 3)), [(10, 16, 0)]⟩
  | 3 => .ok ⟨(.mdrain (fld w 20 6) (fld w 10 2) (fld w 7 3)), [(12, 8, 0)]⟩
  | 4 => .ok ⟨(.mdraina (fld w 20 6) (fld w 10 2) (fld w 7 3)), [(12, 8, 0)]⟩
  | 5 => .ok ⟨(.mload (fld w 20 6) (fld w 7 3)), [(10, 10, 0)]⟩
  | 6 => .ok ⟨(.mread (fld w 20 6) (fld w 7 7)), [(14, 6, 0)]⟩
  | 7 => .ok ⟨(.mwrite (fld w 20 6) (fld w 7 7)), [(14, 6, 0)]⟩
  | _ => .error .selector

/-- Major 0x2F (R250): RQUERY, BQUERY, CQUERY, RCOMMIT, RRESUME, RSTAT. -/
def select2F (w : Nat) : Except IllCheck Form :=
  match bits w 0 7 with
  | 0 => .ok ⟨(.rquery (fld w 20 6) (fld w 14 2) (fld w 7 7)), [(16, 4, 0)]⟩
  | 1 => .ok ⟨(.bquery (fld w 20 6) (fld w 14 6)), [(7, 7, 0)]⟩
  | 2 => .ok ⟨(.cquery (fld w 20 6) (fld w 14 2) (fld w 7 7)), [(16, 4, 0)]⟩
  | 3 => .ok ⟨(.rcommit (fld w 14 2)), [(7, 7, 0), (16, 10, 0)]⟩
  | 4 => .ok ⟨(.rresume (fld w 14 2)), [(7, 7, 0), (16, 10, 0)]⟩
  | 5 => .ok ⟨(.rstat (fld w 20 6) (fld w 14 2)), [(7, 7, 0), (16, 4, 0)]⟩
  | _ => .error .selector

/-- Major 0x30 (R250): TEXS, TEXD, TEXC, TEXL, TEXG. -/
def select30 (w : Nat) : Except IllCheck Form :=
  match bits w 0 7 with
  | 0 => .ok ⟨(.texs (fld w 20 6) (fld w 7 7)), [(14, 6, 0)]⟩
  | 1 => .ok ⟨(.texd (fld w 20 6) (fld w 7 7)), [(14, 6, 0)]⟩
  | 2 => .ok ⟨(.texc (fld w 20 6) (fld w 7 7)), [(14, 6, 0)]⟩
  | 3 => .ok ⟨(.texl (fld w 20 6) (fld w 7 7)), [(14, 6, 0)]⟩
  | 4 => .ok ⟨(.texg (fld w 20 6) (fld w 14 2) (fld w 7 7)), [(16, 4, 0)]⟩
  | _ => .error .selector

/-- Major 0x31 (R250): RASTT, RFRAME, RTEST_ACC, RTEST_REJ, RCLEAR. -/
def select31 (w : Nat) : Except IllCheck Form :=
  match bits w 0 7 with
  | 0 => .ok ⟨(.rastt (fld w 20 6) (fld w 7 7)), [(14, 6, 0)]⟩
  | 1 => .ok ⟨(.rframe (fld w 20 6) (fld w 14 6)), [(7, 7, 0)]⟩
  | 2 => if bits w 14 1 = 1 then .ok ⟨(.rtestAcc (fld w 7 7)), [(14, 12, 1)]⟩
    else .ok ⟨(.rtestRej (fld w 7 7)), [(14, 12, 0)]⟩
  | 3 => .ok ⟨(.rclear (fld w 20 6)), [(7, 13, 0)]⟩
  | _ => .error .selector

/-- Major 0x32 (R250): FBAR, FARRIVE, FWAITB, WINDOW. -/
def select32 (w : Nat) : Except IllCheck Form :=
  match bits w 23 3 with
  | 0 => .ok ⟨(.fbar (fld w 21 2)), [(0, 21, 0)]⟩
  | 1 => .ok ⟨(.farrive (fld w 21 2)), [(0, 21, 0)]⟩
  | 2 => .ok ⟨(.fwaitb (fld w 21 2)), [(0, 21, 0)]⟩
  | 3 => .ok ⟨(.window (fld w 17 6)), [(0, 17, 0)]⟩
  | _ => .error .selector

/-- Major 0x33 (R250): NBINIT, NBARRIVE, NBWAIT, NBSYNC. -/
def select33 (w : Nat) : Except IllCheck Form :=
  match bits w 23 3 with
  | 0 => .ok ⟨(.nbinit (fld w 15 8) (fld w 9 6)), [(0, 9, 0)]⟩
  | 1 => .ok ⟨(.nbarrive (fld w 15 8)), [(0, 15, 0)]⟩
  | 2 => .ok ⟨(.nbwait (fld w 15 8)), [(0, 15, 0)]⟩
  | 3 => .ok ⟨(.nbsync (fld w 15 8)), [(0, 15, 0)]⟩
  | _ => .error .selector

/-- Major 0x34 (R250): CONT, RETIRE, ENQ, LAUNCH. -/
def select34 (w : Nat) : Except IllCheck Form :=
  match bits w 0 7 with
  | 0 => .ok ⟨(.cont (fld w 20 6) (fld w 7 7)), [(14, 6, 0)]⟩
  | 1 => .ok ⟨.retire, [(7, 19, 0)]⟩
  | 2 => .ok ⟨(.enq (fld w 20 6)), [(7, 13, 0)]⟩
  | 3 => .ok ⟨(.launch (fld w 20 6) (fld w 14 6)), [(7, 7, 0)]⟩
  | _ => .error .selector

/-- Major 0x35 (R250): SOLICIT, REPLY, CWAIT, CREAD, TREG, TDROP, TMOVE. -/
def select35 (w : Nat) : Except IllCheck Form :=
  match bits w 0 7 with
  | 0 => .ok ⟨(.solicit (fld w 20 6) (fld w 7 6)), [(13, 7, 0)]⟩
  | 1 => .ok ⟨(.reply (fld w 7 7)), [(14, 12, 0)]⟩
  | 2 => .ok ⟨(.cwait (fld w 20 6) (fld w 7 6)), [(13, 7, 0)]⟩
  | 3 => .ok ⟨(.cread (fld w 20 6) (fld w 7 6)), [(13, 7, 0)]⟩
  | 4 => .ok ⟨(.treg (fld w 20 6) (fld w 14 6) (fld w 7 6)), [(13, 1, 0)]⟩
  | 5 => .ok ⟨(.tdrop (fld w 20 6)), [(7, 13, 0)]⟩
  | 6 => .ok ⟨(.tmove (fld w 20 6) (fld w 14 6) (fld w 7 6)), [(13, 1, 0)]⟩
  | _ => .error .selector

/-- Major 0x36 (R250): CRDECL, CRADD, CRCLOSE. -/
def select36 (w : Nat) : Except IllCheck Form :=
  match bits w 0 7 with
  | 0 => .ok ⟨(.crdecl (fld w 20 6) (fld w 14 6)), [(7, 7, 0)]⟩
  | 1 => .ok ⟨(.cradd (fld w 20 6) (fld w 7 7)), [(14, 6, 0)]⟩
  | 2 => .ok ⟨(.crclose (fld w 20 6)), [(7, 13, 0)]⟩
  | _ => .error .selector

/-- Major 0x37 (R250): TLBINV, REGION, BANKCFG, LEAVE, ERRLOG. -/
def select37 (w : Nat) : Except IllCheck Form :=
  match bits w 0 8 with
  | 0 => .ok ⟨(.tlbinv (fld w 14 6) (fld w 8 6)), [(20, 6, 0)]⟩
  | 1 => .ok ⟨(.region (fld w 20 6) (fld w 14 6) (fld w 8 6)), []⟩
  | 2 => .ok ⟨(.bankcfg (fld w 20 6) (fld w 14 6)), [(8, 6, 0)]⟩
  | 3 => .ok ⟨(.leave (fld w 20 6) (fld w 14 6)), [(8, 6, 0)]⟩
  | 4 => .ok ⟨(.errlog (fld w 20 6) (fld w 14 6) (fld w 8 6)), []⟩
  | _ => .error .selector

/-- Major 0x38 (R250): TAGSET, TAGGET. -/
def select38 (w : Nat) : Except IllCheck Form :=
  match bits w 0 8 with
  | 0 => .ok ⟨(.tagset (fld w 14 6) (fld w 8 6)), [(20, 6, 0)]⟩
  | 1 => .ok ⟨(.tagget (fld w 20 6) (fld w 14 6)), [(8, 6, 0)]⟩
  | _ => .error .selector

/-- Chooses the form of a word by its major and selector (R250); checks 1 and 2 of R251 but for
the codes `Instr.reservedCode` names. A word whose bits [31:28] are 0xF is always VFMA (R246). -/
def select (w : Nat) : Except IllCheck Form :=
  if bits w 28 4 = 15 then .ok ⟨.vfma (fld w 21 7) (fld w 14 7) (fld w 7 7) (fld w 0 7), []⟩
  else match bits w 26 6 with
  | 0 => select00 w
  | 1 => select01 w
  | 2 => select02 w
  | 3 => select03 w
  | 4 => select04 w
  | 5 => select05 w
  | 6 => select06 w
  | 7 => select07 w
  | 8 => select08 w
  | 9 => select09 w
  | 10 => select0A w
  | 11 => select0B w
  | 12 => select0C w
  | 13 => select0D w
  | 14 => select0E w
  | 15 => select0F w
  | 16 => select10 w
  | 17 => select11 w
  | 18 => select12 w
  | 19 => select13 w
  | 20 => select14 w
  | 21 => select15 w
  | 22 => select16 w
  | 23 => select17 w
  | 24 => select18 w
  | 25 => select19 w
  | 26 => select1A w
  | 27 => select1B w
  | 28 => select1C w
  | 29 => select1D w
  | 30 => select1E w
  | 31 => select1F w
  | 32 => select20 w
  | 33 => select21 w
  | 34 => select22 w
  | 35 => select23 w
  | 36 => select24 w
  | 37 => select25 w
  | 38 => select26 w
  | 39 => select27 w
  | 40 => select28 w
  | 41 => select29 w
  | 42 => select2A w
  | 43 => select2B w
  | 44 => select2C w
  | 45 => select2D w
  | 46 => select2E w
  | 47 => select2F w
  | 48 => select30 w
  | 49 => select31 w
  | 50 => select32 w
  | 51 => select33 w
  | 52 => select34 w
  | 53 => select35 w
  | 54 => select36 w
  | 55 => select37 w
  | 56 => select38 w
  | _ => .error .major

/-- The instruction of a word, or the first of checks 1 to 4 of R251 that it fails. -/
def decodeNat (w : Nat) : Except IllCheck Instr :=
  match select w with
  | .error c => .error c
  | .ok f =>
    if f.instr.reservedCode then .error .selector
    else if !fixedOk w f.fixed || f.instr.badField then .error .field
    else if f.instr.badRegister then .error .register
    else .ok f.instr

/-- The instruction of a 32-bit word. -/
def decode (w : BitVec 32) : Except IllCheck Instr := decodeNat w.toNat

/-- The number of an instruction's word: the value its form fixes plus each field at its place
(R246, R250). Events have no word. -/
def encodeNat : Instr → Option Nat
  | .nop => some (0x0)
  | .exit => some (0x100000)
  | .trap i => some (0x200000 + i.toNat)
  | .tret => some (0x300000)
  | .bkpt => some (0x400000)
  | .hcall a => some (0x500000 + a.toNat * 16384)
  | .yield => some (0x600000)
  | .halt => some (0x700000)
  | .cede => some (0x4000000)
  | .mode v => some (0x8000000 + v.toNat)
  | .modeField f v => some (0xA000000 + f.toNat * 2097152 + v.toNat)
  | .modew a => some (0xC000000 + a.toNat * 16384)
  | .moder d => some (0xC000001 + d.toNat * 1048576)
  | .fstr d => some (0xC000002 + d.toNat * 1048576)
  | .fstw a => some (0xC000003 + a.toNat * 16384)
  | .wait l s c m => some (0x10000000 + l.toNat * 1048576 + s.toNat * 16384 + c.toNat * 256 + m.toNat * 4)
  | .waitx a c => some (0x14000000 + a.toNat * 16384 + c.toNat)
  | .bra c o => some (0x18000000 + c.toNat * 4194304 + o.toNat)
  | .call c o => some (0x1C000000 + c.toNat * 4194304 + o.toNat)
  | .ifOp p n o => some (0x20000000 + p.toNat * 1048576 + n.toNat * 524288 + o.toNat)
  | .elseOp o => some (0x20800000 + o.toNat)
  | .endif => some (0x21000000)
  | .loop o => some (0x21800000 + o.toNat)
  | .breakOp p n => some (0x22000000 + p.toNat * 1048576 + n.toNat * 524288)
  | .lcont p n => some (0x22800000 + p.toNat * 1048576 + n.toNat * 524288)
  | .endloop p n o => some (0x23000000 + p.toNat * 1048576 + n.toNat * 524288 + o.toNat)
  | .brx a => some (0x24000000 + a.toNat * 16384)
  | .callx c a => some (0x24000001 + c.toNat * 1048576 + a.toNat * 16384)
  | .ret a => some (0x24000002 + a.toNat * 16384)
  | .add d a b => some (0x28000000 + d.toNat * 1048576 + a.toNat * 16384 + b.toNat * 256)
  | .sub d a b => some (0x28000001 + d.toNat * 1048576 + a.toNat * 16384 + b.toNat * 256)
  | .mul d a b => some (0x28000002 + d.toNat * 1048576 + a.toNat * 16384 + b.toNat * 256)
  | .mulh d a b => some (0x28000003 + d.toNat * 1048576 + a.toNat * 16384 + b.toNat * 256)
  | .mulhn d a b => some (0x28000004 + d.toNat * 1048576 + a.toNat * 16384 + b.toNat * 256)
  | .div d a b => some (0x28000005 + d.toNat * 1048576 + a.toNat * 16384 + b.toNat * 256)
  | .divn d a b => some (0x28000006 + d.toNat * 1048576 + a.toNat * 16384 + b.toNat * 256)
  | .rem d a b => some (0x28000007 + d.toNat * 1048576 + a.toNat * 16384 + b.toNat * 256)
  | .and d a b => some (0x28000008 + d.toNat * 1048576 + a.toNat * 16384 + b.toNat * 256)
  | .or d a b => some (0x28000009 + d.toNat * 1048576 + a.toNat * 16384 + b.toNat * 256)
  | .xor d a b => some (0x2800000A + d.toNat * 1048576 + a.toNat * 16384 + b.toNat * 256)
  | .andn d a b => some (0x2800000B + d.toNat * 1048576 + a.toNat * 16384 + b.toNat * 256)
  | .shl d a b => some (0x2800000C + d.toNat * 1048576 + a.toNat * 16384 + b.toNat * 256)
  | .shr d a b => some (0x2800000D + d.toNat * 1048576 + a.toNat * 16384 + b.toNat * 256)
  | .sar d a b => some (0x2800000E + d.toNat * 1048576 + a.toNat * 16384 + b.toNat * 256)
  | .min d a b => some (0x2800000F + d.toNat * 1048576 + a.toNat * 16384 + b.toNat * 256)
  | .max d a b => some (0x28000010 + d.toNat * 1048576 + a.toNat * 16384 + b.toNat * 256)
  | .minn d a b => some (0x28000011 + d.toNat * 1048576 + a.toNat * 16384 + b.toNat * 256)
  | .maxn d a b => some (0x28000012 + d.toNat * 1048576 + a.toNat * 16384 + b.toNat * 256)
  | .cmp d a b => some (0x28000013 + d.toNat * 1048576 + a.toNat * 16384 + b.toNat * 256)
  | .cmpn d a b => some (0x28000014 + d.toNat * 1048576 + a.toNat * 16384 + b.toNat * 256)
  | .clz d a => some (0x28000015 + d.toNat * 1048576 + a.toNat * 16384)
  | .popc d a => some (0x28000016 + d.toNat * 1048576 + a.toNat * 16384)
  | .mov d a => some (0x28000017 + d.toNat * 1048576 + a.toNat * 16384)
  | .addi d a i => some (0x2C000000 + d.toNat * 1048576 + a.toNat * 16384 + i.toNat)
  | .andi d a i => some (0x30000000 + d.toNat * 1048576 + a.toNat * 16384 + i.toNat)
  | .ori d a i => some (0x34000000 + d.toNat * 1048576 + a.toNat * 16384 + i.toNat)
  | .cmpi d a i => some (0x38000000 + d.toNat * 1048576 + a.toNat * 16384 + i.toNat)
  | .movz d h i => some (0x3C000000 + d.toNat * 1048576 + h.toNat * 262144 + i.toNat)
  | .movk d h i => some (0x3C010000 + d.toNat * 1048576 + h.toNat * 262144 + i.toNat)
  | .movs d h i => some (0x3C020000 + d.toNat * 1048576 + h.toNat * 262144 + i.toNat)
  | .srd d n => some (0x40000000 + d.toNat * 1048576 + n.toNat * 256)
  | .swr a n => some (0x40000001 + a.toNat * 16384 + n.toNat * 256)
  | .vadd d a b s => some (0x44000000 + d.toNat * 131072 + a.toNat * 1024 + b.toNat * 8 + s.toNat * 4)
  | .vsub d a b s => some (0x44000001 + d.toNat * 131072 + a.toNat * 1024 + b.toNat * 8 + s.toNat * 4)
  | .vmul d a b s => some (0x44000002 + d.toNat * 131072 + a.toNat * 1024 + b.toNat * 8 + s.toNat * 4)
  | .vmulh d a b s => some (0x44000003 + d.toNat * 131072 + a.toNat * 1024 + b.toNat * 8 + s.toNat * 4)
  | .vand d a b s => some (0x48000000 + d.toNat * 131072 + a.toNat * 1024 + b.toNat * 8 + s.toNat * 4)
  | .vor d a b s => some (0x48000001 + d.toNat * 131072 + a.toNat * 1024 + b.toNat * 8 + s.toNat * 4)
  | .vxor d a b s => some (0x48000002 + d.toNat * 131072 + a.toNat * 1024 + b.toNat * 8 + s.toNat * 4)
  | .vandn d a b s => some (0x48000003 + d.toNat * 131072 + a.toNat * 1024 + b.toNat * 8 + s.toNat * 4)
  | .vshl d a b s => some (0x4C000000 + d.toNat * 131072 + a.toNat * 1024 + b.toNat * 8 + s.toNat * 4)
  | .vshr d a b s => some (0x4C000001 + d.toNat * 131072 + a.toNat * 1024 + b.toNat * 8 + s.toNat * 4)
  | .vsar d a b s => some (0x4C000002 + d.toNat * 131072 + a.toNat * 1024 + b.toNat * 8 + s.toNat * 4)
  | .vrot d a b s => some (0x4C000003 + d.toNat * 131072 + a.toNat * 1024 + b.toNat * 8 + s.toNat * 4)
  | .vmin d a b s => some (0x50000000 + d.toNat * 131072 + a.toNat * 1024 + b.toNat * 8 + s.toNat * 4)
  | .vmax d a b s => some (0x50000001 + d.toNat * 131072 + a.toNat * 1024 + b.toNat * 8 + s.toNat * 4)
  | .vabsd d a b s => some (0x50000002 + d.toNat * 131072 + a.toNat * 1024 + b.toNat * 8 + s.toNat * 4)
  | .vavg d a b s => some (0x50000003 + d.toNat * 131072 + a.toNat * 1024 + b.toNat * 8 + s.toNat * 4)
  | .vcmpeq d a b s => some (0x54000000 + d.toNat * 131072 + a.toNat * 1024 + b.toNat * 8 + s.toNat * 4)
  | .vcmpne d a b s => some (0x54000001 + d.toNat * 131072 + a.toNat * 1024 + b.toNat * 8 + s.toNat * 4)
  | .vcmplt d a b s => some (0x54000002 + d.toNat * 131072 + a.toNat * 1024 + b.toNat * 8 + s.toNat * 4)
  | .vcmple d a b s => some (0x54000003 + d.toNat * 131072 + a.toNat * 1024 + b.toNat * 8 + s.toNat * 4)
  | .vfadd r d a b s => some (0x58000000 + r.toNat * 16777216 + d.toNat * 131072 + a.toNat * 1024 + b.toNat * 8 + s.toNat * 4)
  | .vfsub r d a b s => some (0x58000001 + r.toNat * 16777216 + d.toNat * 131072 + a.toNat * 1024 + b.toNat * 8 + s.toNat * 4)
  | .vfmul r d a b s => some (0x58000002 + r.toNat * 16777216 + d.toNat * 131072 + a.toNat * 1024 + b.toNat * 8 + s.toNat * 4)
  | .vfdiv r d a b s => some (0x58000003 + r.toNat * 16777216 + d.toNat * 131072 + a.toNat * 1024 + b.toNat * 8 + s.toNat * 4)
  | .vfmin d a b s => some (0x5C000000 + d.toNat * 131072 + a.toNat * 1024 + b.toNat * 8 + s.toNat * 4)
  | .vfmax d a b s => some (0x5C000001 + d.toNat * 131072 + a.toNat * 1024 + b.toNat * 8 + s.toNat * 4)
  | .vfminnum d a b s => some (0x5C000002 + d.toNat * 131072 + a.toNat * 1024 + b.toNat * 8 + s.toNat * 4)
  | .vfmaxnum d a b s => some (0x5C000003 + d.toNat * 131072 + a.toNat * 1024 + b.toNat * 8 + s.toNat * 4)
  | .vsel d a b s => some (0x60000000 + d.toNat * 131072 + a.toNat * 1024 + b.toNat * 8 + s.toNat * 4)
  | .vbcast d a b => some (0x60000005 + d.toNat * 131072 + a.toNat * 1024 + b.toNat * 8)
  | .vclamp d a b s => some (0x60000002 + d.toNat * 131072 + a.toNat * 1024 + b.toNat * 8 + s.toNat * 4)
  | .vcsign d a b s => some (0x60000003 + d.toNat * 131072 + a.toNat * 1024 + b.toNat * 8 + s.toNat * 4)
  | .vdot4 d a b s y x => some (0x64000000 + d.toNat * 131072 + a.toNat * 1024 + b.toNat * 8 + s.toNat * 4 + y.toNat * 2 + x.toNat)
  | .vdot8 d a b s y x => some (0x68000000 + d.toNat * 131072 + a.toNat * 1024 + b.toNat * 8 + s.toNat * 4 + y.toNat * 2 + x.toNat)
  | .vmov d a => some (0x6C000000 + d.toNat * 131072 + a.toNat * 1024)
  | .vneg d a => some (0x6C000001 + d.toNat * 131072 + a.toNat * 1024)
  | .vabs d a => some (0x6C000002 + d.toNat * 131072 + a.toNat * 1024)
  | .vnot d a => some (0x6C000003 + d.toNat * 131072 + a.toNat * 1024)
  | .vclz d a => some (0x6C000004 + d.toNat * 131072 + a.toNat * 1024)
  | .vpopc d a => some (0x6C000005 + d.toNat * 131072 + a.toNat * 1024)
  | .vbrev d a => some (0x6C000006 + d.toNat * 131072 + a.toNat * 1024)
  | .vfract d a => some (0x6C000007 + d.toNat * 131072 + a.toNat * 1024)
  | .vfloor d a => some (0x6C000008 + d.toNat * 131072 + a.toNat * 1024)
  | .vceil d a => some (0x6C000009 + d.toNat * 131072 + a.toNat * 1024)
  | .vtrunc d a => some (0x6C00000A + d.toNat * 131072 + a.toNat * 1024)
  | .vrint r d a => some (0x6C00000B + r.toNat * 16777216 + d.toNat * 131072 + a.toNat * 1024)
  | .vrcp r d a => some (0x6C00000C + r.toNat * 16777216 + d.toNat * 131072 + a.toNat * 1024)
  | .vrsq r d a => some (0x6C00000D + r.toNat * 16777216 + d.toNat * 131072 + a.toNat * 1024)
  | .vsqrt r d a => some (0x6C00000E + r.toNat * 16777216 + d.toNat * 131072 + a.toNat * 1024)
  | .vexp2 r d a => some (0x6C00000F + r.toNat * 16777216 + d.toNat * 131072 + a.toNat * 1024)
  | .vlog2 r d a => some (0x6C000010 + r.toNat * 16777216 + d.toNat * 131072 + a.toNat * 1024)
  | .vsin r d a => some (0x6C000011 + r.toNat * 16777216 + d.toNat * 131072 + a.toNat * 1024)
  | .vcos r d a => some (0x6C000012 + r.toNat * 16777216 + d.toNat * 131072 + a.toNat * 1024)
  | .vtanh r d a => some (0x6C000013 + r.toNat * 16777216 + d.toNat * 131072 + a.toNat * 1024)
  | .vfclass d a => some (0x6C000014 + d.toNat * 131072 + a.toNat * 1024)
  | .vlaneid d => some (0x6C000015 + d.toNat * 131072)
  | .vcvt r d a t => some (0x70000000 + r.toNat * 16777216 + d.toNat * 131072 + a.toNat * 1024 + t.toNat)
  | .vcvts r d a t => some (0x70000040 + r.toNat * 16777216 + d.toNat * 131072 + a.toNat * 1024 + t.toNat)
  | .vshfl d a b s => some (0x74000000 + d.toNat * 131072 + a.toNat * 1024 + b.toNat * 8 + s.toNat * 4)
  | .vshflx d a b s => some (0x74000001 + d.toNat * 131072 + a.toNat * 1024 + b.toNat * 8 + s.toNat * 4)
  | .vshflup d a b s => some (0x74000002 + d.toNat * 131072 + a.toNat * 1024 + b.toNat * 8 + s.toNat * 4)
  | .vshfldn d a b s => some (0x74000003 + d.toNat * 131072 + a.toNat * 1024 + b.toNat * 8 + s.toNat * 4)
  | .vrsum r d a => some (0x78000000 + r.toNat * 16777216 + d.toNat * 131072 + a.toNat * 1024)
  | .vrmin d a => some (0x78000001 + d.toNat * 131072 + a.toNat * 1024)
  | .vrmax d a => some (0x78000002 + d.toNat * 131072 + a.toNat * 1024)
  | .vrand d a => some (0x78000003 + d.toNat * 131072 + a.toNat * 1024)
  | .vror d a => some (0x78000004 + d.toNat * 131072 + a.toNat * 1024)
  | .vrxor d a => some (0x78000005 + d.toNat * 131072 + a.toNat * 1024)
  | .vballot d a => some (0x78000006 + d.toNat * 131072 + a.toNat * 1024)
  | .vfirst d a => some (0x78000007 + d.toNat * 131072 + a.toNat * 1024)
  | .vbfe d a b s => some (0x7C000000 + d.toNat * 131072 + a.toNat * 1024 + b.toNat * 8 + s.toNat * 4)
  | .vbfi d a b s => some (0x7C000001 + d.toNat * 131072 + a.toNat * 1024 + b.toNat * 8 + s.toNat * 4)
  | .vperm d a b s => some (0x7C000002 + d.toNat * 131072 + a.toNat * 1024 + b.toNat * 8 + s.toNat * 4)
  | .vfunnel d a b s => some (0x7C000003 + d.toNat * 131072 + a.toNat * 1024 + b.toNat * 8 + s.toNat * 4)
  | .pand d a b => some (0x80000000 + d.toNat * 1048576 + a.toNat * 16384 + b.toNat * 256)
  | .por d a b => some (0x80000001 + d.toNat * 1048576 + a.toNat * 16384 + b.toNat * 256)
  | .pxor d a b => some (0x80000002 + d.toNat * 1048576 + a.toNat * 16384 + b.toNat * 256)
  | .pandn d a b => some (0x80000003 + d.toNat * 1048576 + a.toNat * 16384 + b.toNat * 256)
  | .pnot d a => some (0x80000004 + d.toNat * 1048576 + a.toNat * 16384)
  | .pmovs d a => some (0x80000005 + d.toNat * 1048576 + a.toNat * 16384)
  | .smovp d a => some (0x80000006 + d.toNat * 1048576 + a.toNat * 16384)
  | .pset d => some (0x80000007 + d.toNat * 1048576)
  | .pclr d => some (0x80000008 + d.toNat * 1048576)
  | .rand32 d a b s => some (0x84000000 + d.toNat * 131072 + a.toNat * 1024 + b.toNat * 8 + s.toNat * 4)
  | .randf d a b s => some (0x84000001 + d.toNat * 131072 + a.toNat * 1024 + b.toNat * 8 + s.toNat * 4)
  | .ld d a i p x z => some (0x88000000 + d.toNat * 524288 + a.toNat * 8192 + i.toNat * 64 + p.toNat * 16 + x.toNat * 8 + z.toNat)
  | .st d a i p z => some (0x8C000000 + d.toNat * 524288 + a.toNat * 8192 + i.toNat * 64 + p.toNat * 16 + z.toNat)
  | .sld d a o => some (0x90000000 + d.toNat * 1048576 + a.toNat * 16384 + o.toNat)
  | .sst d a o => some (0x94000000 + d.toNat * 1048576 + a.toNat * 16384 + o.toNat)
  | .ldt d a t => some (0x98000000 + d.toNat * 524288 + a.toNat * 8192 + t.toNat * 64)
  | .stt d a t => some (0x98000001 + d.toNat * 524288 + a.toNat * 8192 + t.toNat * 64)
  | .atom d a i w r o => some (0x9C000000 + d.toNat * 524288 + a.toNat * 8192 + i.toNat * 64 + w.toNat * 32 + r.toNat * 16 + o.toNat)
  | .satom d a b w r o => some (0xA0000000 + d.toNat * 1048576 + a.toNat * 16384 + b.toNat * 256 + w.toNat * 32 + r.toNat * 16 + o.toNat)
  | .fenceAcq s => some (0xA4000000 + s.toNat * 1048576)
  | .fenceRel s => some (0xA4800000 + s.toNat * 1048576)
  | .fenceAr s => some (0xA5000000 + s.toNat * 1048576)
  | .fenceSc s => some (0xA5800000 + s.toNat * 1048576)
  | .fenceTx s => some (0xA6000000 + s.toNat * 1048576)
  | .ldacq d a i p x z => some (0xA8000000 + d.toNat * 524288 + a.toNat * 8192 + i.toNat * 64 + p.toNat * 16 + x.toNat * 8 + z.toNat)
  | .strel d a i p z => some (0xAC000000 + d.toNat * 524288 + a.toNat * 8192 + i.toNat * 64 + p.toNat * 16 + z.toNat)
  | .cpstep n => some (0xB0000000 + n.toNat * 128)
  | .cpissue a => some (0xB0000001 + a.toNat * 1048576)
  | .hwaitf h => some (0xB0000002 + h.toNat * 128)
  | .hwaite h => some (0xB0000003 + h.toNat * 128)
  | .hrel h => some (0xB0000004 + h.toNat * 128)
  | .hrelPub h => some (0xB0004004 + h.toNat * 128)
  | .hquery a h => some (0xB0000005 + a.toNat * 1048576 + h.toNat * 128)
  | .mma a b t y x => some (0xB4000000 + a.toNat * 1048576 + b.toNat * 16384 + t.toNat * 128 + y.toNat * 4 + x.toNat)
  | .mmaz a b t y x => some (0xB4000010 + a.toNat * 1048576 + b.toNat * 16384 + t.toNat * 128 + y.toNat * 4 + x.toNat)
  | .mmat a b z t => some (0xB4000020 + a.toNat * 1048576 + b.toNat * 16384 + z.toNat * 1024 + t.toNat * 512)
  | .mfence a => some (0xB8000000 + a.toNat * 1048576)
  | .mwait a => some (0xB8000001 + a.toNat * 1048576)
  | .mzero t => some (0xB8000002 + t.toNat * 128)
  | .mdrain a p t => some (0xB8000003 + a.toNat * 1048576 + p.toNat * 1024 + t.toNat * 128)
  | .mdraina a p t => some (0xB8000004 + a.toNat * 1048576 + p.toNat * 1024 + t.toNat * 128)
  | .mload a t => some (0xB8000005 + a.toNat * 1048576 + t.toNat * 128)
  | .mread a d => some (0xB8000006 + a.toNat * 1048576 + d.toNat * 128)
  | .mwrite a v => some (0xB8000007 + a.toNat * 1048576 + v.toNat * 128)
  | .rquery a n x => some (0xBC000000 + a.toNat * 1048576 + n.toNat * 16384 + x.toNat * 128)
  | .bquery a b => some (0xBC000001 + a.toNat * 1048576 + b.toNat * 16384)
  | .cquery a n x => some (0xBC000002 + a.toNat * 1048576 + n.toNat * 16384 + x.toNat * 128)
  | .rcommit n => some (0xBC000003 + n.toNat * 16384)
  | .rresume n => some (0xBC000004 + n.toNat * 16384)
  | .rstat a n => some (0xBC000005 + a.toNat * 1048576 + n.toNat * 16384)
  | .texs a x => some (0xC0000000 + a.toNat * 1048576 + x.toNat * 128)
  | .texd a x => some (0xC0000001 + a.toNat * 1048576 + x.toNat * 128)
  | .texc a x => some (0xC0000002 + a.toNat * 1048576 + x.toNat * 128)
  | .texl a x => some (0xC0000003 + a.toNat * 1048576 + x.toNat * 128)
  | .texg a c x => some (0xC0000004 + a.toNat * 1048576 + c.toNat * 16384 + x.toNat * 128)
  | .rastt a x => some (0xC4000000 + a.toNat * 1048576 + x.toNat * 128)
  | .rframe a b => some (0xC4000001 + a.toNat * 1048576 + b.toNat * 16384)
  | .rtestAcc x => some (0xC4004002 + x.toNat * 128)
  | .rtestRej x => some (0xC4000002 + x.toNat * 128)
  | .rclear a => some (0xC4000003 + a.toNat * 1048576)
  | .fbar b => some (0xC8000000 + b.toNat * 2097152)
  | .farrive b => some (0xC8800000 + b.toNat * 2097152)
  | .fwaitb b => some (0xC9000000 + b.toNat * 2097152)
  | .window a => some (0xC9800000 + a.toNat * 131072)
  | .nbinit n c => some (0xCC000000 + n.toNat * 32768 + c.toNat * 512)
  | .nbarrive n => some (0xCC800000 + n.toNat * 32768)
  | .nbwait n => some (0xCD000000 + n.toNat * 32768)
  | .nbsync n => some (0xCD800000 + n.toNat * 32768)
  | .cont a x => some (0xD0000000 + a.toNat * 1048576 + x.toNat * 128)
  | .retire => some (0xD0000001)
  | .enq a => some (0xD0000002 + a.toNat * 1048576)
  | .launch a b => some (0xD0000003 + a.toNat * 1048576 + b.toNat * 16384)
  | .solicit a n => some (0xD4000000 + a.toNat * 1048576 + n.toNat * 128)
  | .reply x => some (0xD4000001 + x.toNat * 128)
  | .cwait a n => some (0xD4000002 + a.toNat * 1048576 + n.toNat * 128)
  | .cread a n => some (0xD4000003 + a.toNat * 1048576 + n.toNat * 128)
  | .treg a b d => some (0xD4000004 + a.toNat * 1048576 + b.toNat * 16384 + d.toNat * 128)
  | .tdrop a => some (0xD4000005 + a.toNat * 1048576)
  | .tmove a b d => some (0xD4000006 + a.toNat * 1048576 + b.toNat * 16384 + d.toNat * 128)
  | .crdecl a b => some (0xD8000000 + a.toNat * 1048576 + b.toNat * 16384)
  | .cradd a v => some (0xD8000001 + a.toNat * 1048576 + v.toNat * 128)
  | .crclose a => some (0xD8000002 + a.toNat * 1048576)
  | .tlbinv a b => some (0xDC000000 + a.toNat * 16384 + b.toNat * 256)
  | .region d a b => some (0xDC000001 + d.toNat * 1048576 + a.toNat * 16384 + b.toNat * 256)
  | .bankcfg d a => some (0xDC000002 + d.toNat * 1048576 + a.toNat * 16384)
  | .leave d a => some (0xDC000003 + d.toNat * 1048576 + a.toNat * 16384)
  | .errlog d a b => some (0xDC000004 + d.toNat * 1048576 + a.toNat * 16384 + b.toNat * 256)
  | .tagset a b => some (0xE0000000 + a.toNat * 16384 + b.toNat * 256)
  | .tagget d a => some (0xE0000001 + d.toNat * 1048576 + a.toNat * 16384)
  | .vfma d a b c => some (0xF0000000 + d.toNat * 2097152 + a.toNat * 16384 + b.toNat * 128 + c.toNat)
  | .launchCommand _ _ _ => none
  | .tlbinvCommand _ _ _ _ => none
  | .bankcfgCommand _ _ _ _ => none
  | .vpin _ _ _ _ => none
  | .vunpin _ _ _ _ => none
  | .vflush _ _ _ _ => none
  | .vdrop _ _ _ _ => none
  | .fresumeReplay _ _ _ _ => none
  | .fresumeError _ _ _ _ => none
  | .fresumeKill _ _ _ _ => none
  | .preemptSave _ _ _ _ => none
  | .preemptDiscard _ _ _ _ => none
  | .restore _ _ _ => none
  | .savesize _ _ _ => none
  | .rgnop _ _ _ _ => none
  | .rgnread _ _ _ _ => none
  | .rplread _ _ _ _ _ => none
  | .dirread _ _ _ _ => none
  | .dbgattach _ _ _ => none
  | .dbgdetach _ _ _ => none
  | .dbgstop _ _ _ _ => none
  | .dbgrun _ _ _ _ => none
  | .dbgstep _ _ _ _ => none
  | .dbgread _ _ _ _ _ _ => none
  | .dbgwrite _ _ _ _ _ _ => none
  | .dbgbp _ _ _ _ _ _ => none
  | .dbgwp _ _ _ _ _ _ _ _ => none
  | .errdrain _ _ _ _ => none
  | .malformedCommand _ _ => none
  | .sqtailDoorbell _ _ => none
  | .ctxbaseWrite _ => none
  | .registerWrite _ _ _ => none
  | .coldReset _ => none
  | .functionLevelReset => none
  | .coreReset _ => none
  | .corePowerGate _ => none
  | .bisnpinv _ => none
  | .bisnpdata _ => none
  | .bisnpcur _ => none
  | .h2dSnoop _ => none
  | .hdmAccess _ _ _ _ => none
  | .atsInvalidationRequest _ _ => none
  | .atsCompletion _ _ _ _ _ _ _ => none
  | .ideFailure _ _ => none
  | .thermalLimit _ => none
  | .thermalTrip => none
  | .getVersion => none
  | .getCapabilities => none
  | .negotiateAlgorithms _ _ => none
  | .getDigests => none
  | .getCertificate _ _ => none
  | .challenge _ => none
  | .getMeasurements _ => none
  | .keyExchange _ _ _ => none
  | .lockInterfaceRequest _ => none
  | .startInterfaceRequest _ => none
  | .stopInterfaceRequest _ => none
  | .correctableError _ _ _ => none
  | .uncorrectableError _ _ _ => none
  | .vaultUncorrectableError _ => none
  | .purseRefill _ => none
  | .migrationIssue _ => none
  | .sweepRetry _ => none
  | .backgroundWriteback _ => none
  | .granuleFilled _ => none
  | .writebackDone _ => none
  | .evictionComplete _ => none
  | .ownershipGranted _ => none
  | .pageWalk _ _ _ => none
  | .lsuComplete _ => none
  | .msixCoalescedSend _ => none
  | .faultReportDelivery => none
  | .hcallRingDelivery => none
  | .recordReplay _ _ => none
  | .drain _ => none
  | .dirtyLineWriteback _ _ => none
  | .mergeWindowClose _ _ _ => none
  | .tenureSwitch _ => none
  | .budgetExhausted _ => none
  | .placement => none
  | .taskTake _ => none
  | .tellerRecordArrival _ => none
  | .overflowReturn _ => none
  | .binRipen _ _ => none
  | .tellerPlacement _ => none
  | .fibreEmpty _ => none
  | .launchRetire _ => none
  | .contextSave _ => none
  | .bankSwitch _ _ => none
  | .batchMigration _ _ => none
  | .copyEntryStart _ => none
  | .cpissueStart _ => none
  | .transferComplete _ => none
  | .matrixCommandStart _ => none
  | .matrixCommandComplete _ => none
  | .nodeVisit _ _ => none
  | .sampleComplete _ => none
  | .rastComplete _ => none
  | .frameEvent _ => none
  | .censusBroadcast _ => none
  | .censusSweep _ _ => none
  | .tmoveInsert _ => none
  | .switch _ _ => none
  | .censusComplete _ => none
  | .dbgreadTimeout _ => none
  | .linkTrained _ => none
  | .hostBirsp _ => none
  | .corePowerUp _ => none
  | .allowanceSet _ _ _ _ => none

/-- The word of an instruction. -/
def encode (i : Instr) : Option (BitVec 32) := (encodeNat i).map (BitVec.ofNat 32)

/-- The four bytes of a word as the hardware stores it, lowest address first (R244). -/
def wordBytes (w : Nat) : List (BitVec 8) :=
  [BitVec.ofNat 8 w, BitVec.ofNat 8 (w / 2 ^ 8), BitVec.ofNat 8 (w / 2 ^ 16),
    BitVec.ofNat 8 (w / 2 ^ 24)]

/-- A word from its bytes, lowest address first. -/
def bytesWord : List (BitVec 8) → Nat
  | [] => 0
  | b :: rest => b.toNat + 2 ^ 8 * bytesWord rest

/-- The instruction that this decoder reads from the bits of an opcode-table row: every row with
bits has one 32-bit word. -/
def decodeTableWord (nbits w : Nat) : Option Instr :=
  if 32 < nbits then none
  else match decode (BitVec.ofNat 32 (bytesWord (wordBytes w))) with
    | .ok i => some i
    | .error _ => none

end Sys2Proof
end

