-- ==== Sys2Proof/Machine/Command.lean ====
section
/-! DEFINITION. Host queues (R449 to R452): reading a 64-byte command as a command of the opcode
table, checking its operands, and writing its completion. -/

namespace Sys2Proof.Machine

/-- Status codes of completions (R449). -/
def statusOk : Nat := 0
def statusMalformed : Nat := 1
def statusRefused : Nat := 2
def statusLocked : Nat := 3
def statusAborted : Nat := 4

/-- The queue's registers. -/
def State.queue (s : State) (q : Nat) : Queue := (Sparse.find s.io.queues q).getD Queue.reset

/-- Replaces a queue's registers. -/
def State.setQueue (s : State) (q : Nat) (x : Queue) : State :=
  { s with io := { s.io with queues := Sparse.set Queue.reset s.io.queues q x } }

/-- Writes a command's completion entry and its queue goes on (R449): TAG, STATUS, RESULT. The
completion ring has room, since a command does not start without it; with the ring disabled the
command completes without an entry. -/
def State.complete (s : State) (q : Nat) (tag : Word) (status : Nat) (result : Dword) : State :=
  let x := s.queue q
  let s0 := { s with io := { s.io with pending := s.io.pending.filter fun p => p.queue ≠ q } }
  if ringSize x.cqBase = 0 then s0.setQueue q { x with busy := none }
  else
    let s1 := s0.hostWrite (ringAddr x.cqBase x.cqTail.toNat 16)
      (leBytes 4 tag.toNat ++ leBytes 4 status ++ leBytes 8 result.toNat)
    (s1.setQueue q { x with cqTail := x.cqTail + 1, busy := none }).signal (field x.qvec 0 5)
      (x.cqTail == x.cqHead)

/-- The command's queue waits: its completion is written later. -/
def State.await (s : State) (q : Nat) (tag : Word) (w : Waiting) : State :=
  { s with io := { s.io with pending := s.io.pending ++ [⟨q, tag, w⟩] } }

/-- The bytes of a command that an operand table leaves out are all zero: the table lists the used
bytes as (first, count) (R452). -/
def unusedZero (b : List Byte) (used : List (Nat × Nat)) : Bool :=
  (List.range 64).all fun i =>
    used.any (fun u => decide (u.1 ≤ i) && decide (i < u.1 + u.2)) || b.getD i 0 == 0

/-- A field of a command. -/
def cmdNat (b : List Byte) (o n : Nat) : Nat := leNat ((b.drop o).take n)

/-- The operands of ERRDRAIN, when a command is one (OPC 0x19, R452). -/
def decodeErrdrain (b : List Byte) : Option (Dword × Word) :=
  if cmdNat b 0 1 = 0x19 ∧ unusedZero b [(0, 1), (4, 4), (8, 12)] = true then
    some (BitVec.ofNat 64 (cmdNat b 8 8), BitVec.ofNat 32 (cmdNat b 16 4))
  else none

/-- Reads a command's 64 bytes (R449, R451, R452); none for a malformed command. The bytes OPC and
TAG (0 and 4 to 7) belong to every command. ERRDRAIN has its own reader above (Lean's compiler can
build only so many constructors of one type). -/
def decodeCommand (q : Nat) (b : List Byte) : Option Instr :=
  let tag : Word := BitVec.ofNat 32 (cmdNat b 4 4)
  let d (o : Nat) : Dword := BitVec.ofNat 64 (cmdNat b o 8)
  let w (o : Nat) : Word := BitVec.ofNat 32 (cmdNat b o 4)
  let h (o : Nat) : BitVec 16 := BitVec.ofNat 16 (cmdNat b o 2)
  let y (o : Nat) : Byte := BitVec.ofNat 8 (cmdNat b o 1)
  let opc := cmdNat b 0 1
  let chk (used : List (Nat × Nat)) (i : Instr) : Option Instr :=
    if unusedZero b ((0, 1) :: (4, 4) :: used) then some i else none
  match opc with
  | 0x01 => chk [(8, 8)] (.launchCommand q tag (d 8))
  | 0x02 => chk [(8, 16)] (.tlbinvCommand q tag (d 8) (d 16))
  | 0x03 => chk [(8, 1), (16, 8)] (.bankcfgCommand q tag (y 8) (d 16))
  | 0x04 => chk [(8, 16)] (.vpin q tag (d 8) (d 16))
  | 0x05 => chk [(8, 16)] (.vunpin q tag (d 8) (d 16))
  | 0x06 => chk [(8, 16)] (.vflush q tag (d 8) (d 16))
  | 0x07 => chk [(8, 16)] (.vdrop q tag (d 8) (d 16))
  | 0x08 =>
    match cmdNat b 14 1 with
    | 0 => chk [(8, 7)] (.fresumeReplay q tag (w 8) (h 12))
    | 1 => chk [(8, 7)] (.fresumeError q tag (w 8) (h 12))
    | 2 => chk [(8, 7)] (.fresumeKill q tag (w 8) (h 12))
    | _ => none
  | 0x09 =>
    match cmdNat b 12 1 with
    | 0 => chk [(8, 5), (16, 8)] (.preemptSave q tag (w 8) (d 16))
    | 1 => chk [(8, 5), (16, 8)] (.preemptDiscard q tag (w 8) (d 16))
    | _ => none
  | 0x0A => chk [(8, 8)] (.restore q tag (d 8))
  | 0x0B => chk [(8, 4)] (.savesize q tag (w 8))
  | 0x0C => chk [(8, 16)] (.rgnop q tag (d 8) (d 16))
  | 0x0D => chk [(8, 4), (16, 8)] (.rgnread q tag (w 8) (d 16))
  | 0x0E => chk [(8, 6), (16, 8)] (.rplread q tag (w 8) (h 12) (d 16))
  | 0x0F => chk [(8, 2), (16, 8)] (.dirread q tag (h 8) (d 16))
  | 0x10 => chk [(8, 4)] (.dbgattach q tag (w 8))
  | 0x11 => chk [(8, 4)] (.dbgdetach q tag (w 8))
  | 0x12 => chk [(8, 1), (12, 4)] (.dbgstop q tag (y 8) (w 12))
  | 0x13 => chk [(8, 1), (12, 4)] (.dbgrun q tag (y 8) (w 12))
  | 0x14 => chk [(8, 6)] (.dbgstep q tag (w 8) (h 12))
  | 0x15 => chk [(8, 6), (16, 8)] (.dbgread q tag (w 8) (y 12) (y 13) (d 16))
  | 0x16 => chk [(8, 6), (16, 8)] (.dbgwrite q tag (w 8) (y 12) (y 13) (d 16))
  | 0x17 => chk [(8, 4), (16, 8)] (.dbgbp q tag (y 8) (y 9) (h 10) (d 16))
  | 0x18 => chk [(8, 6), (16, 8)] (.dbgwp q tag (y 8) (y 9) (h 10) (y 12) (y 13) (d 16))
  | _ => none

/-- The bytes of the next command of a queue, when it may start: the device is ready, the queue is
idle, its submission ring holds a command and its completion ring has room (R449, R456). -/
def State.nextCommand (s : State) (q : Nat) : Option (List Byte) :=
  let x := s.queue q
  if !bitOf s.reg.devstat 0 || x.busy.isSome || ringSize x.sqBase == 0 || x.sqHead == x.sqTail then none
  else if ringSize x.cqBase ≠ 0 ∧ ringSize x.cqBase ≤ (x.cqTail - x.cqHead).toNat then none
  else some (readBytes s.mem.host (ringAddr x.sqBase x.sqHead.toNat 64) 64)

/-- The queue takes its next command: the consumer index advances and the queue is busy with the
command's tag. -/
def State.takeCommand (s : State) (q : Nat) (b : List Byte) : State :=
  let x := s.queue q
  s.setQueue q { x with sqHead := x.sqHead + 1, busy := some (BitVec.ofNat 32 (cmdNat b 4 4)) }

/-- A command that ends at once without an effect. -/
def State.endCommand (s : State) (q : Nat) (tag : Word) (status : Nat) : Out :=
  .next (s.complete q tag status 0)

/-- MALFORMED_COMMAND: an unknown OPC or a non-zero unused byte (R451). -/
def execMalformedCommand (q : Nat) (tag : Word) (s : State) : Out :=
  s.endCommand q tag statusMalformed

/-- The 32 bytes of a device error log entry (R457): structure index, core or die, physical address and CLK, in
an order that the specification does not give: DESIGN CHOICE, log 11. -/
def DevErr.bytes (e : DevErr) : List Byte :=
  (List.range 32).map
    (Config.layoutByte 1 (e.part % 2 ^ 64 + e.place % 2 ^ 64 * 2 ^ 64 + e.addr % 2 ^ 64 * 2 ^ 128 + e.clk.toNat * 2 ^ 192))

/-- DEVSTAT.ERR shows whether the device error log holds an entry (R456). -/
def State.refreshErr (s : State) : State :=
  { s with reg := { s.reg with devstat :=
      if s.io.devLog.isEmpty then clearBit s.reg.devstat 1 else setBit s.reg.devstat 1 } }

/-- ERRDRAIN: copies the oldest entries of the device error log to the host and empties them from
the log (R451, R457). -/
def execErrdrain (q : Nat) (tag : Word) (dst : Dword) (most : Word) (s : State) : Out :=
  let n := min most.toNat s.io.devLog.length
  let s1 := s.hostWrite dst.toNat ((s.io.devLog.take n).flatMap DevErr.bytes)
  let s2 := { s1 with io := { s1.io with devLog := s1.io.devLog.drop n } }.refreshErr
  .next (s2.complete q tag statusOk (BitVec.ofNat 64 n))

end Sys2Proof.Machine
end

