-- ==== Sys2Proof/Machine/Fetch.lean ====
section
/-! DEFINITION. Choosing the fibre that issues (R193), fetching its word through the instruction
cache (R244, R245), and the debugger's hold on it (R430 to R432). -/

namespace Sys2Proof.Machine

/-! ### The slot's choice -/

/-- The fibre of a slot that holds it: CURRENT or STALLED (R193). -/
def State.holder (s : State) (slot : Nat) : Option Nat :=
  [0, 1, 2, 3].findSome? fun i =>
    match s.fibre (slot * 4 + i) with
    | some f => if f.st = .current ∨ f.st = .stalled then some (slot * 4 + i) else none
    | none => none

/-- A fibre that the debugger does not hold. -/
def Fibre.free (f : Fibre) : Bool := !f.debugger.stopped

/-- The next READY fibre in rotation after the one that last held the slot (R193). -/
def State.rotation (s : State) (slot : Nat) : Option Nat :=
  let last := (s.slot (slot * 4)).last
  [1, 2, 3, 4].findSome? fun i =>
    let loc := slot * 4 + (last + i) % 4
    match s.fibre loc with
    | some f => if f.st = .ready ∧ f.free = true then some loc else none
    | none => none

/-- The core of a slot may issue: its clocks run (R145, R459). -/
def State.coreRuns (s : State) (core : Nat) : Bool := !s.tripped && !s.gated.contains core

/-- The fibre that a slot issues next: its holder, else the choice of its rotation (R193). -/
def State.chosen (s : State) (slot : Nat) : Option Nat :=
  if !s.coreRuns (slot / 32) then none
  else match s.holder slot with
    | some loc => if ((s.fibre loc).map Fibre.free).getD false then some loc else none
    | none => s.rotation slot

/-- The slot gives its fibre the issue: it is CURRENT and the last that held the slot (R192). -/
def State.select (s : State) (loc : Nat) : State :=
  ({ s with cur := loc }.modFibre loc fun f =>
    match f.st with
    | .ready => { f with st := .current }
    | _ => f).modSlot loc fun sl => { sl with last := fidOf loc }

/-! ### Fetch -/

/-- What a fetch meets. -/
inductive Fetched where
  | word (w : Word) (s : State)
  /-- The fibre does not issue in this step; it is parked on its fetch, or waits. -/
  | none (s : State)

/-- The word at an address in the core's instruction cache, where the fibre may execute its page (R27, R245). -/
def State.cached (s : State) (core : Nat) (asid : BitVec 16) (priv : Bool) (va : BitVec 48) : Option Word :=
  (s.mem.icache.find? fun l => l.core = core ∧ l.asid = asid ∧ l.va = va.toNat ∧ (priv = true ∨ l.user = true)).map
    fun l => l.word

/-- Fetches the word at an address for the fibre in issue: through the instruction cache, which
stores do not update, else by an EXEC access that fills it (R244, R245, R31). A word of a peer's window enters no cache
(R69). -/
def State.fetch (s : State) (f : Fibre) (va : BitVec 48) : Fetched :=
  let core := coreOf s.cur
  if f.fetched = some va then .word 0 (s.setFibre s.cur { f with fetched := none })
  else
    match s.cached core f.asid (s.privOf f.region) va with
    | some w => .word w s
    | none =>
      let who := s.who s.cur f
      match resolve s who .exec va.toNat 4 with
      | (.ok ps, s1) =>
        let b := (ps.map fun p => s1.mem.readAt core p.1 p.2).flatten
        let w : Word := BitVec.ofNat 32 (leNat b)
        .word w (if ps.any fun p => p.1.isPeer then s1
          else { s1 with mem := { s1.mem with
            icache := ⟨core, f.asid, va.toNat, w, s1.leafUser who va.toNat⟩ :: s1.mem.icache } })
      | (a, s1) =>
        match a.trouble (va.setWidth 64) (s1.leafSz (clusterOf core) f.asid va.toNat) with
        | some t => .none (if t.kind = 0 then s1.stall else park s1 t)
        | none => .none s1.stall
where
  /-- The fibre parks before the instruction with a record of unit code 1, access kind EXEC. -/
  park (s : State) (t : Trouble) : State :=
    let (id, s1) := s.newOp f 1 f.active 0 0 none (.fetch va)
    let s2 := match t with
      | .miss _ m _ => s1.requestMissing (clusterOf (coreOf s.cur)) f.asid m
      | _ => s1
    s2.writeRecord id false AKind.exec.code t

/-! ### Unit queues (R35, R194) -/

/-- The unit whose queue an instruction enters: 1 load/store, 2 sampler, 3 ray engine, 4 rasteriser; 0 for none of
them (R148, R169). The queues of the copy and the matrix engine have rules of their own (R329, R337). -/
def unitOf : Instr → Nat
  | .ld .. | .st .. | .sld .. | .sst .. | .ldt .. | .stt .. | .tagset .. | .tagget .. | .atom .. | .satom ..
  | .ldacq .. | .strel .. | .cradd .. | .crclose .. | .enq .. | .launch .. | .hcall .. | .reply .. | .treg .. | .tdrop ..
  | .tmove .. => 1
  | .texs .. | .texd .. | .texc .. | .texl .. | .texg .. => 2
  | .rquery .. | .cquery .. | .bquery .. | .rcommit .. | .rresume .. => 3
  | .rastt .. | .rframe .. | .rtestAcc .. | .rtestRej .. | .rclear .. => 4
  | _ => 0

/-- An operation holds an entry of its unit's queue: one whose record has been written does not, a held one does
(R168), and a query that has stopped is not in the ray engine. -/
def State.inUnit (s : State) (core unit : Nat) (e : Nat × Op) : Bool :=
  e.2.unit == unit && coreOf e.2.loc == core && !(s.eng.recs.any fun r => r.2.op == e.1 && !r.2.running) &&
    match e.2.body with
    | .ray _ => e.2.ctr.isSome
    | _ => true

/-- The copy engine or the matrix engine will access memory for the instruction. -/
def usesEngine : Instr → Bool
  | .cpissue .. | .mdrain .. | .mdraina .. | .mload .. => true
  | _ => false

/-- An instruction cannot issue because the queue of its unit is full, or because the die's miss table is (R35,
R194). The entries of a queue are a free value (DESIGN CHOICE, log 42). -/
def State.unitFull (s : State) (i : Instr) : Bool :=
  let core := coreOf s.cur
  let noMiss := decide (missTable ≤ s.xl.missing (dieOf core))
  match unitOf i with
  | 0 => usesEngine i && noMiss
  | u =>
    noMiss ||
      match s.eng.ops.filter (s.inUnit core u) with
      | [] => false
      | l => decide (Config.unitQueue u < l.length)

/-! ### Debug stops -/

/-- A breakpoint stands at the fibre's program counter (R430, R431). -/
def State.breaksAt (s : State) (f : Fibre) : Bool :=
  !f.debugger.skipBreak && s.io.bps.any fun b => b.2.asid == f.asid && b.2.pc == f.pc.setWidth 64

/-- The fibre's instruction issued, parked or trapped: a step has ended (R432). -/
def Fibre.movedOn (f before : Fibre) : Bool :=
  f.issued != before.issued || f.pc != before.pc || f.st == .parked || f.inHandler != before.inHandler

/-- After an instruction of the fibre, `before` being the fibre as it stood: under DBGSTEP a step that has
ended counts, and the last one stops the fibre; without, the instruction that breakpoints let pass is over
once it has left its address (R432). -/
def State.afterIssue (before : Fibre) (s : State) (loc : Nat) : State :=
  s.modFibre loc fun f =>
    if f.debugger.stopped || !f.movedOn before then f
    else if before.debugger.steps = 1 then f.stop
    else
      let skip := f.debugger.skipBreak && (decide (1 < before.debugger.steps) || (f.issued == before.issued && f.pc == before.pc))
      { f with debugger := ⟨false, before.debugger.steps - 1, skip⟩ }

end Sys2Proof.Machine
end

