-- ==== Sys2Proof/Machine/Preempt.lean ====
section
/-! DEFINITION. Suspending the fibres of a region (R211, R230, R239, R429) and letting them go on. -/

namespace Sys2Proof.Machine

/-! ### Halting (R239, R429) -/

/-- Pre-emption closes an open batch without waiting for leave; its cost is deducted at once (R336, R355). The close
waits for room in the engine's queue and below 63 of MX as any other (R337). -/
def State.closeAtOnce (s : State) (loc : Nat) (f : Fibre) : State :=
  if f.openBatch.isEmpty || decide (16 < s.queueUse (loc / 32) + f.openBatch.length) || f.ctrFull ctrMX then s
  else
    let s1 := match batchCost s f with
      | some cost =>
        let c := clusterOf (coreOf loc)
        let p := s.purse c
        if s.leaveOff then s else s.setPurse c (purseAllow p).toNat (purseBal p - cost)
      | none => s
    s1.moveBatch loc f

/-- Withdraws what a fibre's waiting instruction has begun: the read of an LDACQ that is not recorded, the
drains of a fence, a BANKCFG before step 4 (R87), a leave request, and leave that it was granted and has not used
(R237). -/
def State.withdraw (s : State) (loc : Nat) (f : Fibre) : State :=
  let s1 := match f.waitOp with
    | some id =>
      if s.recorded id then s
      else ((s.endOp id).modFibre loc fun f => { f with waitOp := none })
    | none => s
  let leaves := s1.co.leaves.filter fun r => r.who ≠ .fibre loc
  let s2 := ({ s1 with co := { s1.co with leaves := leaves } } : State).dropSwitches fun w => w.loc == some loc
  s2.modFibre loc fun f => { f with draining := false, cede := false, leave := none }

/-- Halts one fibre at its instruction boundary (R192, R239). -/
def State.haltLoc (s : State) (loc : Nat) : State :=
  match s.fibre loc with
  | none => s
  | some f =>
    match f.st with
    | .exiting | .suspended => s
    | _ => ((s.closeAtOnce loc f).withdraw loc f).modFibre loc fun f => { f with st := .suspended }

/-- The fibres of a region subtree. -/
def State.subtreeLocs (s : State) (top : Nat) : List Nat :=
  let l := s.subtree top
  s.locsWhere fun f => l.contains f.region

/-- Suspends a region subtree: its fibres halt and its ACTIVE regions are SUSPENDED (R211, R239). -/
def State.suspendRegion (s : State) (top : Nat) : State :=
  let s1 := (s.subtreeLocs top).foldl (fun acc l => acc.haltLoc l) s
  (s1.subtree top).foldl (fun acc g => acc.modRcb g fun r =>
    if r.st = .active then { r with st := .suspended, hadWork := false, woke := false } else r) s1

/-! ### Going on -/

/-- A SUSPENDED fibre goes on as it was halted: PARKED on its records or its trap, else READY (R192). One whose batch
has not closed yet goes on when it has (R337). -/
def State.wakeLoc (s : State) (loc : Nat) : State :=
  let parked := s.hasRecord loc
  s.modFibre loc fun f =>
    if f.st = .suspended ∧ f.openBatch = [] then
      { f with st := if parked || f.trapWait.isSome then .parked else .ready }
    else f

/-- Open batches that pre-emption could not close for want of room close as soon as they can. -/
def State.closeWaiting (s : State) : State :=
  (s.locsWhere fun f => f.st == .suspended && !f.openBatch.isEmpty).foldl (fun (acc : State) loc =>
    match acc.fibre loc with
    | none => acc
    | some f =>
      let t := acc.closeAtOnce loc f
      if t.regionActive f.region then t.wakeLoc loc else t) s

/-- A region whose state a save area holds, or is to hold: it goes on by RESTORE only. -/
def State.isSaved (s : State) (rgn : Nat) : Bool :=
  (s.sched.saves.any fun v => s.inSubtree v.region rgn) ||
    s.io.pending.any fun p =>
      match p.what with
      | .save g _ => s.inSubtree g rgn
      | _ => false

/-- USED has reached a non-zero BUDGET (R230). -/
def Rcb.spent (r : Rcb) : Bool := r.budget != 0 && decide (r.budget ≤ r.used)

/-- A region or an ancestor of it has spent its budget. -/
def State.spent (s : State) (rgn : Nat) : Bool :=
  (s.chain rgn).any fun g => ((s.rcb g).map Rcb.spent).getD false

/-- Lets the SUSPENDED regions of a subtree go on that neither a save area nor, unless `all`, a spent budget
holds (R211). -/
def State.resumeRegions (s : State) (top : Nat) (all : Bool) : State :=
  (s.subtree top).foldl (fun (acc : State) g =>
    match acc.rcb g with
    | some r =>
      if r.st = .suspended ∧ (all = true ∨ acc.spent g = false) ∧ acc.isSaved g = false then
        ((acc.locsWhere fun f => f.region == g).foldl (fun (a : State) l => a.wakeLoc l) acc).modRcb g
          fun r => { r with st := .active, woke := true }
      else acc
    | none => acc) s

/-- BUDGET raised above USED (R211). -/
def State.resumeRegion (s : State) (top : Nat) : State := s.resumeRegions top false

/-- BUDGET_EXHAUSTED: a region whose USED has reached its BUDGET is suspended with its subtree (R230). -/
def execBudgetExhausted (rgn : Nat) (s : State) : Out :=
  match s.rcb rgn with
  | some r => .next (if r.st = .active ∧ r.spent = true then s.suspendRegion rgn else s)
  | none => .next s

/-- TENURE_SWITCH: the holder of a slot gives it up when another fibre of the slot is READY (R194). How
many clocks it has held the slot is timing. -/
def execTenureSwitch (slot : Nat) (s : State) : Out :=
  match s.holder slot, s.rotation slot with
  | some loc, some _ => .next (s.modFibre loc fun f => { f with st := .ready })
  | _, _ => .next s

end Sys2Proof.Machine
end

