-- ==== Sys2Proof/Machine/System.lean ====
section
/-! DEFINITION. TLBINV (R38 to R41), REGION and ERRLOG (R418, R420), BANKCFG (R85 to R89), and the host
commands with the same effects (R451). -/

namespace Sys2Proof.Machine

/-! ### TLBINV (R38 to R41) -/

/-- The control word of TLBINV is malformed (R38). -/
def tlbinvBad (c : Dword) : Bool := field c 19 45 != 0 || 5 ≤ field c 16 3

/-- The page of a leaf contains an address. -/
def TlbEnt.covers (e : TlbEnt) (va : Nat) : Bool :=
  let n := pageLog2 (field e.pte 2 3)
  va / 2 ^ n == e.va / 2 ^ n

/-- The ATS result derives from a HOST leaf. -/
def AtcEnt.derives (a : AtcEnt) (e : TlbEnt) : Bool :=
  let base := pteAddr e.pte
  pteKind e.pte == 1 && (a.asid == e.asid || bitOf e.pte 9) &&
    decide (base < a.page / 2 ^ a.log2 * 2 ^ a.log2 + 2 ^ a.log2) &&
    decide (a.page / 2 ^ a.log2 * 2 ^ a.log2 < base + 2 ^ pageLog2 (field e.pte 2 3))

/-- What each operation removes (R39). -/
def Xlate.invalidate (x : Xlate) (va : Nat) (op : Nat) (asid : BitVec 16) : Xlate :=
  match op with
  | 0 =>
    let hit (e : TlbEnt) : Bool := (e.asid == asid || bitOf e.pte 9) && e.covers va
    { x with
      tlb := x.tlb.filter fun e => !hit e
      wcache := x.wcache.filter fun e => e.asid ≠ asid ∨ e.tag ≠ va / 2 ^ (12 + 9 * (e.level + 1))
      atc := x.atc.filter fun a => !(x.tlb.any fun e => hit e && a.derives e) }
  | 1 =>
    { x with
      tlb := x.tlb.filter fun e => e.asid ≠ asid ∨ bitOf e.pte 9
      wcache := x.wcache.filter fun e => e.asid ≠ asid
      atc := x.atc.filter fun a => a.asid ≠ asid }
  | 2 => { x with tlb := x.tlb.filter fun e => bitOf e.pte 9, wcache := [], atc := [] }
  | 3 => { x with tlb := [], wcache := [], ctxs := [], atc := [] }
  | _ =>
    { x with
      ctxs := x.ctxs.filter fun c => c.asid ≠ asid
      tlb := x.tlb.filter fun e => e.asid ≠ asid ∨ bitOf e.pte 9
      wcache := x.wcache.filter fun e => e.asid ≠ asid
      atc := x.atc.filter fun a => a.asid ≠ asid }

/-- Removes translations; the instruction caches, whose words were fetched through them, empty as well
(R41). -/
def State.invalidate (s : State) (va ctl : Dword) : State :=
  { s with
    xl := s.xl.invalidate va.toNat (field ctl 16 3) (BitVec.ofNat 16 (field ctl 0 16))
    mem := { s.mem with icache := [] } }

/-- TLBINV: after the fibre's earlier accesses, a release at DEV scope, then the removal. Every access is
translated and performed in one step here, so that none translated before is left to wait for (R40). -/
def execTlbinv (a b : BitVec 6) (s : State) : Out :=
  privileged s [a.toNat, b.toNat] fun f =>
    if tlbinvBad (f.s b.toNat) then .trap (illTrap 6)
    else if s.lsuBusy s.cur fun _ => true then .stall
    else .done ((s.release s.cur 4 true false).invalidate (f.s a.toNat) (f.s b.toNat))

/-- The locked interface of an address space (R458). -/
def State.ifaceAsid (s : State) (asid : BitVec 16) : Bool :=
  s.io.ifaces.any fun i => ((s.rcb i.region).map fun r => r.asid) == some asid

/-- TLBINV by the host (R41). -/
def execTlbinvCommand (q : Nat) (tag : Word) (va ctl : Dword) (s : State) : Out :=
  if tlbinvBad ctl then s.endCommand q tag statusMalformed
  else if field ctl 16 3 = 4 ∧ s.ifaceAsid (BitVec.ofNat 16 (field ctl 0 16)) = true then
    s.endCommand q tag statusLocked
  else .next ((s.invalidate va ctl).complete q tag statusOk 0)

/-! ### REGION (R418) -/

/-- The control operand of REGION is malformed. -/
def regionBad (c : Dword) : Bool :=
  6 ≤ field c 0 4 || field c 5 11 != 0 || (bitOf c 4 && field c 0 4 != 5) ||
    (field c 0 4 == 5 && field c 16 8 != 0)

/-- The region that the RCB at an address is entered for, when it is not KILLED (R209). -/
def State.enteredAt (s : State) (addr : Nat) : Option Nat :=
  let n := physNat s (addr + 16) 3
  match s.rcb n with
  | some r => if r.addr = addr ∧ r.st ≠ .killed then some n else none
  | none => none

/-- The status of a CREATE, and the RCB that it enters (R209, R418). -/
def State.createStatus (s : State) (from0 : Option Nat) (a : Nat) : Nat × Nat × Rcb :=
  let b := physRead s a 256
  let r := parseRcb a b
  let n := leNat ((b.drop 16).take 3)
  let parent := if r.parent = 0 then none else s.enteredAt r.parent
  let status :=
    if rcbBad b || a % 256 != 0 || 2 ^ 52 ≤ a || (r.parent != 0 && parent.isNone) then 1
    else if (match parent with
      | some p => r.priv && !s.privOf p
      | none => false) then 1
    else if (match from0, parent with
      | none, _ => false
      | some _, none => true
      | some g, some p => !s.inSubtree g p) then 2
    else if (s.rcb n).isSome then 3
    else 0
  (status, n, r)

/-- Writes a SW field of an RCB that REGION changes, in memory as in the cache. The RCBs of a locked interface
are captured: a change moves it to ERROR (R458). -/
def State.setField (s : State) (rgn off n val : Nat) (g : Rcb → Rcb) : State :=
  match s.rcb rgn with
  | some r =>
    let s1 := (physWrite s (r.addr + off) (leBytes n val)).setRcb rgn (g r)
    if g r = r then s1 else s1.ifaceError fun i => s1.inSubtree i.region rgn
  | none => s

/-- Writes the HW fields of a cached RCB back (R208, R210). -/
def State.flushRcb (s : State) (rgn : Nat) : State :=
  match Sparse.find s.sched.rcbs rgn with
  | none => s
  | some r =>
    let b := r.bytes rgn
    let flags := physNat s (r.addr + 8) 8
    let st := flags - flags / 2 ^ 50 % 4 * 2 ^ 50 + r.st.code * 2 ^ 50
    [(40, 16), (64, 12), (88, 12), (112, 32)].foldl
      (fun (acc : State) f => physWrite acc (r.addr + f.1) ((b.drop f.1).take f.2))
      (physWrite s (r.addr + 8) (leBytes 8 st))

/-- RCBs that the device holds in its cache (R210). -/
def rcbCache : Nat := 8192

/-- RCBs leave the cache, written back, until it holds no more than it can. What a cached RCB keeps beyond its 256
bytes, the issue clocks short of a unit of USED and what the placer noted of its work, is not written (R210, R230;
DESIGN CHOICE, log 93). -/
def State.trimRcbs (s : State) : Nat → State
  | 0 => s
  | n + 1 =>
    if s.sched.rcbs.length ≤ rcbCache then s
    else
      match s.sched.rcbs[Config.victim s.draws % s.sched.rcbs.length]? with
      | none => s
      | some (rgn, _) =>
        let s1 := s.flushRcb rgn
        State.trimRcbs { s1 with
          draws := s1.draws + 1, sched := { s1.sched with rcbs := Sparse.erase s1.sched.rcbs rgn } } n

/-- A region's log: consumer index and next sequence number. -/
def Rcb.log (r : Rcb) (race : Bool) : Nat × Nat := if race then (r.rlhead, r.rlseq) else (r.elhead, r.elseq)

/-- The effect and the status code of REGION, for a fibre of a region or for the host. -/
def State.regionOp (s : State) (from0 : Option Nat) (a c : Dword) : Nat × State :=
  let op := field c 0 4
  let rgn := a.toNat
  if op = 0 then
    let (status, n, r) := s.createStatus from0 rgn
    if status = 0 then
      let s1 := physWrite s (field s.reg.rgnbase 27 25 * 2 ^ 27 + 8 * n) (leBytes 8 rgn)
      (0, s1.setRcb n { r with st := .active, woke := true })
    else (status, s)
  else match (if rgn < 2 ^ 24 then s.rcb rgn else none) with
    | none => (4, s)
    | some r =>
      let outside := match from0 with
        | some g => !s.inSubtree g rgn || (op == 1 && g == rgn)
        | none => false
      if outside then (2, s)
      else match op with
        | 1 => (0, (s.modRcb rgn fun r => r).killRegion rgn)
        | 2 => (0, s.setField rgn 24 4 (field c 32 32) fun r => { r with tickets := field c 32 32 })
        | 3 =>
          let s1 := s.setField rgn 32 8 (field c 16 48) fun r => { r with budget := field c 16 48 }
          (0, s1.resumeRegion rgn)
        | 4 => (0, s.flushRcb rgn)
        | _ =>
          let race := bitOf c 4
          let n := field c 24 40
          let (head, next) := r.log race
          if n < head ∨ next < n then (5, s)
          else if race then (0, s.setField rgn 152 8 n fun r => { r with rlhead := n })
          else (0, s.setField rgn 144 8 n fun r => { r with elhead := n })

/-- REGION. The RCB that CREATE reads a host gives up first (R58). -/
def execRegion (d a b : BitVec 6) (s : State) : Out :=
  privileged s [d.toNat, a.toNat, b.toNat] fun f =>
    if regionBad (f.s b.toNat) then .trap (illTrap 6)
    else match (if field (f.s b.toNat) 0 4 = 0 then s.heldAt [((f.s a.toNat).toNat, 256)] else []) with
    | x :: xs => .stallWith (askHost s (x :: xs))
    | [] =>
      let (code, s1) := s.regionOp (some f.region) (f.s a.toNat) (f.s b.toNat)
      .done (s1.putS d.toNat (BitVec.ofNat 64 code))

/-- The region that a REGION operand names, for R458: the target, or the parent of a new region. -/
def State.regionNamed (s : State) (a c : Dword) : Option Nat :=
  if field c 0 4 = 0 then s.enteredAt (physNat s a.toNat 8)
  else if a.toNat < 2 ^ 24 then some a.toNat else none

/-- A locked interface covers the region (R458). -/
def State.lockedRegion (s : State) (rgn : Nat) : Bool := (s.ifaceOf rgn).isSome

/-- RGNOP: REGION by the host; a status other than 0 is REFUSED with the code as RESULT (R451). -/
def execRgnop (q : Nat) (tag : Word) (a b : Dword) (s : State) : Out :=
  if regionBad b then s.endCommand q tag statusMalformed
  else if ((s.regionNamed a b).map s.lockedRegion).getD false then s.endCommand q tag statusLocked
  else
    let (code, s1) := s.regionOp none a b
    .next (s1.complete q tag (if code = 0 then statusOk else statusRefused) (BitVec.ofNat 64 code))

/-- RGNREAD: the HW fields are written back and the RCB is copied to the host (R210, R451). -/
def execRgnread (q : Nat) (tag : Word) (rgn : Word) (dst : Dword) (s : State) : Out :=
  let n := rgn.toNat
  if 2 ^ 24 ≤ n then s.endCommand q tag statusMalformed
  else match s.rcb n with
    | none => s.endCommand q tag statusRefused
    | some r =>
      if s.lockedRegion n then s.endCommand q tag statusLocked
      else
        let s1 := s.flushRcb n
        .next ((s1.hostWrite dst.toNat (physRead s1 r.addr 256)).complete q tag statusOk 0)

/-! ### ERRLOG (R420) -/

/-- ERRLOG: the entries of a log are in memory as they are appended, so that it waits for none. -/
def execErrlog (d a b : BitVec 6) (s : State) : Out :=
  privileged s [d.toNat, a.toNat, b.toNat] fun f =>
    let rgn := (f.s a.toNat).toNat
    let c := f.s b.toNat
    if field c 2 62 ≠ 0 then .trap (illTrap 6)
    else match (if rgn < 2 ^ 24 then s.rcb rgn else none) with
      | none => .done (s.putS d.toNat (BitVec.allOnes 64))
      | some r =>
        if s.inSubtree f.region rgn then
          let race := bitOf c 0
          let ovf := if race then r.rlovf else r.elovf
          let v := (r.log race).2 % 2 ^ 40 + min ovf (2 ^ 24 - 1) * 2 ^ 40
          let s1 := if bitOf c 1 then
              s.modRcb rgn fun r => if race then { r with rlovf := 0 } else { r with elovf := 0 }
            else s
          .done (s1.putS d.toNat (BitVec.ofNat 64 v))
        else .done (s.putS d.toNat (BitVec.allOnes 64))

/-! ### BANKCFG (R85 to R89) -/

def cfgBank (c : Dword) : Nat := field c 0 5
def cfgKeep (c : Dword) : Bool := bitOf c 10
def cfgEntry (c : Dword) : Nat := field c 11 4
def cfgOwner (c : Dword) : Nat := field c 16 16

/-- MODE of a configuration word (R81). -/
def cfgMode (c : Dword) : BankMode :=
  match field c 8 2 with
  | 0 => .off
  | 1 => .cache
  | 2 => .scratch
  | _ => .fifo

/-- The code of a bank mode. -/
def BankMode.code : BankMode → Nat
  | .off => 0
  | .cache => 1
  | .scratch => 2
  | .fifo => 3

/-- The configuration word is malformed (R85). -/
def cfgBad (c : Dword) : Bool :=
  field c 32 32 != 0 || bitOf c 15 || field c 5 3 != 0 ||
    (cfgMode c != .scratch && cfgOwner c != 0) ||
    (if cfgMode c = .fifo then cfgEntry c < 6 || 12 < cfgEntry c else cfgEntry c != 0)

/-- A bank's configuration, with KEEP zero. -/
def Bank.config (k : Bank) (bank : Nat) : Dword :=
  BitVec.ofNat 64 (k.owner.toNat * 2 ^ 16 + k.entry * 2 ^ 11 + k.mode.code * 2 ^ 8 + bank)

/-- Step 2: the bank enters transit. Operations numbered below `since` are references (R86). -/
def State.enterTransit (s : State) (w : BankSwitch) : State :=
  { s with mem := { s.mem with switches := s.mem.switches ++ [{ w with since := s.fresh }] }
           fresh := s.fresh + 1 }

/-- BANKCFG: it waits for another switch of the bank, then for its own, whose event ends it. -/
def execBankcfg (d a : BitVec 6) (s : State) : Out :=
  privileged s [d.toNat, a.toNat] fun f =>
    let c := f.s a.toNat
    let bank := clusterOf (coreOf s.cur) * 32 + cfgBank c
    if cfgBad c then .trap (illTrap 6)
    else if f.waitOp.isSome || s.mem.inTransit bank then .stall
    else
      let s1 := s.enterTransit ⟨0, bank, c, some s.cur, d.toNat, f.nextPc, none, 0⟩
      .stallWith (s1.modFibre s.cur fun f => { f with waitOp := some s.fresh })

/-- A matrix command that has not made its last operand read names a bank (R86). -/
def MxCmd.namesBank (c : MxCmd) (m : Mem) (core bank : Nat) : Bool :=
  let side (a0 a1 : Dword) (r : Option (List VReg)) : Bool :=
    let first := bankOf core (field a0 18 5)
    r.isNone &&
      if (m.bank first).mode = .fifo then first == bank
      else (List.range 32).any (fun i => bankOf core ((field a0 18 5 + field a1 39 5 * i) % 32) == bank) ||
        bankOf core (field a0 50 5) == bank
  match c.kind, c.phase with
  | .mma, .staged | .mma, .queued | .mma, .started
  | .mmaz, .staged | .mmaz, .queued | .mmaz, .started
  | .mmat, .staged | .mmat, .queued | .mmat, .started => side c.a0 c.a1 c.ra || side c.b0 c.b1 c.rb
  | _, _ => false

/-- Banks from the first to the last byte of one side of a copy entry. -/
def copyNames (core space addr pitch rows len bank : Nat) : Bool :=
  match space with
  | 1 =>
    let last := addr + pitch * (rows - 1) + len - 1
    decide (bankOf core (addr / 2 ^ 18) ≤ bank) && decide (bank ≤ bankOf core (last / 2 ^ 18))
  | 3 => bankOf core (addr % 32) == bank
  | _ => false

/-- The operation is a reference to a bank: a matrix operand still to be read, or a transfer to or from it
that is not performed, or an access that waits in the load/store unit (R86). -/
def Op.refersTo (o : Op) (m : Mem) (bank : Nat) : Bool :=
  let core := coreOf o.loc
  match o.body with
  | .matrix c => c.namesBank m core bank
  | .copy e _ _ _ _ _ =>
    copyNames core (cpSspace e) (cpSrc e) (cpSpitch e) (cpRows e) (cpRowLen e) bank ||
      copyNames core (cpDspace e) (cpDst e) (cpDpitch e) (cpRows e) (cpRowLen e) bank
  | _ => o.body.isLsu && !o.finished &&
      o.touches.any fun x => x.1 == 1 && (banksOf x.2.1 x.2.2).any fun b => bankOf core (b % 32) == bank

/-- Erases the contents of a cluster scratch bank, with their poison (R84). -/
def Mem.eraseBank (m : Mem) (bank : Nat) : Mem :=
  let base := bank / 32 * 2 ^ 23 + bank % 32 * 2 ^ 18
  let inside (a : Nat) : Bool := decide (base ≤ a) && decide (a < base + 2 ^ 18)
  { m with
    cscr := m.cscr.filter fun e => !inside e.1
    cvalid := m.cvalid.filter fun e => !inside (e.1 * 32)
    cpoison := m.cpoison.filter fun w => !inside (w * 8) }

/-- The lines that a CACHE bank holds leave it, the dirty ones for their home (R86). -/
def Mem.leaveCache (m : Mem) (bank : Nat) : Mem :=
  (m.ccache.filterMap fun e =>
    if e.1 / 2 ^ 32 = bank / 32 ∧ e.2.bank = bank then some (e.1 % 2 ^ 32) else none).foldl
    (fun acc l => acc.ccOut (bank / 32) l) m

/-- Steps 4 and 5: the bank leaves its old mode and enters the new one. -/
def Mem.switchBank (m0 : Mem) (bank : Nat) (c : Dword) : Mem :=
  let m := m0.leaveCache bank
  let old := m.bank bank
  let new : Bank := ⟨cfgMode c, BitVec.ofNat 16 (cfgOwner c), cfgEntry c, []⟩
  let kept := cfgKeep c && old.mode == .scratch && new.mode == .scratch && old.owner == new.owner
  let m1 := if kept then m else m.eraseBank bank
  { m1 with banks := if new = Bank.reset then Sparse.erase m1.banks bank else Sparse.put m1.banks bank new }

/-- Step 6: who asked receives the previous configuration and goes on (R86); its instruction issues, which ends a step of
the debugger (R432). -/
def State.endSwitch (s : State) (w : BankSwitch) (old : Dword) : State :=
  let s1 := match w.loc with
    | some loc =>
      (match s.fibre loc with
      | some f =>
        if f.waitOp = some w.since then
          ((s.setFibre loc { f with
            sreg := Sparse.setZ f.sreg w.dst old, pc := w.next, waitOp := none, cede := false
            st := if f.st = .stalled then .current else f.st, issued := f.issued + 1 }).countClock f.region).afterIssue f loc
        else s
      | none => s)
    | none => s
  match w.queue with
  | some q => s1.complete q w.tag statusOk old
  | none => s1

/-- BANK_SWITCH: a bank in transit without references left switches (R86). -/
def execBankSwitch (cluster bank : Nat) (s : State) : Out :=
  let b := cluster * 32 + bank
  match s.mem.switches.find? fun w => w.bank = b with
  | none => .next s
  | some w =>
    if s.eng.ops.any fun e => decide (e.1 < w.since) && e.2.refersTo s.mem b && !(e.2.body.isLsu && s.recorded e.1) then .next s
    else
      let old := (s.mem.bank b).config bank
      let m := s.mem.switchBank b w.cfg
      let switches := m.switches.filter fun x => x.since ≠ w.since
      .next (({ s with mem := { m with switches := switches } }.endSwitch w old).startSwitch b)

/-- BANKCFG by the host: the same effect and protocol; behind another switch of the bank it takes its turn
(R85, R86). -/
def execBankcfgCommand (q : Nat) (tag : Word) (cluster : Byte) (cfg : Dword) (s : State) : Out :=
  if Config.clusters ≤ cluster.toNat || cfgBad cfg then s.endCommand q tag statusMalformed
  else
    let bank := cluster.toNat * 32 + cfgBank cfg
    .next ((s.enterTransit ⟨0, bank, cfg, none, 0, 0, some q, tag⟩).await q tag (.bank bank))

end Sys2Proof.Machine
end

