-- ==== Sys2Proof/Machine/Place.lean ====
section
/-! DEFINITION. Placement: which region is served, on which core its group is placed, and with what it
starts (R215 to R218, R227 to R233); task records taken from queues (R224, R225); launches that enter and
leave the table (R220, R221). -/

namespace Sys2Proof.Machine

/-! ### Room on a core (R231) -/

/-- What a slot takes of its quadrant: vector registers and tiles. -/
structure Need where
  regs : Nat
  tiles : Nat
  deriving DecidableEq, Repr

/-- The slot that the next gang takes, behind those already chosen: the lowest free slot of the quadrant
with the most free registers. -/
def State.pickSlot (s : State) (core : Nat) (used : List (Nat × Need)) (n : Need) : Option Nat :=
  let mine (quad : Nat) : List Need := used.filterMap fun u => if u.1 / 8 = quad then some u.2 else none
  let regs (quad : Nat) : Nat := s.freeRegs quad - ((mine quad).map (·.regs)).sum
  let tiles (quad : Nat) : Nat := s.freeTiles quad - ((mine quad).map (·.tiles)).sum
  let slot (quad : Nat) : Option Nat := ((List.range 8).map fun i => quad * 8 + i).find? fun k =>
    (Sparse.find s.slots k).isNone && !(used.any fun u => u.1 == k)
  let fits (quad : Nat) : Bool := decide (n.regs ≤ regs quad) && decide (n.tiles ≤ tiles quad) && (slot quad).isSome
  let best := (List.range 4).foldl (fun (acc : Option Nat) i =>
    let quad := core * 4 + i
    if fits quad then
      match acc with
      | none => some quad
      | some b => if regs b < regs quad then some quad else acc
    else acc) none
  best.bind slot

/-- Slots for all the gangs of a group on a core. -/
def State.fitSlots (s : State) (core : Nat) : List (Nat × Need) → List Need → Option (List Nat)
  | used, [] => some (used.reverse.map (·.1))
  | used, n :: rest =>
    match s.pickSlot core used n with
    | none => none
    | some k => s.fitSlots core ((k, n) :: used) rest

/-- The carve-out's limit in bytes (R72). -/
def carveMax : Nat := 192 * 1024

/-- The scratch runs of a core, as place and length (R73). -/
def State.scratchRuns (s : State) (core : Nat) : List (Nat × Nat) :=
  s.groups.filterMap fun e => if e.2.core = core ∧ e.2.scrLen ≠ 0 then some (e.2.scrBase, e.2.scrLen) else none

/-- The lowest place of the carve-out for a run of `n` bytes (R72, R73). -/
def State.scratchPlace (s : State) (core n : Nat) : Option Nat :=
  let runs := s.scratchRuns core
  let free (b : Nat) : Bool := decide (b + n ≤ carveMax) && runs.all fun r => decide (b + n ≤ r.1) || decide (r.1 + r.2 ≤ b)
  let ends := (0 :: runs.map fun r => r.1 + r.2).filter free
  if n = 0 then some 0
  else ends.foldl (fun acc b => match acc with | none => some b | some x => some (min x b)) none

/-- A core with room for a group, by its slots and scratch bytes. -/
def State.fits (s : State) (needs : List Need) (scr core : Nat) : Bool :=
  s.coreRuns core && (s.fitSlots core [] needs).isSome && (s.scratchPlace core scr).isSome

/-- Free slots of a core. -/
def State.freeSlots (s : State) (core : Nat) : Nat := 32 - (s.slots.filter fun e => e.1 / 32 = core).length

/-- BAL / ALLOW of one cluster is higher than that of another. -/
def State.richer (s : State) (a b : Nat) : Bool :=
  decide (purseBal (s.purse b) * max 1 (purseAllow (s.purse a)) < purseBal (s.purse a) * max 1 (purseAllow (s.purse b)))

/-- The core that the placer chooses among the fitting ones: the cluster with the highest ratio, in it the
core with the most free slots, and the lowest numbers on ties (R231). -/
def State.bestCore (s : State) (fit : Nat → Bool) : Option Nat :=
  let cores := (List.range Config.cores).filter fit
  let cluster := (cores.map clusterOf).foldl (fun (acc : Option Nat) c =>
    match acc with
    | none => some c
    | some b => if s.richer c b then some c else acc) none
  cluster.bind fun cl => (cores.filter fun c => clusterOf c = cl).foldl (fun (acc : Option Nat) c =>
    match acc with
    | none => some c
    | some b => if s.freeSlots b < s.freeSlots c then some c else acc) none

/-- The core that the placer chooses for a group. -/
def State.chooseCore (s : State) (needs : List Need) (scr : Nat) : Option Nat := s.bestCore (s.fits needs scr)

/-! ### Groups of a launch (R215 to R218) -/

/-- The roles of a launch that are in use. -/
def LaunchRec.used (l : LaunchRec) : List Role := l.roles.take l.nrole

/-- What the gangs of a group take. -/
def LaunchRec.gangNeeds (l : LaunchRec) : List Need :=
  List.replicate l.ngang ⟨(l.used.map fun r => r.ring * 8).sum + l.shr * 8, tileCount l.tiles⟩

/-- The next group to place: a number that was given back, or the next one. -/
def Launch.nextLin (l : Launch) : Option Nat :=
  let fresh := if l.next < l.lrec.nx * l.lrec.ny * l.lrec.nz then some l.next else none
  match l.returned, fresh with
  | [], f => f
  | x :: rest, f => some ((rest ++ f.toList).foldl min x)

/-- The group's number is placed. -/
def Launch.takeLin (l : Launch) (n : Nat) : Launch :=
  if l.returned.contains n then { l with returned := l.returned.erase n, again := l.again.erase n }
  else { l with next := n + 1 }

/-- A group's number is given back, to be placed again (R97, R242). -/
def Launch.giveBack (l : Launch) (n : Nat) (again : Bool) : Launch :=
  { l with returned := l.returned ++ [n], again := if again then l.again ++ [n] else l.again }

/-- Bytes of group scratch. -/
def LaunchRec.scratch (l : LaunchRec) : Nat := l.scrkb * 1024

/-- GID of a linear group number (R217). -/
def LaunchRec.gid (l : LaunchRec) (n : Nat) : Dword :=
  BitVec.ofNat 64 (n % l.nx + n / l.nx % l.ny * 2 ^ 21 + n / l.nx / l.ny * 2 ^ 42)

/-- The lanes of a gang's fibres that start under edge clipping (R217). -/
def LaunchRec.lanes (l : LaunchRec) (lin gang : Nat) : Word :=
  if l.xext = 0 then BitVec.allOnes 32
  else maskOf ((List.range 32).filter fun i => decide ((lin % l.nx * l.ngang + gang) * 32 + i < l.xext))

/-- Scalars 0 up to the length of a list. -/
def loadScalars (f : Fibre) (vals : List Dword) : Fibre :=
  (List.range vals.length).foldl (fun g i => g.setS i (vals.getD i 0)) f

/-- A slot as placement leaves it: `mask` are its filled positions (R195, R201, R393). -/
def Slot.placed (kind : SlotKind) (asid : BitVec 16) (q h regs tiles : Nat) (mask : BitVec 4) : Slot :=
  { Slot.empty with
    kind := kind, asid := asid, q := q, h := h, regs := regs, tiles := tiles
    fbar := (List.range 4).map fun b => (b, ⟨mask, 0⟩) }

/-- The sizes of the carve-out, in bytes (R72). -/
def carveSizes : List Nat := [0, 32, 64, 96, 128, 160, 192].map (· * 1024)

/-- The smallest size of the carve-out that reaches to `top`. -/
def carveFor (top : Nat) : Nat := (carveSizes.find? fun n => decide (top ≤ n)).getD carveMax

/-- S: the carve-out of a core is the smallest that holds every placed group's run (R72). It shrinks by its top
ways as soon as no run lies in them (R73). -/
def State.carve (s : State) (core : Nat) : Nat :=
  carveFor ((s.scratchRuns core).foldl (fun acc r => max acc (r.1 + r.2)) 0)

/-- Lines that a core's L1 holds, dirty or clean (R71). -/
def Mem.l1Lines (m : Mem) (core : Nat) : List Nat :=
  let dirty := (m.dirtyLines core).map (·.1)
  dirty ++ m.copies.filterMap fun e =>
    if e.1 / 2 ^ 64 = core ∧ !dirty.contains (e.1 % 2 ^ 64) then some (e.1 % 2 ^ 64) else none

/-- The lines of one L1 that share a set with one of them: 256 sets of 8 ways (R71). -/
def setMates (lines : List Nat) (line : Nat) : List Nat :=
  lines.filter fun x => Config.l1Set x % 256 == Config.l1Set line % 256

/-- Ways of a core's L1 that hold lines, beside those of its carve-out (R72). -/
def State.l1Ways (s : State) (core : Nat) : Nat := 8 - s.carve core / 32768

/-- `k` of the `ways` ways of a set are converted: the line that lies in one goes to the next level. Which of its lines
lie in them is a free value (R73, log 51). -/
def State.convertWays (s : State) (core : Nat) : Nat → Nat → List Nat → State
  | 0, _, _ => s
  | k + 1, ways, lines =>
    match lines[Config.victim s.draws % ways]? with
    | some line => ((s.drew 1).lineOut core line).convertWays core k (ways - 1) (lines.erase line)
    | none => (s.drew 1).convertWays core k (ways - 1) lines

/-- A placement that makes the carve-out grow sends the lines of the ways that it takes to the next level (R73). -/
def State.growCarve (s : State) (core scr : Nat) : State :=
  let before := s.l1Ways core
  let after := 8 - carveFor ((s.scratchPlace core scr).getD 0 + scr) / 32768
  let lines := s.mem.l1Lines core
  (lines.filter fun x => (setMates lines x).head? == some x).foldl
    (fun (acc : State) x => acc.convertWays core (before - after) before (setMates lines x)) s

/-- The step that placement itself is for the copy schedule: stage 0 (R331). -/
def placeStep (fs : List (Nat × Fibre)) : List CpStep :=
  match fs with
  | (loc, f) :: _ => [⟨0, loc, f.active, 0, f.mode, f.pc, false⟩]
  | [] => []

/-- Places a group of a launch's grid on a core. -/
def State.placeGrid (s : State) (id : Nat) (l : Launch) (lin core : Nat) (slots : List Nat) (r : Rcb) : State :=
  let c := l.lrec
  let g := s.fresh
  let mask : BitVec 4 := BitVec.ofNat 4 (2 ^ c.nrole - 1)
  let regs := (c.used.map fun x => x.ring * 8).sum + c.shr * 8
  let fs := (List.range slots.length).flatMap fun gang => (List.range c.nrole).map fun k =>
    let loc := slots.getD gang 0 * 4 + k
    let role := c.used.getD k ⟨0, 1, 0, 1, false, 0⟩
    (loc, loadScalars { roleFibre c role loc with
      exec := c.lanes lin gang, region := c.rnum, asid := r.asid, lid := gang * c.nrole + k, group := g
      launch := id } c.args)
  let grp := { Group.fresh .grid core id c.rnum r.asid with
    gid := c.gid lin, lin := lin, members := fs.map (·.1), scrBase := (s.scratchPlace core c.scratch).getD 0
    scrLen := c.scratch, steps := placeStep fs, relaunched := l.again.contains lin }
  let sl := slots.map fun k => (k, Slot.placed .gang r.asid 0 (c.shr * 8) regs (tileCount c.tiles) mask)
  let s1 : State := { s.growCarve core c.scratch with fresh := s.fresh + 1 }
  (s1.putGroup g grp sl fs l.core.toList).modLaunch id fun l => l.takeLin lin

/-! ### Task groups (R204, R205, R216) -/

/-- Fibres of a declared task entry. -/
def Decl.fibres (d : Decl) : Nat := d.nfib + 1

/-- Fibres of a task group in each of its slots, packed in FID order. -/
def taskSlots (n : Nat) : List Nat := (List.range ((n + 3) / 4)).map fun i => min 4 (n - 4 * i)

/-- What the slots of a task group take. -/
def Launch.taskNeeds (l : Launch) (d : Decl) : List Need :=
  (taskSlots d.fibres).map fun k =>
    ⟨k * (l.roleOf d).ring * 8 + l.lrec.shr * 8, tileCount l.lrec.tiles⟩

/-- Places a receipt's record as a task group. -/
def State.placeTask (s : State) (rc : Receipt) (id : Nat) (l : Launch) (d : Decl) (slots : List Nat) (r : Rcb) :
    State :=
  let c := l.lrec
  let g := s.fresh
  let role := l.roleOf d
  let num (o n : Nat) : Nat := leNat ((rc.bytes.drop o).take n)
  let vals : List Dword := (List.range 8).map (fun i => BitVec.ofNat 64 (num (32 + 4 * i) 4))
    ++ [BitVec.ofNat 64 (num 16 8), BitVec.ofNat 64 (num 24 8)]
  let fs := (List.range d.fibres).map fun k =>
    let loc := slots.getD (k / 4) 0 * 4 + k % 4
    (loc, loadScalars { roleFibre c role loc with
      pc := BitVec.ofNat 48 (recEntry rc.bytes), region := rc.region, asid := r.asid, lid := k, group := g
      launch := id } vals)
  let grp := { Group.fresh .task rc.core id rc.region r.asid with
    members := fs.map (·.1), scrBase := (s.scratchPlace rc.core c.scratch).getD 0, scrLen := c.scratch
    steps := placeStep fs, succ := BitVec.ofNat 64 (num 24 8), record := rc.bytes, queue := rc.queue
    relaunched := rc.again }
  let sl := (List.range slots.length).map fun i =>
    let k := (taskSlots d.fibres).getD i 0
    (slots.getD i 0, Slot.placed .task r.asid 0 (c.shr * 8) (k * role.ring * 8 + c.shr * 8) (tileCount c.tiles)
      (BitVec.ofNat 4 (2 ^ k - 1)))
  let s1 : State := { s.growCarve rc.core c.scratch with fresh := s.fresh + 1 }
  let s2 : State := { s1 with sched := { s1.sched with receipts := s1.sched.receipts.erase rc } }
  (s2.putGroup g grp sl fs l.core.toList).recordDown rc.region (recEntry rc.bytes) true

/-! ### Task queues (R222 to R225) -/

/-- A place that holds task records: a queue's return list, or its ring of a core. -/
inductive Source where
  | back (queue : Nat)
  | ring (queue core : Nat)
  deriving DecidableEq, Repr

/-- The record at the head of a source, when there is one. -/
def State.headOf (s : State) (qtab : Nat) : Source → Option (List Byte)
  | .back q =>
    let d := qtab + 64 * q
    let head := physNat s (d + 24) 8
    let b := physRead s (physNat s (d + 16) 8 + 64 * (head % 2 ^ physNat s (d + 41) 1)) 64
    if physNat s (d + 42) 1 % 2 = 1 ∧ head < physNat s (d + 32) 8 ∧ recEntry b ≠ 0 then some b else none
  | .ring q core =>
    let d := s.qdesc (qtab + 64 * q) core
    let h := physNat s d.head 8
    if d.valid && decide (h < physNat s d.tail 8) then some (physRead s (d.ring + 64 * (h % d.size)) 64) else none

/-- Takes the head record of a source: HEAD advances by the CAS, or the return list's entry is zeroed and
its index advances (R223, R224). -/
def State.advance (s : State) (qtab : Nat) : Source → State
  | .back q =>
    let d := qtab + 64 * q
    let head := physNat s (d + 24) 8
    let at0 := physNat s (d + 16) 8 + 64 * (head % 2 ^ physNat s (d + 41) 1)
    physWrite (physWrite s at0 (leBytes 6 0)) (d + 24) (leBytes 8 (head + 1))
  | .ring q core =>
    let d := s.qdesc (qtab + 64 * q) core
    physWrite s d.head (leBytes 8 (physNat s d.head 8 + 1))

/-- The sources of a core in the order of R225: each lists its rings by queue, those of one queue in the order of their
cores. -/
def sourcesOf (core : Nat) : List (List Source) :=
  let queues := List.range 256
  let rings (cores : List Nat) : List Source := queues.flatMap fun q => cores.map fun c => .ring q c
  let cl := clusterOf core
  let die := dieOf core
  let mates := [1, 2, 3].map fun i => cl * 4 + (core + i) % 4
  let own := ((List.range 48).map fun i => die * 48 + i).filter fun c => clusterOf c ≠ cl
  let others := [1, 2, 3].flatMap fun x => (List.range 48).map fun i => (die ^^^ x) * 48 + i
  [queues.map Source.back, rings [core], rings mates, rings own, rings others]

/-- The queue number of a source. -/
def Source.queue : Source → Nat
  | .back q => q
  | .ring q _ => q

/-- The best head record of one source: highest PRIO, then the lowest queue number (R225). -/
def State.bestHead (s : State) (qtab : Nat) (l : List Source) : Option (Source × List Byte) :=
  l.foldl (fun (acc : Option (Source × List Byte)) x =>
    match s.headOf qtab x with
    | none => acc
    | some b =>
      match acc with
      | none => some (x, b)
      | some a => if recPrio a.2 < recPrio b then some (x, b) else acc) none

/-- The cores whose release a take from a source acquires: that which enqueued, or that which gave the record back
(R136, R223). -/
def State.madeBy (s : State) (qtab : Nat) : Source → List Nat
  | .ring _ core => [core]
  | .back q =>
    let d := qtab + 64 * q
    ((s.physLine (physNat s (d + 16) 8 + 64 * (physNat s (d + 24) 8 % 2 ^ physNat s (d + 41) 1))).map fun line =>
      Sparse.get [] s.mem.relWrites line).getD []

/-- The address of the record at the head of a source. -/
def State.headAt (s : State) (qtab : Nat) : Source → Nat
  | .back q =>
    let d := qtab + 64 * q
    physNat s (d + 16) 8 + 64 * (physNat s (d + 24) 8 % 2 ^ physNat s (d + 41) 1)
  | .ring q core =>
    let d := s.qdesc (qtab + 64 * q) core
    d.ring + 64 * (physNat s d.head 8 % d.size)

/-- What a core would take for a region (R225). -/
def State.findTask (s : State) (core rgn : Nat) : Option (Nat × Source × List Byte) :=
  match s.qtabOf rgn with
  | none => none
  | some qtab => ((sourcesOf core).findSome? fun l => s.bestHead qtab l).map fun x => (qtab, x.1, x.2)

/-- Receipts of a core's buffer. -/
def receiptSize : Nat := 16

/-- Blocks of a region's queues that a host may have changed: of its descriptors, of the counters of its rings, and of the
record that a core would take. Nothing is taken before the host has given them up (R58). -/
def State.queueHeld (s : State) (core rgn : Nat) : List Nat :=
  match s.qtabOf rgn with
  | none => []
  | some qtab =>
    if s.mem.hostBlocks.isEmpty then []
    else
      let rings := (List.range 256).filterMap fun q =>
        let d := s.qdesc (qtab + 64 * q) 0
        if d.valid then some (d.head, 16 * Config.cores) else none
      let entry := ((s.findTask core rgn).toList).map fun x => (s.headAt qtab x.2.1, 64)
      s.heldAt ((qtab, 16384) :: rings ++ entry)

/-- A core has a free receipt and room for the task group of a record (R224, R225). -/
def State.taskRoom (s : State) (core rgn : Nat) (b : List Byte) : Bool :=
  decide ((s.sched.receipts.filter fun r => r.core = core).length < receiptSize) &&
    match s.declaring rgn (recEntry b) true with
    | some (_, l, d) => s.fits (l.taskNeeds d) l.lrec.scratch core
    | none => true

/-- A core takes a record of a region: an acquire at DEV scope, then the CAS. A record that no live launch
declares, or that is malformed, is discarded (R204, R224). -/
def State.takeTask (s : State) (core rgn : Nat) : State :=
  match s.findTask core rgn with
  | none => s
  | some (qtab, x, b) =>
    if !s.taskRoom core rgn b || !(s.queueHeld core rgn).isEmpty then s
    else
      let s1 := (s.advance qtab x).startAcquire core (s.madeBy qtab x)
      if recBad b || !recGroup b || (s1.declaring rgn (recEntry b) true).isNone then s1.loseRecord rgn
      else { s1 with sched := { s1.sched with receipts := s1.sched.receipts ++ [⟨core, rgn, x.queue, b, false⟩] } }

/-! ### Work of a region (R227) -/

/-- Placeable work. -/
inductive Work where
  | group (launch : Nat)
  | receipt (r : Receipt)
  | take (core : Nat)
  deriving DecidableEq, Repr

/-- The next group of a launch has a core that it fits. -/
def State.gridCore (s : State) (l : Launch) : Option Nat :=
  l.nextLin.bind fun _ => s.chooseCore l.lrec.gangNeeds l.lrec.scratch

/-- The core that the placer chooses among those that can take and place a task record of a region (R231). -/
def State.takeCore (s : State) (rgn : Nat) : Option Nat :=
  s.bestCore fun c => s.coreRuns c && (s.queueHeld c rgn).isEmpty &&
    match s.findTask c rgn with
    | some (_, _, b) => s.taskRoom c rgn b
    | none => false

/-- The placeable work of a region: receipts, groups of its launches in the order in which they entered the
table, then records of its queues. -/
def State.workOf (s : State) (rgn : Nat) : List Work :=
  let receipts := s.sched.receipts.filterMap fun r =>
    if r.region = rgn then
      match s.declaring rgn (recEntry r.bytes) true with
      | some (_, l, d) => if s.fits (l.taskNeeds d) l.lrec.scratch r.core then some (Work.receipt r) else none
      | none => none
    else none
  let groups := s.sched.launches.filterMap fun e =>
    if e.2.lrec.rnum = rgn ∧ (s.gridCore e.2).isSome = true then some (Work.group e.1) else none
  receipts ++ groups ++ ((s.takeCore rgn).map Work.take).toList

/-- The regions that work can be for, lowest number first: those of live launches and of receipts. Records stand in
queues that a live launch names. -/
def State.workRegions (s : State) : List Nat :=
  ((s.sched.launches.map (·.2.lrec.rnum) ++ s.sched.receipts.map (·.region)).foldl
    (fun (acc : Sparse Bool) n => Sparse.put acc n true) []).map (·.1)

/-- The regions that the placer considers, with their work (R15, R227). -/
def State.considered (s : State) : List (Nat × Rcb × List Work) :=
  s.workRegions.filterMap fun n => (s.rcb n).bind fun r =>
    if r.st = .active ∧ r.tickets ≠ 0 ∧ s.ctxRoom r.asid = true then
      match s.workOf n with
      | [] => none
      | w => some (n, r, w)
    else none

/-- GPASS of a region: the lowest PASS among the other regions of its PRIO that hold placeable work, or its own
without any (R228). -/
def gpass (l : List (Nat × Rcb × List Work)) (n : Nat) (r : Rcb) : Nat :=
  match (l.filter fun x => x.1 ≠ n ∧ x.2.1.prio = r.prio).map fun x => x.2.1.pass with
  | [] => r.pass
  | p :: rest => rest.foldl min p

/-- PASS raised to GPASS (R228). -/
def Rcb.raised (r : Rcb) (l : List (Nat × Rcb × List Work)) (n : Nat) : Rcb := { r with pass := max r.pass (gpass l n r) }

/-- Regions that gain work raise their PASS to GPASS; the placer notes who had work (R228). -/
def State.notePass (s : State) (l : List (Nat × Rcb × List Work)) : State :=
  let idle := s.sched.rcbs.map fun e => (e.1, if l.any fun x => x.1 == e.1 then e.2 else { e.2 with hadWork := false })
  l.foldl (fun (acc : State) x => acc.setRcb x.1 { (if x.2.1.hadWork then x.2.1 else x.2.1.raised l x.1) with hadWork := true })
    { s with sched := { s.sched with rcbs := idle } }

/-- Regions that have become ACTIVE raise their PASS to GPASS, whether they have work or not (R228). -/
def State.wakePass (s : State) : State :=
  if s.sched.rcbs.any fun e => e.2.woke then
    let l := s.considered
    { s with sched := { s.sched with rcbs := s.sched.rcbs.map fun e =>
        (e.1, if e.2.woke then { e.2.raised l e.1 with woke := false } else e.2) } }
  else s

/-- A launch's groups mostly ask for leave, and no cluster with a fitting core has a quarter of its
allowance (R232). -/
def State.heldBack (s : State) (w : List Work) : Bool :=
  w.all fun x =>
    match x with
    | .group id =>
      (match Sparse.find s.sched.launches id with
      | some l => l.lrec.heavy != 0 && !((List.range Config.cores).any fun c =>
          s.fits l.lrec.gangNeeds l.lrec.scratch c &&
            decide (purseAllow (s.purse (clusterOf c)) ≤ 4 * purseBal (s.purse (clusterOf c))))
      | none => true)
    | _ => false

/-- The region that is served: highest PRIO, then lowest PASS, then lowest number; regions that R232 skips
come last. -/
def State.bestRegion (s : State) (l : List (Nat × Rcb × List Work)) : Option (Nat × Rcb × List Work) :=
  let best (l : List (Nat × Rcb × List Work)) : Option (Nat × Rcb × List Work) :=
    l.foldl (fun (acc : Option (Nat × Rcb × List Work)) x =>
      match acc with
      | none => some x
      | some a =>
        if a.2.1.prio < x.2.1.prio ∨ (a.2.1.prio = x.2.1.prio ∧ x.2.1.pass < a.2.1.pass) then some x else acc) none
  match best (l.filter fun x => !s.heldBack x.2.2) with
  | some x => some x
  | none => best l

/-- A group of `n` fibres has been placed for a region: PASS rises by n strides (R228). -/
def State.paid (s : State) (rgn n : Nat) : State :=
  s.modRcb rgn fun r => { r with pass := (r.pass + n * (2 ^ 32 / r.tickets)) % 2 ^ 64 }

/-- Places a receipt's task group on its core. -/
def State.placeReceipt (s : State) (rc : Receipt) : State :=
  match s.declaring rc.region (recEntry rc.bytes) true, s.rcb rc.region with
  | some (id, l, d), some r =>
    (match s.fitSlots rc.core [] (l.taskNeeds d) with
    | some slots => ((s.placeTask rc id l d slots r).paid rc.region d.fibres)
    | none => s)
  | _, _ => s

/-- Places one piece of work. -/
def State.placeWork (s : State) (rgn : Nat) (r : Rcb) : Work → State
  | .receipt rc => s.placeReceipt rc
  | .group id =>
    match Sparse.find s.sched.launches id with
    | none => s
    | some l =>
      match l.nextLin, s.gridCore l with
      | some lin, some core =>
        (match s.fitSlots core [] l.lrec.gangNeeds with
        | some slots => (s.placeGrid id l lin core slots r).paid rgn (l.lrec.ngang * l.lrec.nrole)
        | none => s)
      | _, _ => s
  | .take core =>
    let s1 := s.takeTask core rgn
    match s1.sched.receipts.getLast? with
    | some rc => if s1.sched.receipts.length = s.sched.receipts.length then s1 else s1.placeReceipt rc
    | none => s1

/-- The hosts are asked for what they hold of the queues that cores would take from (R58). -/
def State.askQueues (s : State) (cores : List Nat) : State :=
  if s.mem.hostBlocks.isEmpty then s
  else askHost s (s.workRegions.flatMap fun n => cores.flatMap fun c => s.queueHeld c n)

/-- One placement decision (R227 to R232). -/
def State.placeOne (s0 : State) : State :=
  let s := if s0.placing then s0.askQueues (List.range Config.cores) else s0
  if !s.placing then s
  else
    let s1 := s.notePass s.considered
    match s1.bestRegion s1.considered with
    | some (n, r, w :: _) => s1.placeWork n r w
    | _ => s1

/-- TASK_TAKE: a core takes a record for the region that the placer would serve first (R224, R225). -/
def execTaskTake (core : Nat) (s0 : State) : Out :=
  if Config.cores ≤ core ∨ s0.coreRuns core = false then .next s0
  else
    let s := s0.askQueues [core]
    let regions := s.workRegions.filterMap fun n => (s.rcb n).bind fun r =>
      if r.st = .active ∧ r.tickets ≠ 0 then
        match s.findTask core n with
        | some (_, _, b) => if s.taskRoom core n b then some (n, r, [Work.take core]) else none
        | none => none
      else none
    match s.bestRegion regions with
    | some (n, _, _) => .next (s.takeTask core n)
    | none => .next s

/-! ### The launch table (R220, R221) -/

/-- LAUNCH by the host: a record at a device address is checked and enters the table (R219, R220, R451). -/
def State.hostLaunch (s : State) (q : Nat) (tag : Word) (addr : Nat) : State :=
  let b := physRead s addr 256
  if s.launchStatus b none = 0 then (s.enterLaunch b none).complete q tag statusOk 0
  else s.complete q tag statusRefused 0

/-- A launch command must wait: the table is full, or a host holds a part of the record that it may have changed (R58,
R220). -/
def State.launchWaits (s : State) (addr : Nat) : Bool :=
  decide (launchTable ≤ s.sched.launches.length + s.launching) || !(s.heldAt [(addr, 256)]).isEmpty

/-- LAUNCH_COMMAND: with the table full it waits inside its queue. -/
def execLaunchCommand (q : Nat) (tag : Word) (addr : Dword) (s : State) : Out :=
  if s.badAddr addr.toNat 256 then s.endCommand q tag statusMalformed
  else if s.launchWaits addr.toNat then
    .next ((askHost s (s.heldAt [(addr.toNat, 256)])).await q tag (.launch addr))
  else .next (s.hostLaunch q tag addr.toNat)

/-- The first launch command that waits, and need wait no more, enters the table. -/
def State.retryLaunch (s : State) : State :=
  match s.io.pending.find? fun p => match p.what with | .launch a => !s.launchWaits a.toNat | _ => false with
  | some p =>
    (match p.what with
    | .launch addr => s.hostLaunch p.queue p.tag addr.toNat
    | _ => s)
  | none => s

/-- Launch commands that wait enter the table, in order, while it has room (R220). -/
def State.retryLaunches (s : State) : Nat → State
  | 0 => s
  | n + 1 => (s.retryLaunch).retryLaunches n

/-- A launch has no group left to place and none outstanding, and no record outstanding (R221). -/
def Launch.ended (l : Launch) : Bool := l.nextLin.isNone && l.placed == 0 && l.records == 0

/-- LAUNCH_RETIRE: a launch that is over subtracts 1 at DONE, as a release of its writes, and leaves the
table; an absent granule of DONE is asked for, and the launch stays until it is there (R221). -/
def execLaunchRetire (id : Nat) (s : State) : Out :=
  match Sparse.find s.sched.launches id with
  | none => .next s
  | some l =>
    if !l.ended then .next s
    else
      let gone (t : State) : State := { t with sched := { t.sched with launches := Sparse.erase t.sched.launches id } }
      match (if l.lrec.done = 0 then none else s.rcb l.lrec.rnum) with
      | none => .next (gone s)
      | some r =>
        let d : DevSub := ⟨l.core.getD 0, l.lrec.rnum, r.asid, r.priv, l.lrec.done⟩
        match devSub s d s.mem.dirtyCores with
        | (.ended, s1) => .next (gone s1)
        | (.waits, s1) => .next s1

end Sys2Proof.Machine
end

