-- ==== Sys2Proof/Machine/Save.lean ====
section
/-! DEFINITION. Pre-emption by the host (R239 to R242): PREEMPT, the save of a halted region, SAVESIZE,
RESTORE, and the placer's turn. -/

namespace Sys2Proof.Machine

/-! ### Sizes (R240) -/

/-- A query slot of the fibre holds a STOPPED query. -/
def Fibre.stoppedQueries (f : Fibre) : Nat := (f.query.filter fun e => e.2.st = .stopped).length

/-- Bytes of a fibre in a save area, without its records. -/
def Fibre.saveSize (f : Fibre) : Nat := 1240 + 3456 * f.stoppedQueries

/-- Bytes of a slot: rings and shared range, tiles, barriers. -/
def Slot.saveSize (x : Slot) : Nat := x.regs * 128 + x.tiles * 12288 + 16

/-- Bytes of a group: scratch, named barriers, copy context and handles, census handles. -/
def Group.saveSize (g : Group) : Nat :=
  g.scrLen + 8 * g.nbar.length + 64 + 16 * g.handles.length + 16 * g.cens.length

/-- Bytes of records in the teller, in bins or on their way. -/
def recordsSize (bins : List Bin) (coming : List TellRun) : Nat :=
  64 * (bins.map (·.records.length)).sum + 64 * (coming.map (·.records.length)).sum

/-- What a save area holds of its subtree. -/
def Save.size (v : Save) : Nat :=
  (v.fibres.map (·.2.saveSize)).sum + 4096 * v.recs.length + (v.slots.map (·.2.saveSize)).sum
    + (v.groups.map (·.2.saveSize)).sum + 64 * v.receipts.length + recordsSize v.bins v.tellIn
    + 272 * v.launches.length

/-- The state of a subtree on the chip, in the form of a save area (R240). -/
def State.gather (s : State) (area rgn : Nat) : Save :=
  let rs := s.subtree rgn
  let here (g : Nat) : Bool := rs.contains g
  let fibres := s.fibres.filter fun e => here e.2.region
  let groups := s.groups.filter fun e => here e.2.region
  let ops := s.eng.ops.filter fun e => groups.any fun g => g.1 == e.2.group
  { area := area, region := rgn, fibres := fibres, groups := groups, ops := ops
    slots := s.slots.filter fun e => fibres.any fun f => slotOf f.1 == e.1
    recs := s.eng.recs.filter fun e => ops.any fun o => o.1 == e.2.op
    held := s.eng.held.filter fun h => ops.any fun o => o.1 == h.op
    batches := s.co.batches.filter fun b => fibres.any fun f => f.1 == b.loc
    spills := [], receipts := s.sched.receipts.filter fun r => here r.region
    bins := s.sched.bins.filter fun b => here b.region
    tellIn := s.sched.tellIn.filter fun t => here t.region
    launches := s.sched.launches.filter fun e => here e.2.lrec.rnum }

/-- Save-area bytes of a subtree as it stands, whether on the chip or in a save area. -/
def State.saveSize (s : State) (rgn : Nat) : Nat :=
  (s.gather 0 rgn).size + ((s.sched.saves.filter fun v => s.inSubtree rgn v.region).map Save.size).sum

/-- SAVESIZE. -/
def execSavesize (q : Nat) (tag : Word) (rgn : Word) (s : State) : Out :=
  if 2 ^ 24 ≤ rgn.toNat then s.endCommand q tag statusMalformed
  else if (s.rcb rgn.toNat).isNone then s.endCommand q tag statusRefused
  else .next (s.complete q tag statusOk (BitVec.ofNat 64 (s.saveSize rgn.toNat)))

/-! ### PREEMPT (R239, R242) -/

/-- The operands of PREEMPT are out of range. -/
def State.preemptBad (s : State) (rgn : Word) (area : Dword) : Bool :=
  decide (2 ^ 24 ≤ rgn.toNat) || s.badAddr area.toNat 4096

/-- A region that can be pre-empted: entered, not KILLED, not in a save area. -/
def State.preemptable (s : State) (rgn : Nat) : Bool :=
  match s.rcb rgn with
  | some r => r.st != .killed && !s.isSaved rgn
  | none => false

/-- The region is halted; its command completes when its state is saved. -/
def State.startSave (s : State) (q : Nat) (tag : Word) (rgn area : Nat) : State :=
  ((s.modRcb rgn fun r => r).suspendRegion rgn).await q tag (.save rgn area)

/-- PREEMPT SAVE. -/
def execPreemptSave (q : Nat) (tag : Word) (rgn : Word) (area : Dword) (s : State) : Out :=
  if s.preemptBad rgn area then s.endCommand q tag statusMalformed
  else if !s.preemptable rgn.toNat then s.endCommand q tag statusRefused
  else .next (s.startSave q tag rgn.toNat area.toNat)

/-- Discards a placed group: a grid group's number returns to its launch, a task group's record to its
queue (R242). -/
def State.discardGroup (s : State) (id : Nat) (g : Group) : State :=
  let s1 := match g.kind with
    | .grid => s.modLaunch g.launch fun l => l.giveBack g.lin g.relaunched
    | .task => (s.returnRecord g.core g.region g.queue g.record).recordUp g.region (recEntry g.record) true
    | .teller => s
  s1.emptyLocs (s1.locsWhere fun f => f.group == id)

/-- Discards the groups of a subtree that launches and task queues placed. -/
def State.discardGroups (s : State) (rgn : Nat) : State :=
  let rs := s.subtree rgn
  (s.groups.filter fun e => e.2.kind ≠ .teller ∧ rs.contains e.2.region = true).foldl
    (fun (acc : State) e => acc.discardGroup e.1 e.2) s

/-- PREEMPT DISCARD: only for an idempotent region; fibres of the teller are saved (R242). -/
def execPreemptDiscard (q : Nat) (tag : Word) (rgn : Word) (area : Dword) (s : State) : Out :=
  let n := rgn.toNat
  if s.preemptBad rgn area then s.endCommand q tag statusMalformed
  else if s.lockedRegion n then s.endCommand q tag statusLocked
  else if !s.preemptable n || !((s.rcb n).map fun r => r.idem).getD false then s.endCommand q tag statusRefused
  else
    let s1 := (s.modRcb n fun r => r).suspendRegion n
    .next ((s1.discardGroups n).await q tag (.save n area.toNat))

/-! ### The save (R239, R240, R415) -/

/-- A command of a matrix batch waits behind one whose record is saved (R355). -/
def State.mxRests (s : State) (id : Nat) (o : Op) (c : MxCmd) : Bool :=
  (c.phase == .complete || (c.phase == .queued && s.mxBlocked id o c)) &&
    s.eng.ops.any fun e => e.2.unit == 6 && slotOf e.2.loc == slotOf o.loc && s.recorded e.1

/-- The sweep of a census has run to its end, or cannot begin before an operation that is saved (R415). -/
def State.censusRests (s : State) (id : Nat) : Bool :=
  match s.census id with
  | none => true
  | some c =>
    match c.serial with
    | some _ => decide (Config.cores ≤ c.swept.length)
    | none => c.after.any s.recorded

/-- An operation of a halted fibre that has completed as far as it goes: recorded, or waiting for something
that is saved with it. -/
def State.atRest (s : State) (id : Nat) (o : Op) : Bool :=
  s.recorded id ||
    match o.body with
    | .solicit _ => s.censusRests id
    | .ray q => ((s.fibre o.loc).map fun f => (Sparse.find f.query q.slot).any fun x => x.st == .stopped).getD true
    | .copy _ _ _ _ started _ => !started
    | .frame _ _ _ _ => true
    | .matrix c => s.mxRests id o c
    | _ => false

/-- Everything that a subtree has issued is at rest, and the censuses that it started have swept. -/
def State.saveReady (s : State) (v : Save) : Bool :=
  (v.ops.all fun e => s.atRest e.1 e.2) &&
    s.co.censuses.all fun c => !(v.groups.any fun g => g.1 == c.group) || c.value.isSome || s.censusRests c.id

/-- The spilled units of a fibre, as (key, address) (R197, R218). -/
def spillPlaces (loc : Nat) (f : Fibre) : List (Nat × Nat) :=
  (List.range (wSpill f.wdesc)).map fun u => (loc * 65536 + u, (f.spBase + BitVec.ofNat 64 (u * 1024)).toNat)

/-- Reads the spilled units of a fibre; `false` where one is absent, which is then asked for. A unit whose
page refuses the read does not move. -/
def readSpills (s : State) (w : Who) (grp : Nat) : List (Nat × Nat) → Sparse (List Byte) → Bool × Sparse (List Byte) × State
  | [], acc => (true, acc, s)
  | (k, va) :: rest, acc =>
    match s.locate w grp .read .global va 1024 with
    | (.ok l, s1) =>
      let (b, s2) := s1.readSpots w true l
      readSpills s2 w grp rest (Sparse.put acc k b)
    | (.miss m, s1) => (false, acc, s1.requestMissing (clusterOf w.core) w.asid m)
    | (.wait, s1) => (false, acc, s1)
    | (_, s1) => readSpills s1 w grp rest acc

/-- Reads the spilled units of all fibres of a save. -/
def readAllSpills (s : State) : List (Nat × Fibre) → Sparse (List Byte) → Bool × Sparse (List Byte) × State
  | [], acc => (true, acc, s)
  | (loc, f) :: rest, acc =>
    match readSpills s (s.who loc f) f.group (spillPlaces loc f) acc with
    | (true, acc1, s1) => readAllSpills s1 rest acc1
    | r => r

/-- Takes a save's contents off the chip. LIVE and the counts of the launches, which are saved too, keep the groups. -/
def State.takeOff (s : State) (v : Save) : State :=
  let fibres := s.fibres.filter fun e => !(v.fibres.any fun x => x.1 == e.1)
  let mine (id : Nat) : Bool := v.ops.any fun e => e.1 == id
  let slots := (s.slots.filter fun e => fibres.any fun f => slotOf f.1 == e.1).map fun e =>
    (e.1, { e.2 with pend := e.2.pend.filter fun p => !mine p.op })
  let s1 : State := { s with
    fibres := fibres, slots := slots
    groups := s.groups.filter fun e => !(v.groups.any fun x => x.1 == e.1)
    eng := ⟨s.eng.ops.filter fun e => !mine e.1, s.eng.recs.filter fun e => !mine e.2.op,
      s.eng.held.filter fun h => !mine h.op⟩
    sched := { s.sched with
      receipts := s.sched.receipts.filter fun r => !v.receipts.contains r
      bins := s.sched.bins.filter fun b => !v.bins.contains b
      tellIn := s.sched.tellIn.filter fun t => !v.tellIn.contains t
      launches := s.sched.launches.filter fun e => !(v.launches.any fun x => x.1 == e.1) } }
  { s1 with mem := s1.mem.unref (v.ops.flatMap fun (e : Nat × Op) => e.2.refs) }.dropWaits

/-- The bytes of a save area belong to the device that writes it (R240). -/
def State.writeArea (s : State) (area n : Nat) : State :=
  { physWrite s area ((List.range n).map fun i => Config.saveByte s.draws i) with draws := s.draws + 1 }

/-- Saves a subtree: its slots keep what their pending writes are, operations hold no frame any longer. What its cores
hold dirty comes home, as its fibres may go on elsewhere (R241, R443). -/
def State.putAway (s : State) (v : Save) : State :=
  let ops := v.ops.map fun e => (e.1, { e.2 with refs := [] })
  let slots := v.slots.map fun e =>
    (e.1, { e.2 with pend := e.2.pend.filter fun p => v.ops.any fun o => o.1 == p.op })
  let m := ((v.fibres.map fun e => coreOf e.1).eraseDups).foldl (fun m c => (m.writeBackAll c).raiseCount c) s.mem
  let s1 := ({ s with mem := m }.takeOff v).writeArea v.area v.size
  { s1 with sched := { s1.sched with
      saves := (s1.sched.saves.filter fun x => x.area ≠ v.area) ++ [{ v with ops := ops, slots := slots }] } }

/-- CONTEXT_SAVE: the state of a halted region is saved once its operations and the sweeps of its censuses
are over, and the PREEMPT completes (R239, R240). -/
def execContextSave (rgn : Nat) (s : State) : Out :=
  let mine (p : Pending) : Bool :=
    match p.what with
    | .save g _ => g == rgn
    | _ => false
  match s.io.pending.find? mine with
  | none => .next s
  | some p =>
    match p.what with
    | .save _ area =>
      let v := s.gather area rgn
      if !s.saveReady v then .next s
      else
        (match readAllSpills s v.fibres [] with
        | (true, spills, s1) => .next ((s1.putAway { v with spills := spills }).complete p.queue p.tag statusOk 0)
        | (false, _, s1) => .next s1)
    | _ => .next s

/-! ### RESTORE (R241) -/

/-- What is placed as one: the groups and the slots that hold them. -/
structure SaveUnit where
  groups : List Nat
  slots : List Nat
  deriving DecidableEq, Repr

/-- The units of a save area: a group of a launch or of a task record with its slots, or a teller slot with
its groups. -/
def Save.units (v : Save) : List SaveUnit :=
  let slotsOf (g : Nat) : List Nat := ((v.fibres.filter fun e => e.2.group = g).map fun e => slotOf e.1).eraseDups
  let placed := (v.groups.filter fun e => e.2.kind ≠ .teller).map fun e => ⟨[e.1], slotsOf e.1⟩
  let teller := (v.slots.filter fun e => e.2.kind = .teller).map fun e =>
    ⟨((v.fibres.filter fun f => slotOf f.1 = e.1).map fun f => f.2.group).eraseDups, [e.1]⟩
  placed ++ teller

/-- What the slots of a unit take. -/
def Save.needs (v : Save) (u : SaveUnit) : List Need :=
  u.slots.map fun k =>
    match Sparse.find v.slots k with
    | some x => ⟨x.regs, x.tiles⟩
    | none => ⟨0, 0⟩

/-- Scratch bytes of a unit. -/
def Save.scratch (v : Save) (u : SaveUnit) : Nat :=
  (u.groups.map fun g => ((Sparse.find v.groups g).map fun x => x.scrLen).getD 0).sum

/-- The new locator of an old one. -/
def remapLoc (m : List (Nat × Nat)) (loc : Nat) : Nat :=
  match m.find? fun e => e.1 = slotOf loc with
  | some e => e.2 * 4 + fidOf loc
  | none =>
    match m with
    | e :: _ => e.2 * 4 + fidOf loc
    | [] => loc

/-- A fibre in its new position: its spill area is that of the position (R218). -/
def Fibre.moveTo (f : Fibre) (old new : Nat) : Fibre :=
  { f with spBase := f.spBase - BitVec.ofNat 64 (old * f.spLen) + BitVec.ofNat 64 (new * f.spLen) }

/-- Writes the spilled units of a fibre to its new spill area; `false` where a granule is absent. -/
def writeSpills (s : State) (w : Who) (grp : Nat) : List (Nat × List Byte) → Bool × State
  | [] => (true, s)
  | (va, b) :: rest =>
    match s.locate w grp .write .global va b.length with
    | (.ok l, s1) => writeSpills (s1.writeSpots w.core WMode.plain b l) w grp rest
    | (.miss m, s1) => (false, s1.requestMissing (clusterOf w.core) w.asid m)
    | (.wait, s1) => (false, s1)
    | (_, s1) => writeSpills s1 w grp rest

/-- Writes the spilled units of all fibres of a unit, at their new places. -/
def writeAllSpills (s : State) (v : Save) : List (Nat × Nat × Fibre) → Bool × State
  | [] => (true, s)
  | (old, new, f) :: rest =>
    let units := (v.spills.filter fun e => e.1 / 65536 = old).map fun e =>
      ((f.spBase + BitVec.ofNat 64 (e.1 % 65536 * 1024)).toNat, e.2)
    match writeSpills s ⟨coreOf new, f.asid, s.privOf f.region⟩ f.group units with
    | (true, s1) => writeAllSpills s1 v rest
    | r => r

/-- A group on its new core. -/
def Group.moveTo (g : Group) (m : List (Nat × Nat)) (core base : Nat) : Group :=
  { g with
    core := core, scrBase := base
    members := (g.members.filter fun l => m.any fun e => e.1 == slotOf l).map (remapLoc m)
    steps := g.steps.map fun p => { p with loc := remapLoc m p.loc } }

/-- An operation that comes back: a queued transfer without its leave asks again. -/
def State.askAgain (s : State) (id : Nat) (o : Op) : State :=
  match o.body with
  | .copy e _ false _ false false =>
    s.requestLeave ⟨clusterOf (coreOf o.loc), (s.fibre o.loc).elim 0 fun f => f.region, copyCost (cpBytes e), .transfer id⟩
  | .solicit _ =>
    (match s.census id with
    | some c => if c.value.isSome then s.endOp id else s
    | none => s.endOp id)
  | _ => s

/-- Puts a unit into slots of a core, as a new placement: everything that named its old positions names the new ones,
its regions pay for its fibres (R228), and a fibre's next BQUERY is its first (R236). -/
def State.putUnit (s : State) (v : Save) (u : SaveUnit) (m : List (Nat × Nat)) (core : Nat) : State :=
  let mine (loc : Nat) : Bool := u.slots.contains (slotOf loc)
  let ours (g : Nat) : Bool := u.groups.contains g
  let fibres := v.fibres.filter fun e => mine e.1 && ours e.2.group
  let ops := v.ops.filter fun e => ours e.2.group
  let recs := v.recs.filter fun e => ops.any fun o => o.1 == e.2.op
  let new := remapLoc m
  let s0 := s.growCarve core (v.scratch u)
  let groups := (v.groups.filter fun e => ours e.1).foldl (fun (acc : Sparse Group) e =>
    Sparse.put acc e.1 (e.2.moveTo m core ((s.scratchPlace core e.2.scrLen).getD 0))) s0.groups
  let s1 : State := { s0 with
    groups := groups
    slots := u.slots.foldl (fun acc k =>
      match Sparse.find v.slots k with
      | some x => Sparse.put acc (new (k * 4) / 4) x
      | none => acc) s0.slots
    fibres := fibres.foldl (fun acc e => Sparse.put acc (new e.1) { e.2.moveTo e.1 (new e.1) with beamCredit := 0 }) s0.fibres
    eng := {
      ops := ops.foldl (fun acc e => Sparse.put acc e.1 { e.2 with loc := new e.2.loc }) s0.eng.ops
      recs := recs.foldl (fun acc e => Sparse.put acc (new (e.1 / 4) * 4 + e.1 % 4) e.2) s0.eng.recs
      held := s0.eng.held ++ v.held.filter fun h => ops.any fun o => o.1 == h.op }
    co := { s0.co with
      censuses := s0.co.censuses.map fun c => if ours c.group then { c with loc := new c.loc } else c
      batches := s0.co.batches ++ (v.batches.filter fun b => mine b.loc).map fun b =>
        { b with loc := new b.loc, engine := new b.loc / 32 } } }
  let left : Save := { v with
    fibres := v.fibres.filter fun e => !(fibres.any fun x => x.1 == e.1)
    groups := v.groups.filter fun e => !ours e.1
    slots := v.slots.filter fun e => !u.slots.contains e.1
    ops := v.ops.filter fun e => !ours e.2.group
    recs := v.recs.filter fun e => !(recs.any fun x => x.1 == e.1)
    held := v.held.filter fun h => !(ops.any fun o => o.1 == h.op)
    batches := v.batches.filter fun b => !mine b.loc
    tellIn := v.tellIn.map fun t =>
      { t with op := t.op.map fun o => if ours o.group then { o with loc := new o.loc } else o }
    spills := v.spills.filter fun e => !mine (e.1 / 65536) }
  let s2 : State := { s1 with sched := { s1.sched with saves := s1.sched.saves.map fun x => if x.area = v.area then left else x } }
  let s3 := (v.groups.filter fun e => ours e.1).foldl (fun (acc : State) e =>
    acc.paid e.2.region (fibres.filter fun f => f.2.group = e.1).length) s2
  let s4 := recs.foldl (fun (acc : State) e => acc.writeFrame (new (e.1 / 4) * 4 + e.1 % 4)) s3
  ops.foldl (fun (acc : State) e => acc.askAgain e.1 { e.2 with loc := new e.2.loc })
    (s4.startAcquire core (u.slots.map fun k => k / 32).eraseDups)

/-- Places a unit where it fits, when its spilled units can be moved and a context slot can be had (R15). -/
def State.placeUnit (s : State) (v : Save) (u : SaveUnit) : Option State :=
  let needs := v.needs u
  let room := u.slots.all fun k => ((Sparse.find v.slots k).map fun x => s.ctxRoom x.asid).getD true
  match (if room then s.chooseCore needs (v.scratch u) else none) with
  | none => none
  | some core =>
    match s.fitSlots core [] needs with
    | none => none
    | some slots =>
      let m := u.slots.zip slots
      let moved := (v.fibres.filter fun e => u.slots.contains (slotOf e.1) && u.groups.contains e.2.group).map fun e =>
        (e.1, remapLoc m e.1, e.2.moveTo e.1 (remapLoc m e.1))
      match writeAllSpills s v moved with
      | (true, s1) => some (s1.putUnit v u m core)
      | (false, s1) => some s1

/-- The launches of a save area return to the launch table once it has room for them all (R220). -/
def State.launchesBack (s : State) (v : Save) : Option State :=
  if v.launches.isEmpty then some s
  else if launchTable < s.sched.launches.length + s.launching + v.launches.length then none
  else some { s with sched := { s.sched with
      launches := v.launches.foldl (fun acc e => Sparse.put acc e.1 e.2) s.sched.launches
      saves := s.sched.saves.map fun x => if x.area = v.area then { x with launches := [] } else x } }

/-- The core whose buffer a saved receipt returns to: its old one, when that runs and has room, else the lowest that
does (R224, R226). -/
def State.receiptCore (s : State) (old : Nat) : Option Nat :=
  let ok (c : Nat) : Bool := s.coreRuns c && decide ((s.sched.receipts.filter fun r => r.core = c).length < receiptSize)
  if ok old then some old else (List.range Config.cores).find? ok

/-- The receipts of a save area return (R226); `none` while one of them has no room. -/
def State.receiptsBack (s : State) : List Receipt → Option State
  | [] => some s
  | rc :: rest => (s.receiptCore rc.core).bind fun c =>
    State.receiptsBack { s with sched := { s.sched with receipts := s.sched.receipts ++ [{ rc with core := c }] } } rest

/-- The core whose teller takes what another's held: that core itself, when it runs, else the lowest that does. -/
def State.tellerCore (s : State) (old : Nat) : Nat :=
  if s.coreRuns old then old else ((List.range Config.cores).find? s.coreRuns).getD old

/-- The saved bins return to their tellers, each with every record in its lane; `none` while one of them has no room, but
for a bin that is to run once more as it is (R97, R207, R439). -/
def State.binsBack (s : State) : List Bin → Option State
  | [] => some s
  | b :: rest =>
    let c := s.tellerCore b.core
    if b.again = true ∨ s.tellerHolds c + b.records.length ≤ tellerSize then
      State.binsBack { s with sched := { s.sched with bins := s.sched.bins ++ [{ b with core := c }] } } rest
    else none

/-- Everything of a save area is placed: launches, receipts and records return, and the region goes on (R211, R241).
`none` while there is no room for them. -/
def State.endRestore (s : State) (v : Save) (q : Nat) (tag : Word) : Option State :=
  (s.launchesBack v).bind fun s1 => (s1.receiptsBack v.receipts).bind fun s2 => (s2.binsBack v.bins).map fun s3 =>
    let runs := v.tellIn.map fun t => { t with core := s3.tellerCore t.core }
    let s4 : State := { s3 with sched := { s3.sched with
        saves := s3.sched.saves.filter fun x => x.area ≠ v.area, tellIn := s3.sched.tellIn ++ runs } }
    (s4.complete q tag statusOk 0).resumeRegions v.region true

/-- One placement for a RESTORE: the launches, then its first unit that fits, and after the last the end of the
command. `none` when nothing fits. -/
def State.restoreOne (s : State) (v : Save) (q : Nat) (tag : Word) : Option State :=
  if v.units.isEmpty then s.endRestore v q tag
  else if !v.launches.isEmpty then s.launchesBack v
  else
    match v.units.findSome? fun u => s.placeUnit v u with
    | none => none
    | some s1 =>
      match s1.sched.saves.find? fun x => x.area = v.area with
      | some x => some (if x.units.isEmpty then (s1.endRestore x q tag).getD s1 else s1)
      | none => some s1

/-- RESTORE: the saved groups are placed one after another by the placer. -/
def execRestore (q : Nat) (tag : Word) (area : Dword) (s : State) : Out :=
  let a := area.toNat
  let again (p : Pending) : Bool :=
    match p.what with
    | .restore x => x == a
    | _ => false
  if s.badAddr a 4096 then s.endCommand q tag statusMalformed
  else match s.sched.saves.find? fun v => v.area = a with
    | none => s.endCommand q tag statusRefused
    | some v =>
      let killed := ((s.rcb v.region).map fun r => r.st == .killed).getD true
      if killed || s.io.pending.any again then s.endCommand q tag statusRefused
      else if v.units.isEmpty then .next ((s.endRestore v q tag).getD (s.await q tag (.restore a)))
      else .next (s.await q tag (.restore a))

/-! ### PLACEMENT (R227) -/

/-- The first RESTORE that can place something. -/
def State.restoring (s : State) : Option State :=
  s.io.pending.findSome? fun p =>
    match p.what with
    | .restore a => (s.sched.saves.find? fun v => v.area = a).bind fun v => s.restoreOne v p.queue p.tag
    | _ => none

/-- PLACEMENT: one decision of the placer. Saved groups come before new ones. -/
def execPlacement (s : State) : Out :=
  if !s.placing then .next s
  else match s.restoring with
    | some s1 => .next s1
    | none => .next s.placeOne

end Sys2Proof.Machine
end

