-- ==== Sys2Proof/Machine/Clearing.lean ====
section
/-! DEFINITION. The clearing engine (R176 to R182): issuing migrations, fills, the eviction sweep, writeback
(R49 to R55), ownership of HS blocks and back-invalidate snoops (R60), the host commands on frames (R56),
and uncorrectable errors of the vault (R66). -/

namespace Sys2Proof.Machine

/-! ### Error counters (R457) -/

/-- The place of a structure among the error counters. -/
def errIndex : ErrPart → Nat
  | .registers => 0
  | .coreL1 => 1
  | .groupScratch => 2
  | .samplerCache => 3
  | .clusterCache => 4
  | .clusterScratch => 5
  | .homeCache => 6
  | .snoopFilter => 7
  | .vault => 8
  | .port n => 9 + n % 4
  | .ide => 13
  | .firmware => 14

/-- Counts an error of a structure, saturating. -/
def State.countError (s : State) (part : ErrPart) (uncorrectable : Bool) : State :=
  let i := 2 * errIndex part + (if uncorrectable then 1 else 0)
  let old := Sparse.getZ s.reg.errcnt i
  { s with reg := { s.reg with errcnt := Sparse.setZ s.reg.errcnt i (if old = BitVec.allOnes 64 then old else old + 1) } }

/-- The vector of device errors (R453). -/
def errorVector : Nat := 2

/-- Counts an uncorrectable error and appends its entry to the device error log: structure, core or die,
physical address, CLK of the core concerned (R457). Each entry signals its vector (R453). -/
def State.logError (s : State) (part : ErrPart) (place addr : Nat) (core : Option Nat) : State :=
  let (clk, s1) := match core with
    | some c => s.readClk c
    | none => (0, s)
  let s2 := s1.countError part true
  let e : DevErr := ⟨errIndex part, place, addr, clk⟩
  let s3 : State := { s2 with io := { s2.io with devLog := s2.io.devLog ++ [e] } }
  (s3.signal errorVector true).refreshErr

/-! ### Writeback (R53) -/

/-- The dirty blocks of a frame. -/
def Frame.dirtyBlocks (f : Frame) : List Nat := (List.range 64).filter (bitOf f.dirty)

/-- Writes a block of a frame with its tag to the pool; a poisoned one with poison (R53, R66). A block whose granule
no entry of the pool map holds any more has nowhere to go, and its data is lost (DESIGN CHOICE, log 87). -/
def State.poolBlock (s : State) (k : Nat) (f : Frame) (b : Nat) : State :=
  let a := f.gran * 4096 + b * 64
  match poolFabric s.reg a, poolTagAddr s.reg a with
  | some fa, some ta =>
    let data := readBytes s.mem.vault (k * 4096 + b * 64) 64
    let tag := Sparse.getZ s.mem.vtags (k * 64 + b)
    let clean := s.mem.fpoison.filter fun x => x ≠ fa / 64
    { s with mem := { s.mem with
        fabric := writeBytes (writeBytes s.mem.fabric fa data) ta (leBytes 2 tag.toNat)
        fpoison := if bitOf f.poison b then fa / 64 :: clean else clean } }
  | _, _ => s

/-- The frame without some dirty blocks: an M block that has been written back is E (R60). -/
def Frame.cleaned (f : Frame) (blocks : List Nat) : Frame :=
  { f with
    dirty := blocks.foldl clearBit f.dirty
    coh := blocks.foldl (fun c b => if Sparse.find c b = some .m then Sparse.put c b .e else c) f.coh }

/-- Writes the dirty blocks of a frame back, a snapshot of each. -/
def State.writeOut (s : State) (k : Nat) : State :=
  match Sparse.find s.mem.frames k with
  | none => s
  | some f =>
    let s1 := f.dirtyBlocks.foldl (fun (acc : State) b => acc.poolBlock k f b) s
    { s1 with mem := { s1.mem with frames := Sparse.adjust s1.mem.frames k fun f => f.cleaned f.dirtyBlocks } }

/-- Changes a frame. -/
def State.modFrame (s : State) (k : Nat) (g : Frame → Frame) : State :=
  { s with mem := { s.mem with frames := Sparse.adjust s.mem.frames k g } }

/-- The state of a frame; FREE frames have none. -/
def State.frameState (s : State) (k : Nat) : Option FrameState := (Sparse.find s.mem.frames k).map (·.st)

/-- Starts the writeback of a DIRTY frame: dirty lines of the cores are in the frame first (R50, R53). -/
def State.startClean (s : State) (k : Nat) : State :=
  if s.frameState k = some .dirty then
    let s1 : State := { s with mem := (List.range 32).foldl (fun m i => m.recallLine (k * 32 + i)) s.mem }
    (s1.writeOut k).modFrame k fun f => { f with st := .cleaning }
  else s

/-! ### Eviction (R54) -/

/-- A frame is chosen for eviction: a CLEAN or DIRTY one leaves the presence directory and its on-chip
copies are recalled; a CLEANING or FILLING one follows when it has come so far (R50, R54). -/
def State.evict (s : State) (k : Nat) : State :=
  match s.frameState k with
  | some .clean | some .dirty =>
    let gran := ((Sparse.find s.mem.frames k).map (·.gran)).getD 0
    { s with mem := (s.mem.recallFrame k).dropSamples gran }.modFrame k fun f => { f with st := .evicting, evictNext := false }
  | some .cleaning | some .filling => s.modFrame k fun f => { f with evictNext := true }
  | _ => s

/-- The bytes and tags of a frame are zero. -/
def Mem.wipe (m : Mem) (k : Nat) : Mem :=
  { m with
    vault := m.vault.filter fun e => e.1 / 4096 ≠ k
    vtags := m.vtags.filter fun e => e.1 / 64 ≠ k }

/-- A frame that holds a granule on its way. -/
def Frame.filling (gran : Nat) (asid : BitVec 16) (hs : Bool) (want : BitVec 64) (predicted : Bool) : Frame :=
  { st := .filling, gran := gran, asid := asid, dirty := 0, poison := 0, hs := hs, coh := [], want := want
    accessed := false, predicted := predicted, refs := 0, evictNext := false, pinNext := false, refill := false
    idle := false }

/-- A PINNED frame (R56). -/
def Frame.pinned : Frame := { Frame.filling 0 0 false 0 false with st := .pinned }

/-- A frame becomes PINNED: zeroed, tags 0 (R56). -/
def State.pin (s : State) (k : Nat) : State :=
  let m := s.mem.wipe k
  { s with mem := { m with frames := Sparse.put m.frames k Frame.pinned } }

/-- A frame becomes FREE. -/
def State.free (s : State) (k : Nat) : State :=
  let m := s.mem.wipe k
  { s with mem := { m with frames := Sparse.erase m.frames k } }

/-- Frames of a die. -/
def dieFrames : Nat := Config.frames / 4

/-- FREE frames of a die. -/
def State.freeFrames (s : State) (die : Nat) : Nat :=
  dieFrames - (s.mem.frames.filter fun e => e.1 % 4 = die).length

/-- The reserve of FREE frames of a die (R181). -/
def frameReserve : Nat := 2048

/-- Victims that a die still needs: frames on their way out count as free. -/
def State.victimsWanted (s : State) (die : Nat) : Nat :=
  let going := (s.mem.frames.filter fun e => e.1 % 4 = die ∧ (e.2.st = .evicting ∨ e.2.evictNext = true)).length
  frameReserve - (s.freeFrames die + going)

/-- An operation has asked for a granule, and its record has not replayed. -/
def awaitsGran (ops : Sparse Op) (recs : Sparse Record) (gran : Nat) : Bool :=
  recs.any fun e => !e.2.running && (e.2.grans.contains gran || ((Sparse.find ops e.2.op).any fun o => o.asked.contains gran))

/-- The frame was filled for a record that has not replayed, and 50 µs have not passed since it reached CLEAN, which
is a free value (R181). -/
def State.awaited (s : State) (f : Frame) : Bool :=
  (awaitsGran s.eng.ops s.eng.recs f.gran || s.sched.saves.any fun v => awaitsGran v.ops v.recs f.gran) &&
    !Config.waitedLong s.draws

/-- Sweeps over frames until enough victims are chosen (R181). -/
def State.sweepFrames (s : State) (die : Nat) : Nat → List Nat → State
  | _, [] => s
  | n, k :: rest =>
    if n = 0 then s
    else
      let s1 : State := { s.drew 1 with clr := { s.clr with sweep := Sparse.setN s.clr.sweep die (k + 1) } }
      match Sparse.find s1.mem.frames k with
      | none => s1.sweepFrames die n rest
      | some f =>
        match f.st with
        | .pinned | .filling | .evicting => s1.sweepFrames die n rest
        | _ =>
          if s1.awaited f || f.refs != 0 then
            (s1.modFrame k fun f => { f with idle := !f.accessed }).sweepFrames die n rest
          else if f.accessed then
            (s1.modFrame k fun f => { f with accessed := false, idle := false }).sweepFrames die n rest
          else (s1.evict k).sweepFrames die (n - 1) rest

/-- One sweep of a die from where the last one stopped. -/
def State.sweepDie (s : State) (die : Nat) : State :=
  let from0 := Sparse.getN s.clr.sweep die
  let frames := (s.mem.frames.map (·.1)).filter fun k => k % 4 = die
  s.sweepFrames die (s.victimsWanted die)
    ((frames.filter fun k => from0 ≤ k) ++ frames.filter fun k => k < from0)

/-- SWEEP_RETRY: a die that lacks FREE frames sweeps again (R181). -/
def execSweepRetry (die : Nat) (s : State) : Out := .next (if die < Config.dies then s.sweepDie die else s)

/-- BACKGROUND_WRITEBACK: with more than a quarter of a die's frames DIRTY, those whose accessed bit has
been clear for a whole sweep are written back (R181). -/
def execBackgroundWriteback (die : Nat) (s : State) : Out :=
  let mine := s.mem.frames.filter fun e => e.1 % 4 = die ∧ e.2.st = .dirty
  if mine.length * 4 ≤ dieFrames then .next s
  else .next ((mine.filter fun e => e.2.idle && !e.2.accessed).foldl (fun (acc : State) e => acc.startClean e.1) s)

/-! ### Fills (R51, R52, R177 to R180) -/

/-- Records ripen whose missing data has come, those of held and of saved operations as well (R168, R173, R189). -/
def State.ripen (s : State) (has : Record → Bool) (lacks : Missing → Bool) : State :=
  let recs (l : Sparse Record) : Sparse Record := l.map fun e => (e.1, if has e.2 then { e.2 with ripe := true } else e.2)
  let held (l : List Held) : List Held := l.map fun h =>
    match h.trouble with
    | .miss _ m _ => if lacks m then { h with ripe := true } else h
    | _ => h
  { s with
    eng := { s.eng with recs := recs s.eng.recs, held := held s.eng.held }
    sched := { s.sched with saves := s.sched.saves.map fun v => { v with recs := recs v.recs, held := held v.held } } }

/-- Records that wait for a granule ripen (R173). -/
def State.ripenGranule (s : State) (gran : Nat) : State :=
  s.ripen (fun r => r.grans.contains gran) fun m =>
    match m with
    | .granule g _ _ => g == gran
    | _ => false

/-- Records that wait for ownership of a block ripen (R60, R173). -/
def State.ripenBlock (s : State) (block : Nat) : State :=
  s.ripen (fun r => r.blocks.contains block) fun m =>
    match m with
    | .block b _ => b == block
    | _ => false

/-- The lowest FREE frame of a die, looking at no more frames than are taken. -/
def State.lowestFree (s : State) : Nat → Nat → Option Nat
  | 0, _ => none
  | n + 1, k =>
    if Config.frames ≤ k then none
    else if (Sparse.find s.mem.frames k).isNone then some k
    else s.lowestFree n (k + 4)

/-- Fills that a die's clearing-engine channel has outstanding, and how many it keeps at most: 4,096 across the
device (R70). -/
def State.fillsOut (s : State) (die : Nat) : Nat :=
  (s.mem.frames.filter fun e => e.1 % 4 = die ∧ e.2.st = .filling).length
def maxFills : Nat := 1024

/-- A granule whose read is issued takes a frame of its home die (R46, R50). One that an EVICTING frame
still holds, for which no frame is FREE, or whose die has all its fills outstanding, stays in its migration (R52,
R55, R70); one that the pool map has no longer lets its record replay, which is refused (R48). -/
def State.startFill (s : State) (g : Migration) (predicted : Bool) (gran : Nat) : Bool × State :=
  if (findFrame s.mem.frames gran).isSome then (true, s)
  else if (poolFabric s.reg (gran * 4096)).isNone then (true, s.ripenGranule gran)
  else if evictingGran s.mem.frames gran || decide (maxFills ≤ s.fillsOut (homeDie gran)) then (false, s)
  else match s.lowestFree (s.mem.frames.length + 1) (homeDie gran) with
    | none => (false, s)
    | some k =>
      let f := Frame.filling gran g.asid (g.hs.contains gran) (Sparse.getZ g.want gran) predicted
      (true, { s with mem := { s.mem with frames := Sparse.put s.mem.frames k f } })

/-- Starts the fills of a list; answers those that could not start. -/
def State.startFills (s : State) (g : Migration) (predicted : Bool) : List Nat → List Nat × State
  | [] => ([], s)
  | x :: rest =>
    let (ok, s1) := s.startFill g predicted x
    let (left, s2) := s1.startFills g predicted rest
    (if ok then left else x :: left, s2)

/-- Insertion of a number into an ascending list without repeats. -/
def insertUp (n : Nat) : List Nat → List Nat
  | [] => [n]
  | x :: rest => if n < x then n :: x :: rest else if n = x then x :: rest else x :: insertUp n rest

/-- A list in ascending order without repeats. -/
def ascending (l : List Nat) : List Nat := l.foldr insertUp []

/-- The leaf of the page of a granule that a requesting cluster has cached (R178). -/
def State.cachedLeaf (s : State) (g : Migration) (gran : Nat) : Option TlbEnt :=
  s.xl.tlb.find? fun e =>
    g.clusters.contains e.cluster && (e.asid == g.asid || bitOf e.pte 9) && pteKind e.pte == 0 &&
      decide (pteAddr e.pte ≤ gran * 4096) && decide (gran * 4096 < pteAddr e.pte + 2 ^ pageLog2 (field e.pte 2 3))

/-- The granules that gap filling adds to a closing migration (R178). -/
def State.gapFill (s : State) (g : Migration) : List Nat :=
  let req := ascending g.grans
  match req with
  | [] => []
  | a :: _ =>
    let b := req.getLastD a
    let add := ((List.range (b - a)).map (a + ·)).filter fun x =>
      !req.contains x && (findFrame s.mem.frames x).isNone
    if !bitOf s.reg.clrctl 1 && decide (add.length ≤ req.length) && add.all fun x => (s.cachedLeaf g x).isSome then add
    else []

/-- A closing migration that knows which of the granules that gap filling adds lie in pages with HS set (R52). -/
def State.gapHs (s : State) (g : Migration) (gaps : List Nat) : Migration :=
  { g with hs := g.hs ++ gaps.filter fun x => !g.hs.contains x && (s.cachedLeaf g x).any fun e => bitOf e.pte 56 }

/-- MIGRATION_ISSUE: a migration closes, gaps are filled, and its reads are issued in ascending address. The
predicted ones wait until no open migration holds requested ones; dies below their reserve evict (R177, R178, R180,
R181). -/
def execMigrationIssue (id : Nat) (s : State) : Out :=
  match s.clr.migs.find? fun g => g.id = id with
  | none => .next s
  | some g0 =>
    let gaps := s.gapFill g0
    let g := s.gapHs g0 gaps
    let s0 : State := { s with clr := { s.clr with migs := s.clr.migs.filter fun x => x.id ≠ id } }
    let (left1, s1) := s0.startFills g false (ascending g.grans)
    let extra := (ascending (g.predicted ++ gaps)).filter fun x => !g.grans.contains x
    let (left2, s2) := if left1.isEmpty && s1.clr.migs.all fun x => x.grans.isEmpty then s1.startFills g true extra
      else (extra, s1)
    let s3 : State := if left1.isEmpty && left2.isEmpty then s2
      else { s2 with clr := { s2.clr with migs := s2.clr.migs ++ [{ g with grans := left1, predicted := left2 }] } }
    .next ((List.range Config.dies).foldl (fun (acc : State) d => acc.sweepDie d) s3)

/-- What a fill has read: 4,096 bytes, 64 tags, and the poisoned blocks. The data of a granule that no entry of the
pool map holds any more is a free value (DESIGN CHOICE, log 85). -/
def State.filled (s : State) (gran : Nat) : List Byte × List (BitVec 16) × List Nat :=
  let tags (b : List Byte) : List (BitVec 16) :=
    (List.range 64).map fun i => BitVec.ofNat 16 (leNat ((b.drop (2 * i)).take 2))
  match poolFabric s.reg (gran * 4096), poolTagAddr s.reg (gran * 4096) with
  | some fa, some ta =>
    (readBytes s.mem.fabric fa 4096, tags (readBytes s.mem.fabric ta 128),
      (List.range 64).filter fun b => s.mem.fpoison.contains (fa / 64 + b))
  | _, _ =>
    ((List.range 4096).map (Config.strayByte s.draws),
      tags ((List.range 128).map fun i => Config.strayByte s.draws (4096 + i)), [])

/-- The data and tags of a granule enter its frame; blocks of an HS granule arrive shared, or exclusive where
they were asked for so, but for those that a snoop has taken (R50, R52, R60). -/
def State.install (s : State) (k : Nat) (f : Frame) : State :=
    let (data, tags, poison) := s.filled f.gran
    let m := s.mem.wipe k
    let blocks := List.range 64
    let coh := (blocks.filter fun b => (Sparse.find f.coh b).isNone).map fun b => (b, if bitOf f.want b then Coh.e else .s)
    let f1 := { f with
      st := .clean, coh := if f.hs then coh else [], poison := BitVec.ofNat 64 ((poison.map fun b => 2 ^ b).sum)
      accessed := !f.predicted, want := 0 }
    { s.drew 1 with mem := { m with
        vault := writeBytes m.vault (k * 4096) data
        vtags := blocks.foldl (fun acc b => Sparse.setZ acc (k * 64 + b) (tags.getD b 0)) m.vtags
        frames := Sparse.put m.frames k f1 } }

/-- The nodes that lie in a granule, for step 3 of R179. -/
def State.nodeIn (s : State) (o : Op) (gran : Nat) (n : NodeRef) (base : Nat) : Bool :=
  match s.cachedPool o.who (n.addr base) with
  | some (p, _, _) => p / 4096 == gran
  | none => false

/-- What waits for data goes on once some has come: predictions from the nodes that arrived, closing ranges,
subtractions of finished groups (R179, R205, R321). -/
def State.arrive (s : State) (gran : Nat) : State :=
  let mine (recs : Sparse Record) : List Record := (recs.filter fun e => e.2.grans.contains gran).map (·.2)
  let s1 := s.predictAll s.eng.ops (mine s.eng.recs) fun o => s.nodeIn o gran
  let s2 := s.sched.saves.foldl (fun (acc : State) v => acc.predictAll v.ops (mine v.recs) fun o => s.nodeIn o gran) s1
  s2.settleRanges.retrySubs

/-- GRANULE_FILLED: a FILLING frame is CLEAN, and the records that wait for its granule are ripe (R50, R51,
R173). -/
def execGranuleFilled (k : Nat) (s : State) : Out :=
  match Sparse.find s.mem.frames k with
  | none => .next s
  | some f =>
    if f.st ≠ .filling then .next s
    else
      let s1 := ((s.install k f).arrive f.gran).ripenGranule f.gran
      .next (if f.evictNext then s1.evict k else s1)

/-! ### Commands on frames (R56) -/

/-- Takes what is done out of the lists of waiting commands, and completes those that wait for nothing
more. -/
def State.settleFrames (s : State) (done : FrameWait → Nat × Bool → Bool) : State :=
  let trim (p : Pending) : Pending :=
    match p.what with
    | .frames kind l => { p with what := .frames kind (l.filter fun e => !done kind e) }
    | _ => p
  let ended (p : Pending) : Bool :=
    match p.what with
    | .frames _ l => l.isEmpty
    | _ => false
  let all := s.io.pending.map trim
  let s1 : State := { s with io := { s.io with pending := all } }
  (all.filter ended).foldl (fun (acc : State) p => acc.complete p.queue p.tag statusOk 0) s1

/-- A command waits for frames, or is complete at once. -/
def State.awaitFrames (s : State) (q : Nat) (tag : Word) (kind : FrameWait) (l : List (Nat × Bool)) : State :=
  if l.isEmpty then s.complete q tag statusOk 0 else s.await q tag (.frames kind l)

/-- Frames whose writeback is awaited a second time. -/
def State.flushAgain (s : State) (k : Nat) : Bool :=
  s.io.pending.any fun p =>
    match p.what with
    | .frames .flush l => l.contains (k, true)
    | _ => false

/-- The second writeback of a frame has begun. -/
def State.flushOnce (s : State) (k : Nat) : State :=
  let turn (p : Pending) : Pending :=
    match p.what with
    | .frames .flush l => { p with what := .frames .flush (l.map fun e => if e = (k, true) then (k, false) else e) }
    | _ => p
  { s with io := { s.io with pending := s.io.pending.map turn } }

/-- WRITEBACK_DONE: a CLEANING frame is CLEAN, or DIRTY when a block was written since its snapshot; an
eviction or a second writeback that waited begins (R50, R53). -/
def execWritebackDone (k : Nat) (s : State) : Out :=
  match Sparse.find s.mem.frames k with
  | none => .next s
  | some f =>
    if f.st ≠ .cleaning then .next s
    else
      let s1 := (s.modFrame k fun f => { f with st := if f.dirty = 0 then .clean else .dirty }).settleFrames
        fun kind e => kind == .flush && e == (k, false)
      if f.evictNext then .next ((s1.evict k).flushOnce k)
      else if f.dirty ≠ 0 ∧ s.flushAgain k = true then .next ((s1.startClean k).flushOnce k)
      else .next (s1.settleFrames fun kind e => kind == .flush && e.1 == k)

/-- The clean-eviction requests that an evicted HS granule sends: for each block that is exclusive and clean (R54). -/
def State.releaseBlocks (s : State) (k : Nat) : State :=
  match Sparse.find s.mem.frames k with
  | none => s
  | some f =>
    if f.hs then
      let own := (List.range 64).filter fun b => Sparse.find f.coh b == some Coh.e
      { s with clr := { s.clr with released := s.clr.released ++ own.map (f.gran * 64 + ·) } }
    else s

/-- EVICTION_COMPLETE: an EVICTING frame without references writes its dirty blocks back, releases the clean ones
that it owns, and is FREE, or PINNED when a VPIN waits for it; a granule whose clean block was in error is filled
again (R54, R56, R66). -/
def execEvictionComplete (k : Nat) (s : State) : Out :=
  match Sparse.find s.mem.frames k with
  | none => .next s
  | some f =>
    if f.st ≠ .evicting ∨ f.refs ≠ 0 then .next s
    else
      let s1 := (s.writeOut k).releaseBlocks k
      let s2 := if f.pinNext then s1.pin k else s1.free k
      let s3 := if f.refill then s2.requestGranule [] f.asid f.gran f.hs 0 else s2
      .next (s3.settleFrames fun _ e => e.1 == k)

/-- Bytes of a 2 MiB unit. -/
def pinUnit : Nat := 2 ^ 21

/-- Address and length of a command on frames break their alignment or range. -/
def rangeOff (addr len : Dword) (limit : Nat) : Bool :=
  addr.toNat % pinUnit != 0 || len.toNat % pinUnit != 0 || decide (limit < addr.toNat + len.toNat)

/-- Vault addresses (R45) and pool addresses. -/
def vaultLimit : Nat := Config.frames * 4096
def poolLimit : Nat := 2 ^ 46

/-- Frames of 48 GiB: as many as may be PINNED. -/
def pinLimit : Nat := 48 * 2 ^ 18

/-- Frames that are PINNED, or will be. -/
def State.pinnedCount (s : State) : Nat :=
  (s.mem.frames.filter fun e => e.2.st = .pinned ∨ e.2.pinNext = true).length

/-- VPIN of one frame. -/
def State.pinOne (s : State) (k : Nat) : State :=
  match s.frameState k with
  | none => s.pin k
  | some .pinned => s
  | some _ => (s.evict k).modFrame k fun f => { f with pinNext := true }

/-- VPIN. -/
def execVpin (q : Nat) (tag : Word) (addr len : Dword) (s : State) : Out :=
  if rangeOff addr len vaultLimit then s.endCommand q tag statusMalformed
  else
    let frames := (List.range (len.toNat / 4096)).map (addr.toNat / 4096 + ·)
    let new := frames.filter fun k =>
      match Sparse.find s.mem.frames k with
      | some f => f.st != .pinned && !f.pinNext
      | none => true
    if pinLimit < s.pinnedCount + new.length then s.endCommand q tag statusRefused
    else
      let s1 := frames.foldl (fun (acc : State) k => acc.pinOne k) s
      let wait := frames.filter fun k => s1.frameState k ≠ some .pinned
      .next (s1.awaitFrames q tag .pin (wait.map fun k => (k, false)))

/-- VUNPIN of one frame. A host may still hold a block of it: its copy, and what the device has waited to write there,
is forgotten without a snoop (DESIGN CHOICE, log 88). -/
def State.unpinOne (s : State) (k : Nat) : State :=
  if s.frameState k = some .pinned then
    let s1 := ({ s with mem := s.mem.recallFrame k }).free k
    { s1 with mem := { s1.mem with
        hostBlocks := s1.mem.hostBlocks.filter fun e => e.1 / 64 ≠ k
        hostSnoops := s1.mem.hostSnoops.filter fun h => h.block / 64 ≠ k
        hostWrites := s1.mem.hostWrites.filter fun e => e.1 / 4096 ≠ k } }
  else s

/-- VUNPIN. -/
def execVunpin (q : Nat) (tag : Word) (addr len : Dword) (s : State) : Out :=
  if rangeOff addr len vaultLimit then s.endCommand q tag statusMalformed
  else
    let frames := (List.range (len.toNat / 4096)).map (addr.toNat / 4096 + ·)
    .next ((frames.foldl (fun (acc : State) k => acc.unpinOne k) s).complete q tag statusOk 0)

/-- The frames that hold granules of a pool range. -/
def State.framesIn (s : State) (addr len : Nat) : List (Nat × Frame) :=
  s.mem.frames.filter fun e =>
    e.2.st ≠ .pinned ∧ addr ≤ e.2.gran * 4096 ∧ e.2.gran * 4096 < addr + len

/-- VFLUSH. -/
def execVflush (q : Nat) (tag : Word) (addr len : Dword) (s : State) : Out :=
  if rangeOff addr len poolLimit then s.endCommand q tag statusMalformed
  else
    let l := (s.framesIn addr.toNat len.toNat).filterMap fun e =>
      match e.2.st with
      | .dirty | .evicting => some (e.1, false)
      | .cleaning => some (e.1, e.2.dirty != 0)
      | _ => none
    .next ((l.foldl (fun (acc : State) e => acc.startClean e.1) s).awaitFrames q tag .flush l)

/-- VDROP. -/
def execVdrop (q : Nat) (tag : Word) (addr len : Dword) (s : State) : Out :=
  if rangeOff addr len poolLimit then s.endCommand q tag statusMalformed
  else
    let l := s.framesIn addr.toNat len.toNat
    .next ((l.foldl (fun (acc : State) e => acc.evict e.1) s).awaitFrames q tag .drop (l.map fun e => (e.1, false)))

/-! ### Ownership and snoops (R59 to R62) -/

/-- The frame that holds a granule of the pool, in whatever state. -/
def frameOf (m : Sparse Frame) (gran : Nat) : Option (Nat × Frame) :=
  m.find? fun e => e.2.gran = gran ∧ e.2.st ≠ .pinned

/-- A block's data and tag are read from the pool into its frame. -/
def State.readBlock (s : State) (k : Nat) (f : Frame) (b : Nat) : State :=
  let a := f.gran * 4096 + b * 64
  match poolFabric s.reg a, poolTagAddr s.reg a with
  | some fa, some ta =>
    let tag := BitVec.ofNat 16 (leNat (readBytes s.mem.fabric ta 2))
    let bad := s.mem.fpoison.contains (fa / 64)
    { s with mem := { s.mem with
        vault := writeBytes s.mem.vault (k * 4096 + b * 64) (readBytes s.mem.fabric fa 64)
        vtags := Sparse.setZ s.mem.vtags (k * 64 + b) tag } }.modFrame k fun f =>
      { f with poison := if bad then setBit f.poison b else clearBit f.poison b }
  | _, _ => s

/-- OWNERSHIP_GRANTED: the state that was asked for a block has come, with its data where the block was in
state I; the records that wait for it are ripe (R60, R173). -/
def execOwnershipGranted (addr : Nat) (s : State) : Out :=
  let block := addr / 64
  if !(s.clr.owns.any fun o => o.block == block) then .next s
  else
    let s0 : State := { s with clr := { s.clr with owns := s.clr.owns.filter fun x => x.block ≠ block } }
    let s1 := match findFrame s0.mem.frames (block / 64) with
      | some (k, f) =>
        if f.present && f.hs then
          let excl := s.clr.owns.any fun x => x.block == block && x.excl
          let s2 := if (Sparse.find f.coh (block % 64)).isNone then s0.readBlock k f (block % 64) else s0
          s2.modFrame k fun f => { f with
            coh := match Sparse.find f.coh (block % 64) with
              | some .m | some .e => f.coh
              | _ => Sparse.put f.coh (block % 64) (if excl then .e else .s) }
        else s0
      | none => s0
    .next ((s1.ripenBlock block).settleRanges.retrySubs)

/-- A line leaves every sampler cache (R79). -/
def Mem.dropSample (m : Mem) (p : Phys) : Mem := { m with smp := m.smp.filter fun l => l.place ≠ p }

/-- The answer to a back-invalidate snoop of a block: the state that it is left in, none for I (R59, R60). -/
def State.answerSnoop (s : State) (block : Nat) (st : Option Coh) : State :=
  { s with clr := { s.clr with birsp := s.clr.birsp ++ [(block, st)] } }

/-- A snoop writes an M block back with its tag and clears its dirty bit (R60, R61). -/
def State.snoopOut (s : State) (k b : Nat) : State :=
  let s1 : State := { s with mem := s.mem.recallLine ((k * 64 + b) / 2) }
  match Sparse.find s1.mem.frames k with
  | none => s1
  | some f =>
    if bitOf f.dirty b then
      (s1.poolBlock k f b).modFrame k fun f => { f with dirty := clearBit f.dirty b }
    else s1

/-- A back-invalidate snoop of a block: `inv` and `data` name BISnpInv and BISnpData, neither BISnpCur. A
block without coherence state, or in state I, is left as it stands and answered with I; one that an own read is
outstanding for ends in I and is asked for again (R60). No copy in a cache stays of a block that is left in I, and
only BISnpInv takes its line out of the sampler caches (R79). -/
def State.biSnoop (s : State) (addr : Dword) (inv data : Bool) : State :=
  let b := addr.toNat / 64
  match frameOf s.mem.frames (b / 64) with
  | none => s.answerSnoop b none
  | some (k, f) =>
    if !f.hs then s.answerSnoop b none
    else if f.st = .filling then
      (s.modFrame k fun f => { f with coh := Sparse.put f.coh (b % 64) .s }).answerSnoop b none
    else
      match Sparse.find f.coh (b % 64) with
      | none =>
        let m := (s.mem.dropSample (.pool (b / 2 * 128))).recallLine ((k * 64 + b % 64) / 2)
        (if inv then { s with mem := m } else s).answerSnoop b none
      | some st =>
        let s1 : State := { s with mem := s.mem.closeMergeLine ((k * 64 + b % 64) / 2) }
        let s2 := if st = .m then s1.snoopOut k (b % 64) else s1
        if inv || s.clr.owns.any fun o => o.block == b then
          let m := if inv then s2.mem.dropSample (.pool (b / 2 * 128)) else s2.mem
          ({ s2 with mem := m.recallLine ((k * 64 + b % 64) / 2) }.modFrame k fun f =>
            { f with coh := Sparse.erase f.coh (b % 64), poison := clearBit f.poison (b % 64) }).answerSnoop b none
        else
          let after : Coh := if data then .s else if st = .m then .e else st
          (s2.modFrame k fun f => { f with coh := Sparse.put f.coh (b % 64) after }).answerSnoop b (some after)

/-- BISNPINV. -/
def execBisnpinv (addr : Dword) (s : State) : Out := .next (s.biSnoop addr true false)

/-- BISNPDATA. -/
def execBisnpdata (addr : Dword) (s : State) : Out := .next (s.biSnoop addr false true)

/-- BISNPCUR. -/
def execBisnpcur (addr : Dword) (s : State) : Out := .next (s.biSnoop addr false false)

/-- H2D_SNOOP: no copy of a line of host memory stays in a cache (R62, R79). -/
def execH2dSnoop (addr : Dword) (s : State) : Out :=
  let line := (PLoc.host addr.toNat).key
  .next { s with mem := ((s.mem.dropSample (.host (addr.toNat / 128 * 128))).recallLine line).homeOut line }

/-! ### PINNED memory and its hosts (R58) -/

/-- HDM_ACCESS: a host or a peer reads or writes a block of a PINNED frame at its home, in order with the
device's own accesses. A host's read leaves it with a copy, its write takes the copy away. A peer's access
waits until the hosts have answered the snoops that it needs, and every access until the folds of its line can be made
(R158). -/
def execHdmAccess (agent : HdmAgent) (kind : HdmKind) (addr : Dword) (data : BitVec 512) (s : State) : Out :=
  let a := addr.toNat / 64 * 64
  if s.frameState (a / 4096) ≠ some .pinned then .next s
  else
    let block := a / 64
    match ({ s with mem := s.mem.recallLine (a / 128) } : State).foldSpots true [.mem (.vault a) 64] with
    | (some _, t) => .next t
    | (none, folded) =>
    let written (t : State) : State :=
      { t with mem := t.mem.homeWrite none (.vault a) (leBytes 64 data.toNat) }
    let blocks := folded.mem.hostBlocks
    match agent, kind with
    | .host, .readShared =>
      .next { folded with mem := { folded.mem with
        hostBlocks := if (Sparse.find blocks block).isSome then blocks else Sparse.put blocks block false } }
    | .host, .readOwned =>
      .next { folded with mem := { folded.mem with hostBlocks := Sparse.put blocks block true } }
    | .host, .write =>
      let t := written folded
      .next { t with mem := { t.mem with hostBlocks := Sparse.erase blocks block } }
    | .peer, .write =>
      (match heldByHost s.mem true [block] with
      | [] => .next (written folded)
      | l => .next (askHost s l))
    | .peer, _ =>
      match heldByHost s.mem false [block] with
      | [] => .next folded
      | l => .next (askHost s l)

/-- HOST_BIRSP: the host has given its copy up: what the device waits to write there is performed, and folds that waited
for it go on (R58, R321). -/
def execHostBirsp (id : Nat) (s : State) : Out :=
  match s.mem.hostSnoops.find? fun h => h.id = id with
  | none => .next s
  | some h =>
    let snoops := s.mem.hostSnoops.filter fun x => x.id ≠ id
    .next ({ s with mem := { s.mem with hostSnoops := snoops }.blockBack h.block } : State).settleRanges.retrySubs

/-! ### Errors of the vault (R66) -/

/-- An uncorrectable error of the vault: a clean block is discarded, its granule evicted and filled again; a
dirty one, or one of a PINNED frame, is poisoned. -/
def State.vaultError (s : State) (addr : Nat) : State :=
  let k := addr / 4096
  let b := addr / 64 % 64
  match Sparse.find s.mem.frames k with
  | none => s.logError .vault (k % 4) addr none
  | some f =>
    match f.st with
    | .pinned => (s.modFrame k fun f => { f with poison := setBit f.poison b }).logError .vault (k % 4) addr none
    | .filling => s.logError .vault (k % 4) (f.gran * 4096 + addr % 4096) none
    | .evicting | .clean | .dirty | .cleaning =>
      let s1 := s.logError .vault (k % 4) (f.gran * 4096 + addr % 4096) none
      if bitOf f.dirty b then s1.modFrame k fun f => { f with poison := setBit f.poison b }
      else if f.st = .evicting then s1
      else (s1.evict k).modFrame k fun f => { f with refill := true }

/-- VAULT_UNCORRECTABLE_ERROR. -/
def execVaultUncorrectableError (addr : Nat) (s : State) : Out := .next (s.vaultError addr)

end Sys2Proof.Machine
end

