-- ==== Sys2Proof/Machine/Replay.lean ====
section
/-! DEFINITION. Replays (R173, R175), FRESUME (R186, R189), the bytes of a replay record (R169, R171, R373)
and RPLREAD, walks (R19), and the delivery of reports and interrupts (R184, R453). -/

namespace Sys2Proof.Machine

/-! ### RECORD_REPLAY (R173) -/

/-- The replay of a recorded fetch: the word is read, or the record is rewritten; under the error response the
fibre reads zero once (R31, R32; DESIGN CHOICE, log 81: R32 gives no fetch). -/
def replayFetch (s : State) (id : Nat) (o : Op) (va : BitVec 48) : State :=
  let bad (t : Trouble) (s1 : State) : State :=
    if o.err && t.kind != 1 && t.kind != 0 then
      (s1.modFibre o.loc fun f => { f with fetched := some va }).endOp id
    else s1.parkOp id true [(.exec, t)]
  match resolve s o.who .exec va.toNat 4 with
  | (.ok ps, s1) =>
    let b := (ps.map fun p => s1.mem.readAt (coreOf o.loc) p.1 p.2).flatten
    let l : ILine := ⟨coreOf o.loc, o.asid, va.toNat, BitVec.ofNat 32 (leNat b), s1.leafUser o.who va.toNat⟩
    (if ps.any fun p => p.1.isPeer then s1
      else { s1 with mem := { s1.mem with icache := l :: s1.mem.icache } }).endOp id
  | (a, s1) =>
    match a.trouble (va.setWidth 64) (s1.szOf o.who .global va.toNat) with
    | some t => if t.kind = 0 then s1 else bad t s1
    | none => s1

/-- Runs an operation from its record, by what it is. Traversals go on at their next node visit, and a census
at its next sweep. -/
def runReplay (s : State) (id : Nat) (o : Op) : State :=
  match o.body with
  | .move isRet c target moved => replayMove s id o isRet c target moved
  | .fetch va => replayFetch s id o va
  | .enq q b => if b.isEmpty then s.endOp id else runEnq s id o q b true
  | .hcall va => runHcall s id o va true
  | .launch va dst => runLaunch s id o va dst true
  | .copy _ _ _ _ _ _ => runCopy s id true
  | .schedRead idx => replayEntry s id o idx
  | .matrix _ => runMatrix s id true
  | .ray _ | .beam _ => s
  | .tex _ => runTex s id true
  | .rast _ => runRast s id true
  | .frame _ _ _ _ => runFrame s id true
  | .solicit _ => replaySolicit s id o
  | .tell core rgn recs => replayTell s id o core rgn recs
  | .treg _ _ _ | .tdrop _ | .tmove _ _ _ _ | .reply _ => s
  | _ => runLsu s id true

/-- RECORD_REPLAY: the unit reads a ripe record back and continues from where it stood. A pre-empted fibre's
record waits (R173, R189). -/
def execRecordReplay (loc frame : Nat) (s : State) : Out :=
  let key := loc * 4 + frame % 4
  match Sparse.find s.eng.recs key, s.fibre loc with
  | some r, some f =>
    if (!r.ripe && !r.running) || f.st == .suspended then .next s
    else
      let s1 : State := { s with eng := { s.eng with recs := Sparse.put s.eng.recs key { r with running := true } } }
      match Sparse.find s1.eng.ops r.op with
      | none => .next s1
      | some o =>
        let s2 := runReplay s1 r.op o
        .next (if (Sparse.find s2.eng.recs key).isNone then (s2.promoteHeld loc).unpark loc else s2)
  | _, _ => .next s

/-! ### FRESUME (R186, R189, R428) -/

/-- The host's answer. -/
inductive Answer where
  | replay
  | error
  | kill
  deriving DecidableEq, Repr

/-- Where a record or a fibre stands: on the chip, or in a save area. -/
inductive Holder where
  | chip
  | saved (area : Nat)
  deriving DecidableEq, Repr

/-- A record that awaits FRESUME at a locator and frame. A fibre on the chip and one in a save area may answer to the same
two numbers, and R186 does not say which is meant: the one on the chip, then that of the save area made first (DESIGN CHOICE,
log 102). -/
def State.findWaiting (s : State) (key : Nat) : Option (Holder × Record) :=
  match (Sparse.find s.eng.recs key).filter (·.waiting) with
  | some r => some (.chip, r)
  | none => s.sched.saves.findSome? fun v =>
      ((Sparse.find v.recs key).filter (·.waiting)).map fun r => (.saved v.area, r)

/-- Changes a save area. -/
def State.modSave (s : State) (area : Nat) (g : Save → Save) : State :=
  { s with sched := { s.sched with saves := s.sched.saves.map fun v => if v.area = area then g v else v } }

/-- A record ripens; `err` gives its refused accesses the error response. -/
def State.resumeRecord (s : State) (at0 : Holder) (key : Nat) (r : Record) (err : Bool) : State :=
  let r1 := { r with ripe := true, waiting := false }
  match at0 with
  | .chip =>
    { s with eng := { s.eng with recs := Sparse.put s.eng.recs key r1 } }.modOp r.op
      fun o => { o with err := o.err || err }
  | .saved area => s.modSave area fun v =>
    { v with
      recs := Sparse.put v.recs key r1
      ops := Sparse.adjust v.ops r.op fun o => { o with err := o.err || err } }

/-- A fibre whose trap awaits FRESUME. -/
def State.findTrapped (s : State) (loc : Nat) : Option (Holder × TrapWait) :=
  match (s.fibre loc).bind (·.trapWait) with
  | some t => some (.chip, t)
  | none => s.sched.saves.findSome? fun v =>
      ((Sparse.find v.fibres loc).bind (·.trapWait)).map fun t => (.saved v.area, t)

/-- A trapped fibre goes on: at its instruction again, or behind it (R428). -/
def State.resumeTrap (s : State) (at0 : Holder) (loc : Nat) (t : TrapWait) (again : Bool) : State :=
  let g (f : Fibre) : Fibre := { f with trapWait := none, pc := if again then f.pc else t.next }
  match at0 with
  | .chip => (s.modFibre loc g).unpark loc
  | .saved area => s.modSave area fun v => { v with fibres := Sparse.adjust v.fibres loc g }

/-- FRESUME with one of its actions. -/
def fresume (q : Nat) (tag : Word) (loc : Word) (frame : BitVec 16) (a : Answer) (s : State) : Out :=
  let l := loc.toNat
  let n := frame.toNat
  if Config.cores * 128 ≤ l ∨ (4 ≤ n ∧ n ≠ 0xFFFF) then s.endCommand q tag statusMalformed
  else if n = 0xFFFF then
    match s.findTrapped l with
    | none => s.endCommand q tag statusRefused
    | some (at0, t) =>
      match a with
      | .replay => .next ((s.resumeTrap at0 l t true).complete q tag statusOk 0)
      | .error => .next ((s.resumeTrap at0 l t false).complete q tag statusOk 0)
      | .kill => .next ((s.killRegion t.absorber).complete q tag statusOk 0)
  else
    match s.findWaiting (l * 4 + n) with
    | none => s.endCommand q tag statusRefused
    | some (at0, r) =>
      match a with
      | .replay => .next ((s.resumeRecord at0 (l * 4 + n) r false).complete q tag statusOk 0)
      | .error => .next ((s.resumeRecord at0 (l * 4 + n) r true).complete q tag statusOk 0)
      | .kill => .next ((s.killRegion r.absorber).complete q tag statusOk 0)

/-- FRESUME, action 0. -/
def execFresumeReplay (q : Nat) (tag : Word) (loc : Word) (frame : BitVec 16) (s : State) : Out :=
  fresume q tag loc frame .replay s

/-- FRESUME, action 1. -/
def execFresumeError (q : Nat) (tag : Word) (loc : Word) (frame : BitVec 16) (s : State) : Out :=
  fresume q tag loc frame .error s

/-- FRESUME, action 2. -/
def execFresumeKill (q : Nat) (tag : Word) (loc : Word) (frame : BitVec 16) (s : State) : Out :=
  fresume q tag loc frame .kill s

/-! ### RPLREAD (R451) -/

/-- RPLREAD: a record's bytes go to the host; its body length is the result (R451). -/
def execRplread (q : Nat) (tag : Word) (loc : Word) (frame : BitVec 16) (dst : Dword) (s : State) : Out :=
  let l := loc.toNat
  if Config.cores * 128 ≤ l ∨ 4 ≤ frame.toNat then s.endCommand q tag statusMalformed
  else if ((s.fibre l).map fun f => s.lockedRegion f.region).getD false then s.endCommand q tag statusLocked
  else match s.recordAt (l * 4 + frame.toNat) with
    | none => s.endCommand q tag statusRefused
    | some (o, r) =>
      .next ((s.hostWrite dst.toNat (s.frameBytes (l * 4 + frame.toNat) o r)).complete q tag statusOk
        (BitVec.ofNat 64 o.bodyLen))

/-! ### Walks (R19) -/

/-- An operation of a core waits inside its unit under an address space. -/
def State.walkWanted (s : State) (core : Nat) (asid : BitVec 16) : Bool :=
  s.eng.ops.any fun e => coreOf e.2.loc == core && e.2.asid == asid && !e.2.finished && !s.recorded e.1

/-- PAGE_WALK: a walker translates an address for a waiting operation ahead of its access: a leaf and table
pointers are cached, A is set, a context is read. What it is refused is met by the access itself. -/
def execPageWalk (core : Nat) (asid : BitVec 16) (va : Dword) (s : State) : Out :=
  if s.walkWanted core asid ∧ canonical va.toNat = true then
    .next (leafFor s ⟨core, asid, true⟩ va.toNat false).2
  else .next s

/-! ### Reports and interrupts (R184, R453) -/

/-- FAULT_REPORT_DELIVERY: the oldest waiting report enters the ring when it has room. -/
def execFaultReportDelivery (s : State) : Out := .next (s.frqDrain 1)

/-- MSIX_COALESCED_SEND: a microsecond after a send of a vector the advances since are sent as one; without
any the vector's next advance is sent at once. -/
def execMsixCoalescedSend (v : Nat) (s : State) : Out :=
  if s.io.msixWait.contains v then
    .next ({ s with io := { s.io with msixWait := s.io.msixWait.erase v } }.sendMsix v)
  else .next { s with io := { s.io with msixOpen := s.io.msixOpen.erase v } }

end Sys2Proof.Machine
end

