-- ==== Sys2Proof/Machine/Debug.lean ====
section
/-! DEFINITION. The debug interface of the host (R430 to R432, R452) and DIRREAD (R403, R451). -/

namespace Sys2Proof.Machine

/-! ### DIRREAD -/

/-- STATE of a directory entry: PINNED while it has pins (R403). -/
def DirEnt.stateCode (x : DirEnt) : Nat :=
  if x.pins ≠ 0 then 3
  else match x.st with
    | .resident => 0
    | .moving => 1
    | .inbound => 2

/-- The 24 bytes of a directory entry (R403). -/
def DirEnt.bytes (x : DirEnt) : List Byte :=
  leBytes 8 (x.stateCode + (if x.remove then 4 else 0) + x.pins % 2 ^ 12 * 2 ^ 36 + x.asid.toNat * 2 ^ 48)
    ++ leBytes 8 x.payload.toNat ++ leBytes 8 x.key.toNat

/-- The 512 entries of a core's directory; a free entry reads zero. -/
def State.dirBytes (s : State) (core : Nat) : List Byte :=
  (List.range dirSize).flatMap fun i => (s.dirEnt (core * dirSize + i)).elim (leBytes 24 0) DirEnt.bytes

/-- DIRREAD: a core's directory goes to the host (R451). A directory with an entry of a locked interface's address
space is LOCKED (R458). -/
def execDirread (q : Nat) (tag : Word) (core : BitVec 16) (dst : Dword) (s : State) : Out :=
  if Config.cores ≤ core.toNat then s.endCommand q tag statusMalformed
  else if s.co.dirs.any fun e => e.1 / dirSize == core.toNat && s.ifaceAsid e.2.asid then
    s.endCommand q tag statusLocked
  else .next ((s.hostWrite dst.toNat (s.dirBytes core.toNat)).complete q tag statusOk 0)

/-! ### Targets -/

/-- A locator of a fibre position. -/
def locBad (loc : Word) : Bool := decide (Config.cores * 128 ≤ loc.toNat)

/-- A command that names a fibre: its locator is in range, the position holds a fibre, and no locked interface
covers it (R452, R458). -/
def onFibre (s : State) (q : Nat) (tag loc : Word) (body : Fibre → Out) : Out :=
  if locBad loc then s.endCommand q tag statusMalformed
  else match s.fibre loc.toNat with
    | none => s.endCommand q tag statusRefused
    | some f => if s.lockedRegion f.region then s.endCommand q tag statusLocked else body f

/-- A command that names a region. -/
def onRegion (s : State) (q : Nat) (tag rgn : Word) (body : Nat → Out) : Out :=
  if 2 ^ 24 ≤ rgn.toNat then s.endCommand q tag statusMalformed
  else if (s.rcb rgn.toNat).isNone then s.endCommand q tag statusRefused
  else if s.lockedRegion rgn.toNat then s.endCommand q tag statusLocked
  else body rgn.toNat

/-! ### Attaching, stopping, running, stepping (R430, R432) -/

/-- The debugger's hold on a fibre ends; breakpoints let its next instruction pass. -/
def Fibre.run (f : Fibre) (steps : Nat) : Fibre :=
  if f.debugger.stopped || steps != 0 then { f with debugger := ⟨false, steps, true⟩ } else f

/-- A fibre stops at its boundary: an instruction that waits is withdrawn as pre-emption withdraws it, its PC on the
instruction, which executes again (R429, R430). An EXITING fibre executes nothing more. -/
def State.debugStop (s : State) (loc : Nat) : State :=
  match s.fibre loc with
  | none => s
  | some f => if f.st = .exiting then s else (s.withdraw loc f).modFibre loc Fibre.stop

/-- Changes every fibre of a subtree. -/
def State.modSubtree (s : State) (rgn : Nat) (g : Fibre → Fibre) : State :=
  (s.subtreeLocs rgn).foldl (fun (acc : State) l => acc.modFibre l g) s

/-- DBGATTACH: the attachment covers the region's subtree. -/
def execDbgattach (q : Nat) (tag : Word) (rgn : Word) (s : State) : Out :=
  onRegion s q tag rgn fun r =>
    let l := if s.io.dbgRegions.contains r then s.io.dbgRegions else s.io.dbgRegions ++ [r]
    .next ({ s with io := { s.io with dbgRegions := l } }.complete q tag statusOk 0)

/-- DBGDETACH releases every stop. -/
def execDbgdetach (q : Nat) (tag : Word) (rgn : Word) (s : State) : Out :=
  onRegion s q tag rgn fun r =>
    let s1 : State := { s with io := { s.io with dbgRegions := s.io.dbgRegions.filter fun x => x ≠ r } }
    .next ((s1.modSubtree r fun f => f.run 0).complete q tag statusOk 0)

/-- DBGSTOP of a fibre (kind 0) or of a region's subtree (kind 1). -/
def execDbgstop (q : Nat) (tag : Word) (kind : Byte) (target : Word) (s : State) : Out :=
  match kind.toNat with
  | 0 => onFibre s q tag target fun _ => .next ((s.debugStop target.toNat).complete q tag statusOk 0)
  | 1 => onRegion s q tag target fun r =>
    .next (((s.subtreeLocs r).foldl (fun (acc : State) l => acc.debugStop l) s).complete q tag statusOk 0)
  | _ => s.endCommand q tag statusMalformed

/-- DBGRUN. -/
def execDbgrun (q : Nat) (tag : Word) (kind : Byte) (target : Word) (s : State) : Out :=
  match kind.toNat with
  | 0 => onFibre s q tag target fun _ => .next ((s.modFibre target.toNat fun f => f.run 0).complete q tag statusOk 0)
  | 1 => onRegion s q tag target fun r => .next ((s.modSubtree r fun f => f.run 0).complete q tag statusOk 0)
  | _ => s.endCommand q tag statusMalformed

/-- DBGSTEP: the fibre executes `count` steps and stops. -/
def execDbgstep (q : Nat) (tag : Word) (loc : Word) (count : BitVec 16) (s : State) : Out :=
  if count = 0 then s.endCommand q tag statusMalformed
  else onFibre s q tag loc fun _ =>
    .next ((s.modFibre loc.toNat fun f => f.run count.toNat).complete q tag statusOk 0)

/-! ### Breakpoints and watchpoints (R430) -/

/-- DBGBP. -/
def execDbgbp (q : Nat) (tag : Word) (index enable : Byte) (asid : BitVec 16) (pc : Dword) (s : State) : Out :=
  if 16 ≤ index.toNat ∨ 2 ≤ enable.toNat then s.endCommand q tag statusMalformed
  else if s.ifaceAsid asid then s.endCommand q tag statusLocked
  else
    let bps := if enable = 0 then Sparse.erase s.io.bps index.toNat else Sparse.put s.io.bps index.toNat ⟨asid, pc⟩
    .next ({ s with io := { s.io with bps := bps } }.complete q tag statusOk 0)

/-- DBGWP. -/
def execDbgwp (q : Nat) (tag : Word) (index enable : Byte) (asid : BitVec 16) (log2 kinds : Byte) (va : Dword)
    (s : State) : Out :=
  if 4 ≤ index.toNat ∨ 2 ≤ enable.toNat ∨ log2.toNat < 2 ∨ 12 < log2.toNat ∨ 8 ≤ kinds.toNat then
    s.endCommand q tag statusMalformed
  else if s.ifaceAsid asid then s.endCommand q tag statusLocked
  else
    let w : Watchpoint := ⟨asid, va, log2.toNat, kinds⟩
    let wps := if enable = 0 then Sparse.erase s.io.wps index.toNat else Sparse.put s.io.wps index.toNat w
    .next ({ s with io := { s.io with wps := wps } }.complete q tag statusOk 0)

/-! ### The items of a fibre (R452) -/

/-- Item and index are in range. -/
def itemOk (item index : Nat) : Bool :=
  match item with
  | 6 => decide (index < 4)
  | 7 => decide (index < 8)
  | _ => decide (item < 8) && index == 0

/-- The registers of an item. -/
def itemRes (loc : Nat) (f : Fibre) (item index : Nat) : List Res :=
  match item with
  | 0 => resS loc (List.range 64)
  | 1 => resVs loc f (List.range 128)
  | 7 => [.tile index]
  | _ => []

/-- The item has a pending write. One of an operation that is parked is none: the register reads its old value (R172,
R431). -/
def State.itemBusy (s : State) (loc : Nat) (f : Fibre) (item index : Nat) : Bool :=
  (itemRes loc f item index).any fun r => (s.slot loc).pend.any fun p => p.res == r && !s.recorded p.op

/-- Code of the kind of a stack entry. -/
def EntKind.code : EntKind → Nat
  | .ifEnt => 0
  | .elseEnt => 1
  | .loopEnt => 2

/-- An entry of the reconvergence stack as one number, and back. -/
def StackEnt.pack (e : StackEnt) : Nat :=
  e.addr.toNat + e.ent.toNat * 2 ^ 48 + e.pend.toNat * 2 ^ 80 + e.kind.code * 2 ^ 112

def unpackEnt (n : Nat) : StackEnt :=
  { kind := match n / 2 ^ 112 % 4 with
      | 0 => .ifEnt
      | 1 => .elseEnt
      | _ => .loopEnt
    ent := BitVec.ofNat 32 (n / 2 ^ 48), pend := BitVec.ofNat 32 (n / 2 ^ 80), addr := BitVec.ofNat 48 n }

/-- The 16 bytes of a stack entry, in an order that the specification does not give. -/
def StackEnt.bytes (e : StackEnt) : List Byte := (List.range 16).map (Config.layoutByte 0 e.pack)

/-- The bytes of an item of a fibre; none for a record frame or a tile that is not there. -/
def State.itemBytes (s : State) (loc : Nat) (f : Fibre) (item index : Nat) : Option (List Byte) :=
  match item with
  | 0 => some ((List.range 64).flatMap fun n => leBytes 8 (f.s n).toNat)
  | 1 => some ((List.range 128).flatMap fun n => leBytes 128 (s.v loc f n).toNat)
  | 2 => some ((List.range 8).flatMap fun n => leBytes 4 (f.p n).toNat)
  | 3 => some ([f.pc.toNat, f.mode.toNat, f.fstat.toNat, f.cf.toNat, f.exec.toNat, f.lr.toNat, f.wdesc.toNat, 0].flatMap
      (leBytes 8))
  | 4 => some (((List.range 8).flatMap fun c => leBytes 1 (f.counter c)) ++ leBytes 1 f.stack.length ++ leBytes 7 0)
  | 5 => some ((f.stack.reverse.flatMap StackEnt.bytes) ++ leBytes (16 * (32 - f.stack.length)) 0)
  | 6 => (s.recordAt (loc * 4 + index)).map fun e => s.frameBytes (loc * 4 + index) e.1 e.2
  | _ =>
    let sl := s.slot loc
    if index < sl.tiles then
      some ((List.range 1024).flatMap fun k => leBytes 12 (Sparse.getZ sl.tile (index * 1024 + k)).toNat)
    else none

/-- Completes a DBGREAD with the bytes of its item. -/
def State.readItem (s : State) (q : Nat) (tag : Word) (loc : Nat) (f : Fibre) (item index : Nat) (host : Dword) : State :=
  match s.itemBytes loc f item index with
  | none => s.complete q tag statusRefused 0
  | some b =>
    (s.hostWrite host.toNat b).complete q tag statusOk (BitVec.ofNat 64 b.length)

/-- DBGREAD: an item with a pending write is waited for (R431). -/
def execDbgread (q : Nat) (tag : Word) (loc : Word) (item index : Byte) (host : Dword) (s : State) : Out :=
  if !itemOk item.toNat index.toNat then s.endCommand q tag statusMalformed
  else onFibre s q tag loc fun f =>
    if s.itemBusy loc.toNat f item.toNat index.toNat then
      .next (s.await q tag (.item loc.toNat item.toNat index.toNat host))
    else .next (s.readItem q tag loc.toNat f item.toNat index.toNat host)

/-- A DBGREAD that waits goes on once its item has no pending write; a fibre that is gone has no items. -/
def State.serveItem (s : State) (p : Pending) : State :=
  match p.what with
  | .item loc item index host =>
    (match s.fibre loc with
    | none => s.complete p.queue p.tag statusRefused 0
    | some f =>
      if s.itemBusy loc f item index then s else s.readItem p.queue p.tag loc f item index host)
  | _ => s

/-- Every waiting DBGREAD. -/
def State.serveItems (s : State) : State := s.io.pending.foldl State.serveItem s

/-- DBGREAD_TIMEOUT: a DBGREAD that has waited for 10 µs ends with status BUSY (R431). -/
def execDbgreadTimeout (q : Nat) (s : State) : Out :=
  match s.io.pending.find? fun p => p.queue = q with
  | some p =>
    match p.what with
    | .item _ _ _ _ => .next (s.complete q p.tag Config.statusBusy 0)
    | _ => .next s
  | none => .next s

/-! ### DBGWRITE (R431) -/

/-- The program counter is written: an instruction that waits there is withdrawn (R429). -/
def Fibre.rewind (f : Fibre) (pc : BitVec 48) : Fibre :=
  if pc = f.pc then f
  else { f with pc := pc, waitOp := none, fbIn := false, nbIn := false, leave := none, fetched := none, cede := false }

/-- Item 3 as DBGWRITE takes it: each value fits its register, reserved bits are zero, `EXEC` stays within ENT of
the top entry (R431), and `WDESC`, which only placement, calls and WINDOW change (R196), is the fibre's own. -/
def Fibre.control (f : Fibre) (b : List Byte) : Option Fibre :=
  let n (i : Nat) : Nat := leNat ((b.drop (8 * i)).take 8)
  let exec : Word := BitVec.ofNat 32 (n 4)
  let lanes : Word := (f.stack.head?).elim (BitVec.allOnes 32) fun e => e.ent
  let fits := n 0 < 2 ^ 48 ∧ n 0 % 4 = 0 ∧ n 1 < 2 ^ 32 ∧ Sys2Proof.badMode (n 1) = false ∧ n 2 < 32 ∧ n 3 < 8 ∧ n 4 < 2 ^ 32
    ∧ n 5 < 2 ^ 52 ∧ n 6 = f.wdesc.toNat ∧ n 7 = 0 ∧ exec &&& ~~~lanes = 0
  if fits then
    some { f.rewind (BitVec.ofNat 48 (n 0)) with
      mode := BitVec.ofNat 32 (n 1), fstat := BitVec.ofNat 32 (n 2), cf := BitVec.ofNat 3 (n 3), exec := exec
      lr := BitVec.ofNat 64 (n 5) }
  else none

/-- Item 4: the counters hold 0 to 62 (R267) and the stack at most 32 entries. A deeper stack has empty entries on
top. -/
def Fibre.counts (f : Fibre) (b : List Byte) : Option Fibre :=
  let d := (b.getD 8 0).toNat
  if leNat (b.drop 9) = 0 ∧ d ≤ 32 ∧ (b.take 8).all (fun x => decide (x.toNat < 63)) then
    let ctr := (List.range 8).foldl (fun c i => Sparse.setN c i (b.getD i 0).toNat) f.ctr
    let kept := f.stack.drop (f.stack.length - d)
    some { f with ctr := ctr, stack := List.replicate (d - kept.length) ⟨.ifEnt, 0, 0, 0⟩ ++ kept }
  else none

/-- The state after an item of a fibre has been written; none where DBGWRITE does not accept it. -/
def State.writeItem (s : State) (loc : Nat) (f : Fibre) (item index : Nat) (b : List Byte) : Option State :=
  let n (o k : Nat) : Nat := leNat ((b.drop o).take k)
  match item with
  | 0 => some (s.setFibre loc ((List.range 64).foldl (fun f i => f.setS i (BitVec.ofNat 64 (n (8 * i) 8))) f))
  | 1 => some ((List.range 128).foldl (fun (acc : State) i => acc.setV loc i (BitVec.ofNat 1024 (n (128 * i) 128))) s)
  | 2 =>
    if n 28 4 = 2 ^ 32 - 1 then
      some (s.setFibre loc ((List.range 7).foldl (fun f i => f.setP i (BitVec.ofNat 32 (n (4 * i) 4))) f))
    else none
  | 3 => (f.control b).map (s.setFibre loc)
  | 4 => (f.counts b).map (s.setFibre loc)
  | 5 =>
    let ents := (List.range f.stack.length).map fun i => unpackEnt (Config.stackEntry (n (16 * i) 16))
    some (s.setFibre loc { f with stack := ents.reverse })
  | 7 =>
    if index < (s.slot loc).tiles then
      let put (t : Sparse (BitVec 96)) (k : Nat) : Sparse (BitVec 96) :=
        Sparse.setZ t (index * 1024 + k) (BitVec.ofNat 96 (n (12 * k) 12))
      some (s.modSlot loc fun sl => { sl with tile := (List.range 1024).foldl put sl.tile })
    else none
  | _ => none

/-- Bytes of an item (R452). -/
def itemSize : Nat → Nat
  | 0 => 512
  | 1 => 16384
  | 2 => 32
  | 3 => 64
  | 4 => 16
  | 5 => 512
  | 6 => 4096
  | _ => 12288

/-- DBGWRITE: only for a stopped fibre (R431), and never of item 6 (R452). -/
def execDbgwrite (q : Nat) (tag : Word) (loc : Word) (item index : Byte) (host : Dword) (s : State) : Out :=
  if !itemOk item.toNat index.toNat then s.endCommand q tag statusMalformed
  else onFibre s q tag loc fun f =>
    if !f.debugger.stopped then s.endCommand q tag statusRefused
    else match s.writeItem loc.toNat f item.toNat index.toNat (readBytes s.mem.host host.toNat (itemSize item.toNat)) with
      | none => s.endCommand q tag statusRefused
      | some s1 => .next (s1.complete q tag statusOk (BitVec.ofNat 64 (itemSize item.toNat)))

end Sys2Proof.Machine
end

