-- ==== Sys2Proof/Machine/Device.lean ====
section
/-! DEFINITION. The device from outside: its registers (R447, R448), resets (R460), power (R145, R459), address
translation services (R42, R44), errors (R96, R97, R457), the security engine (R455) and device interfaces
(R458). -/

namespace Sys2Proof.Machine

/-! ### Registers (R13, R447 to R450) -/

/-- Keeps listed fields of a value, as (first bit, bits); reserved bits are zero. -/
def keepFields {w : Nat} (v : BitVec w) (l : List (Nat × Nat)) : BitVec w :=
  BitVec.ofNat w ((l.map fun f => field v f.1 f.2 * 2 ^ f.1).sum)

/-- The fields of a ring base register (R450). -/
def ringFields : List (Nat × Nat) := [(12, 40), (0, 6)]

/-- A write of `CTXBASE`: with bit 0 clear every context slot is free and the translation caches are empty (R13).
The context entry of a locked interface is captured, so that another table is a change (R458). -/
def State.writeCtxbase (s : State) (v : Dword) : State :=
  let new := keepFields v [(21, 31), (0, 1)]
  let s1 : State := { s with reg := { s.reg with ctxbase := new } }
  let s2 := if bitOf new 0 then s1 else s1.invalidate 0 (BitVec.ofNat 64 (3 * 2 ^ 16))
  if field s.reg.ctxbase 21 31 = field new 21 31 then s2 else s2.ifaceError fun _ => true

/-- CTXBASE_WRITE. -/
def execCtxbaseWrite (v : Dword) (s : State) : Out := .next (if s.barActive then s.writeCtxbase v else s)

/-- A write of SQTAIL. -/
def State.writeSqtail (s : State) (q : Nat) (v : Word) : State := s.setQueue q { s.queue q with sqTail := v }

/-- SQTAIL_DOORBELL: the queue's producer index (R449). -/
def execSqtailDoorbell (q : Nat) (v : Word) (s : State) : Out :=
  .next (if q < 16 && s.barActive then s.writeSqtail q v else s)

/-- A write of a pool-map register; a change of an entry is a change of what locked interfaces have captured
(R47, R458). -/
def State.writePool (s : State) (hi : Bool) (n : Nat) (v : Dword) : State :=
  let r := s.reg
  let new : DevRegs :=
    if hi then { r with poolHi := Sparse.setZ r.poolHi n (keepFields v [(30, 22), (0, 16)]) }
    else { r with poolLo := Sparse.setZ r.poolLo n (keepFields v [(63, 1), (62, 1), (58, 4), (56, 2), (30, 16)]) }
  if new = r then s else { s with reg := new }.ifaceError fun _ => true

/-- A write of `LVCTL`; with leave off every waiting request is granted (R238). -/
def State.writeLvctl (s : State) (v : Word) : State :=
  let s1 : State := { s with reg := { s.reg with lvctl := keepFields v [(0, 6)] } }
  if s1.leaveOff then (List.range Config.clusters).foldl (fun (acc : State) c => acc.serveLeave c) s1 else s1

/-- A write of a cluster's `CLMERGE`; entries that are open when DIS is set close, as no read joins them while it
stands, and a read after it must not go back to what they hold (R95, R132). -/
def State.writeMerge (s : State) (cluster : Nat) (v : Word) : State :=
  let new := keepFields v [(0, 9)]
  let s1 : State := { s with reg := { s.reg with clmerge := Sparse.set clmergeReset s.reg.clmerge cluster new } }
  if bitOf new 8 then { s1 with mem := { s1.mem with merges := s1.mem.merges.filter fun e => e.cluster ≠ cluster } }
  else s1

/-- LIMIT of `MODPWR` is held between 1,200 and 2,600 (R459). -/
def clampLimit (n : Nat) : Nat := max 1200 (min 2600 n)

/-- A write of a host queue's register. -/
def State.writeQueue (s : State) (q off bytes : Nat) (v : Dword) : State :=
  let x := s.queue q
  match off, bytes with
  | 0x00, 8 => s.setQueue q { x with sqBase := keepFields v ringFields }
  | 0x08, 4 => s.writeSqtail q (v.setWidth 32)
  | 0x10, 8 => s.setQueue q { x with cqBase := keepFields v ringFields }
  | 0x1C, 4 => s.setQueue q { x with cqHead := v.setWidth 32 }
  | 0x20, 4 => s.setQueue q { x with qvec := keepFields (v.setWidth 32) [(0, 5)] }
  | _, _ => s

/-- A write of `bytes` bytes at an offset of BAR0: any that does not match a register's place and width, or that
meets a read-only register, is ignored (R448). Reports that wait enter their ring as it gets room (R184). -/
def State.writeReg (s : State) (off bytes : Nat) (v : Dword) : State :=
  let r := s.reg
  let w : Word := v.setWidth 32
  let set (r1 : DevRegs) : State := { s with reg := r1 }
  match off, bytes with
  | 0x0100, 8 => s.writeCtxbase v
  | 0x0108, 8 => set { r with rgnbase := keepFields v [(27, 25)] }
  | 0x0110, 8 => set { r with rplbase := keepFields v [(21, 16), (0, 1)] }
  | 0x0118, 8 => set { r with tvbase := keepFields v [(19, 33), (0, 1)] }
  | 0x0120, 4 => set { r with clrctl := keepFields w [(16, 10), (8, 8), (2, 1), (1, 1)] }
  | 0x0124, 4 => s.writeLvctl w
  | 0x0128, 4 => if bitOf r.ctxbase 0 then s else set { r with portcfg := putField r.portcfg 0 4 (field w 0 4) }
  | 0x0130, 8 => (set { r with frq := { r.frq with base := keepFields v ringFields } }).frqDrainAll
  | 0x013C, 4 => (set { r with frq := { r.frq with head := w } }).frqDrainAll
  | 0x0140, 8 => set { r with hcr := { r.hcr with base := keepFields v ringFields } }
  | 0x014C, 4 => set { r with hcr := { r.hcr with head := w } }
  | 0x5000, 8 => set { r with modpwr := putField r.modpwr 0 12 (clampLimit (field v 0 12)) }
  | _, _ =>
    if 0x1000 ≤ off ∧ off < 0x1100 ∧ off % 8 = 0 ∧ bytes = 8 then s.writePool (off % 16 == 8) ((off - 0x1000) / 16) v
    else if 0x1100 ≤ off ∧ off < 0x1180 ∧ off % 8 = 0 ∧ bytes = 8 then
      set { r with poolTag := Sparse.setZ r.poolTag ((off - 0x1100) / 8) (keepFields v [(25, 27)]) }
    else if 0x2200 ≤ off ∧ off < 0x22C0 ∧ off % 4 = 0 ∧ bytes = 4 then
      s.writeMerge ((off - 0x2200) / 4) w
    else if 0x3000 ≤ off ∧ off < 0x3400 then s.writeQueue ((off - 0x3000) / 64) (off % 64) bytes v
    else s

/-- REGISTER_WRITE. -/
def execRegisterWrite (off : BitVec 16) (bytes : Nat) (v : Dword) (s : State) : Out :=
  .next (if s.barActive then s.writeReg off.toNat bytes v else s)

/-- What a read of a host queue's register gives. -/
def Queue.read (x : Queue) (off bytes : Nat) : Nat :=
  match off, bytes with
  | 0x00, 8 => x.sqBase.toNat
  | 0x08, 4 => x.sqTail.toNat
  | 0x0C, 4 => x.sqHead.toNat
  | 0x10, 8 => x.cqBase.toNat
  | 0x18, 4 => x.cqTail.toNat
  | 0x1C, 4 => x.cqHead.toNat
  | 0x20, 4 => x.qvec.toNat
  | _, _ => 0

/-- What a host's read of `bytes` bytes at an offset of BAR0 gives: a register by its place and width, zero anywhere
else (R448). A read changes nothing. -/
def State.readReg (s : State) (off bytes : Nat) : Nat :=
  let r := s.reg
  match off, bytes with
  | 0x0000, 4 => r.devstat.toNat
  | 0x0100, 8 => r.ctxbase.toNat
  | 0x0108, 8 => r.rgnbase.toNat
  | 0x0110, 8 => r.rplbase.toNat
  | 0x0118, 8 => r.tvbase.toNat
  | 0x0120, 4 => r.clrctl.toNat
  | 0x0124, 4 => r.lvctl.toNat
  | 0x0128, 4 => r.portcfg.toNat
  | 0x0130, 8 => r.frq.base.toNat
  | 0x0138, 4 => r.frq.tail.toNat
  | 0x013C, 4 => r.frq.head.toNat
  | 0x0140, 8 => r.hcr.base.toNat
  | 0x0148, 4 => r.hcr.tail.toNat
  | 0x014C, 4 => r.hcr.head.toNat
  | 0x5000, 8 => r.modpwr.toNat
  | _, _ =>
    let place (base step n : Nat) : Option Nat :=
      if base ≤ off ∧ off < base + step * n ∧ off % step = 0 ∧ bytes = step then some ((off - base) / step) else none
    match place 0x1000 8 32, place 0x1100 8 16, place 0x2000 8 48, place 0x2200 4 48, place 0x4000 8 32 with
    | some i, _, _, _, _ => (Sparse.getZ (if i % 2 = 0 then r.poolLo else r.poolHi) (i / 2)).toNat
    | _, some i, _, _, _ => (Sparse.getZ r.poolTag i).toNat
    | _, _, some i, _, _ => (s.purse i).toNat
    | _, _, _, some i, _ => (Sparse.get clmergeReset r.clmerge i).toNat
    | _, _, _, _, some i => (Sparse.getZ r.errcnt i).toNat
    | none, none, none, none, none =>
      if 0x3000 ≤ off ∧ off < 0x3400 then (s.queue ((off - 0x3000) / 64)).read (off % 64) bytes else 0

/-- LINK_TRAINED: a port's UP bit (R447). -/
def execLinkTrained (port : Nat) (s : State) : Out :=
  .next (if port < 4 then { s with reg := { s.reg with portcfg := setBit s.reg.portcfg (4 + port) } } else s)

/-! ### Resets (R456, R460) -/

/-- `DEVSTAT` once firmware has been verified: ready, or FWFAIL with the first image that failed (R456). -/
def verifiedStat : Option (BitVec 4) → Word
  | none => 1
  | some i => BitVec.ofNat 32 (8 + i.toNat * 16)

/-- COLD_RESET: every register takes its reset value and the vault is zero; the memory of others, and the model's
own bookkeeping, stay (R456, R460). -/
def execColdReset (failed : Option (BitVec 4)) (s : State) : Out :=
  let m := State.reset.mem
  .next { State.reset with
    mem := { m with fabric := s.mem.fabric, fpoison := s.mem.fpoison, peerTags := s.mem.peerTags, host := s.mem.host }
    reg := { State.reset.reg with devstat := verifiedStat failed }
    fw := some failed.isNone
    fresh := s.fresh, draws := s.draws, turns := s.turns }

/-- Commands in progress complete with ABORTED. -/
def State.abortCommands (s : State) : State :=
  s.io.pending.foldl (fun (acc : State) p => acc.complete p.queue p.tag statusAborted 0) s

/-- Every frame but the PINNED ones writes its dirty blocks back and is FREE. -/
def State.dropFrames (s : State) : State :=
  (s.mem.frames.filter fun e => e.2.st ≠ .pinned).foldl
    (fun (acc : State) e => (({ acc with mem := acc.mem.recallFrame e.1 }).writeOut e.1).free e.1) s

/-- The registers after a function-level reset: `PORTCFG`, `POOLMAPn` and `POOLTAGn` stay, and TEMP and DRAW of `MODPWR`,
which have no reset value, are measurements. -/
def DevRegs.functionReset (r : DevRegs) : DevRegs :=
  { DevRegs.reset with
    portcfg := r.portcfg, poolLo := r.poolLo, poolHi := r.poolHi, poolTag := r.poolTag
    modpwr := putField (keepFields r.modpwr [(16, 48)]) 0 12 2400 }

/-- FUNCTION_LEVEL_RESET (R460): as after any reset every bank is CACHE with owner 0 (R81). The device accepts commands
again, and RDY says so, with the end of the reset (`State.status`). -/
def execFunctionLevelReset (s : State) : Out :=
  let s1 := s.abortCommands
  let regions := s1.allRegions
  let s2 := regions.foldl (fun (acc : State) n => (acc.modRcb n fun r => r).killRegion n) s1
  let s3 := regions.foldl (fun (acc : State) n => acc.flushRcb n) s2
  let back (m : Mem) : Mem :=
    (List.range Config.clusters).foldl Mem.ccFlush ((List.range Config.cores).foldl Mem.writeBackAll m)
  let s4 := ({ s3 with mem := back s3.mem } : State).dropFrames
  let s5 : State := { s4 with
    reg := s4.reg.functionReset, sched := { s4.sched with rcbs := [] }, xl := ⟨[], [], [], [], [], s4.xl.invDone⟩
    mem := { s4.mem with
      icache := [], smp := [], merges := [], banks := [], switches := [], cscr := [], cpoison := [], cvalid := []
      ccache := [], ccUse := [], copies := [], filter := [], homec := [] }
    io := { s4.io with queues := [] } }
  .next (s5.ifaceError fun _ => true).settleRanges

/-- A core is empty: its fibres are killed, its teller's records lost, its receipts handled (R226), its caches
empty. Its directory stays, which only the events of R404 change. -/
def State.emptyCore (s : State) (core : Nat) : State :=
  let s1 := s.killLocs ((s.fibres.map (·.1)).filter fun l => coreOf l = core)
  let s2 := (s1.sched.receipts.filter fun r => r.core = core).foldl (fun (acc : State) r => acc.dropReceipt r) s1
  let recs := ((s2.sched.bins.filter fun b => b.core = core).map fun b => (b.region, b.records))
    ++ (s2.sched.tellIn.filter fun t => t.core = core).map fun t => (t.region, t.records)
  let s3 := recs.foldl (fun (acc : State) e => acc.discardAll e.1 e.2) s2
  { s3 with
    sched := { s3.sched with
      bins := s3.sched.bins.filter fun b => b.core ≠ core
      tellIn := s3.sched.tellIn.filter fun t => t.core ≠ core }
    mem := { s3.mem.dropCore core with
      icache := s3.mem.icache.filter fun l => l.core ≠ core
      smp := s3.mem.smp.filter fun l => l.core ≠ core } }

/-- CORE_RESET: dirty lines are written back before, and `CLK` starts again (R145, R280, R460). -/
def execCoreReset (core : Nat) (s : State) : Out :=
  if Config.cores ≤ core then .next s
  else
    let s1 : State := { s with mem := s.mem.writeBackAll core }
    .next { s1.emptyCore core with clk := Sparse.setZ s1.clk core 0 }

/-! ### Power (R145, R226, R415, R459) -/

/-- Nothing keeps a core from being power-gated: no fibre, receipt or record of the teller, and no slot of its
reply store. -/
def State.gateable (s : State) (core : Nat) : Bool :=
  !(s.fibres.any fun e => coreOf e.1 == core) && !(s.sched.receipts.any fun r => r.core == core) &&
    !(s.sched.bins.any fun b => b.core == core) && !(s.sched.tellIn.any fun t => t.core == core) &&
    s.replySlots core == 0

/-- CORE_POWER_GATE: dirty lines are written back first. -/
def execCorePowerGate (core : Nat) (s : State) : Out :=
  if Config.cores ≤ core || s.gated.contains core || !s.gateable core then .next s
  else .next { s with mem := (s.mem.writeBackAll core).dropCore core, gated := s.gated ++ [core] }

/-- CORE_POWER_UP: `CLK` goes on from the value it held (R280). -/
def execCorePowerUp (core : Nat) (s : State) : Out := .next { s with gated := s.gated.filter fun c => c ≠ core }

/-- The vector of thermal and power events (R453). -/
def thermalVector : Nat := 3

/-- THERMAL_LIMIT: the controller lowers every ALLOW, limits power and sends its vector (R459), of a device that is active
(R456). -/
def execThermalLimit (allow : BitVec 24) (s : State) : Out :=
  if !s.barActive then .next s
  else
  let lower := (List.range Config.clusters).map fun c => BitVec.ofNat 24 (min allow.toNat (purseAllow (s.purse c)).toNat)
  let s1 := s.setAllow 0 lower
  .next ({ s1 with reg := { s1.reg with devstat := setBit s1.reg.devstat 2 } }.signal thermalVector true)

/-- THERMAL_TRIP: every clock of the compute dies stops until a cold reset (R459). -/
def execThermalTrip (s : State) : Out := .next ({ s with tripped := true }.signal thermalVector true)

/-! ### Address translation services (R42 to R44) -/

/-- Two ranges of host addresses overlap. -/
def overlap (a n b m : Nat) : Bool := decide (a < b + m) && decide (b < a + n)

/-- ATS_INVALIDATION_REQUEST: results and combined entries whose host range overlaps go; every access that used
one has been performed, as an access is translated and performed in one step, and the Invalidation Completion is
sent (R44). The range is one of host physical addresses (DESIGN CHOICE, log 79). A device that is not active does not
answer (R456). -/
def execAtsInvalidationRequest (base len : Dword) (s : State) : Out :=
  if !s.barActive then .next s
  else
  let hit (a n : Nat) : Bool := overlap a n base.toNat len.toNat
  .next { s with xl := { s.xl with
    atc := s.xl.atc.filter fun e => !hit e.host (2 ^ e.log2)
    tlb := s.xl.tlb.filter fun e =>
      match e.host with
      | some (h, _, _) => !hit h (2 ^ e.log2)
      | none => true
    invDone := s.xl.invDone ++ [(base.toNat, len.toNat)] } }

/-- ATS_COMPLETION: the result of an outstanding request enters the ATC, which holds 16,384 (R34, R42). -/
def execAtsCompletion (asid : BitVec 16) (page host : Dword) (log2 : Nat) (read write fail : Bool) (s : State) : Out :=
  let mine (r : AtsReq) : Bool := r.asid == asid && r.page == page.toNat
  if s.xl.atsReq.any mine ∧ 12 ≤ log2 then
    let e : AtcEnt := ⟨asid, page.toNat, log2, host.toNat / 2 ^ log2 * 2 ^ log2, read, write, fail⟩
    .next ({ s with xl := { s.xl with
      atsReq := s.xl.atsReq.filter fun r => !mine r
      atc := e :: s.xl.atc.take 16383 } }.retrySubs)
  else .next s

/-! ### Errors (R96, R97, R457) -/

/-- CORRECTABLE_ERROR: corrected in place and counted. -/
def execCorrectableError (what : ErrPart) (_place _addr : Nat) (s : State) : Out := .next (s.countError what false)

/-- What a fibre's lanes still owe, lane by lane, goes back to the records it was formed from. -/
def owedBack (recs : List ContRec) (f : Fibre) : List ContRec :=
  (List.range recs.length).map fun i =>
    let r := recs.getD i ⟨[], .nothing⟩
    match Sparse.find f.owes i, Sparse.find f.tests i with
    | some (c, e), _ => { r with owed := .reply c e }
    | none, some t => { r with owed := .test t }
    | none, none => { r with owed := .nothing }

/-- The work that a group was made from waits again: its number in its launch, its task record, or the records of
its fibre as a ripe bin (R97). -/
def State.relaunch (s : State) (g : Group) : State :=
  match g.kind with
  | .grid => s.modLaunch g.launch fun l => l.giveBack g.lin true
  | .task =>
    let s1 := s.recordUp g.region (recEntry g.record) true
    { s1 with sched := { s1.sched with receipts := s1.sched.receipts ++ [⟨g.core, g.region, g.queue, g.record, true⟩] } }
  | .teller =>
    match g.recs, g.members.head? with
    | r :: _, some loc =>
      (match s.fibre loc with
      | some f =>
        let bin : Bin := ⟨g.core, g.region, recEntry r.bytes, recKey r.bytes, owedBack g.recs f, true, true⟩
        let s1 := s.setFibre loc { f with owes := [], tests := [] }
        let s2 : State := { s1 with sched := { s1.sched with bins := s1.sched.bins ++ [bin] } }
        g.recs.foldl (fun (acc : State) _ => acc.recordUp g.region (recEntry r.bytes) false) s2
      | none => s)
    | _, _ => s

/-- An uncorrectable error in a group's registers or scratch kills its fibres, and their slot mates with them. The
group of an idempotent region is launched again, once; else a fault of kind 4 is reported, and containment
decides (R97, R188). -/
def State.groupError (s : State) (id : Nat) : State :=
  match Sparse.find s.groups id with
  | none => s
  | some g =>
    let locs (t : State) : List Nat := t.locsWhere fun f => f.group == id
    if ((s.rcb g.region).map fun r => r.idem).getD false && !g.relaunched then
      let s1 := s.relaunch g
      s1.killLocs (locs s1)
    else
      let s1 := s.killLocs (locs s)
      let (policy, absorber) := s1.contain g.region
      let n (k w : Nat) : Nat := Config.errorReport s.draws k % 2 ^ w
      let info : ReportInfo :=
        { va := BitVec.ofNat 64 (n 0 64), asid := g.asid, unit := 1, akind := n 11 8, cause := 0, kind := 4, retries := 0
          loc := g.members.headD 0, frame := n 20 16, lmask := BitVec.ofNat 32 (n 32 32), ldone := BitVec.ofNat 32 (n 36 32) }
      let s2 := (s1.drew 1).report g.region policy absorber false info
      if policy = 2 then s2.killRegion absorber else s2

/-- The group whose scratch holds an offset of a core's carve-out. -/
def State.scratchOwner (s : State) (core off : Nat) : Option Nat :=
  (s.groups.find? fun e => e.2.core = core ∧ e.2.scrBase ≤ off ∧ off < e.2.scrBase + e.2.scrLen).map (·.1)

/-- A bank of cluster SRAM with an error at an offset: a word of scratch that has been written, or an entry of a
FIFO, is poisoned. A sector whose valid bit is clear reads zero and holds nothing (R84). The specification does not say
where in its bank a ring's oldest entry lies: the entry struck is the one that stands as far from the oldest as the offset
is from the bank's start (DESIGN CHOICE, log 100). -/
def Mem.bankError (m : Mem) (cluster off : Nat) : Mem :=
  let bank := cluster * 32 + off / 2 ^ 18 % 32
  let k := m.bank bank
  match k.mode with
  | .scratch =>
    let a := cluster * 2 ^ 23 + off
    if (Sparse.find m.cvalid (a / 32)).isNone || m.cpoison.contains (a / 8) then m
    else { m with cpoison := a / 8 :: m.cpoison }
  | .fifo =>
    let i := off % 2 ^ 18 / 2 ^ k.entry
    { m with banks := Sparse.put m.banks bank { k with fifo := k.fifo.modify i fun e => { e with poison := true } } }
  | _ => m

/-- UNCORRECTABLE_ERROR: `place` is the core, cluster or die, `addr` the fibre's index in its core for registers,
the offset for scratch, else the address. It is counted and logged, and the structure's row of R96 follows. -/
def execUncorrectableError (what : ErrPart) (place addr : Nat) (s : State) : Out :=
  let log (core : Option Nat) : State := s.logError what place addr core
  match what with
  | .registers =>
    (match (s.fibre (place * 128 + addr % 128)).map fun f => f.group with
    | some g => .next ((log (some place)).groupError g)
    | none => .next (log (some place)))
  | .groupScratch =>
    (match s.scratchOwner place addr with
    | some g => .next ((log (some place)).groupError g)
    | none => .next (log (some place)))
  | .coreL1 =>
    let s1 := log (some place)
    let line := addr / 128
    let poisoned := Sparse.adjust s1.mem.l1 (l1Key place line) fun l => { l with poison := true }
    let m := s1.mem.dropCopy place line
    .next { s1 with mem :=
      if (Sparse.find m.l1 (l1Key place line)).isSome then { m with l1 := poisoned }.writeBack place line else m }
  | .samplerCache =>
    let s1 := log (some place)
    .next { s1 with mem := { s1.mem with smp := s1.mem.smp.filter fun l =>
      l.core ≠ place ∨ l.place.addr / 128 ≠ addr / 128 } }
  | .clusterCache =>
    let s1 := log none
    let key := l1Key place (addr / 128)
    let poisoned := Sparse.adjust s1.mem.ccache key fun e =>
      { e with line := { e.line with poison := e.line.poison || !e.line.clean } }
    .next { s1 with mem := { s1.mem with ccache := poisoned }.ccOut place (addr / 128) }
  | .clusterScratch =>
    let s1 := log none
    .next { s1 with mem := s1.mem.bankError place addr }
  | .homeCache =>
    let s1 := log none
    let line := addr / 128
    let m := if Sparse.find s1.mem.homec line = some true then s1.mem.poisonLine line else s1.mem
    .next { s1 with mem := m.homeOut line }
  | .snoopFilter =>
    let s1 := log none
    .next { s1 with mem := s1.mem.recallLine (addr / 128) }
  | .vault => .next (s.vaultError addr)
  | .port _ | .ide | .firmware => .next (log none)

/-- The address of an operation's first lane that is not performed. -/
def Op.waitingVa (o : Op) : Dword :=
  let lane := (lanesOf (o.lmask &&& ~~~o.ldone)).headD 0
  match o.body with
  | .load _ _ _ _ a _ | .store _ _ a _ _ | .atom _ _ _ _ _ a _ _ _ | .cradd a _ _ _ => a.getD lane o.opa
  | .ldt _ _ a | .stt a _ _ | .tagset a _ | .tagget _ a | .hcall a | .launch a _ => a
  | _ => o.opa

/-- The accesses of an operation may travel through a port: none of the granules that it waits for is carried by
another one (R48). -/
def State.carriedBy (s : State) (id port : Nat) : Bool :=
  match s.recordOf id with
  | some e => e.2.grans.all fun g => poolPort s.reg (g * 4096) == some (port % 4)
  | none => true

/-- A port carries what every device interface uses: one in host attach, over which its host drives it, and one that an
entry of the pool map names, all of which LOCK captures (R446, R458; which streams an interface uses the specification does
not say: DESIGN CHOICE, log 101). -/
def State.servesAll (s : State) (port : Nat) : Bool :=
  !bitOf s.reg.portcfg (port % 4) ||
    (List.range 16).any fun n =>
      let lo := Sparse.getZ s.reg.poolLo n
      bitOf lo 63 && bitOf lo (58 + port % 4)

/-- IDE_FAILURE: the port drops the flit, logs the failure and retrains; the accesses that the flit carried are
refused with cause KIND, and the interfaces that use its streams go to ERROR (R457, R458). -/
def execIdeFailure (port : Nat) (carried : List Nat) (s : State) : Out :=
  let s1 := s.logError .ide port 0 none
  let s2 : State := { s1 with reg := { s1.reg with portcfg := clearBit s1.reg.portcfg (4 + port % 4) } }
  let regions := carried.filterMap fun id => ((Sparse.find s.eng.ops id).bind fun o => s.fibre o.loc).map fun f => f.region
  let s3 := carried.foldl (fun (acc : State) id =>
    match Sparse.find acc.eng.ops id with
    | some o => if o.finished || !acc.carriedBy id port then acc else acc.writeRecord id false o.body.kind.code (.refuse o.waitingVa causeKind 0)
    | none => acc) s2
  .next (s3.ifaceError fun i => s.servesAll port || regions.any fun r => s3.inSubtree i.region r)

/-! ### The security engine (R455, R457) -/

/-- The security engine answers. -/
def State.answer (s : State) (a : SpdmAnswer) : State := { s with io := { s.io with spdm := s.io.spdm ++ [a] } }

/-- GET_VERSION: SPDM 1.2. -/
def execGetVersion (s : State) : Out := .next (s.answer (.version 1 2))

/-- GET_CAPABILITIES. -/
def execGetCapabilities (s : State) : Out := .next (s.answer (.capabilities Config.capabilities))

/-- NEGOTIATE_ALGORITHMS: ECDSA P-384 and SHA-384 are the only algorithms. -/
def execNegotiateAlgorithms (ecdsaP384 sha384 : Bool) (s : State) : Out :=
  .next (s.answer (if ecdsaP384 && sha384 then .algorithms true true else .error))

/-- GET_DIGESTS. -/
def execGetDigests (s : State) : Out := .next (s.answer (.digests Config.certificateDigest))

/-- GET_CERTIFICATE: a part of the chain. -/
def execGetCertificate (offset length : BitVec 16) (s : State) : Out :=
  .next (s.answer (.certificate ((List.range length.toNat).map fun i => Config.certificate (offset.toNat + i))))

/-- CHALLENGE: signed with the device identity key. -/
def execChallenge (nonce : BitVec 256) (s : State) : Out :=
  .next ((s.drew 1).answer (.challengeAuth nonce (Config.signature s.draws)))

/-- The values that measurement block 5 covers: `PORTCFG`, the pool map and the tag planes. -/
def DevRegs.measured (r : DevRegs) : List Nat :=
  r.portcfg.toNat :: (List.range 16).flatMap fun n =>
    [(Sparse.getZ r.poolLo n).toNat, (Sparse.getZ r.poolHi n).toNat, (Sparse.getZ r.poolTag n).toNat]

/-- A measurement block. -/
def State.measurement (s : State) (i : Nat) : BitVec 384 :=
  if i = 5 then Config.measureRegs s.reg.measured else Config.measurement i

/-- GET_MEASUREMENTS: one block by its index, or all five (index 0xFF). -/
def execGetMeasurements (index : Byte) (s : State) : Out :=
  let i := index.toNat
  let l := if i = 255 then [1, 2, 3, 4, 5] else [i]
  if i = 255 ∨ (1 ≤ i ∧ i ≤ 5) then .next (s.answer (.measurements (l.map fun k => (k, s.measurement k))))
  else .next (s.answer .error)

/-- KEY_EXCHANGE: an IDE stream of a port has its key; a port has four (R457). -/
def execKeyExchange (port stream : Nat) (_point : BitVec 768) (s : State) : Out :=
  if 4 ≤ port ∨ 4 ≤ stream then .next (s.answer .error)
  else
    let k := port * 4 + stream
    let s1 : State := { s with
      draws := s.draws + 1
      io := { s.io with streams := if s.io.streams.contains k then s.io.streams else s.io.streams ++ [k] } }
    .next (s1.answer (.keyExchange stream (Config.keyPoint s.draws) (Config.signature s.draws)))

/-! ### Device interfaces (R458) -/

/-- The fields of an RCB that software writes: first byte and length; what the device writes is no change (R208). -/
def softFields : List (Nat × Nat) := [(0, 8), (8, 6), (16, 24), (56, 8), (76, 3), (80, 8), (104, 8), (144, 16)]

/-- What LOCK captures in memory: the context entry of the subtree's ASID, and the fields of its RCBs (R13, R458). -/
def State.captured (s : State) (rgn : Nat) : List (Nat × List Byte) :=
  let bytes (a n : Nat) : Nat × List Byte := (a, physRead s a n)
  let entry := ((s.rcb rgn).toList).map fun r => bytes (field s.reg.ctxbase 21 31 * 2 ^ 21 + 32 * r.asid.toNat) 32
  entry ++ ((s.subtree rgn).filterMap s.rcb).flatMap fun r => softFields.map fun f => bytes (r.addr + f.1) f.2

/-- Bytes that an interface has captured are no longer what they were: it goes to ERROR (R458). -/
def State.checkCaptured (s : State) : State :=
  s.ifaceError fun i => i.seen.any fun e => physRead s e.1 e.2.length != e.2

/-- LOCK_INTERFACE_REQUEST: an unlocked subtree with its ASID is captured. -/
def execLockInterfaceRequest (rgn : Nat) (s : State) : Out :=
  if (s.rcb rgn).isNone || s.lockedRegion rgn then .next s
  else
    let s1 := s.modRcb rgn fun r => r
    .next { s1 with io := { s1.io with ifaces := s1.io.ifaces ++ [⟨rgn, .configLocked, false, s1.captured rgn⟩] } }

/-- Changes the interface of a region. -/
def State.modIface (s : State) (rgn : Nat) (g : Iface → Iface) : State :=
  { s with io := { s.io with ifaces := s.io.ifaces.map fun i => if i.region = rgn then g i else i } }

/-- START_INTERFACE_REQUEST. -/
def execStartInterfaceRequest (rgn : Nat) (s : State) : Out :=
  .next (s.modIface rgn fun i => if i.st = .configLocked then { i with st := .run } else i)

/-- Interfaces that stop are unlocked once every fibre of their subtree is EMPTY. -/
def State.settleIfaces (s : State) : State :=
  let busy (i : Iface) : Bool := !i.stopping || s.fibres.any fun e => s.inSubtree i.region e.2.region
  { s with io := { s.io with ifaces := s.io.ifaces.filter busy } }

/-- STOP_INTERFACE_REQUEST. -/
def execStopInterfaceRequest (rgn : Nat) (s : State) : Out :=
  .next ((s.modIface rgn fun i => { i with stopping := true }).settleIfaces)

/-- A set of a core's L1 that holds more lines than it has ways (R71, R72). -/
def State.fullSet (s : State) (core : Nat) : Option (List Nat) :=
  let lines := s.mem.l1Lines core
  (lines.map (setMates lines)).find? fun l => decide (s.l1Ways core < l.length)

/-- Lines leave the sets of an L1 that hold more than their ways can, for capacity replacement (R76); which line leaves is
a free value. -/
def State.trimL1 (s : State) : Nat → State
  | 0 => s
  | n + 1 =>
    let cores := (s.mem.l1.map (fun (e : Nat × L1Line) => e.1 / 2 ^ 32) ++ s.mem.copies.map fun (e : Nat × LineCopy) => e.1 / 2 ^ 64).eraseDups
    match cores.findSome? fun c => (s.fullSet c).map fun l => (c, l) with
    | none => s
    | some (core, l) =>
      match l[Config.victim s.draws % l.length]? with
      | none => s
      | some line => State.trimL1 ((s.drew 1).lineOut core line) n

/-- Lines leave caches that are too full. -/
def State.trimCaches (s : State) : State :=
  let n := s.mem.l1.length + s.mem.copies.length
  let s1 := if n ≤ 2 then s else s.trimL1 n
  if s1.mem.homec.length ≤ 16 then s1 else s1.trimHome s1.mem.homec.length

/-- The head of each purse's queue is granted what its balance allows (R237). -/
def State.serveLeaves (s : State) : State :=
  ((s.co.leaves.map (·.cluster)).eraseDups).foldl (fun (acc : State) c => acc.serveLeave c) s

/-- The barriers of every slot: a participant that is PARKED no more counts as arrived again (R393). -/
def State.settleBarriers (s : State) : State := s.slots.foldl (fun (acc : State) e => acc.settleFbars (e.1 * 4)) s

/-- RDY and ERR of `DEVSTAT`: the device accepts commands once its firmware has been verified, and its error log holds an
entry (R456). -/
def State.status (s : State) : State :=
  (if s.fw = some true then { s with reg := { s.reg with devstat := setBit s.reg.devstat 0 } } else s).refreshErr

/-- What follows every step: a waiting DBGREAD whose item is written goes on (R431), an interface that stops is
unlocked and one whose captured bytes have changed is in ERROR (R458), batches that pre-emption closes find room (R337), launches that wait enter a table with room (R220),
the PASS of regions that have become ACTIVE, or have gained work, is raised (R228), bins ripen (R440), barriers complete
(R393), leave is granted (R237), lines and RCBs leave caches that are too full (R76, R90, R210), and DEVSTAT says how the
device stands (R456). -/
def State.serve (s : State) : State :=
  let s1 := s.serveItems.checkCaptured.settleIfaces.closeWaiting
  let s2 := (s1.retryLaunches s1.io.pending.length).wakePass
  let s3 := (s2.notePass s2.considered).trimRcbs s2.sched.rcbs.length
  s3.ripenBins.settleBarriers.serveLeaves.trimCaches.status

end Sys2Proof.Machine
end

