-- ==== Sys2Proof/Machine/Dispatch.lean ====
section
/-! DEFINITION. The meaning of every instruction: one arm per row of the opcode table. -/

namespace Sys2Proof.Machine

def exec (i : Instr) (s : State) : Host.Outcome State Fault Refusal :=
  match i with
  | .nop => Sys2Proof.Machine.execNop s
  | .exit => Sys2Proof.Machine.execExit s
  | .trap n => Sys2Proof.Machine.execTrap n s
  | .tret => Sys2Proof.Machine.execTret s
  | .bkpt => Sys2Proof.Machine.execBkpt s
  | .hcall a => Sys2Proof.Machine.execHcall a s
  | .yield => Sys2Proof.Machine.execYield s
  | .halt => Sys2Proof.Machine.execHalt s
  | .cede => Sys2Proof.Machine.execCede s
  | .mode v => Sys2Proof.Machine.execMode v s
  | .modeField f v => Sys2Proof.Machine.execModeField f v s
  | .modew a => Sys2Proof.Machine.execModew a s
  | .moder d => Sys2Proof.Machine.execModer d s
  | .fstr d => Sys2Proof.Machine.execFstr d s
  | .fstw a => Sys2Proof.Machine.execFstw a s
  | .wait l s1 c m => Sys2Proof.Machine.execWait l s1 c m s
  | .waitx a c => Sys2Proof.Machine.execWaitx a c s
  | .bra c o => Sys2Proof.Machine.execBra c o s
  | .call c o => Sys2Proof.Machine.execCall c o s
  | .ifOp p n o => Sys2Proof.Machine.execIfOp p n o s
  | .elseOp o => Sys2Proof.Machine.execElseOp o s
  | .endif => Sys2Proof.Machine.execEndif s
  | .loop o => Sys2Proof.Machine.execLoop o s
  | .breakOp p n => Sys2Proof.Machine.execBreakOp p n s
  | .lcont p n => Sys2Proof.Machine.execLcont p n s
  | .endloop p n o => Sys2Proof.Machine.execEndloop p n o s
  | .brx a => Sys2Proof.Machine.execBrx a s
  | .callx c a => Sys2Proof.Machine.execCallx c a s
  | .ret a => Sys2Proof.Machine.execRet a s
  | .add d a b => Sys2Proof.Machine.execAdd d a b s
  | .sub d a b => Sys2Proof.Machine.execSub d a b s
  | .mul d a b => Sys2Proof.Machine.execMul d a b s
  | .mulh d a b => Sys2Proof.Machine.execMulh d a b s
  | .mulhn d a b => Sys2Proof.Machine.execMulhn d a b s
  | .div d a b => Sys2Proof.Machine.execDiv d a b s
  | .divn d a b => Sys2Proof.Machine.execDivn d a b s
  | .rem d a b => Sys2Proof.Machine.execRem d a b s
  | .and d a b => Sys2Proof.Machine.execAnd d a b s
  | .or d a b => Sys2Proof.Machine.execOr d a b s
  | .xor d a b => Sys2Proof.Machine.execXor d a b s
  | .andn d a b => Sys2Proof.Machine.execAndn d a b s
  | .shl d a b => Sys2Proof.Machine.execShl d a b s
  | .shr d a b => Sys2Proof.Machine.execShr d a b s
  | .sar d a b => Sys2Proof.Machine.execSar d a b s
  | .min d a b => Sys2Proof.Machine.execMin d a b s
  | .max d a b => Sys2Proof.Machine.execMax d a b s
  | .minn d a b => Sys2Proof.Machine.execMinn d a b s
  | .maxn d a b => Sys2Proof.Machine.execMaxn d a b s
  | .cmp d a b => Sys2Proof.Machine.execCmp d a b s
  | .cmpn d a b => Sys2Proof.Machine.execCmpn d a b s
  | .clz d a => Sys2Proof.Machine.execClz d a s
  | .popc d a => Sys2Proof.Machine.execPopc d a s
  | .mov d a => Sys2Proof.Machine.execMov d a s
  | .addi d a n => Sys2Proof.Machine.execAddi d a n s
  | .andi d a n => Sys2Proof.Machine.execAndi d a n s
  | .ori d a n => Sys2Proof.Machine.execOri d a n s
  | .cmpi d a n => Sys2Proof.Machine.execCmpi d a n s
  | .movz d h n => Sys2Proof.Machine.execMovz d h n s
  | .movk d h n => Sys2Proof.Machine.execMovk d h n s
  | .movs d h n => Sys2Proof.Machine.execMovs d h n s
  | .srd d n => Sys2Proof.Machine.execSrd d n s
  | .swr a n => Sys2Proof.Machine.execSwr a n s
  | .vadd d a b s1 => Sys2Proof.Machine.execVadd d a b s1 s
  | .vsub d a b s1 => Sys2Proof.Machine.execVsub d a b s1 s
  | .vmul d a b s1 => Sys2Proof.Machine.execVmul d a b s1 s
  | .vmulh d a b s1 => Sys2Proof.Machine.execVmulh d a b s1 s
  | .vand d a b s1 => Sys2Proof.Machine.execVand d a b s1 s
  | .vor d a b s1 => Sys2Proof.Machine.execVor d a b s1 s
  | .vxor d a b s1 => Sys2Proof.Machine.execVxor d a b s1 s
  | .vandn d a b s1 => Sys2Proof.Machine.execVandn d a b s1 s
  | .vshl d a b s1 => Sys2Proof.Machine.execVshl d a b s1 s
  | .vshr d a b s1 => Sys2Proof.Machine.execVshr d a b s1 s
  | .vsar d a b s1 => Sys2Proof.Machine.execVsar d a b s1 s
  | .vrot d a b s1 => Sys2Proof.Machine.execVrot d a b s1 s
  | .vmin d a b s1 => Sys2Proof.Machine.execVmin d a b s1 s
  | .vmax d a b s1 => Sys2Proof.Machine.execVmax d a b s1 s
  | .vabsd d a b s1 => Sys2Proof.Machine.execVabsd d a b s1 s
  | .vavg d a b s1 => Sys2Proof.Machine.execVavg d a b s1 s
  | .vcmpeq d a b s1 => Sys2Proof.Machine.execVcmpeq d a b s1 s
  | .vcmpne d a b s1 => Sys2Proof.Machine.execVcmpne d a b s1 s
  | .vcmplt d a b s1 => Sys2Proof.Machine.execVcmplt d a b s1 s
  | .vcmple d a b s1 => Sys2Proof.Machine.execVcmple d a b s1 s
  | .vfadd r d a b s1 => Sys2Proof.Machine.execVfadd r d a b s1 s
  | .vfsub r d a b s1 => Sys2Proof.Machine.execVfsub r d a b s1 s
  | .vfmul r d a b s1 => Sys2Proof.Machine.execVfmul r d a b s1 s
  | .vfdiv r d a b s1 => Sys2Proof.Machine.execVfdiv r d a b s1 s
  | .vfmin d a b s1 => Sys2Proof.Machine.execVfmin d a b s1 s
  | .vfmax d a b s1 => Sys2Proof.Machine.execVfmax d a b s1 s
  | .vfminnum d a b s1 => Sys2Proof.Machine.execVfminnum d a b s1 s
  | .vfmaxnum d a b s1 => Sys2Proof.Machine.execVfmaxnum d a b s1 s
  | .vsel d a b s1 => Sys2Proof.Machine.execVsel d a b s1 s
  | .vbcast d a b => Sys2Proof.Machine.execVbcast d a b s
  | .vclamp d a b s1 => Sys2Proof.Machine.execVclamp d a b s1 s
  | .vcsign d a b s1 => Sys2Proof.Machine.execVcsign d a b s1 s
  | .vdot4 d a b s1 y x => Sys2Proof.Machine.execVdot4 d a b s1 y x s
  | .vdot8 d a b s1 y x => Sys2Proof.Machine.execVdot8 d a b s1 y x s
  | .vmov d a => Sys2Proof.Machine.execVmov d a s
  | .vneg d a => Sys2Proof.Machine.execVneg d a s
  | .vabs d a => Sys2Proof.Machine.execVabs d a s
  | .vnot d a => Sys2Proof.Machine.execVnot d a s
  | .vclz d a => Sys2Proof.Machine.execVclz d a s
  | .vpopc d a => Sys2Proof.Machine.execVpopc d a s
  | .vbrev d a => Sys2Proof.Machine.execVbrev d a s
  | .vfract d a => Sys2Proof.Machine.execVfract d a s
  | .vfloor d a => Sys2Proof.Machine.execVfloor d a s
  | .vceil d a => Sys2Proof.Machine.execVceil d a s
  | .vtrunc d a => Sys2Proof.Machine.execVtrunc d a s
  | .vrint r d a => Sys2Proof.Machine.execVrint r d a s
  | .vrcp r d a => Sys2Proof.Machine.execVrcp r d a s
  | .vrsq r d a => Sys2Proof.Machine.execVrsq r d a s
  | .vsqrt r d a => Sys2Proof.Machine.execVsqrt r d a s
  | .vexp2 r d a => Sys2Proof.Machine.execVexp2 r d a s
  | .vlog2 r d a => Sys2Proof.Machine.execVlog2 r d a s
  | .vsin r d a => Sys2Proof.Machine.execVsin r d a s
  | .vcos r d a => Sys2Proof.Machine.execVcos r d a s
  | .vtanh r d a => Sys2Proof.Machine.execVtanh r d a s
  | .vfclass d a => Sys2Proof.Machine.execVfclass d a s
  | .vlaneid d => Sys2Proof.Machine.execVlaneid d s
  | .vcvt r d a t => Sys2Proof.Machine.execVcvt r d a t s
  | .vcvts r d a t => Sys2Proof.Machine.execVcvts r d a t s
  | .vshfl d a b s1 => Sys2Proof.Machine.execVshfl d a b s1 s
  | .vshflx d a b s1 => Sys2Proof.Machine.execVshflx d a b s1 s
  | .vshflup d a b s1 => Sys2Proof.Machine.execVshflup d a b s1 s
  | .vshfldn d a b s1 => Sys2Proof.Machine.execVshfldn d a b s1 s
  | .vrsum r d a => Sys2Proof.Machine.execVrsum r d a s
  | .vrmin d a => Sys2Proof.Machine.execVrmin d a s
  | .vrmax d a => Sys2Proof.Machine.execVrmax d a s
  | .vrand d a => Sys2Proof.Machine.execVrand d a s
  | .vror d a => Sys2Proof.Machine.execVror d a s
  | .vrxor d a => Sys2Proof.Machine.execVrxor d a s
  | .vballot d a => Sys2Proof.Machine.execVballot d a s
  | .vfirst d a => Sys2Proof.Machine.execVfirst d a s
  | .vbfe d a b s1 => Sys2Proof.Machine.execVbfe d a b s1 s
  | .vbfi d a b s1 => Sys2Proof.Machine.execVbfi d a b s1 s
  | .vperm d a b s1 => Sys2Proof.Machine.execVperm d a b s1 s
  | .vfunnel d a b s1 => Sys2Proof.Machine.execVfunnel d a b s1 s
  | .pand d a b => Sys2Proof.Machine.execPand d a b s
  | .por d a b => Sys2Proof.Machine.execPor d a b s
  | .pxor d a b => Sys2Proof.Machine.execPxor d a b s
  | .pandn d a b => Sys2Proof.Machine.execPandn d a b s
  | .pnot d a => Sys2Proof.Machine.execPnot d a s
  | .pmovs d a => Sys2Proof.Machine.execPmovs d a s
  | .smovp d a => Sys2Proof.Machine.execSmovp d a s
  | .pset d => Sys2Proof.Machine.execPset d s
  | .pclr d => Sys2Proof.Machine.execPclr d s
  | .rand32 d a b s1 => Sys2Proof.Machine.execRand32 d a b s1 s
  | .randf d a b s1 => Sys2Proof.Machine.execRandf d a b s1 s
  | .ld d a n p x z => Sys2Proof.Machine.execLd d a n p x z s
  | .st d a n p z => Sys2Proof.Machine.execSt d a n p z s
  | .sld d a o => Sys2Proof.Machine.execSld d a o s
  | .sst d a o => Sys2Proof.Machine.execSst d a o s
  | .ldt d a t => Sys2Proof.Machine.execLdt d a t s
  | .stt d a t => Sys2Proof.Machine.execStt d a t s
  | .atom d a n w r o => Sys2Proof.Machine.execAtom d a n w r o s
  | .satom d a b w r o => Sys2Proof.Machine.execSatom d a b w r o s
  | .fenceAcq s1 => Sys2Proof.Machine.execFenceAcq s1 s
  | .fenceRel s1 => Sys2Proof.Machine.execFenceRel s1 s
  | .fenceAr s1 => Sys2Proof.Machine.execFenceAr s1 s
  | .fenceSc s1 => Sys2Proof.Machine.execFenceSc s1 s
  | .fenceTx s1 => Sys2Proof.Machine.execFenceTx s1 s
  | .ldacq d a n p x z => Sys2Proof.Machine.execLdacq d a n p x z s
  | .strel d a n p z => Sys2Proof.Machine.execStrel d a n p z s
  | .cpstep n => Sys2Proof.Machine.execCpstep n s
  | .cpissue a => Sys2Proof.Machine.execCpissue a s
  | .hwaitf h => Sys2Proof.Machine.execHwaitf h s
  | .hwaite h => Sys2Proof.Machine.execHwaite h s
  | .hrel h => Sys2Proof.Machine.execHrel h s
  | .hrelPub h => Sys2Proof.Machine.execHrelPub h s
  | .hquery a h => Sys2Proof.Machine.execHquery a h s
  | .mma a b t y x => Sys2Proof.Machine.execMma a b t y x s
  | .mmaz a b t y x => Sys2Proof.Machine.execMmaz a b t y x s
  | .mmat a b z t => Sys2Proof.Machine.execMmat a b z t s
  | .mfence a => Sys2Proof.Machine.execMfence a s
  | .mwait a => Sys2Proof.Machine.execMwait a s
  | .mzero t => Sys2Proof.Machine.execMzero t s
  | .mdrain a p t => Sys2Proof.Machine.execMdrain a p t s
  | .mdraina a p t => Sys2Proof.Machine.execMdraina a p t s
  | .mload a t => Sys2Proof.Machine.execMload a t s
  | .mread a d => Sys2Proof.Machine.execMread a d s
  | .mwrite a v => Sys2Proof.Machine.execMwrite a v s
  | .rquery a n x => Sys2Proof.Machine.execRquery a n x s
  | .bquery a b => Sys2Proof.Machine.execBquery a b s
  | .cquery a n x => Sys2Proof.Machine.execCquery a n x s
  | .rcommit n => Sys2Proof.Machine.execRcommit n s
  | .rresume n => Sys2Proof.Machine.execRresume n s
  | .rstat a n => Sys2Proof.Machine.execRstat a n s
  | .texs a x => Sys2Proof.Machine.execTexs a x s
  | .texd a x => Sys2Proof.Machine.execTexd a x s
  | .texc a x => Sys2Proof.Machine.execTexc a x s
  | .texl a x => Sys2Proof.Machine.execTexl a x s
  | .texg a c x => Sys2Proof.Machine.execTexg a c x s
  | .rastt a x => Sys2Proof.Machine.execRastt a x s
  | .rframe a b => Sys2Proof.Machine.execRframe a b s
  | .rtestAcc x => Sys2Proof.Machine.execRtestAcc x s
  | .rtestRej x => Sys2Proof.Machine.execRtestRej x s
  | .rclear a => Sys2Proof.Machine.execRclear a s
  | .fbar b => Sys2Proof.Machine.execFbar b s
  | .farrive b => Sys2Proof.Machine.execFarrive b s
  | .fwaitb b => Sys2Proof.Machine.execFwaitb b s
  | .window a => Sys2Proof.Machine.execWindow a s
  | .nbinit n c => Sys2Proof.Machine.execNbinit n c s
  | .nbarrive n => Sys2Proof.Machine.execNbarrive n s
  | .nbwait n => Sys2Proof.Machine.execNbwait n s
  | .nbsync n => Sys2Proof.Machine.execNbsync n s
  | .cont a x => Sys2Proof.Machine.execCont a x s
  | .retire => Sys2Proof.Machine.execRetire s
  | .enq a => Sys2Proof.Machine.execEnq a s
  | .launch a b => Sys2Proof.Machine.execLaunch a b s
  | .solicit a n => Sys2Proof.Machine.execSolicit a n s
  | .reply x => Sys2Proof.Machine.execReply x s
  | .cwait a n => Sys2Proof.Machine.execCwait a n s
  | .cread a n => Sys2Proof.Machine.execCread a n s
  | .treg a b d => Sys2Proof.Machine.execTreg a b d s
  | .tdrop a => Sys2Proof.Machine.execTdrop a s
  | .tmove a b d => Sys2Proof.Machine.execTmove a b d s
  | .crdecl a b => Sys2Proof.Machine.execCrdecl a b s
  | .cradd a v => Sys2Proof.Machine.execCradd a v s
  | .crclose a => Sys2Proof.Machine.execCrclose a s
  | .tlbinv a b => Sys2Proof.Machine.execTlbinv a b s
  | .region d a b => Sys2Proof.Machine.execRegion d a b s
  | .bankcfg d a => Sys2Proof.Machine.execBankcfg d a s
  | .leave d a => Sys2Proof.Machine.execLeave d a s
  | .errlog d a b => Sys2Proof.Machine.execErrlog d a b s
  | .tagset a b => Sys2Proof.Machine.execTagset a b s
  | .tagget d a => Sys2Proof.Machine.execTagget d a s
  | .vfma d a b c => Sys2Proof.Machine.execVfma d a b c s
  | .launchCommand q tag addr => Sys2Proof.Machine.execLaunchCommand q tag addr s
  | .tlbinvCommand q tag va ctl => Sys2Proof.Machine.execTlbinvCommand q tag va ctl s
  | .bankcfgCommand q tag cluster cfg => Sys2Proof.Machine.execBankcfgCommand q tag cluster cfg s
  | .vpin q tag addr len => Sys2Proof.Machine.execVpin q tag addr len s
  | .vunpin q tag addr len => Sys2Proof.Machine.execVunpin q tag addr len s
  | .vflush q tag addr len => Sys2Proof.Machine.execVflush q tag addr len s
  | .vdrop q tag addr len => Sys2Proof.Machine.execVdrop q tag addr len s
  | .fresumeReplay q tag loc frame => Sys2Proof.Machine.execFresumeReplay q tag loc frame s
  | .fresumeError q tag loc frame => Sys2Proof.Machine.execFresumeError q tag loc frame s
  | .fresumeKill q tag loc frame => Sys2Proof.Machine.execFresumeKill q tag loc frame s
  | .preemptSave q tag rgn area => Sys2Proof.Machine.execPreemptSave q tag rgn area s
  | .preemptDiscard q tag rgn area => Sys2Proof.Machine.execPreemptDiscard q tag rgn area s
  | .restore q tag area => Sys2Proof.Machine.execRestore q tag area s
  | .savesize q tag rgn => Sys2Proof.Machine.execSavesize q tag rgn s
  | .rgnop q tag a b => Sys2Proof.Machine.execRgnop q tag a b s
  | .rgnread q tag rgn dst => Sys2Proof.Machine.execRgnread q tag rgn dst s
  | .rplread q tag loc frame dst => Sys2Proof.Machine.execRplread q tag loc frame dst s
  | .dirread q tag core dst => Sys2Proof.Machine.execDirread q tag core dst s
  | .dbgattach q tag rgn => Sys2Proof.Machine.execDbgattach q tag rgn s
  | .dbgdetach q tag rgn => Sys2Proof.Machine.execDbgdetach q tag rgn s
  | .dbgstop q tag kind target => Sys2Proof.Machine.execDbgstop q tag kind target s
  | .dbgrun q tag kind target => Sys2Proof.Machine.execDbgrun q tag kind target s
  | .dbgstep q tag loc count => Sys2Proof.Machine.execDbgstep q tag loc count s
  | .dbgread q tag loc item index host => Sys2Proof.Machine.execDbgread q tag loc item index host s
  | .dbgwrite q tag loc item index host => Sys2Proof.Machine.execDbgwrite q tag loc item index host s
  | .dbgbp q tag index enable asid pc => Sys2Proof.Machine.execDbgbp q tag index enable asid pc s
  | .dbgwp q tag index enable asid log2 kinds va => Sys2Proof.Machine.execDbgwp q tag index enable asid log2 kinds va s
  | .errdrain q tag dst most => Sys2Proof.Machine.execErrdrain q tag dst most s
  | .malformedCommand q tag => Sys2Proof.Machine.execMalformedCommand q tag s
  | .sqtailDoorbell q v => Sys2Proof.Machine.execSqtailDoorbell q v s
  | .ctxbaseWrite v => Sys2Proof.Machine.execCtxbaseWrite v s
  | .registerWrite off bytes v => Sys2Proof.Machine.execRegisterWrite off bytes v s
  | .coldReset failed => Sys2Proof.Machine.execColdReset failed s
  | .functionLevelReset => Sys2Proof.Machine.execFunctionLevelReset s
  | .coreReset core => Sys2Proof.Machine.execCoreReset core s
  | .corePowerGate core => Sys2Proof.Machine.execCorePowerGate core s
  | .bisnpinv addr => Sys2Proof.Machine.execBisnpinv addr s
  | .bisnpdata addr => Sys2Proof.Machine.execBisnpdata addr s
  | .bisnpcur addr => Sys2Proof.Machine.execBisnpcur addr s
  | .h2dSnoop addr => Sys2Proof.Machine.execH2dSnoop addr s
  | .hdmAccess agent kind addr data => Sys2Proof.Machine.execHdmAccess agent kind addr data s
  | .atsInvalidationRequest base len => Sys2Proof.Machine.execAtsInvalidationRequest base len s
  | .atsCompletion asid page host log2 read write fail => Sys2Proof.Machine.execAtsCompletion asid page host log2 read write fail s
  | .ideFailure port carried => Sys2Proof.Machine.execIdeFailure port carried s
  | .thermalLimit allow => Sys2Proof.Machine.execThermalLimit allow s
  | .thermalTrip => Sys2Proof.Machine.execThermalTrip s
  | .getVersion => Sys2Proof.Machine.execGetVersion s
  | .getCapabilities => Sys2Proof.Machine.execGetCapabilities s
  | .negotiateAlgorithms ecdsaP384 sha384 => Sys2Proof.Machine.execNegotiateAlgorithms ecdsaP384 sha384 s
  | .getDigests => Sys2Proof.Machine.execGetDigests s
  | .getCertificate offset length => Sys2Proof.Machine.execGetCertificate offset length s
  | .challenge nonce => Sys2Proof.Machine.execChallenge nonce s
  | .getMeasurements index => Sys2Proof.Machine.execGetMeasurements index s
  | .keyExchange port stream point => Sys2Proof.Machine.execKeyExchange port stream point s
  | .lockInterfaceRequest rgn => Sys2Proof.Machine.execLockInterfaceRequest rgn s
  | .startInterfaceRequest rgn => Sys2Proof.Machine.execStartInterfaceRequest rgn s
  | .stopInterfaceRequest rgn => Sys2Proof.Machine.execStopInterfaceRequest rgn s
  | .correctableError what place addr => Sys2Proof.Machine.execCorrectableError what place addr s
  | .uncorrectableError what place addr => Sys2Proof.Machine.execUncorrectableError what place addr s
  | .vaultUncorrectableError addr => Sys2Proof.Machine.execVaultUncorrectableError addr s
  | .purseRefill cluster => Sys2Proof.Machine.execPurseRefill cluster s
  | .migrationIssue id => Sys2Proof.Machine.execMigrationIssue id s
  | .sweepRetry die => Sys2Proof.Machine.execSweepRetry die s
  | .backgroundWriteback die => Sys2Proof.Machine.execBackgroundWriteback die s
  | .granuleFilled frame => Sys2Proof.Machine.execGranuleFilled frame s
  | .writebackDone frame => Sys2Proof.Machine.execWritebackDone frame s
  | .evictionComplete frame => Sys2Proof.Machine.execEvictionComplete frame s
  | .ownershipGranted addr => Sys2Proof.Machine.execOwnershipGranted addr s
  | .pageWalk core asid va => Sys2Proof.Machine.execPageWalk core asid va s
  | .lsuComplete id => Sys2Proof.Machine.execLsuComplete id s
  | .msixCoalescedSend vector => Sys2Proof.Machine.execMsixCoalescedSend vector s
  | .faultReportDelivery => Sys2Proof.Machine.execFaultReportDelivery s
  | .hcallRingDelivery => Sys2Proof.Machine.execHcallRingDelivery s
  | .recordReplay loc frame => Sys2Proof.Machine.execRecordReplay loc frame s
  | .drain core => Sys2Proof.Machine.execDrain core s
  | .dirtyLineWriteback core line => Sys2Proof.Machine.execDirtyLineWriteback core line s
  | .mergeWindowClose cluster line asid => Sys2Proof.Machine.execMergeWindowClose cluster line asid s
  | .tenureSwitch slot => Sys2Proof.Machine.execTenureSwitch slot s
  | .budgetExhausted rgn => Sys2Proof.Machine.execBudgetExhausted rgn s
  | .placement => Sys2Proof.Machine.execPlacement s
  | .taskTake core => Sys2Proof.Machine.execTaskTake core s
  | .tellerRecordArrival core => Sys2Proof.Machine.execTellerRecordArrival core s
  | .overflowReturn rgn => Sys2Proof.Machine.execOverflowReturn rgn s
  | .binRipen core bin => Sys2Proof.Machine.execBinRipen core bin s
  | .tellerPlacement core => Sys2Proof.Machine.execTellerPlacement core s
  | .fibreEmpty loc => Sys2Proof.Machine.execFibreEmpty loc s
  | .launchRetire id => Sys2Proof.Machine.execLaunchRetire id s
  | .contextSave rgn => Sys2Proof.Machine.execContextSave rgn s
  | .bankSwitch cluster bank => Sys2Proof.Machine.execBankSwitch cluster bank s
  | .batchMigration id engine => Sys2Proof.Machine.execBatchMigration id engine s
  | .copyEntryStart group => Sys2Proof.Machine.execCopyEntryStart group s
  | .cpissueStart id => Sys2Proof.Machine.execCpissueStart id s
  | .transferComplete id => Sys2Proof.Machine.execTransferComplete id s
  | .matrixCommandStart id => Sys2Proof.Machine.execMatrixCommandStart id s
  | .matrixCommandComplete id => Sys2Proof.Machine.execMatrixCommandComplete id s
  | .nodeVisit id lane => Sys2Proof.Machine.execNodeVisit id lane s
  | .sampleComplete id => Sys2Proof.Machine.execSampleComplete id s
  | .rastComplete id => Sys2Proof.Machine.execRastComplete id s
  | .frameEvent id => Sys2Proof.Machine.execFrameEvent id s
  | .censusBroadcast id => Sys2Proof.Machine.execCensusBroadcast id s
  | .censusSweep serial core => Sys2Proof.Machine.execCensusSweep serial core s
  | .tmoveInsert id => Sys2Proof.Machine.execTmoveInsert id s
  | .switch id target => Sys2Proof.Machine.execSwitch id target s
  | .censusComplete serial => Sys2Proof.Machine.execCensusComplete serial s
  | .dbgreadTimeout q => Sys2Proof.Machine.execDbgreadTimeout q s
  | .linkTrained port => Sys2Proof.Machine.execLinkTrained port s
  | .hostBirsp id => Sys2Proof.Machine.execHostBirsp id s
  | .corePowerUp core => Sys2Proof.Machine.execCorePowerUp core s
  | .allowanceSet allow temp draw throttle => Sys2Proof.Machine.execAllowanceSet allow temp draw throttle s

end Sys2Proof.Machine
end

