-- ==== Sys2Proof/Machine/Idle.lean ====
section
/-! DEFINITION. The device's own order of moves where no script names one. The specification orders its agents only
where its rules say so; this order is one of those that they allow, and a script gives any other: DESIGN CHOICE, log 8. -/

namespace Sys2Proof.Machine

/-- Moves of an operation by what it is. -/
def opMoves (id : Nat) (o : Op) : List (State → Out) :=
  match o.body with
  | .copy _ _ _ _ _ _ => [execCpissueStart id, execTransferComplete id]
  | .schedRead _ => []
  | .matrix _ => [execMatrixCommandStart id, execMatrixCommandComplete id]
  | .ray _ => (List.range 32).map fun lane => execNodeVisit id lane
  | .beam _ => [execNodeVisit id 0]
  | .tex _ => [execSampleComplete id]
  | .rast _ => [execRastComplete id]
  | .frame _ _ _ _ => [execFrameEvent id]
  | .solicit _ | .tell _ _ _ => []
  | _ => [execLsuComplete id]

/-- Moves of the compute dies. -/
def State.dieMoves (s : State) : List (State → Out) :=
  let cores := List.range Config.cores
  let ranges := s.mem.switches.map fun w => execBankSwitch (w.bank / 32) (w.bank % 32)
  (s.mem.drains.map fun k => execDrain k.core)
    ++ (s.eng.ops.flatMap fun e => opMoves e.1 e.2)
    ++ (s.eng.recs.map fun e => execRecordReplay (e.1 / 4) (e.1 % 4))
    ++ (s.mem.frames.filterMap fun e =>
      match e.2.st with
      | .filling => some (execGranuleFilled e.1)
      | .cleaning => some (execWritebackDone e.1)
      | .evicting => some (execEvictionComplete e.1)
      | _ => none)
    ++ (s.clr.owns.map fun o => execOwnershipGranted (o.block * 64))
    ++ ranges
    ++ (s.groups.map fun e => execCopyEntryStart e.1)
    ++ ((s.fibres.filter fun e => e.2.st = .exiting).map fun e => execFibreEmpty e.1)
    ++ (s.co.moves.flatMap fun m => [execTmoveInsert m.op, execSwitch m.op false, execSwitch m.op true])
    ++ (s.co.censuses.flatMap fun c =>
      match c.serial with
      | none => [execCensusBroadcast c.id]
      | some n => (cores.map fun k => execCensusSweep n k) ++ [execCensusComplete n])
    ++ (s.sched.tellIn.map fun t => execTellerRecordArrival t.core)
    ++ (s.co.overflow.map fun m => execOverflowReturn m.region)
    ++ ((s.sched.bins.filter fun b => b.ripe).map fun b => execTellerPlacement b.core)

/-- Moves of the IOD. -/
def State.iodMoves (s : State) : List (State → Out) :=
  (s.clr.migs.map fun g => execMigrationIssue g.id)
    ++ (s.io.pending.filterMap fun p =>
      match p.what with
      | .save g _ => some (execContextSave g)
      | _ => none)
    ++ [execHcallRingDelivery, execFaultReportDelivery]
    ++ (s.sched.launches.map fun e => execLaunchRetire e.1)
    ++ (s.sched.rcbs.map fun e => execBudgetExhausted e.1)
    ++ ((s.co.leaves.map fun r => r.cluster).map fun c => execPurseRefill c)
    ++ [execPlacement]

/-- What comes last: slots whose holder's tenure ends, bins whose window of time ends, and interrupts held
back. -/
def State.lateMoves (s : State) : List (State → Out) :=
  let dies := (s.slots.map fun e => execTenureSwitch e.1) ++
    (s.sched.bins.filter fun b => !b.ripe).map fun b => execBinRipen b.core 0
  (if s.tripped then [] else dies) ++ s.io.msixOpen.map execMsixCoalescedSend

/-- The first move that changes the machine. -/
def firstChange (s : State) : List (State → Out) → Option Out
  | [] => none
  | m :: rest =>
    match m s with
    | .next t => if t = s then firstChange s rest else some (.next t)
    | o => some o

/-- Events of the compute dies, whose clocks may stand still (R459). -/
def onDies : Instr → Bool
  | .lsuComplete _ | .recordReplay _ _ | .drain _ | .dirtyLineWriteback _ _ | .mergeWindowClose _ _ _ => true
  | .tenureSwitch _ | .taskTake _ | .tellerRecordArrival _ | .overflowReturn _ | .binRipen _ _ | .tellerPlacement _ => true
  | .fibreEmpty _ | .bankSwitch _ _ | .batchMigration _ _ | .copyEntryStart _ | .cpissueStart _ => true
  | .transferComplete _ | .matrixCommandStart _ | .matrixCommandComplete _ | .nodeVisit _ _ => true
  | .sampleComplete _ | .rastComplete _ | .frameEvent _ | .censusSweep _ _ | .tmoveInsert _ | .switch _ _ => true
  | .pageWalk _ _ _ | .granuleFilled _ | .writebackDone _ | .evictionComplete _ | .ownershipGranted _ => true
  | .sweepRetry _ | .backgroundWriteback _ => true
  | _ => false

end Sys2Proof.Machine
end

