-- ==== Sys2Proof/Machine/Step.lean ====
section
/-! DEFINITION. One step of the machine: the turn that the script names, or with no script the
device's own next move. A slot's turn fetches, decodes and executes one instruction of its fibre; a
queue's turn starts the queue's next command; an event happens as `exec` says. -/

namespace Sys2Proof.Machine

/-- What follows an instruction of a fibre: the debugger counts the step (R432). -/
def settle (f : Fibre) (loc : Nat) : Out → Out
  | .next t => .next (t.afterIssue f loc)
  | .fault r => .fault r
  | .refused r => .refused r

/-- A word that is no instruction raises ILL with the number of the failed check (R251). -/
def illWord (check : Nat) (s : State) : Out := .next (s.takeTrap (illTrap check))

/-- Executes an instruction, unless the queue of its unit or the miss table is full: then it cannot issue (R35,
R194). -/
def issueInstr (i : Instr) (s : State) : Out := if s.unitFull i then .next s.stall else exec i s

/-- Executes the word of the fibre in issue, `w` at its program counter; the word after a CEDE is
decoded with it (R244, R252). -/
def issueWord (s : State) (f : Fibre) (w : Word) : Out :=
  let s0 := { s with iword := w }
  match decode w with
  | .error c => illWord c.number s0
  | .ok i =>
    if i = .cede then
      match s0.fetch f (f.pc + 4) with
      | .none s1 => .next s1
      | .word w1 s1 =>
        let s2 := { s1 with iword := w1 }.modFibre s1.cur fun g => { g with cede := true }
        match decode w1 with
        | .error c => illWord c.number s2
        | .ok j => if j = .cede then illWord 4 s2 else issueInstr j s2
    else issueInstr i s0

/-- A slot's turn: its fibre issues one instruction, or stops for the debugger, or parks on its
fetch. A slot without a CURRENT fibre spends the clock on the switch (R193, R234); one with nothing to issue leaves the
machine unchanged. -/
def stepSlot (s : State) (slot : Nat) : Out :=
  match s.chosen slot with
  | none => .next s
  | some loc =>
    let s1 := s.select loc
    if (s.holder slot).isNone then .next s1
    else match s1.fibre loc with
    | none => .next s
    | some f =>
      if s1.breaksAt f then .next (s1.modFibre loc Fibre.stop)
      else match s1.fetch f f.pc with
        | .none s2 => settle f loc (.next s2)
        | .word w s2 => settle f loc (issueWord s2 f w)

/-! ### The choice of a quadrant (R234) -/

/-- The fibre that a slot gave its issue to has issued in a turn, or trapped or parked. -/
def State.wentOn (s t : State) (loc : Nat) : Bool :=
  match s.fibre loc, t.fibre loc with
  | some f, some g => g.movedOn f
  | _, _ => true

/-- What a turn of a slot makes is an instruction that issues or a switch, no mere stall. -/
def State.issues (s : State) (slot : Nat) : Out → Bool
  | .next t => (s.chosen slot).any fun loc => (s.holder slot).isNone || s.wentOn t loc
  | _ => true

/-- A slot is a candidate of its quadrant: its CURRENT fibre can issue, or it has none and a READY one. -/
def State.candidate (s : State) (slot : Nat) : Bool := s.issues slot (stepSlot s slot)

/-- PRIO of the region whose fibre a slot issues next. -/
def State.slotPrio (s : State) (slot : Nat) : Nat :=
  ((s.chosen slot).bind s.fibre).elim 0 fun f => s.prio f.region

/-- What a quadrant keeps, by its number core × 4 + quadrant. -/
def State.quad (s : State) (n : Nat) : Quad := Sparse.get Quad.reset s.quads n

/-- A quadrant prefers one slot to another: by PRIO, then in rotation after the slot it last chose; on every 16th clock
of its own count, which counts the clocks in which it issues (DEDUCED, log 94), by rotation alone. -/
def State.prefers (s : State) (k n : Nat) : Bool :=
  let q := s.quad (n / 8)
  let place (x : Nat) : Nat := (x % 8 + 7 - q.last) % 8
  if q.count = 15 then decide (place k < place n)
  else decide (s.slotPrio n < s.slotPrio k) || (s.slotPrio n == s.slotPrio k && decide (place k < place n))

/-- The clock is another candidate's of the quadrant. -/
def State.outranked (s : State) (n : Nat) : Bool :=
  ((List.range 8).map fun i => n / 8 * 8 + i).any fun k => k != n && s.prefers k n && s.candidate k

/-- The quadrant has chosen a slot. -/
def State.choseSlot (s : State) (n : Nat) : State :=
  { s with quads := Sparse.set Quad.reset s.quads (n / 8) ⟨n % 8, ((s.quad (n / 8)).count + 1) % 16⟩ }

/-- A slot's turn in its quadrant: an instruction issues, or a switch is made, only where no other candidate takes the
clock. -/
def quadTurn (s : State) (n : Nat) : Out :=
  let out := stepSlot s n
  if !s.issues n out then out
  else if s.outranked n then .next s
  else match out with
    | .next t => .next (t.choseSlot n)
    | r => r

/-- A queue's turn: it reads its next command and the command executes (R449, R451). -/
def stepQueue (s : State) (q : Nat) : Out :=
  match s.nextCommand q with
  | none => .next s
  | some b =>
    let s1 := s.takeCommand q b
    match decodeErrdrain b with
    | some (dst, most) => execErrdrain q (BitVec.ofNat 32 (cmdNat b 4 4)) dst most s1
    | none =>
      match decodeCommand q b with
      | some i => exec i s1
      | none => execMalformedCommand q (BitVec.ofNat 32 (cmdNat b 4 4)) s1

/-- The events of the script are those that carry no word. -/
def isEvent (i : Instr) : Bool := (encodeNat i).isNone

/-- Runs a turn. Events of the compute dies do not happen while their clocks stand still (R459). -/
def runTurn (s : State) : Turn → Out
  | .slot n => quadTurn s n
  | .queue q => stepQueue s q
  | .event i => if isEvent i && !(s.tripped && onDies i) then exec i s else .next s

/-- With an empty script the machine's own moves come first, then the host's queues, then the slots. -/
def idleTurn (s : State) : Out :=
  let dies := if s.tripped then [] else s.dieMoves
  let queues := (List.range 16).map fun q (t : State) => stepQueue t q
  let slots := (s.slots.map (·.1)).map fun n (t : State) => quadTurn t n
  (firstChange s (dies ++ s.iodMoves ++ queues ++ slots ++ s.lateMoves)).getD (.next s)

/-- What follows every turn: see `State.serve`. -/
def serveTurn : Out → Out
  | .next t => .next t.serve
  | .fault r => .fault r
  | .refused r => .refused r

/-- One step. -/
def step (s : State) : Out :=
  match s.turns with
  | t :: rest => serveTurn (runTurn { s with turns := rest } t)
  | [] => serveTurn (idleTurn s)

/-! ### Placing one instruction to be fetched next -/

/-- The group of the fibre that `withFetchWord` places. -/
def Group.start : Group :=
  { kind := .task, gid := 0, lin := 0, core := 0, launch := 0, region := 0, asid := 0
    members := [0], scrBase := 0, scrLen := 0, scratch := [], nbar := [], stage := 0, cursor := 0, handles := []
    sched := none, schedOp := none, stageLeaves := [], steps := [], cens := [], succ := 0, record := [], queue := 0
    recs := [], relaunched := false }

/-- A privileged region without ancestors, as a launch needs one (R208). -/
def Rcb.start : Rcb := { parseRcb 0 [] with priv := true }

/-- The state with the instruction word `w` stored where the next step fetches: a fibre at its
starting state (R201) CURRENT in slot 0, the word and a NOP behind it in its core's instruction
cache (R245), and slot 0 to move next, the first in its quadrant's rotation (R234). Every row of the table has one 32-bit word. -/
def State.withFetchWord (s : State) (_nbits w : Nat) : State :=
  { s with
    tripped := false
    gated := s.gated.filter fun c => c ≠ 0
    fibres := Sparse.put ((s.fibres.filter fun e => !decide (e.1 < 4))) 0 { Fibre.start 0x10000 with st := .current }
    slots := Sparse.put s.slots 0 { Slot.empty with q := 128, regs := 128, tiles := 8
                                                    fbar := [(0, ⟨1, 0⟩), (1, ⟨1, 0⟩), (2, ⟨1, 0⟩), (3, ⟨1, 0⟩)] }
    quads := Sparse.set Quad.reset s.quads 0 ⟨7, 15⟩
    groups := Sparse.put s.groups 0 Group.start
    sched := { s.sched with rcbs := Sparse.put s.sched.rcbs 0 Rcb.start }
    mem := { s.mem with icache :=
      ⟨0, 0, 0x10000, BitVec.ofNat 32 (bytesWord (wordBytes w)), true⟩ :: ⟨0, 0, 0x10004, 0, true⟩ ::
        s.mem.icache }
    io := { s.io with bps := [] }
    turns := .slot 0 :: s.turns }

end Sys2Proof.Machine
end

