-- ==== Sys2Proof/Safety.lean ====
section
/-! DEFINITION. What counts as a safe run, and the words in which the statements speak: the fibre that
issues, the scoreboard, the ways in which an instruction ends, canonical memories. -/

namespace Sys2Proof.Machine

/-- A step that answers a next state. -/
def Proceeds (s : State) : Prop := ∃ t, step s = .next t

/-- What a turn of a slot whose own part comes to `out` answers: where an instruction issues, the clock is this
slot's only if no other candidate of its quadrant takes it, and the quadrant then keeps the choice (R234); the
commands that wait follow. -/
def slotTurned (s : State) (slot : Nat) (out : Out) : Out :=
  serveTurn (if s.issues slot out then
    if s.outranked slot then .next s
    else match out with
      | .next t => .next (t.choseSlot slot)
      | r => r
  else out)

/-! ### The fibre in issue -/

/-- `f` is the fibre in issue. -/
def Issues (s : State) (f : Fibre) : Prop := s.fibre s.cur = some f

/-- None of the listed registers has a pending write (R200). -/
def Settled (s : State) (l : List Res) : Prop := s.busy s.cur l = false

/-- The instruction has issued: the fibre in issue is `g` and goes on behind it, and nothing else has changed
but the clocks of its regions. -/
def became (s : State) (g : Fibre) : Out := .next (s.setFibre s.cur g).retire

/-- As `became`, with the fibre going on at an address. -/
def wentTo (s : State) (g : Fibre) (pc : BitVec 48) : Out := .next ((s.setFibre s.cur g).retireTo pc)

/-- As `became`, but a fibre whose mask has become empty goes on at `away` (R275). -/
def follows (s : State) (g : Fibre) (away : BitVec 48) : Out := if g.exec = 0 then wentTo s g away else became s g

/-- An instruction of the fibre in issue whose scalar registers `regs` are settled turns the fibre `f` into
`g f` and goes on behind itself. -/
def Turns (i : Instr) (regs : List Nat) (g : Fibre → Fibre) : Prop :=
  ∀ s f, Issues s f → Settled s (resS s.cur regs) → exec i s = became s (g f)

/-- The instruction writes s[d] with a function of the fibre as it stood, and changes nothing else. -/
def SetsS (i : Instr) (regs : List Nat) (d : Nat) (g : Fibre → Dword) : Prop := Turns i regs fun f => f.setS d (g f)

/-- The instruction writes s[d] with a function of s[a] and s[b], both read before. -/
def Combines (i : Instr) (d a b : BitVec 6) (g : Dword → Dword → Dword) : Prop :=
  SetsS i [d.toNat, a.toNat, b.toNat] d.toNat fun f => g (f.s a.toNat) (f.s b.toNat)

/-- The instruction writes the active lanes of p[d] with a function of the fibre as it stood, and keeps the other
lanes. -/
def SetsP (i : Instr) (regs : List Nat) (d : Nat) (g : Fibre → Word) : Prop :=
  Turns i regs fun f => f.setP d ((g f &&& f.active) ||| (f.p d &&& ~~~f.active))

/-- −1, 0 or +1 from the outcomes of a compare. -/
def orderCode (less eq : Bool) : Dword := if less then -1 else if eq then 0 else 1

/-- The condition flags of two operands: Z equal, L signed less, C unsigned less, from bit 0 up (R269). -/
def orderFlags (x y : Dword) : BitVec 3 := BitVec.ofBool (x.ult y) ++ BitVec.ofBool (x.slt y) ++ BitVec.ofBool (x == y)

/-- An instruction of the fibre in issue raises a trap under a condition on the fibre: no effect of its own,
the trap is taken. -/
def Traps (i : Instr) (regs : List Nat) (p : Fibre → Prop) (t : Trap) : Prop :=
  ∀ s f, Issues s f → Settled s (resS s.cur regs) → p f → exec i s = .next (s.takeTrap t)

/-- An instruction of the fibre in issue cannot issue while one of its scalar registers has a pending write. -/
def Waits (i : Instr) (regs : List Nat) : Prop :=
  ∀ s f, Issues s f → s.busy s.cur (resS s.cur regs) = true → exec i s = .next s.stall

/-- The fibre as a call leaves it when the ring has room: the frame base is `c` units higher, the registers that the
new frame brings in are zero, LR holds the link value, and nothing else has changed (R198, R271). -/
def Called (f : Fibre) (c : Nat) (g : Fibre) : Prop :=
  g.wdesc = mkWdesc (wSpill f.wdesc) (wDepth f.wdesc + c) (wRing f.wdesc) (wShbase f.wdesc) (wFsz f.wdesc) ∧
  g.lr = BitVec.ofNat 64 (f.nextPc.toNat + c * 2 ^ 48) ∧
  (∀ p, Sparse.getZ g.ring p = if p ∈ newPos f.wdesc c then 0 else Sparse.getZ f.ring p) ∧
  ({ g with wdesc := f.wdesc, lr := f.lr, ring := f.ring } : Fibre) = f

/-! ### Lanes -/

/-- A lane-acting instruction of the fibre in issue may execute: its vector fields name registers (R247), and no
register that it reads or writes has a pending write (R200). -/
def LanesReady (s : State) (f : Fibre) (pair : Bool) (regs : List Nat) (b : Option (BitVec 7 × BitVec 1)) : Prop :=
  Issues s f ∧ pairBad pair (vecFields regs b) = false ∧ Settled s (vecRes s f pair regs b)

/-- The values and flags that a function gives the lanes. -/
def laneResults (lanes : List Nat) (g : Nat → Nat × Nat) : List (Nat × Nat × Nat) := lanes.map fun i => (i, g i)

/-- None of the flags that the lanes raise has its trap enable set (R120). -/
def Untrapped (f : Fibre) (lanes : List Nat) (g : Nat → Nat × Nat) : Prop :=
  enabledFlags f.mode (laneFlags (laneResults lanes g)) = 0

/-- A lane-acting instruction has issued: each listed lane `i` of v[d], or of the pair from v[d] on, holds the value
of `g i`, and FSTAT has the flags of all lanes ored in. -/
def lanesBecame (s : State) (pair : Bool) (d : Nat) (lanes : List Nat) (g : Nat → Nat × Nat) : Out :=
  .next (((s.writeLanes d pair (lanes.map fun i => (i, (g i).1))).modFibre s.cur
    fun h => h.addFlags (laneFlags (laneResults lanes g))).drew 256).retire

/-- The lanes of an instruction whose class and type `t` are fixed take, element by element, a function of the
elements of A and B; no flag. -/
def intLanes (s : State) (f : Fibre) (t : Fmt) (a b : BitVec 7) (bs : BitVec 1) (g : Nat → Nat → Nat) :
    Nat → Nat × Nat := fun l =>
  perElem t fun e => (g (elem t.width (vGet s s.cur f a.toNat (decide (t.width = 64)) l) e)
    (elem t.width (bGet s s.cur f b bs (decide (t.width = 64)) l) e), 0)

/-- As `intLanes`, with the element read as a float under FTZ, the exact result rounded once, and the flags of both
(R118, R289). -/
def floatLanes (s : State) (f : Fibre) (t : Fmt) (ro : BitVec 2) (a b : BitVec 7) (bs : BitVec 1)
    (g : Rctx → Val → Val → Val × Nat) : Nat → Nat × Nat := fun l =>
  perElem t fun e =>
    floatLane t (vecCtx s f.mode ro l e) (g (vecCtx s f.mode ro l e)
      (t.readFtz (modeFTZ f.mode) (elem t.width (vGet s s.cur f a.toNat (decide (t.width = 64)) l) e)).1
      (t.readFtz (modeFTZ f.mode) (elem t.width (bGet s s.cur f b bs (decide (t.width = 64)) l) e)).1)

/-- The lanes of a one-operand instruction of type `t`, element by element. -/
def oneLanes (s : State) (f : Fibre) (t : Fmt) (ro : BitVec 2) (a : BitVec 7) (g : Rctx → Nat → Nat × Nat) :
    Nat → Nat × Nat := fun l =>
  perElem t fun e =>
    g (vecCtx s f.mode ro l e) (elem t.width (vGet s s.cur f a.toNat (decide (t.width = 64)) l) e)

/-- A reduction has issued: s[d] holds its value and FSTAT its flags. -/
def reduced (s : State) (f : Fibre) (d : BitVec 6) (r : Nat × Nat) : Out :=
  .next ((s.setFibre s.cur ((f.setS d.toNat (BitVec.ofNat 64 r.1)).addFlags r.2)).drew 256).retire

/-- A reduction may execute. -/
def ReduceReady (s : State) (f : Fibre) (pair : Bool) (d : BitVec 6) (a : BitVec 7) : Prop :=
  Issues s f ∧ pairBad pair [a.toNat] = false ∧
    Settled s (resVs s.cur f (pairRegs pair [a.toNat]) ++ resS s.cur [d.toNat])

/-! ### Memories -/

/-- A memory is in canonical form: addresses rise strictly and no listed byte is zero, the value of an
unlisted address. -/
def Memory.wf (m : List Host.Cell) : Bool := Sparse.wf (0 : Byte) m

/-- A dirty line is in canonical form: the offsets of its bytes and the numbers of its tags rise strictly and lie in
the line. -/
def L1Line.wf (l : L1Line) : Bool :=
  Sparse.sortedFrom none l.bytes && l.bytes.all (fun e => decide (e.1 < 128)) &&
    Sparse.sortedFrom none l.tags && l.tags.all fun e => decide (e.1 < 2)

/-- The canonical form of the memories: pool, host, vault and cluster scratch, their tags, and the dirty lines of the
L1s and of the cluster caches. -/
def Mem.wf (m : Mem) : Bool :=
  Memory.wf m.fabric && Memory.wf m.host && Memory.wf m.vault && Memory.wf m.cscr &&
    Sparse.wf (0 : BitVec 16) m.vtags && Sparse.wf (0 : BitVec 16) m.peerTags && (m.l1.all fun e => e.2.wf) &&
    m.ccache.all fun e => e.2.line.wf

/-! ### Operations -/

/-- An operation of the load/store unit may start: its counter has room (R267) and no watchpoint stands on what it
accesses (R431). -/
def MayLaunch (s : State) (f : Fibre) (ctr : Nat) (seen : List (Nat × Nat)) (body : OpBody) : Prop :=
  Issues s f ∧ f.ctrFull ctr = false ∧ ∀ a ∈ seen, s.watched f body.kind a.1 a.2 = false

/-- A memory instruction has issued: its operation exists with the header's fields as they stand, its counter is one
higher, its destinations are pending, it has entered the load/store unit in the state `s`, and the fibre goes on behind
it. -/
def launched (s : State) (f : Fibre) (ctr : Nat) (lmask : Word) (opa opb : Dword) (dst : List Res) (body : OpBody) :
    Out :=
  .next ((enterLsu ((s.newOp f 1 lmask opa opb (some ctr) body).2.addPend s.cur s.fresh dst) s.fresh).modFibre
    s.cur (Fibre.wrote · body.kind)).retire

/-! ### Groups -/

/-- The state with a group replaced. -/
def withGroupAs (s : State) (k : Nat) (g : Group) : State := { s with groups := Sparse.put s.groups k g }

/-! ### Matrix commands -/

/-- A matrix command has issued: it is the last of the fibre's open batch, its operation carries the fibre's header
fields, and its tiles are pending (R335, R336). -/
def staged (s : State) (f : Fibre) (opa opb : Dword) (c : MxCmd) : Out :=
  .next (((s.newOp f 6 f.active opa opb none (.matrix c)).2.addPend s.cur s.fresh
    ((List.range c.span).map fun i => .tile (c.tile + i))).modFibre s.cur
    fun g => { g with openBatch := g.openBatch ++ [s.fresh] }).retire

/-- The closed batch that an open batch becomes in the queue of the fibre's quadrant (R337). -/
def closedBatch (s : State) (f : Fibre) : Batch := ⟨s.cur, f.nextBatch, s.cur / 32, f.openBatch, 0, true⟩

/-- The commands of the open batch, queued. -/
def queuedOps (s : State) (f : Fibre) : State :=
  f.openBatch.foldl (fun acc n => acc.modCmd n fun c => { c with phase := .queued }) s

/-- The state with the open batch of the fibre in issue closed and queued. -/
def closed (s : State) (f : Fibre) : State :=
  { queuedOps s f with co := { s.co with batches := s.co.batches ++ [closedBatch s f] } }

/-! ### Host commands -/

/-- A host command has ended: its completion with a status and a result is written in the state `t`, and nothing
else follows (R449). -/
def Ends (i : Instr) (s t : State) (q : Nat) (tag : Word) (status : Nat) (result : Dword) : Prop :=
  exec i s = .next (t.complete q tag status result)

/-- A host command goes on later: the state `t` holds what it waits for. -/
def Awaits (i : Instr) (s t : State) (q : Nat) (tag : Word) (w : Waiting) : Prop := exec i s = .next (t.await q tag w)

/-- Host interfaces have no part in a command: no device interface is locked (R458). -/
def Unlocked (s : State) : Prop := s.io.ifaces = []

end Sys2Proof.Machine
end

