-- ==== Sys2Proof/Certificates/Slice0/Obligations.lean ====
section
/-! DEFINITION. The statements for the provers. Each is about the machine, in every state that meets its
hypotheses; a statement about a free value holds whatever that value is. -/

open Sys2Proof Sys2Proof.Machine

/-! ### Encodings and the step -/

/-- Words of the spec's own examples, one or more for each major group, decode to the instruction they stand for
(R244, R246, R250). -/
def Obligations.DecodedWords : Prop :=
  decode 0x0020001F = .ok (.trap 0x1F) ∧ decode 0x0A400014 = .ok (.modeField 2 0x14) ∧
  decode 0x100FFFFC = .ok (.wait 0 63 63 63) ∧ decode 0x14014004 = .ok (.waitx 5 4) ∧
  decode 0x240F8002 = .ok (.ret 62) ∧ decode 0x28518714 = .ok (.cmpn 5 6 7) ∧
  decode 0x2C107FFF = .ok (.addi 1 1 0x3FFF) ∧ decode 0x3C244000 = .ok (.movz 2 1 0x4000) ∧
  decode 0x80108303 = .ok (.pandn 1 2 3) ∧ decode 0x780E2400 = .ok (.vrsum 0 7 9) ∧
  decode 0xF1404103 = .ok (.vfma 10 1 2 3) ∧ decode 0x98408240 = .ok (.ldt 8 4 9) ∧
  decode 0xE0010500 = .ok (.tagset 4 5) ∧ decode 0xA051063A = .ok (.satom 5 4 6 1 1 10) ∧
  decode 0xB0500185 = .ok (.hquery 5 3) ∧ decode 0xB4218620 = .ok (.mmat 2 6 1 1) ∧
  decode 0xB8F00A04 = .ok (.mdraina 15 2 4) ∧ decode 0xC0408404 = .ok (.texg 4 2 8) ∧
  decode 0xD061C003 = .ok (.launch 6 7) ∧ decode 0xD4828106 = .ok (.tmove 8 10 2) ∧
  decode 0xD8400501 = .ok (.cradd 4 10) ∧ decode 0xDC20C401 = .ok (.region 2 3 4)

/-- Decoding the word of a well-formed instruction gives that instruction back, with every operand (R246, R250,
R251).
A word that decodes is the word of the instruction it decodes to: no bit of it is dropped, and every other
word is refused (R251).
Readings and choices of the model in it: log 27. -/
def Obligations.DecodeEncode : Prop :=
  (∀ (i : Instr) (w : BitVec 32), i.wf = true → encode i = some w → decode w = .ok i) ∧
  (∀ (w : BitVec 32) (i : Instr), decode w = .ok i → encode i = some w ∧ i.wf = true)

/-- A slot's turn fetches the word at the program counter of its CURRENT fibre, and executes the
instruction it decodes to; a slot without a CURRENT fibre spends its turn on making one CURRENT (R193, R234). Behind
CEDE it executes the next word's instruction with the prefix noted (R193, R244, R252). An instruction whose unit has no room in its queue, or that finds the miss table full, does not issue: its
fibre is STALLED (R35, R194). What is around it: the choice of the quadrant (R234), the debugger's count of the step,
and the commands that wait.
A word that is no instruction raises ILL, and INFO of the trap is the number of the first check of R251 that
it fails; so does the word behind CEDE, and CEDE behind CEDE is check 4's ILL (R251, R252).
A fetch reads the word that the core's instruction cache holds for the address, and with no such word the four
bytes of the place that an EXEC access to the address resolves to, the lowest address lowest; the cache then holds
it, but for a word of a peer's window, which no cache takes (R69, R244, R245). A cached word is served without a walk,
where the fibre may execute its page.
Readings and choices of the model in it: log 25, 59 and 94. -/
def Obligations.StepRunsDecoded : Prop :=
  (∀ (s u : State) (slot loc : Nat) (rest : List Turn) (f : Fibre) (w : Word) (s2 : State) (i : Instr),
    s.turns = .slot slot :: rest → u = { s with turns := rest } → u.chosen slot = some loc →
    u.holder slot = some loc → (u.select loc).fibre loc = some f → (u.select loc).breaksAt f = false →
    (u.select loc).fetch f f.pc = .word w s2 → decode w = .ok i →
    (∀ x : State, i ≠ .cede → x = { s2 with iword := w } →
      (x.unitFull i = false → step s = slotTurned u slot (settle f loc (exec i x))) ∧
      (x.unitFull i = true → step s = slotTurned u slot (settle f loc (.next x.stall)))) ∧
    (∀ (w1 : Word) (s3 x : State), i = .cede →
      ({ s2 with iword := w } : State).fetch f (f.pc + 4) = .word w1 s3 →
      x = ({ s3 with iword := w1 } : State).modFibre s3.cur (fun g => { g with cede := true }) →
      (∀ j, decode w1 = .ok j → j ≠ .cede → x.unitFull j = false →
        step s = slotTurned u slot (settle f loc (exec j x))) ∧
      (∀ j, decode w1 = .ok j → j ≠ .cede → x.unitFull j = true →
        step s = slotTurned u slot (settle f loc (.next x.stall))) ∧
      (∀ c, decode w1 = .error c →
        step s = slotTurned u slot (settle f loc (.next (x.takeTrap ⟨trapILL, c.number, 0, 0⟩)))) ∧
      (decode w1 = .ok .cede →
        step s = slotTurned u slot (settle f loc (.next (x.takeTrap ⟨trapILL, 4, 0, 0⟩)))))) ∧
  (∀ (s u : State) (slot loc : Nat) (rest : List Turn) (f : Fibre) (w : Word) (s2 : State) (c : IllCheck),
    s.turns = .slot slot :: rest → u = { s with turns := rest } → u.chosen slot = some loc →
    u.holder slot = some loc → (u.select loc).fibre loc = some f → (u.select loc).breaksAt f = false →
    (u.select loc).fetch f f.pc = .word w s2 → decode w = .error c →
    step s = slotTurned u slot (settle f loc
      (.next (({ s2 with iword := w } : State).takeTrap ⟨trapILL, c.number, 0, 0⟩)))) ∧
  (∀ (s u : State) (slot loc : Nat) (rest : List Turn), s.turns = .slot slot :: rest → u = { s with turns := rest } →
    u.holder slot = none → u.chosen slot = some loc → step s = slotTurned u slot (.next (u.select loc))) ∧
  (∀ (s : State) (f : Fibre) (va : BitVec 48), f.fetched ≠ some va →
    (∀ w, s.cached (coreOf s.cur) f.asid (s.privOf f.region) va = some w → s.fetch f va = .word w s) ∧
    (∀ p s1, s.cached (coreOf s.cur) f.asid (s.privOf f.region) va = none →
      resolve s (s.who s.cur f) .exec va.toNat 4 = (.ok [(p, 4)], s1) →
      s.fetch f va = .word (BitVec.ofNat 32 (leNat (s1.mem.readAt (coreOf s.cur) p 4)))
        (if p.isPeer then s1
        else { s1 with mem := { s1.mem with icache :=
          ⟨coreOf s.cur, f.asid, va.toNat, BitVec.ofNat 32 (leNat (s1.mem.readAt (coreOf s.cur) p 4)),
            s1.leafUser (s.who s.cur f) va.toNat⟩ :: s1.mem.icache } })))

/-! ### Registers and what issuing does -/

/-- A register reads back what was written to it, a write leaves every other scalar and the rest of the fibre
alone; predicate p7 reads all ones and writes to it are ignored (R247). -/
def Obligations.RegisterFile : Prop :=
  ∀ (f : Fibre) (d n : Nat) (v : Dword) (w : Word),
    (f.setS d v).s n = (if n = d then v else f.s n) ∧
    ({ f.setS d v with sreg := f.sreg } : Fibre) = f ∧
    (f.setP d w).p n = (if n = 7 then BitVec.allOnes 32 else if n = d then w else f.p n) ∧
    ({ f.setP d w with pred := f.pred } : Fibre) = f ∧ f.setP 7 w = f

/-- What it is for an instruction to issue with the fibre `g`: the fibre goes on behind the instruction, behind both
words of a CEDE pair; a STALLED fibre is CURRENT again; ISSUED counts the instruction once; every other fibre,
memory, slots, groups, operations, census and device registers are as they were (R192, R244, R280).
An instruction that cannot issue has no effect but on the state of its fibre: without CEDE the fibre is STALLED,
with CEDE it is READY with its program counter on the prefix (R192, R194).
A scalar instruction cannot issue while one of its registers has a pending write; it then waits without effect
(R194, R200). -/
def Obligations.IssueFrame : Prop :=
  (∀ (s : State) (g : Fibre), ∃ t, became s g = .next t ∧
    t.fibre s.cur = some { g with
      st := if g.st = .stalled then .current else g.st
      pc := g.pc + (if g.cede then 8 else 4), cede := false, issued := g.issued + 1 } ∧
    (∀ l, l ≠ s.cur → t.fibre l = s.fibre l) ∧
    t.mem = s.mem ∧ t.slots = s.slots ∧ t.groups = s.groups ∧ t.eng = s.eng ∧ t.co = s.co ∧ t.clr = s.clr ∧
    t.xl = s.xl ∧ t.reg = s.reg ∧ t.io = s.io ∧ t.clk = s.clk ∧ t.cur = s.cur ∧ t.turns = s.turns ∧
    t.sched.launches = s.sched.launches ∧ t.sched.saves = s.sched.saves) ∧
  (∀ (s : State) (f : Fibre), Issues s f → f.st = .current ∨ f.st = .stalled →
    s.stall.fibre s.cur = some { f with
      st := if f.cede then .ready else .stalled
      cede := false } ∧
    (∀ l, l ≠ s.cur → s.stall.fibre l = s.fibre l) ∧ ({ s.stall with fibres := s.fibres } : State) = s) ∧
  (∀ (d a b : BitVec 6) (i : BitVec 14) (h : BitVec 2) (k : BitVec 16) (n : BitVec 4) (p : BitVec 3),
    (∀ j ∈ [Instr.add d a b, .sub d a b, .mul d a b, .mulh d a b, .mulhn d a b, .div d a b, .divn d a b, .rem d a b,
        .and d a b, .or d a b, .xor d a b, .andn d a b, .shl d a b, .shr d a b, .sar d a b, .min d a b, .max d a b,
        .minn d a b, .maxn d a b, .cmp d a b, .cmpn d a b], Waits j [d.toNat, a.toNat, b.toNat]) ∧
    (∀ j ∈ [Instr.clz d a, .popc d a, .mov d a, .addi d a i, .andi d a i, .ori d a i, .cmpi d a i],
      Waits j [d.toNat, a.toNat]) ∧
    (∀ j ∈ [Instr.movz d h k, .movk d h k, .movs d h k, .srd d n, .smovp d p, .moder d, .fstr d], Waits j [d.toNat]) ∧
    (∀ j ∈ [Instr.swr a 10, .swr a 11, .pmovs p a, .modew a, .fstw a, .brx a], Waits j [a.toNat]))

/-! ### Scalars -/

/-- SALU: s[SD] takes the table's function of s[SA] and s[SB], read before it is written; nothing else changes
(R277).
CMP, CMPN and CMPI write −1, 0 or +1 to s[SD], signed for CMP and CMPI and unsigned for CMPN, and set the
condition flags: Z equal, L signed less, C unsigned less, in bits 0, 1 and 2; nothing else changes (R269, R277,
R278). -/
def Obligations.ScalarArithmetic : Prop :=
  (∀ (d a b : BitVec 6),
    Combines (.add d a b) d a b (fun x y => x + y) ∧ Combines (.sub d a b) d a b (fun x y => x - y) ∧
    Combines (.mul d a b) d a b (fun x y => x * y) ∧
    Combines (.mulh d a b) d a b (fun x y => BitVec.ofInt 64 (x.toInt * y.toInt / 2 ^ 64)) ∧
    Combines (.mulhn d a b) d a b (fun x y => BitVec.ofNat 64 (x.toNat * y.toNat / 2 ^ 64)) ∧
    Combines (.div d a b) d a b (fun x y => if y = 0 then -1 else BitVec.ofInt 64 (Int.tdiv x.toInt y.toInt)) ∧
    Combines (.divn d a b) d a b (fun x y => if y = 0 then -1 else BitVec.ofNat 64 (x.toNat / y.toNat)) ∧
    Combines (.rem d a b) d a b (fun x y => if y = 0 then x else BitVec.ofInt 64 (Int.tmod x.toInt y.toInt)) ∧
    Combines (.and d a b) d a b (fun x y => x &&& y) ∧ Combines (.or d a b) d a b (fun x y => x ||| y) ∧
    Combines (.xor d a b) d a b (fun x y => x ^^^ y) ∧ Combines (.andn d a b) d a b (fun x y => x &&& ~~~y) ∧
    Combines (.shl d a b) d a b (fun x y => x <<< (y.toNat % 64)) ∧
    Combines (.shr d a b) d a b (fun x y => x >>> (y.toNat % 64)) ∧
    Combines (.sar d a b) d a b (fun x y => x.sshiftRight (y.toNat % 64)) ∧
    Combines (.min d a b) d a b (fun x y => BitVec.ofInt 64 (min x.toInt y.toInt)) ∧
    Combines (.max d a b) d a b (fun x y => BitVec.ofInt 64 (max x.toInt y.toInt)) ∧
    Combines (.minn d a b) d a b (fun x y => BitVec.ofNat 64 (min x.toNat y.toNat)) ∧
    Combines (.maxn d a b) d a b (fun x y => BitVec.ofNat 64 (max x.toNat y.toNat))) ∧
  (∀ (d a b : BitVec 6) (i : BitVec 14),
    Turns (.cmp d a b) [d.toNat, a.toNat, b.toNat] (fun f =>
      { f.setS d.toNat (orderCode ((f.s a.toNat).slt (f.s b.toNat)) (f.s a.toNat == f.s b.toNat)) with
        cf := orderFlags (f.s a.toNat) (f.s b.toNat) }) ∧
    Turns (.cmpn d a b) [d.toNat, a.toNat, b.toNat] (fun f =>
      { f.setS d.toNat (orderCode ((f.s a.toNat).ult (f.s b.toNat)) (f.s a.toNat == f.s b.toNat)) with
        cf := orderFlags (f.s a.toNat) (f.s b.toNat) }) ∧
    Turns (.cmpi d a i) [d.toNat, a.toNat] (fun f =>
      { f.setS d.toNat (orderCode ((f.s a.toNat).slt (i.signExtend 64)) (f.s a.toNat == i.signExtend 64)) with
        cf := orderFlags (f.s a.toNat) (i.signExtend 64) }))

/-- CLZ counts leading zeros, POPC set bits, MOV copies (R277).
MOVZ places IMM16 at bit 16 × HW, MOVK replaces those bits of s[SD] and keeps the others, MOVS sign-extends
from the top bit of the field (R279). -/
def Obligations.ScalarMoves : Prop :=
  (∀ (d a : BitVec 6) (s : State) (f : Fibre), Issues s f → Settled s (resS s.cur [d.toNat, a.toNat]) →
    (∃ n : Nat, exec (.clz d a) s = became s (f.setS d.toNat (BitVec.ofNat 64 n)) ∧ n ≤ 64 ∧
      (f.s a.toNat).toNat < 2 ^ (64 - n) ∧ (n < 64 → 2 ^ (63 - n) ≤ (f.s a.toNat).toNat)) ∧
    exec (.popc d a) s = became s (f.setS d.toNat
      (BitVec.ofNat 64 ((List.range 64).countP fun i => (f.s a.toNat).getLsbD i))) ∧
    exec (.mov d a) s = became s (f.setS d.toNat (f.s a.toNat))) ∧
  (∀ (d : BitVec 6) (h : BitVec 2) (i : BitVec 16),
    SetsS (.movz d h i) [d.toNat] d.toNat (fun _ => i.setWidth 64 <<< (16 * h.toNat)) ∧
    SetsS (.movk d h i) [d.toNat] d.toNat (fun f =>
      (f.s d.toNat &&& ~~~((0xFFFF : Dword) <<< (16 * h.toNat))) ||| (i.setWidth 64 <<< (16 * h.toNat))) ∧
    SetsS (.movs d h i) [d.toNat] d.toNat (fun _ => i.signExtend 64 <<< (16 * h.toNat)))

/-- ADDI, ANDI, ORI and CMPI use IMM14 sign-extended to 64 bits: a + i, a & i, a | i, and CMPI acts as CMP with
b = i (R278). -/
def Obligations.Immediates : Prop :=
  ∀ (d a : BitVec 6) (i : BitVec 14),
    Turns (.addi d a i) [d.toNat, a.toNat] (fun f => f.setS d.toNat (f.s a.toNat + i.signExtend 64)) ∧
    Turns (.andi d a i) [d.toNat, a.toNat] (fun f => f.setS d.toNat (f.s a.toNat &&& i.signExtend 64)) ∧
    Turns (.ori d a i) [d.toNat, a.toNat] (fun f => f.setS d.toNat (f.s a.toNat ||| i.signExtend 64)) ∧
    (∀ (b : BitVec 6) (s : State) (f : Fibre), Issues s f → f.s b.toNat = i.signExtend 64 →
      Settled s (resS s.cur [d.toNat, a.toNat, b.toNat]) → exec (.cmpi d a i) s = exec (.cmp d a b) s) ∧
    decode 0x2C107FFF = .ok (.addi 1 1 (-1))

/-- SRD writes s[SD] from a special register, and changes nothing else; CLK alone comes from the core's clocks, and
numbers without a register that is read are covered by the fibre's own fields (R280). SWR to EXEC can only clear
bits; a link value with a bit of [63:52] is ILL, check 6; every other number is ILL, check 3.
PRED writes the active lanes of p[PD] with the table's function and keeps the others; PMOVS takes lane bits from
a scalar; SMOVP writes all 64 bits of s[SD] with the active lanes of p[PA], and nothing with no active lane (R202,
R253, R281).
Readings and choices of the model in it: log 17, 26 and 54. -/
def Obligations.SpecialRegisters : Prop :=
  (∀ (d a : BitVec 6) (n : BitVec 4) (s : State) (f : Fibre), Issues s f → Settled s (resS s.cur [d.toNat, a.toNat]) →
    (∀ (k : BitVec 4) (v : Dword), (k, v) ∈ ([(0, BitVec.ofNat 64 (s.cur % 4)), (1, BitVec.ofNat 64 (s.cur / 4 % 8)),
        (2, BitVec.ofNat 64 (s.cur / 32 % 4)), (3, BitVec.ofNat 64 (s.cur / 128)),
        (4, BitVec.ofNat 64 (s.cur / 512)), (5, BitVec.ofNat 64 (s.cur / 128 / 48)),
        (7, if f.teller then 0 else BitVec.ofNat 64 f.lid), (8, BitVec.ofNat 64 f.region),
        (10, f.exec.setWidth 64), (11, f.lr), (12, f.wdesc), (13, f.fstat.setWidth 64), (14, f.issued),
        (15, f.asid.setWidth 64)] : List (BitVec 4 × Dword)) →
      exec (.srd d k) s = became s (f.setS d.toNat v)) ∧
    (∀ g, Sparse.find s.groups f.group = some g →
      exec (.srd d 6) s = became s (f.setS d.toNat (if g.kind = .grid then g.gid else 0))) ∧
    (∃ c t, s.readClk (coreOf s.cur) = (c, t) ∧ exec (.srd d 9) s = became t (f.setS d.toNat c)) ∧
    exec (.swr a 10) s = became s { f with exec := f.exec &&& (f.s a.toNat).setWidth 32 } ∧
    (f.s a.toNat < 2 ^ 52 → exec (.swr a 11) s = became s { f with lr := f.s a.toNat }) ∧
    (2 ^ 52 ≤ f.s a.toNat → exec (.swr a 11) s = .next (s.takeTrap ⟨trapILL, 6, 0, 0⟩)) ∧
    (n ≠ 10 → n ≠ 11 → exec (.swr a n) s = .next (s.takeTrap ⟨trapILL, 3, 0, 0⟩))) ∧
  (∀ (d a b : BitVec 3) (x y : BitVec 6),
    SetsP (.pand d a b) [] d.toNat (fun f => f.p a.toNat &&& f.p b.toNat) ∧
    SetsP (.por d a b) [] d.toNat (fun f => f.p a.toNat ||| f.p b.toNat) ∧
    SetsP (.pxor d a b) [] d.toNat (fun f => f.p a.toNat ^^^ f.p b.toNat) ∧
    SetsP (.pandn d a b) [] d.toNat (fun f => f.p a.toNat &&& ~~~f.p b.toNat) ∧
    SetsP (.pnot d a) [] d.toNat (fun f => ~~~f.p a.toNat) ∧
    SetsP (.pset d) [] d.toNat (fun _ => BitVec.allOnes 32) ∧ SetsP (.pclr d) [] d.toNat (fun _ => 0) ∧
    SetsP (.pmovs d x) [x.toNat] d.toNat (fun f => (f.s x.toNat).setWidth 32) ∧
    Turns (.smovp y a) [y.toNat] (fun f =>
      if f.active = 0 then f else f.setS y.toNat ((f.p a.toNat &&& f.active).setWidth 64)))

/-! ### SYS, traps and MODE -/

/-- NOP issues without effect; YIELD issues and makes the fibre READY, without the slot; CEDE alone marks the
instruction behind it and has no other effect (R260, R262, R263).
MODE form 0 writes MODE[23:0], form 1 one field of it; MODEW and FSTW take the low bits of a scalar, with ILL on
a value that R248 or R266 forbids; MODER and FSTR read; nothing else changes (R248, R264, R266).
WAIT issues when each of the four counters is at or below its threshold, 63 being always met, and else waits;
WAITX does so for one counter and a 64-bit threshold; neither changes any state (R268).
Readings and choices of the model in it: log 25. -/
def Obligations.ModesAndWaits : Prop :=
  (∀ (s : State) (f : Fibre), Issues s f →
    exec .nop s = became s f ∧
    exec .yield s = .next (s.retire.modFibre s.cur fun g => { g with st := .ready }) ∧
    exec .cede s = .next (s.setFibre s.cur { f with cede := true })) ∧
  (∀ (v : BitVec 24) (k : BitVec 4) (x a d : BitVec 6),
    Turns (.mode v) [] (fun f => { f with mode := v.setWidth 32 }) ∧
    (∀ lo len, (k, lo, len) ∈ ([(0, 0, 3), (1, 3, 1), (2, 4, 6), (3, 10, 3), (4, 13, 1), (5, 14, 1), (6, 15, 1),
        (7, 16, 5), (8, 21, 3)] : List (BitVec 4 × Nat × Nat)) → x.toNat < 2 ^ len →
      ∀ s f, Issues s f → ∃ m : Word, exec (.modeField k x) s = became s { f with mode := m } ∧
        field m lo len = x.toNat ∧ ∀ j, j < lo ∨ lo + len ≤ j → m.getLsbD j = f.mode.getLsbD j) ∧
    (∀ s f, Issues s f → Settled s (resS s.cur [a.toNat]) →
      (badMode ((f.s a.toNat).setWidth 32 : Word).toNat = false →
        exec (.modew a) s = became s { f with mode := (f.s a.toNat).setWidth 32 }) ∧
      (badMode ((f.s a.toNat).setWidth 32 : Word).toNat = true →
        exec (.modew a) s = .next (s.takeTrap ⟨trapILL, 6, 0, 0⟩)) ∧
      (f.s a.toNat < 32 → exec (.fstw a) s = became s { f with fstat := (f.s a.toNat).setWidth 32 }) ∧
      (32 ≤ f.s a.toNat → exec (.fstw a) s = .next (s.takeTrap ⟨trapILL, 6, 0, 0⟩))) ∧
    SetsS (.moder d) [d.toNat] d.toNat (fun f => f.mode.setWidth 64) ∧
    SetsS (.fstr d) [d.toNat] d.toNat (fun f => f.fstat.setWidth 64)) ∧
  (∀ (l st c m a : BitVec 6) (k : BitVec 3) (s : State) (f : Fibre), Issues s f →
    ((∀ p ∈ [(ctrLD, l), (ctrST, st), (ctrCP, c), (ctrMX, m)], p.2 = 63 ∨ f.counter p.1 ≤ p.2.toNat) →
      exec (.wait l st c m) s = became s f) ∧
    ((∃ p ∈ [(ctrLD, l), (ctrST, st), (ctrCP, c), (ctrMX, m)], p.2 ≠ 63 ∧ p.2.toNat < f.counter p.1) →
      exec (.wait l st c m) s = .next s.stall) ∧
    (Settled s (resS s.cur [a.toNat]) →
      (f.counter k.toNat ≤ (f.s a.toNat).toNat → exec (.waitx a k) s = became s f) ∧
      ((f.s a.toNat).toNat < f.counter k.toNat → exec (.waitx a k) s = .next s.stall)))

/-- TRAP raises USER with its immediate. BKPT raises BREAK unless a debugger is attached to the fibre's region; then
it makes a debug stop behind the instruction. HALT makes the same stop when one is attached, and else acts as NOP.
None of them depends on the lanes, and none can stall (R427). -/
def Obligations.TrapInstructions : Prop :=
  (∀ (i : BitVec 16) (s : State) (f : Fibre), Issues s f →
    exec (.trap i) s = .next (s.takeTrap ⟨0x09, 0, i.toNat, 0⟩) ∧
    (s.attached f = false → exec .bkpt s = .next (s.takeTrap ⟨0x0A, 0, 0, 0⟩) ∧ exec .halt s = exec .nop s) ∧
    (s.attached f = true → exec .bkpt s = .next (s.retire.modFibre s.cur Fibre.stop) ∧
      exec .halt s = .next (s.retire.modFibre s.cur Fibre.stop))) ∧
  (∀ (s : State) (f : Fibre), s.attached f = true ↔ ∃ r ∈ s.io.dbgRegions, s.inSubtree r f.region = true) ∧
  (∀ i : BitVec 16, decode (0x0020#16 ++ i) = .ok (.trap i)) ∧ decode 0x00400000 = .ok .bkpt ∧
  decode 0x00700000 = .ok .halt ∧
  (∀ (x : BitVec 4) (i : BitVec 16), x ≠ 0 → decode (0x002#12 ++ x ++ i) = .error .field)

/-- A trap is handled when TVBASE is enabled, the entry of the fibre's address space is valid with zero reserved
bits, its ENABLE bit for the code is set and the fibre is in no handler. Entry saves s60 to s63, MODE and CF in the
hidden copies, writes the frame into s60 to s63, sets MODE to 0x27 and INHANDLER, and goes to the handler; every
other register, the mask, the stack, the window and the counters stay (R424, R425).
TRET inside a handler goes on at s60 with the mask EXEC AND s63, the saved s60 to s63, MODE and CF restored and
INHANDLER clear; an s60 that is no code address raises BADPC, which is unhandled there; outside a handler TRET raises
ILL (R426).
An unhandled trap makes a trap report with kind 5, unit code 0, access kind 0, frame 0xFFFF, the trap code, the
program counter and the trap's lanes, and the containment policy decides: IGNORE goes on at the next instruction,
RETRY parks the fibre on the instruction until the host resumes it, and the kills kill (R185, R428). A trap whose vector
entry a host holds asks the host for it and waits (R58).
Readings and choices of the model in it: log 26. -/
def Obligations.TrapEntry : Prop :=
  (∀ (s : State) (f : Fibre) (t : Trap) (e : Nat), Issues s f →
    bitOf s.reg.tvbase 0 = true → e = physNat s (field s.reg.tvbase 19 33 * 2 ^ 19 + 8 * f.asid.toNat) 8 →
    e / 2 ^ 63 % 2 = 1 → e / 2 ^ 58 % 32 = 0 → e % 4 = 0 → e / 2 ^ (48 + (t.code - 1)) % 2 = 1 → 1 ≤ t.code →
    f.inHandler = false → s.vectorHeld f = [] →
    ∃ g, s.takeTrap t = s.setFibre s.cur g ∧
      g.s 60 = (if t.code = 0x09 ∨ t.code = 0x0A then f.nextPc else f.pc).setWidth 64 ∧
      g.s 61 = BitVec.ofNat 64 (t.code + t.info * 2 ^ 8 + t.imm * 2 ^ 16 + t.lanes.toNat * 2 ^ 32) ∧
      g.s 62 = f.mode ++ s.iword ∧
      g.s 63 = BitVec.ofNat 64 (f.exec.toNat + f.cf.toNat * 2 ^ 32 + if f.cede then 2 ^ 35 else 0) ∧
      (∀ n, n < 60 → g.s n = f.s n) ∧
      ({ g with sreg := f.sreg } : Fibre) = { f with
        st := if f.st = .stalled then .current else f.st
        hidden := ⟨f.s 60, f.s 61, f.s 62, f.s 63, f.mode, f.cf⟩
        mode := 0x27, inHandler := true, pc := BitVec.ofNat 48 e, cede := false }) ∧
  (∀ (s : State) (f : Fibre), Issues s f →
    (f.inHandler = false → exec .tret s = .next (s.takeTrap ⟨trapILL, 6, 0, 0⟩)) ∧
    (f.inHandler = true → Settled s (resS s.cur [60, 61, 62, 63]) →
      ((f.s 60).toNat % 4 = 0 → (f.s 60).toNat < 2 ^ 48 →
        ∃ g, exec .tret s = wentTo s g ((f.s 60).setWidth 48) ∧
          g.s 60 = f.hidden.s60 ∧ g.s 61 = f.hidden.s61 ∧ g.s 62 = f.hidden.s62 ∧ g.s 63 = f.hidden.s63 ∧
          (∀ n, n < 60 → g.s n = f.s n) ∧
          ({ g with sreg := f.sreg } : Fibre) = { f with
            exec := (f.s 63).setWidth 32 &&& f.exec
            mode := f.hidden.mode, cf := f.hidden.cf, inHandler := false }) ∧
      ((f.s 60).toNat % 4 ≠ 0 ∨ 2 ^ 48 ≤ (f.s 60).toNat →
        exec .tret s = .next (s.unhandledTrap s.cur f ⟨0x05, 0, 0, 0⟩)))) ∧
  (∀ (s : State) (f : Fibre) (t : Trap) (policy absorber : Nat) (r : State), Issues s f →
    s.vectorHeld f = [] → s.handlerFor f t.code = none → s.contain f.region = (policy, absorber) →
    r = s.report f.region policy absorber (policy == 1)
      ⟨f.pc.setWidth 64, f.asid, 0, 0, t.code, 5, 0, s.cur, 0xFFFF, t.lanes, 0⟩ →
    (policy = 0 → s.takeTrap t = r.modFibre s.cur fun g =>
      { g with
        pc := g.nextPc, cede := false
        st := match g.st with
          | .current | .stalled => .ready
          | st => st }) ∧
    (policy = 1 → s.takeTrap t = r.modFibre s.cur fun g =>
      { g.park with trapWait := some ⟨g.nextPc, absorber⟩, cede := false }) ∧
    (1 < policy → s.takeTrap t = r.killRegion absorber)) ∧
  (∀ (s : State) (f : Fibre) (t : Trap) (b : Nat) (l : List Nat), Issues s f → s.vectorHeld f = b :: l →
    s.takeTrap t = (askHost s (b :: l)).stall)

/-! ### Waits, branches and the window -/

/-- BRA goes to the next instruction plus four times its offset, modulo 2^48, when its condition holds, and else on
behind itself; BRX goes to s[SA], and a target with bits [1:0] or [63:48] not zero raises BADPC; nothing else changes
(R270, R272).
CALL and CALLX raise the frame base, zero what comes into the frame, write LR and go to the target; RET lowers the
base and goes to its link; a call or return whose units must move does so after moving them, behind the fibre's earlier
accesses. WINOVF is a call past the spill area and a return below frame 0; BADPC comes first (R198, R199, R271, R272).
The control instructions on the mask and the reconvergence stack, as the table of R275 gives them: where a path
is empty the fibre goes on at the entry's address, and an instruction that does not fit the stack traps without
effect (R203, R275). -/
def Obligations.ControlFlow : Prop :=
  (∀ (c : BitVec 4) (o : BitVec 22) (a : BitVec 6) (s : State) (f : Fibre) (g : Word), Issues s f →
    g = f.exec &&& f.guard →
    (∀ b : Bool, (c, b) ∈ [(0, true), (1, f.cf.getLsbD 0), (2, !f.cf.getLsbD 0), (3, f.cf.getLsbD 1),
        (4, !f.cf.getLsbD 1), (5, f.cf.getLsbD 2), (6, !f.cf.getLsbD 2), (7, g != 0), (8, g == f.exec), (9, g == 0)] →
      exec (.bra c o) s = if b then wentTo s f (f.nextPc + o.signExtend 48 * 4) else became s f) ∧
    (Settled s (resS s.cur [a.toNat]) →
      ((f.s a.toNat).toNat % 4 = 0 → (f.s a.toNat).toNat < 2 ^ 48 →
        exec (.brx a) s = wentTo s f ((f.s a.toNat).setWidth 48)) ∧
      ((f.s a.toNat).toNat % 4 ≠ 0 ∨ 2 ^ 48 ≤ (f.s a.toNat).toNat →
        exec (.brx a) s = .next (s.takeTrap ⟨0x05, 0, 0, 0⟩)))) ∧
  (∀ (c : BitVec 4) (o : BitVec 22) (a : BitVec 6) (s : State) (f : Fibre), Issues s f →
    Settled s (resS s.cur [a.toNat]) →
    let link := f.s a.toNat
    (winB f.wdesc + 8 * c.toNat + winF f.wdesc ≤ winLo f.wdesc + winQ f.wdesc →
      Settled s ((newPos f.wdesc c.toNat).map fun p => .v (fidOf s.cur) p) →
      (∃ g, exec (.call c o) s = wentTo s g (f.nextPc + o.signExtend 48 * 4) ∧ Called f c.toNat g) ∧
      (link.toNat % 4 = 0 → link.toNat < 2 ^ 48 →
        ∃ g, exec (.callx c a) s = wentTo s g (link.setWidth 48) ∧ Called f c.toNat g)) ∧
    (∀ n s1, spillOverflow f c.toNat = false → s.lsuWaits s.cur (fun _ => true) = false →
      Settled s (((spillUnits f.wdesc c.toNat).flatMap (unitPos f.wdesc) ++ newPos f.wdesc c.toNat).map
        fun p => .v (fidOf s.cur) p) →
      moveUnits s s.cur false false (spillUnits f.wdesc c.toNat) = (none, n, s1) →
      exec (.call c o) s = .next (finishMove s1 false c.toNat (f.nextPc + o.signExtend 48 * 4)) ∧
      (link.toNat % 4 = 0 → link.toNat < 2 ^ 48 →
        exec (.callx c a) s = .next (finishMove s1 false c.toNat (link.setWidth 48)))) ∧
    (spillOverflow f c.toNat = true → exec (.call c o) s = .next (s.takeTrap ⟨0x02, 0, 0, 0⟩) ∧
      (link.toNat % 4 = 0 → link.toNat < 2 ^ 48 → exec (.callx c a) s = .next (s.takeTrap ⟨0x02, 0, 0, 0⟩))) ∧
    (link.toNat % 4 ≠ 0 ∨ 2 ^ 48 ≤ link.toNat → exec (.callx c a) s = .next (s.takeTrap ⟨0x05, 0, 0, 0⟩)) ∧
    (link.toNat % 4 ≠ 0 ∨ 2 ^ 52 ≤ link.toNat → exec (.ret a) s = .next (s.takeTrap ⟨0x05, 0, 0, 0⟩)) ∧
    (link.toNat % 4 = 0 → link.toNat / 2 ^ 48 = c.toNat →
      (wDepth f.wdesc < c.toNat → exec (.ret a) s = .next (s.takeTrap ⟨0x02, 0, 0, 0⟩)) ∧
      (c.toNat ≤ wDepth f.wdesc → winLo f.wdesc ≤ winB f.wdesc - 8 * c.toNat →
        exec (.ret a) s = wentTo s { f with
          wdesc := mkWdesc (wSpill f.wdesc) (wDepth f.wdesc - c.toNat) (wRing f.wdesc) (wShbase f.wdesc)
            (wFsz f.wdesc) } (link.setWidth 48)) ∧
      (∀ n s1, c.toNat ≤ wDepth f.wdesc → s.lsuWaits s.cur (fun _ => true) = false →
        Settled s (((fillUnits f.wdesc c.toNat).flatMap (unitPos f.wdesc)).map fun p => .v (fidOf s.cur) p) →
        moveUnits s s.cur true false (fillUnits f.wdesc c.toNat) = (none, n, s1) →
        exec (.ret a) s = .next (finishMove s1 true c.toNat (link.setWidth 48))))) ∧
  (∀ (p : BitVec 3) (n : BitVec 1) (o : BitVec 19) (s : State) (f : Fibre) (q : Word) (dst : BitVec 48), Issues s f →
    q = (if n = 1 then ~~~f.p p.toNat else f.p p.toNat) → dst = f.nextPc + o.signExtend 48 * 4 →
    (f.stack.length < 32 →
      exec (.ifOp p n o) s = follows s { f with
        exec := f.exec &&& q, stack := ⟨.ifEnt, f.exec, f.exec &&& ~~~q, dst⟩ :: f.stack } dst ∧
      exec (.loop o) s = became s { f with stack := ⟨.loopEnt, f.exec, 0, dst⟩ :: f.stack }) ∧
    (32 ≤ f.stack.length → exec (.ifOp p n o) s = .next (s.takeTrap ⟨0x03, 0, 0, 0⟩) ∧
      exec (.loop o) s = .next (s.takeTrap ⟨0x03, 0, 0, 0⟩)) ∧
    (∀ e rest, f.stack = e :: rest →
      (e.kind = .ifEnt → exec (.elseOp o) s = follows s { f with
        exec := e.pend, stack := ⟨.elseEnt, e.ent, 0, dst⟩ :: rest } dst) ∧
      (e.kind ≠ .loopEnt → exec .endif s = became s { f with exec := e.ent, stack := rest } ∧
        exec (.endloop p n o) s = .next (s.takeTrap ⟨0x04, 0, 0, 0⟩)) ∧
      (e.kind ≠ .ifEnt → exec (.elseOp o) s = .next (s.takeTrap ⟨0x04, 0, 0, 0⟩)) ∧
      (e.kind = .loopEnt → exec .endif s = .next (s.takeTrap ⟨0x04, 0, 0, 0⟩) ∧
        exec (.endloop p n o) s =
          if (f.exec ||| e.pend) &&& q = 0 then became s { f with exec := e.ent, stack := rest }
          else wentTo s { f with
            exec := (f.exec ||| e.pend) &&& q, stack := ⟨e.kind, e.ent, 0, e.addr⟩ :: rest } dst)) ∧
    (∀ above l below top, f.stack = above ++ l :: below → (∀ e ∈ above, e.kind ≠ .loopEnt) → l.kind = .loopEnt →
      f.stack.head? = some top →
      exec (.breakOp p n) s = follows s { f with
        exec := f.exec &&& ~~~(f.exec &&& q)
        stack := above.map (fun e => ⟨e.kind, e.ent &&& ~~~(f.exec &&& q), e.pend &&& ~~~(f.exec &&& q), e.addr⟩) ++
          l :: below } top.addr ∧
      exec (.lcont p n) s = follows s { f with
        exec := f.exec &&& ~~~(f.exec &&& q)
        stack := above.map (fun e => ⟨e.kind, e.ent &&& ~~~(f.exec &&& q), e.pend &&& ~~~(f.exec &&& q), e.addr⟩) ++
          ⟨l.kind, l.ent, l.pend ||| (f.exec &&& q), l.addr⟩ :: below } top.addr) ∧
    ((∀ e ∈ f.stack, e.kind ≠ .loopEnt) → exec (.breakOp p n) s = .next (s.takeTrap ⟨0x04, 0, 0, 0⟩) ∧
      exec (.lcont p n) s = .next (s.takeTrap ⟨0x04, 0, 0, 0⟩)) ∧
    (f.stack = [] → exec (.elseOp o) s = .next (s.takeTrap ⟨0x04, 0, 0, 0⟩) ∧
      exec .endif s = .next (s.takeTrap ⟨0x04, 0, 0, 0⟩) ∧
      exec (.endloop p n o) s = .next (s.takeTrap ⟨0x04, 0, 0, 0⟩)))

/-! ### Vector instructions -/

/-- Writing lanes of v[n] writes the listed lanes, each with its value, and leaves the other lanes, every register that
lies elsewhere, and the rest of the machine alone; a pair takes the low words first and the high words in the next
register (R196, R247, R285).
A flag whose XE enable is set raises FPE before any lane is written, with the enabled flags and the lanes that
raise one of them in the frame; so does a type that the instruction's class does not have raise ILL, even with no
lane active (R120, R285).
Readings and choices of the model in it: log 12. -/
def Obligations.LaneWrites : Prop :=
  (∀ (s t : State) (f : Fibre) (n : Nat) (lanes : List Nat) (g : Nat → Nat), Issues s f → lanes.Nodup →
    (∀ i ∈ lanes, i < 32) → (∀ k, vPlace f.wdesc n = .shared k → (Sparse.find s.slots (slotOf s.cur)).isSome) →
    t = s.writeLanes n false (lanes.map fun i => (i, g i)) →
    (∃ h, t.fibre s.cur = some h ∧ ({ h with ring := f.ring } : Fibre) = f ∧
      (∀ i, i < 32 → lane (t.v s.cur h n) i =
        if i ∈ lanes then BitVec.ofNat 32 (g i) else lane (s.v s.cur f n) i) ∧
      (∀ m, vPlace f.wdesc m ≠ vPlace f.wdesc n → t.v s.cur h m = s.v s.cur f m)) ∧
    (∀ l, l ≠ s.cur → t.fibre l = s.fibre l) ∧
    ({ t with fibres := s.fibres, slots := s.slots } : State) = s ∧
    s.writeLanes n true (lanes.map fun i => (i, g i)) =
      t.writeLanes (n + 1) false (lanes.map fun i => (i, g i / 2 ^ 32))) ∧
  (∀ (r : BitVec 2) (d a b : BitVec 7) (bs : BitVec 1) (s : State) (f : Fibre) (t : Fmt) (en : Nat) (i : Instr)
    (g : Rctx → Val → Val → Val × Nat), Issues s f →
    (i, g) ∈ ([(.vfadd r d a b bs, Val.add), (.vfsub r d a b bs, valSub), (.vfmul r d a b bs, fun _ => Val.mul),
      (.vfdiv r d a b bs, fun _ => Val.div)] : List (Instr × (Rctx → Val → Val → Val × Nat))) →
    (floatType (modeType f.mode) = none → exec i s = .next (s.takeTrap ⟨trapILL, 6, 0, 0⟩)) ∧
    (floatType (modeType f.mode) = some t → LanesReady s f (decide (t.width = 64)) [d.toNat, a.toNat] (some (b, bs)) →
      en = enabledFlags f.mode (laneFlags (laneResults (lanesOf f.active) (floatLanes s f t r a b bs g))) → en ≠ 0 →
      exec i s = .next (s.takeTrap ⟨0x07, en, 0,
        flagLanes en (laneResults (lanesOf f.active) (floatLanes s f t r a b bs g))⟩)))

/-- The integer class, element by element under its type: sums, differences and products wrap or, under SAT, clamp;
shifts go by b mod w; minimum and maximum, absolute difference and average are those of the type (R283, R287).
The untyped class acts on whole words, or on pairs under a 64-bit type: logic, copy, broadcast of one lane,
selection by the guard in every lane of EXEC, and the shuffles, whose source lanes are read active or not (R283, R287,
R292, R294, R299). -/
def Obligations.VectorIntegers : Prop :=
  (∀ (d a b : BitVec 7) (bs : BitVec 1) (s : State) (f : Fibre) (t : Fmt) (i : Instr) (g : Nat → Nat → Nat),
    intType (modeType f.mode) = some t →
    LanesReady s f (decide (t.width = 64)) [d.toNat, a.toNat] (some (b, bs)) →
    (i, g) ∈ ([(.vadd d a b bs, fun x y => writeInt t (modeSAT f.mode) (readInt t x + readInt t y)),
      (.vsub d a b bs, fun x y => writeInt t (modeSAT f.mode) (readInt t x - readInt t y)),
      (.vmul d a b bs, fun x y => writeInt t (modeSAT f.mode) (readInt t x * readInt t y)),
      (.vmulh d a b bs, fun x y => writeInt t false (readInt t x * readInt t y / 2 ^ t.width)),
      (.vshl d a b bs, fun x y => x * 2 ^ (y % t.width) % 2 ^ t.width),
      (.vshr d a b bs, fun x y => x / 2 ^ (y % t.width)),
      (.vsar d a b bs, fun x y => (signedOf t.width x / 2 ^ (y % t.width) % (2 ^ t.width : Int)).toNat),
      (.vrot d a b bs, fun x y => (x * 2 ^ (y % t.width) + x / 2 ^ (t.width - y % t.width)) % 2 ^ t.width),
      (.vmin d a b bs, fun x y => if readInt t x ≤ readInt t y then x else y),
      (.vmax d a b bs, fun x y => if readInt t x ≤ readInt t y then y else x),
      (.vabsd d a b bs, fun x y => (readInt t x - readInt t y).natAbs),
      (.vavg d a b bs, fun x y => writeInt t false ((readInt t x + readInt t y + 1) / 2))] :
        List (Instr × (Nat → Nat → Nat))) →
    exec i s = lanesBecame s (decide (t.width = 64)) d.toNat (lanesOf f.active) (intLanes s f t a b bs g)) ∧
  (∀ (d a b : BitVec 7) (c : BitVec 6) (bs : BitVec 1) (s : State) (f : Fibre) (pair : Bool) (m : Nat)
    (x y : Nat → Nat), untypedPair (modeType f.mode) = some pair → m = (if pair then 2 ^ 64 - 1 else 2 ^ 32 - 1) →
    x = vGet s s.cur f a.toNat pair → y = bGet s s.cur f b bs pair →
    (LanesReady s f pair [d.toNat, a.toNat] (some (b, bs)) →
      (∀ i g, (i, g) ∈ ([(.vand d a b bs, fun l => x l &&& y l), (.vor d a b bs, fun l => x l ||| y l),
          (.vxor d a b bs, fun l => x l ^^^ y l), (.vandn d a b bs, fun l => x l &&& (m ^^^ y l)),
          (.vshfl d a b bs, fun l => x (y l % 2 ^ 32 % 32)), (.vshflx d a b bs, fun l => x (l ^^^ (y l % 2 ^ 32 % 32))),
          (.vshflup d a b bs, fun l => x (if y l % 2 ^ 32 ≤ l then l - y l % 2 ^ 32 else l)),
          (.vshfldn d a b bs, fun l => x (if l + y l % 2 ^ 32 ≤ 31 then l + y l % 2 ^ 32 else l))] :
            List (Instr × (Nat → Nat))) →
        exec i s = lanesBecame s pair d.toNat (lanesOf f.active) fun l => (g l, 0)) ∧
      exec (.vsel d a b bs) s =
        lanesBecame s pair d.toNat (lanesOf f.exec) fun l => (if bitOf f.guard l then x l else y l, 0)) ∧
    (LanesReady s f pair [d.toNat, a.toNat] (some (c.setWidth 7, 1)) → exec (.vbcast d a c) s =
      lanesBecame s pair d.toNat (lanesOf f.active) fun _ => (x ((f.s c.toNat).toNat % 32), 0)) ∧
    (LanesReady s f pair [d.toNat, a.toNat] none →
      exec (.vmov d a) s = lanesBecame s pair d.toNat (lanesOf f.active) (fun l => (x l, 0)) ∧
      exec (.vnot d a) s = lanesBecame s pair d.toNat (lanesOf f.active) fun l => (m ^^^ x l, 0)))

/-- Compares write bit lane of p[D] for the active lanes and keep the others; the class is integer for an integer
code and float otherwise, and a type narrower than 32 bits is ILL (R288).
What a compare answers: of integers by their type; of floats, EQ, NE, LT and LE are false, true, false, false with
a NaN, and invalid is raised by a signalling NaN, and by any NaN under LT and LE (R288). -/
def Obligations.VectorCompares : Prop :=
  (∀ (d : BitVec 3) (a b : BitVec 7) (bs : BitVec 1) (s : State) (f : Fibre) (t : Fmt) (i : Instr) (c : Cmp)
    (g : Nat → Bool × Nat),
    mixedType (modeType f.mode) = some t → Issues s f →
    (i, c) ∈ ([(.vcmpeq d a b bs, .eq), (.vcmpne d a b bs, .ne), (.vcmplt d a b bs, .lt), (.vcmple d a b bs, .le)] :
      List (Instr × Cmp)) →
    g = (fun l => cmpLane c t (modeFTZ f.mode) (vGet s s.cur f a.toNat (decide (t.width = 64)) l)
      (bGet s s.cur f b bs (decide (t.width = 64)) l)) →
    (t.width < 32 → exec i s = .next (s.takeTrap ⟨trapILL, 6, 0, 0⟩)) ∧
    (32 ≤ t.width → LanesReady s f (decide (t.width = 64)) [a.toNat] (some (b, bs)) →
      Untrapped f (lanesOf f.active) (fun l => (if (g l).1 then 1 else 0, (g l).2)) →
      ∃ q : Word, exec i s = .next ((s.setFibre s.cur ((f.setP d.toNat q).addFlags (laneFlags
          (laneResults (lanesOf f.active) fun l => (if (g l).1 then 1 else 0, (g l).2))))).drew 256).retire ∧
        ∀ l, l < 32 → q.getLsbD l = if f.active.getLsbD l then (g l).1 else (f.p d.toNat).getLsbD l)) ∧
  (∀ (t : Fmt) (ftz : Bool) (x y : Nat) (u v : Val), u = (t.readFtz ftz x).1 → v = (t.readFtz ftz y).1 →
    (t.isFloat = false →
      cmpLane .eq t ftz x y = (decide (readInt t x = readInt t y), 0) ∧
      cmpLane .ne t ftz x y = (decide (readInt t x ≠ readInt t y), 0) ∧
      cmpLane .lt t ftz x y = (decide (readInt t x < readInt t y), 0) ∧
      cmpLane .le t ftz x y = (decide (readInt t x ≤ readInt t y), 0)) ∧
    (t.isFloat = true → u.isNaN = true ∨ v.isNaN = true →
      cmpLane .eq t ftz x y = (false, if u.isSignalling || v.isSignalling then flagInvalid else 0) ∧
      cmpLane .ne t ftz x y = (true, if u.isSignalling || v.isSignalling then flagInvalid else 0) ∧
      cmpLane .lt t ftz x y = (false, flagInvalid) ∧ cmpLane .le t ftz x y = (false, flagInvalid)) ∧
    (t.isFloat = true → u.isNaN = false → v.isNaN = false →
      cmpLane .eq t ftz x y = (Val.cmp u v == .eq, 0) ∧ cmpLane .ne t ftz x y = (Val.cmp u v != .eq, 0) ∧
      cmpLane .lt t ftz x y = (Val.cmp u v == .lt, 0) ∧ cmpLane .le t ftz x y = (Val.cmp u v != .gt, 0)))

/-- Float arithmetic: the exact sum, difference, product, quotient or fused a × b + c of the elements, rounded once
under RO or MODE.RM; VFMIN and its like select an encoding; flags are ored into FSTAT (R289, R290, R291, R304).
Clamp, copy-sign, dot products, negation, absolute value, counting, bit reversal and float classification (R292,
R293, R294, R297), and VLANEID, which writes the lane numbers.
Readings and choices of the model in it: log 12. -/
def Obligations.VectorFloats : Prop :=
  (∀ (r : BitVec 2) (d a b c : BitVec 7) (bs : BitVec 1) (s : State) (f : Fibre) (t : Fmt),
    floatType (modeType f.mode) = some t →
    (LanesReady s f (decide (t.width = 64)) [d.toNat, a.toNat] (some (b, bs)) →
      (∀ i g, (i, g) ∈ ([(.vfadd r d a b bs, Val.add), (.vfsub r d a b bs, valSub),
          (.vfmul r d a b bs, fun _ => Val.mul), (.vfdiv r d a b bs, fun _ => Val.div)] :
            List (Instr × (Rctx → Val → Val → Val × Nat))) →
        Untrapped f (lanesOf f.active) (floatLanes s f t r a b bs g) →
        exec i s = lanesBecame s (decide (t.width = 64)) d.toNat (lanesOf f.active) (floatLanes s f t r a b bs g)) ∧
      (∀ i wantMax num g, (i, wantMax, num) ∈ ([(.vfmin d a b bs, false, false), (.vfmax d a b bs, true, false),
          (.vfminnum d a b bs, false, true), (.vfmaxnum d a b bs, true, true)] : List (Instr × Bool × Bool)) →
        g = (fun l => perElem t fun e => selectFloat t (vecCtx s f.mode 0 l e) wantMax num
          (elem t.width (vGet s s.cur f a.toNat (decide (t.width = 64)) l) e)
          (elem t.width (bGet s s.cur f b bs (decide (t.width = 64)) l) e)) →
        Untrapped f (lanesOf f.active) g →
        exec i s = lanesBecame s (decide (t.width = 64)) d.toNat (lanesOf f.active) g)) ∧
    (∀ g rd, LanesReady s f (decide (t.width = 64)) [d.toNat, a.toNat, b.toNat, c.toNat] none →
      rd = (fun (n : BitVec 7) l e =>
        (t.readFtz (modeFTZ f.mode) (elem t.width (vGet s s.cur f n.toNat (decide (t.width = 64)) l) e)).1) →
      g = (fun l => perElem t fun e => floatLane t (vecCtx s f.mode 0 l e)
        (Val.fma (vecCtx s f.mode 0 l e) (rd a l e) (rd b l e) (rd c l e))) →
      Untrapped f (lanesOf f.active) g →
      exec (.vfma d a b c) s = lanesBecame s (decide (t.width = 64)) d.toNat (lanesOf f.active) g)) ∧
  (∀ (d a b : BitVec 7) (bs y x : BitVec 1) (s : State) (f : Fibre) (t : Fmt),
    (mixedType (modeType f.mode) = some t →
      (LanesReady s f (decide (t.width = 64)) [d.toNat, a.toNat] (some (b, bs)) →
        ∀ i g h, (i, g) ∈ ([(.vclamp d a b bs, clampElem), (.vcsign d a b bs, csignElem)] :
            List (Instr × (Fmt → Rctx → Nat → Nat → Nat → Nat × Nat))) →
          h = (fun l => perElem t fun e => g t (vecCtx s f.mode 0 l e)
            (elem t.width (vGet s s.cur f d.toNat (decide (t.width = 64)) l) e)
            (elem t.width (vGet s s.cur f a.toNat (decide (t.width = 64)) l) e)
            (elem t.width (bGet s s.cur f b bs (decide (t.width = 64)) l) e)) →
          Untrapped f (lanesOf f.active) h →
          exec i s = lanesBecame s (decide (t.width = 64)) d.toNat (lanesOf f.active) h) ∧
      (LanesReady s f (decide (t.width = 64)) [d.toNat, a.toNat] none →
        ∀ i g, (i, g) ∈ ([(.vneg d a, negElem t), (.vabs d a, absElem t)] : List (Instr × (Rctx → Nat → Nat × Nat))) →
          Untrapped f (lanesOf f.active) (oneLanes s f t 0 a g) →
          exec i s = lanesBecame s (decide (t.width = 64)) d.toNat (lanesOf f.active) (oneLanes s f t 0 a g))) ∧
    (intType (modeType f.mode) = some t → LanesReady s f (decide (t.width = 64)) [d.toNat, a.toNat] none →
      ∀ i g, (i, g) ∈ ([(.vclz d a, fun z => t.width - bitLen z), (.vpopc d a, fun z => popCount t.width z),
          (.vbrev d a, fun z => bitReverse t.width z)] : List (Instr × (Nat → Nat))) →
        exec i s = lanesBecame s (decide (t.width = 64)) d.toNat (lanesOf f.active)
          (oneLanes s f t 0 a fun _ z => (g z, 0))) ∧
    (floatType (modeType f.mode) = some t → LanesReady s f (decide (t.width = 64)) [d.toNat, a.toNat] none →
      exec (.vfclass d a) s = lanesBecame s (decide (t.width = 64)) d.toNat (lanesOf f.active)
        (oneLanes s f t 0 a fun _ z => (classMask t z, 0))) ∧
    (LanesReady s f false [d.toNat] none →
      exec (.vlaneid d) s = lanesBecame s false d.toNat (lanesOf f.active) fun l => (l, 0)) ∧
    (LanesReady s f false [d.toNat, a.toNat] (some (b, bs)) →
      ∀ i w, (i, w) ∈ ([(.vdot4 d a b bs y x, 8), (.vdot8 d a b bs y x, 4)] : List (Instr × Nat)) →
        exec i s = lanesBecame s false d.toNat (lanesOf f.active) fun l =>
          (writeInt (if x = 1 ∨ y = 1 then .s32 else .n32) (modeSAT f.mode)
            ((List.range (32 / w)).foldl (fun acc k =>
                acc + dotElem w (decide (x = 1)) (vGet s s.cur f a.toNat false l) k *
                  dotElem w (decide (y = 1)) (bGet s s.cur f b bs false l) k)
              (readInt (if x = 1 ∨ y = 1 then .s32 else .n32) (vGet s s.cur f d.toNat false l))), 0)))

/-- Rounding to integral values, the fraction, and the functions: of the latter the value is a free value of Config,
and the statement holds for every such value (R295, R296).
The result of a function is within the bound that R296 gives its type, 1 ulp wider in modes other than RNE, or is f(a)
rounded once; special operands have the results and flags of its table (R296).
VCVT converts each element of the type in MODE to the target format under RO, and VCVTS does so saturating; the
wider of the two formats gives the number of elements (R298).
Readings and choices of the model in it: log 12, 14 and 92. -/
def Obligations.VectorFunctions : Prop :=
  (∀ (g : Fun) (t : Fmt) (c : Rctx) (a v : Val) (neg : Bool) (m n : Nat) (e free ulp x : Int) (r : Nat),
    t.isFloat = true → g.value a = .near v → v = .fin neg m e → ulp = (floatOf t).lastPlace m e →
    (n, x) = (match g with
      | .sin | .cos => if t = .f32 then (1, -22) else (1, -((floatOf t).fbits : Int))
      | .log2 => if t = .f32 then (if nearOne a then (1, -22) else (2, ulp)) else (1, ulp)
      | .rsq | .exp2 | .tanh => (if t = .f32 then 2 else 1, ulp)
      | .rcp | .sqrt => (1, ulp)) →
    r = (g.write t (floatOf t) c a free).1 → r ≠ ((floatOf t).round t.five c v).1 →
    (c.rm = .rne → withinBound (floatOf t) r v n x = true) ∧
    (c.rm ≠ .rne → x ≤ ulp → withinBound (floatOf t) r v (n + 2 ^ (ulp - x).toNat) x = true) ∧
    (c.rm ≠ .rne → ulp < x → withinBound (floatOf t) r v (n * 2 ^ (x - ulp).toNat + 1) ulp = true)) ∧
  (∀ (z : Bool) (k m : Nat) (e : Int), 0 < m →
    (∀ p ∈ ([(.rcp, .fin z 0 e, .inf z, flagDivZero), (.rcp, .inf z, .fin z 0 0, 0),
        (.rsq, .fin z 0 e, .inf z, flagDivZero), (.rsq, .inf false, .fin false 0 0, 0),
        (.sqrt, .fin z 0 e, .fin z 0 0, 0), (.sqrt, .inf false, .inf false, 0),
        (.exp2, .inf true, .fin false 0 0, 0), (.exp2, .inf false, .inf false, 0),
        (.log2, .fin z 0 e, .inf true, flagDivZero), (.log2, .inf false, .inf false, 0),
        (.sin, .fin z 0 e, .fin z 0 0, 0), (.tanh, .fin z 0 e, .fin z 0 0, 0), (.tanh, .inf z, .fin z 1 0, 0)] :
          List (Fun × Val × Val × Nat)), p.1.value p.2.1 = .special p.2.2.1 p.2.2.2) ∧
    (∀ g ∈ [Fun.rsq, .sqrt, .log2], g.value (.fin true m e) = .special Val.invalid flagInvalid) ∧
    (∀ g ∈ [Fun.sin, .cos], g.value (.inf z) = .special Val.invalid flagInvalid) ∧
    Fun.rcp.value (.fin z 1 e) = .exact (.fin z 1 (-e)) ∧
    Fun.log2.value (.fin false 1 e) = .exact (Val.ofInt e) ∧
    Fun.exp2.value (.fin z (k + 1) 0) = .exact (.fin false 1 (clipExp (signedMag z (k + 1))))) ∧
  (∀ (r : BitVec 2) (d a : BitVec 7) (s : State) (f : Fibre) (t : Fmt), floatType (modeType f.mode) = some t →
    LanesReady s f (decide (t.width = 64)) [d.toNat, a.toNat] none →
    (∀ i ro g, (i, ro, g) ∈ ([(.vfloor d a, 0, fun c x => integralElem t c .rdn false x),
        (.vceil d a, 0, fun c x => integralElem t c .rup false x),
        (.vtrunc d a, 0, fun c x => integralElem t c .rtz false x),
        (.vrint r d a, r, fun c x => integralElem t c c.rm true x), (.vfract d a, 0, fractElem t)] :
          List (Instr × BitVec 2 × (Rctx → Nat → Nat × Nat))) →
      Untrapped f (lanesOf f.active) (oneLanes s f t ro a g) →
      exec i s = lanesBecame s (decide (t.width = 64)) d.toNat (lanesOf f.active) (oneLanes s f t ro a g)) ∧
    (∀ i g h, (i, g) ∈ ([(.vrcp r d a, .rcp), (.vrsq r d a, .rsq), (.vsqrt r d a, .sqrt), (.vexp2 r d a, .exp2),
        (.vlog2 r d a, .log2), (.vsin r d a, .sin), (.vcos r d a, .cos), (.vtanh r d a, .tanh)] :
          List (Instr × Fun)) →
      t ≠ .f64 ∨ g ∈ [Fun.rcp, .rsq, .sqrt] →
      h = (fun l => perElem t fun e => g.write t (floatOf t) (vecCtx s f.mode r l e)
        (t.readFtz (modeFTZ f.mode) (elem t.width (vGet s s.cur f a.toNat (decide (t.width = 64)) l) e)).1
        (Config.function g.code (elem t.width (vGet s s.cur f a.toNat (decide (t.width = 64)) l) e)
          (s.draws + l * 8 + e))) →
      Untrapped f (lanesOf f.active) h →
      exec i s = lanesBecame s (decide (t.width = 64)) d.toNat (lanesOf f.active) h) ∧
    (∀ i, i ∈ [Instr.vexp2 r d a, .vlog2 r d a, .vsin r d a, .vcos r d a, .vtanh r d a] → t = .f64 →
      exec i s = .next (s.takeTrap ⟨trapILL, 6, 0, 0⟩))) ∧
  (∀ (r : BitVec 2) (d a : BitVec 7) (c : BitVec 6) (s : State) (f : Fibre) (src dst : Fmt) (sc : Bool) (n : Nat)
    (i : Instr) (sat : Bool) (h : Nat → Nat × Nat),
    src = modeType f.mode → src ≠ .raw → src ≠ .a96f → src ≠ .a96i → Fmt.ofCode c.toNat = some (dst, sc) →
    Issues s f → pairBad (decide (src.width = 64)) [a.toNat] = false →
    pairBad (decide (dst.width = 64)) [d.toNat] = false →
    Settled s (resVs s.cur f (pairRegs (decide (src.width = 64)) [a.toNat] ++
      pairRegs (decide (dst.width = 64)) [d.toNat])) →
    n = (if src.width = 64 ∨ dst.width = 64 then 1 else 32 / max src.width dst.width) →
    (i, sat) ∈ ([(.vcvt r d a c, false), (.vcvts r d a c, true)] : List (Instr × Bool)) →
    h = (fun l => packElems dst.width ((List.range n).map fun e =>
      convert src dst { vecCtx s f.mode r l e with sat := modeSAT f.mode || sat }
        (elem src.width (vGet s s.cur f a.toNat (decide (src.width = 64)) l) e))) →
    Untrapped f (lanesOf f.active) h →
    exec i s = lanesBecame s (decide (dst.width = 64)) d.toNat (lanesOf f.active) h)

/-- Reductions over the active lanes into s[D]: bitwise and, or and exclusive or, the ballot of non-zero lanes, the
first active lane, integer sums and extremes, and float sums and extremes by the tree; with no active lane each
writes the value that R253 lists (R253, R300, R301).
Bit fields act on words, and a 64-bit operating type is ILL; RAND32 and RANDF hash the key v[A] and the counter B
lane by lane (R302, R303).
Every step of the generator is invertible for a fixed key: two counters under one key never give the same value,
and every value is a word (R303).
Readings and choices of the model in it: log 12. -/
def Obligations.ReductionsAndFields : Prop :=
  (∀ (r : BitVec 2) (d : BitVec 6) (a : BitVec 7) (s : State) (f : Fibre) (t : Fmt) (pair : Bool) (x : Nat → Nat)
    (lanes : List Nat), lanes = lanesOf f.active →
    (untypedPair (modeType f.mode) = some pair → x = vGet s s.cur f a.toNat pair → ReduceReady s f pair d a →
      exec (.vrand d a) s =
        reduced s f d (lanes.foldl (fun acc i => acc &&& x i) (if pair then 2 ^ 64 - 1 else 2 ^ 32 - 1), 0) ∧
      exec (.vror d a) s = reduced s f d (lanes.foldl (fun acc i => acc ||| x i) 0, 0) ∧
      exec (.vrxor d a) s = reduced s f d (lanes.foldl (fun acc i => acc ^^^ x i) 0, 0) ∧
      exec (.vballot d a) s = reduced s f d ((maskOf (lanes.filter fun i => x i != 0)).toNat, 0) ∧
      exec (.vfirst d a) s = reduced s f d ((lanes.map x).headD (2 ^ 64 - 1), 0)) ∧
    (mixedType (modeType f.mode) = some t → 32 ≤ t.width → x = vGet s s.cur f a.toNat (decide (t.width = 64)) →
      ReduceReady s f (decide (t.width = 64)) d a →
      (t.isFloat = false →
        exec (.vrsum 0 d a) s = reduced s f d
          (if t.width = 64 then writeInt t (modeSAT f.mode) (lanes.foldl (fun acc i => acc + readInt t (x i)) 0)
            else ((lanes.foldl (fun acc i => acc + readInt t (x i)) 0) % (2 ^ 64 : Int)).toNat, 0) ∧
        exec (.vrmin d a) s = reduced s f d
          (((lanes.foldl (fun acc i => min acc (readInt t (x i))) t.bounds.2) % (2 ^ 64 : Int)).toNat, 0) ∧
        exec (.vrmax d a) s = reduced s f d
          (((lanes.foldl (fun acc i => max acc (readInt t (x i))) t.bounds.1) % (2 ^ 64 : Int)).toNat, 0)) ∧
      (t.isFloat = true →
        ∀ i v, (i, v) ∈ ([(.vrsum r d a, floatReduce t (treeAdd s f.mode r t) 0 x lanes),
            (.vrmin d a, floatReduce t (fun _ p q => selectFloat t (vecCtx s f.mode 0 0 0) false false p q)
              ((floatOf t).infinity false) x lanes),
            (.vrmax d a, floatReduce t (fun _ p q => selectFloat t (vecCtx s f.mode 0 0 0) true false p q)
              ((floatOf t).infinity true) x lanes)] : List (Instr × Nat × Nat)) →
          enabledFlags f.mode v.2 = 0 → exec i s = reduced s f d v))) ∧
  (∀ (d a b : BitVec 7) (bs : BitVec 1) (s : State) (f : Fibre) (x y z : Nat → Nat) (sg : Bool),
    x = vGet s s.cur f a.toNat false → y = bGet s s.cur f b bs false → z = vGet s s.cur f d.toNat false →
    sg = (match intType (modeType f.mode) with
      | some t => t.signed
      | none => false) →
    LanesReady s f false [d.toNat, a.toNat] (some (b, bs)) →
    (untypedPair (modeType f.mode) = some false → ∀ i g, (i, g) ∈ ([(.vbfe d a b bs, fun l =>
          (if 0 < min (y l / 2 ^ 8 % 64) (32 - y l % 32) ∧ sg = true ∧
              x l / 2 ^ (y l % 32) / 2 ^ (min (y l / 2 ^ 8 % 64) (32 - y l % 32) - 1) % 2 = 1 then
            2 ^ 32 - 2 ^ min (y l / 2 ^ 8 % 64) (32 - y l % 32) else 0) +
          x l / 2 ^ (y l % 32) % 2 ^ min (y l / 2 ^ 8 % 64) (32 - y l % 32)),
        (.vbfi d a b bs, fun l => bfi false (z l) (x l) (y l)), (.vperm d a b bs, fun l => perm false (z l) (x l) (y l)),
        (.vfunnel d a b bs, fun l => (x l * 2 ^ 32 + z l) / 2 ^ (y l % 32) % 2 ^ 32)] : List (Instr × (Nat → Nat))) →
      exec i s = lanesBecame s false d.toNat (lanesOf f.active) fun l => (g l, 0)) ∧
    (untypedPair (modeType f.mode) = some true → ∀ i ∈ [Instr.vbfe d a b bs, .vbfi d a b bs, .vperm d a b bs,
      .vfunnel d a b bs], exec i s = .next (s.takeTrap ⟨trapILL, 6, 0, 0⟩)) ∧
    exec (.rand32 d a b bs) s = lanesBecame s false d.toNat (lanesOf f.active) (fun l => (rand32 (x l) (y l), 0)) ∧
    exec (.randf d a b bs) s =
      lanesBecame s false d.toNat (lanesOf f.active) fun l => (unitFloat (rand32 (x l) (y l) / 2 ^ 8), 0)) ∧
  (∀ k c1 c2 : Nat, k < 2 ^ 32 → c1 < 2 ^ 32 → c2 < 2 ^ 32 → rand32 k c1 < 2 ^ 32 ∧
    (rand32 k c1 = rand32 k c2 → c1 = c2))

/-! ### Memory -/

/-- Each lane's address is s[SA] plus its index word modulo 2^64, the index word being v[VI] sign-extended or lane ×
access size when VI is 0x7F; in the scratch spaces it is the low 32 bits of the same sum (R8). -/
def Obligations.LaneAddresses : Prop :=
  ∀ (s : State) (f : Fibre) (a : BitVec 6) (i : BitVec 7) (nb : Nat) (sp : Space) (k : Nat) (sum : Dword), k < 32 →
    sum = f.s a.toNat + (if i = 127 then BitVec.ofNat 64 (k * nb)
      else (lane (s.v s.cur f i.toNat) k).signExtend 64) →
    (laneAddrs s f a i nb .global)[k]? = some sum ∧
    (sp ≠ .global → (laneAddrs s f a i nb sp)[k]? = some ((sum.setWidth 32).setWidth 64))

/-- A global address is canonical when bits [63:57] all equal bit 56; one that is not is refused with NONCANON, and an
address of the privileged half with PRIVHALF unless the fibre's region control block marks it privileged (R9). -/
def Obligations.AddressHalves : Prop :=
  (∀ va : Dword, canonical va.toNat = true ↔ ∀ i, 57 ≤ i → i < 64 → va.getLsbD i = va.getLsbD 56) ∧
  (∀ va : Dword, privHalf va.toNat = va.getLsbD 56) ∧
  (∀ (s : State) (f : Fibre), (s.who s.cur f).priv = true ↔ ∃ r, s.rcb f.region = some r ∧ r.priv = true) ∧
  (∀ (s : State) (w : Who) (k : AKind) (va : Dword) (n : Nat),
    (canonical va.toNat = false → resolve s w k va.toNat n = (.refuse causeNoncanon 0, s)) ∧
    (canonical va.toNat = true → privHalf va.toNat = true → w.priv = false →
      resolve s w k va.toNat n = (.refuse causePrivhalf 0, s)))

/-- A group scratch access of which any byte lies at or beyond the allocation is refused with SCRRANGE as a whole and
performs nothing; any other is performed in the group's scratch, untranslated (R11). -/
def Obligations.ScratchBounds : Prop :=
  ∀ (s : State) (w : Who) (k : AKind) (o : Op) (i nb a : Nat) (addr : List Dword) (data : List Nat) (sync : Bool),
    (s.scrLen o.group < a + nb → s.locate w o.group k .group a nb = (.refuse causeScrrange 0, s)) ∧
    (a + nb ≤ s.scrLen o.group → s.locate w o.group k .group a nb = (.ok [.gscr o.group a nb], s)) ∧
    (s.scrLen o.group < (addr.getD (i % 32) 0).toNat + nb → o.err = false →
      loadPart s o i nb .group addr sync = (.trouble (.refuse (addr.getD (i % 32) 0) causeScrrange 0), s) ∧
      storePart s o i nb .group addr data sync = (.trouble (.refuse (addr.getD (i % 32) 0) causeScrrange 0), s))

/-- A memory instruction with an active lane issues: its operation covers the active lanes at the addresses of R8, with
their data, in the space its field names, and its destinations are pending (R306 to R308, R310 to R316).
A memory instruction with no active lane makes no access and changes nothing; one whose counter stands at 62
cannot issue; a misaligned lane of ATOM traps with ALIGN and those lanes, and SATOM with lane 0; tag words with bits
that the tags do not have are ILL (R253, R267, R311 to R313, R316).
Readings and choices of the model in it: log 28, 30 and 31. -/
def Obligations.MemoryLaunch : Prop :=
  (∀ (d : BitVec 7) (e a b t : BitVec 6) (i : BitVec 7) (p : BitVec 2) (x w r : BitVec 1) (z : BitVec 3) (o : BitVec 4)
    (off : BitVec 14) (s : State) (f : Fibre) (sp : Space) (nb n : Nat) (lanes : List Nat), f.active ≠ 0 →
    sp = Space.ofCode p.toNat → nb = 2 ^ z.toNat → n = sizeRegs z.toNat → lanes = lanesOf f.active →
    Settled s (resS s.cur [e.toNat, a.toNat, b.toNat, t.toNat]) →
    Settled s (resVs s.cur f (regRun d.toNat 4 ++ indexReg i)) →
    (∀ body dst addr, addr = laneAddrs s f a i nb sp → dst = resVs s.cur f (regRun d.toNat n) →
      body = .load dst nb (decide (x = 1)) sp addr false → MayLaunch s f ctrLD (seenLanes sp lanes addr nb) body →
      exec (.ld d a i p x z) s = launched s f ctrLD f.active (f.s a.toNat) 0 dst body) ∧
    (∀ body addr, addr = laneAddrs s f a i nb sp →
      body = .store nb sp addr ((laneData s f d.toNat n).map (· % 2 ^ (8 * nb))) false →
      MayLaunch s f ctrST (seenLanes sp lanes addr nb) body →
      exec (.st d a i p z) s = launched s f ctrST f.active (f.s a.toNat) 0 [] body) ∧
    (∀ va, va = f.s a.toNat + off.signExtend 64 * 8 →
      (∀ body dst, dst = [.s (fidOf s.cur) e.toNat] → body = .load dst 8 false .global [va] false →
        MayLaunch s f ctrLD [(va.toNat, 8)] body →
        exec (.sld e a off) s = launched s f ctrLD 1 (f.s a.toNat) 0 dst body) ∧
      (∀ body, body = .store 8 .global [va] [(f.s e.toNat).toNat] false → MayLaunch s f ctrST [(va.toNat, 8)] body →
        exec (.sst e a off) s = launched s f ctrST 1 (f.s a.toNat) (f.s e.toNat) [] body)) ∧
    (∀ va, va = f.s a.toNat →
      (∀ body dv dt, dv = resV (fidOf s.cur) f.wdesc d.toNat → dt = .s (fidOf s.cur) t.toNat → body = .ldt dv dt va →
        MayLaunch s f ctrLD (seenBlocks f va) body →
        exec (.ldt d a t) s = launched s f ctrLD f.active va 0 [dv, dt] body) ∧
      (∀ body, f.s t.toNat < 2 ^ 32 → body = .stt va (laneData s f d.toNat 1) (f.s t.toNat).toNat →
        MayLaunch s f ctrST (seenBlocks f va) body →
        exec (.stt d a t) s = launched s f ctrST f.active va (f.s t.toNat) [] body) ∧
      (∀ body, f.s b.toNat < 2 ^ 16 → body = .tagset va (f.s b.toNat).toNat →
        MayLaunch s f ctrST [(va.toNat / 64 * 64, 64)] body →
        exec (.tagset a b) s = launched s f ctrST f.active va (f.s b.toNat) [] body) ∧
      (∀ body dst, dst = .s (fidOf s.cur) e.toNat → body = .tagget dst va →
        MayLaunch s f ctrLD [(va.toNat / 64 * 64, 64)] body →
        exec (.tagget e a) s = launched s f ctrLD f.active va 0 [dst] body)) ∧
    (∀ body dst addr ctr q, q = (if w = 1 then 2 else 1) → ctr = (if r = 1 then ctrLD else ctrST) →
      addr = laneAddrs s f a i (4 * q) .global → misaligned lanes addr (4 * q) = [] →
      dst = (if r = 1 then resVs s.cur f (regRun d.toNat q) else []) →
      body = .atom dst o.toNat (4 * q) (modeSC f.mode) false addr (laneData s f d.toNat q)
        (if o = 10 then laneData s f (d.toNat + q) q else []) s.draws →
      MayLaunch (s.drew 1) f ctr (seenAtoms lanes addr (4 * q)) body →
      exec (.atom d a i w r o) s = launched (s.drew 1) f ctr f.active (f.s a.toNat) 0 dst body) ∧
    (∀ body dst va ctr q, q = (if w = 1 then 8 else 4) → ctr = (if r = 1 then ctrLD else ctrST) →
      va = f.s a.toNat → va.toNat % q = 0 → dst = (if r = 1 then [.s (fidOf s.cur) e.toNat] else []) →
      body = .atom dst o.toNat q (modeSC f.mode) true [va] [(f.s e.toNat).toNat % 2 ^ (8 * q)]
        [(f.s b.toNat).toNat % 2 ^ (8 * q)] 0 →
      MayLaunch s f ctr [(va.toNat, q)] body →
      exec (.satom e a b w r o) s = launched s f ctr f.active va (f.s e.toNat) dst body)) ∧
  (∀ (d : BitVec 7) (e a b t : BitVec 6) (i : BitVec 7) (p : BitVec 2) (x w r : BitVec 1) (z : BitVec 3) (o : BitVec 4)
    (s : State) (f : Fibre) (q : Nat), Issues s f → q = (if w = 1 then 8 else 4) →
    Settled s (resS s.cur [e.toNat, a.toNat, b.toNat, t.toNat]) →
    Settled s (resVs s.cur f (regRun d.toNat 4 ++ indexReg i)) →
    (f.active = 0 → ∀ j ∈ [Instr.ld d a i p x z, .st d a i p z, .ldt d a t, .stt d a t, .atom d a i w r o],
      exec j s = became s f) ∧
    (f.active ≠ 0 → f.ctrFull ctrLD = true → ∀ j ∈ [Instr.ld d a i p x z, .ldt d a t, .tagget e a],
      exec j s = .next s.stall) ∧
    (f.active ≠ 0 → f.ctrFull ctrST = true → exec (.st d a i p z) s = .next s.stall) ∧
    (f.active ≠ 0 → misaligned (lanesOf f.active) (laneAddrs s f a i q .global) q ≠ [] →
      exec (.atom d a i w r o) s = .next (s.takeTrap
        ⟨0x06, 0, 0, maskOf (misaligned (lanesOf f.active) (laneAddrs s f a i q .global) q)⟩)) ∧
    ((f.s a.toNat).toNat % q ≠ 0 → exec (.satom e a b w r o) s = .next (s.takeTrap ⟨0x06, 0, 0, 1⟩)) ∧
    (f.active ≠ 0 → 2 ^ 32 ≤ f.s t.toNat → exec (.stt d a t) s = .next (s.takeTrap ⟨trapILL, 6, 0, 0⟩)) ∧
    (2 ^ 16 ≤ f.s b.toNat → exec (.tagset a b) s = .next (s.takeTrap ⟨trapILL, 6, 0, 0⟩)))

/-- A lane in group scratch: a load returns the bytes at its address, lowest first; a store whose bytes no higher
active lane writes puts its bytes there, a 128-bit access half by half; an atomic returns the old value and writes the new one; nothing else changes
(R3, R127, R307, R313, R314).
What an atomic leaves in memory: sum and difference modulo the width, signed and unsigned minimum and maximum,
and, or, exclusive or, exchange, and compare-and-swap (R314).
Readings and choices of the model in it: log 13 and 31. -/
def Obligations.ScratchAccess : Prop :=
  (∀ (s : State) (o : Op) (g : Group) (i nb off n op scope : Nat) (addr : List Dword) (data c : List Nat) (sync : Bool)
    (put : Nat → List Byte → State) (va : Dword), Sparse.find s.groups o.group = some g →
    (s.fibre o.loc).isSome → 0 < nb →
    put = (fun x b => { s with groups := Sparse.put s.groups o.group { g with
      scratch := writeBytes g.scratch x b } }) →
    (i < 64 → (off, n) = (if nb = 16 then (i / 32 * 8, 8) else (0, nb)) → va = addr.getD (i % 32) 0 →
      va.toNat + nb ≤ g.scrLen → va < 2 ^ 32 →
      loadPart s o i nb .group addr sync = (.done [leNat (readBytes g.scratch (va.toNat + off) n)] [], s) ∧
      ((∀ k ∈ lanesOf o.lmask, i % 32 < k → ∀ j, j < n →
          nb ≤ (BitVec.ofNat 64 (va.toNat + off + j) - addr.getD k 0).toNat) →
        storePart s o i nb .group addr data sync =
          (.done [] [], put (va.toNat + off) (leBytes n (data.getD (i % 32) 0 / 2 ^ (8 * off)))))) ∧
    (∀ a old, va = addr.getD i 0 → field va 32 32 = 0xFE000000 → a = va.toNat % 2 ^ 32 → a + nb ≤ g.scrLen →
      old = leNat (readBytes g.scratch a nb) →
      atomPart s o i op nb scope false addr data c =
        (.done [old] [], put a (leBytes nb (atomNew op nb old (data.getD i 0) (c.getD i 0)))))) ∧
  (∀ (nb old b c : Nat), old < 2 ^ (8 * nb) → b < 2 ^ (8 * nb) →
    atomNew 0 nb old b c = (old + b) % 2 ^ (8 * nb) ∧ (atomNew 1 nb old b c + b) % 2 ^ (8 * nb) = old ∧
    signedOf (8 * nb) (atomNew 2 nb old b c) = min (signedOf (8 * nb) old) (signedOf (8 * nb) b) ∧
    signedOf (8 * nb) (atomNew 3 nb old b c) = max (signedOf (8 * nb) old) (signedOf (8 * nb) b) ∧
    atomNew 4 nb old b c = min old b ∧ atomNew 5 nb old b c = max old b ∧ atomNew 6 nb old b c = old &&& b ∧
    atomNew 7 nb old b c = old ||| b ∧ atomNew 8 nb old b c = old ^^^ b ∧ atomNew 9 nb old b c = b ∧
    atomNew 10 nb old b c = (if old = c then b else old))

/-- The bytes that a store writes, and no others, read as written: through the core's L1 they are seen by that core
and the home keeps its bytes; through to the home both see them; other cores see what they saw (R3, R76, R143,
R308).
The outcomes of one operation's lanes combine to the highest kind, among its lanes to the lowest cause, and of
those to the lowest-numbered lane (R166).
Readings and choices of the model in it: log 10, by which a core reads its own dirty bytes, then its cluster's, then
the home's. -/
def Obligations.BytesWritten : Prop :=
  (∀ (m : Mem) (core c a x : Nat) (b : List Byte) (p : Sparse Byte),
    let after (old : Byte) : Byte := if a ≤ x ∧ x < a + b.length then b.getD (x - a) 0 else old
    Sparse.getZ (writeBytes p a b) x = after (Sparse.getZ p x) ∧
    (m.storeAt core (.vault a) b).byteFor core x = after (m.byteFor core x) ∧
    (m.storeAt core (.vault a) b).vault = m.vault ∧
    (c ≠ core → x < 2 ^ 39 → a + b.length ≤ 2 ^ 39 →
      (m.storeAt core (.vault a) b).byteFor c x = m.byteFor c x) ∧
    (m.homeWrite (some core) (.vault a) b).byteFor core x = after (m.byteFor core x) ∧
    Sparse.getZ (m.homeWrite (some core) (.vault a) b).vault x = after (Sparse.getZ m.vault x) ∧
    Sparse.getZ (m.storeAt core (.host a) b).host x = after (Sparse.getZ m.host x) ∧
    Sparse.getZ (m.storeAt core (.peer a) b).fabric x = after (Sparse.getZ m.fabric x) ∧
    (m.storeAt core (.host a) b).vault = m.vault ∧ (m.storeAt core (.host a) b).l1 = m.l1 ∧
    (m.storeAt core (.vault a) b).readAt core (.vault a) b.length = b) ∧
  (∀ (l : List Trouble) (t : Trouble), worst l = some t →
    (∃ before after, l = before ++ t :: after ∧
      (∀ u ∈ before, u.kind < t.kind ∨ (u.kind = t.kind ∧ t.cause < u.cause)) ∧
      ∀ u ∈ after, u.kind < t.kind ∨ (u.kind = t.kind ∧ t.cause ≤ u.cause)) ∧ worst [] = none)

/-- Every memory operation keeps the canonical form, in which equal memories are equal data, and memory has it after
reset. The form is the model's own representation of memories and no rule of the spec (log 2). -/
def Obligations.MemoryCanonical : Prop :=
  Mem.wf State.reset.mem = true ∧
  ∀ (m : Mem) (core line a : Nat) (who : Option Nat) (p : PLoc) (b : List Byte) (k : Mark) (t : BitVec 16) (s : State)
    (g : Sparse Byte), Mem.wf m = true →
    Mem.wf (m.storeAt core p b) = true ∧ Mem.wf (m.homeWrite who p b) = true ∧ Mem.wf (m.writeBack core line) = true ∧
    Mem.wf (m.writeBackAll core) = true ∧ Mem.wf (m.drain k) = true ∧ Mem.wf (m.cscrWrite a b) = true ∧
    Mem.wf (m.homeTag who p t) = true ∧ Mem.wf (m.tagStore core p t) = true ∧ Mem.wf (m.recallFrame line) = true ∧
    Mem.wf (m.castOut core line a) = true ∧ Mem.wf (m.recallLine line) = true ∧ Mem.wf (m.devWrites a b) = true ∧
    Mem.wf (m.blockBack line) = true ∧ Mem.wf (m.addMark line k) = true ∧
    (s.mem = m → Mem.wf (physWrite s a b).mem = true) ∧ (Memory.wf g = true → Memory.wf (writeBytes g a b) = true)

/-- CRDECL opens a range, unless its control word is malformed or it clashes with an open one, which is ILL; CRADD
issues an operation for the active lanes and CRCLOSE one for the range it stops; an identifier that is not open is
ILL (R319, R320, R321).
Readings and choices of the model in it: log 13 and 28. -/
def Obligations.CommutativeRanges : Prop :=
  ∀ (a b : BitVec 6) (v : BitVec 7) (s : State) (f : Fibre) (base c : Dword) (clash : Bool), Issues s f →
    base = f.s a.toNat → c = f.s b.toNat → Settled s (resS s.cur [a.toNat, b.toNat]) →
    clash = (s.mem.ranges.any fun r => r.asid = f.asid ∧ (r.rid = field c 50 6 ∨
      (base.toNat < r.base + r.len ∧ r.base < base.toNat + field c 0 40))) →
    (rangeBad base c = true ∨ clash = true → exec (.crdecl a b) s = .next (s.takeTrap ⟨trapILL, 6, 0, 0⟩)) ∧
    (rangeBad base c = false → clash = false → 512 ≤ s.mem.ranges.length → exec (.crdecl a b) s = .next s.stall) ∧
    (rangeBad base c = false → clash = false → s.mem.ranges.length < 512 → ∃ op,
      exec (.crdecl a b) s = .next ({ s with mem := { s.mem with ranges := s.mem.ranges ++
        [⟨f.asid, field c 50 6, base.toNat, field c 0 40, op, field c 40 6, f.region, false⟩] } } : State).retire ∧
      (op = .add ↔ field c 48 2 = 0) ∧ (op = .min ↔ field c 48 2 = 1) ∧ (op = .max ↔ field c 48 2 = 2)) ∧
    (∀ ls addr body, f.active ≠ 0 →
      Settled s (resVs s.cur f ((regRun v.toNat 3).filter fun n => decide (n < 128))) →
      ls = (List.range 32).map (fun i => craddLane s f base v.toNat i) → addr = ls.map (fun l => (l.map (·.2.1)).getD 0) →
      (∀ i ∈ lanesOf f.active, ls.getD i none ≠ none) →
      body = .cradd addr (ls.map fun l => (l.map (·.2.2)).getD 0) (ls.map fun l => (l.map (·.1.rid)).getD 0) s.draws →
      MayLaunch (s.drew 1) f ctrST ((lanesOf f.active).map fun i =>
        ((addr.getD i 0).toNat, ((ls.getD i none).map fun l => rangeWidth l.1.fmt).getD 0)) body →
      exec (.cradd a v) s = launched (s.drew 1) f ctrST f.active base 0 [] body) ∧
    (∀ r t, base < 64 → r ∈ s.mem.ranges → r.asid = f.asid → r.rid = base.toNat → r.closing = false →
      f.ctrFull ctrST = false →
      t = ({ s with mem := { s.mem with ranges := s.mem.ranges.map fun y =>
        if y.asid = f.asid ∧ y.rid = base.toNat then { y with closing := true } else y } } : State) →
      exec (.crclose a) s = launched t f ctrST f.active base 0 [] (.crclose base.toNat)) ∧
    (64 ≤ base ∨ (∀ r ∈ s.mem.ranges, r.asid = f.asid → r.rid = base.toNat → r.closing = true) →
      exec (.crclose a) s = .next (s.takeTrap ⟨trapILL, 6, 0, 0⟩))

/-! ### Ordering -/

/-- A dirty line that is written back brings its bytes home and changes what no core sees of its own lines; one that
leaves an L1 goes to a way of its cluster's cache or home; the merge window closes its entry (R76, R82, R93). A drain of
a core brings home its dirty lines of the marked epochs (R144).
A release at DEV or SYS scope has all that its core sees of the vault at home; one at CLU or DIE scope closes the core's
epoch and lets the fibre's writes through, which leave their marks at their homes (R142, R143). An acquire is over when
none of the drains it owes is under way; then its pending set is empty, and where it has read a release its core has
given its clean copies and its merge entries up (R144); one that owes drains sends them and waits.
Fences: FENCE.REL releases once the fibre's accesses are over; FENCE.ACQ acquires once its reads are over; AR, SC
and TX do both, SC after writing back its core's lines at CLU scope and wider and TX emptying the core's sampler
cache; each waits while drains it owes are under way (R135, R142, R144, R317, R318).
LDACQ issues an acquire read and is over when its reads have returned and its acquire is done; STREL waits for the
fibre's accesses, releases and issues its store (R131, R142, R309).
Readings and choices of the model in it: log 10, 40, 73 and 82. -/
def Obligations.Ordering : Prop :=
  ((∀ (m : Mem) (core line x : Nat), Mem.wf m = true →
    (m.writeBack core line).byteFor core x = m.byteFor core x ∧
    Sparse.getZ (m.writeBack core line).vault x =
      if x / 128 = line then m.byteFor core x else Sparse.getZ m.vault x) ∧
  (∀ (m : Mem) (core e : Nat) (md : WMode) (p : PLoc) (b : List Byte), md.through = some e →
    ⟨core, e⟩ ∈ Sparse.get [] (m.writeLine core md p b).marks p.key) ∧
  (∀ (s : State) (core line cluster : Nat) (asid : BitVec 16),
    (∃ t, exec (.dirtyLineWriteback core line) s = .next t ∧
      t.mem.host = s.mem.host ∧ t.mem.fabric = s.mem.fabric ∧ t.fibres = s.fibres ∧
      Sparse.find t.mem.l1 (l1Key core line) = none ∧ Sparse.find t.mem.copies (copyKey core line) = none ∧
      (Mem.wf s.mem = true → (∀ x, t.mem.byteFor core x = s.mem.byteFor core x) ∧
        ∀ l, Sparse.find s.mem.l1 (l1Key core line) = some l →
          (s.mem.cacheBanks (core / 4) = [] → ∀ x, x / 128 = line →
            Sparse.getZ t.mem.vault x = s.mem.byteFor core x) ∧
          (s.mem.cacheBanks (core / 4) ≠ [] → (Sparse.find t.mem.ccache (l1Key (core / 4) line)).isSome))) ∧
    (∃ m, exec (.mergeWindowClose cluster line asid) s = .next { s with mem := { s.mem with merges := m } } ∧
      ∀ e, e ∈ m ↔ e ∈ s.mem.merges ∧ ¬(e.cluster = cluster ∧ e.line = line ∧ e.asid = asid)) ∧
    (∃ t, exec (.drain core) s = .next t ∧ (∀ k, k ∈ t.mem.drains ↔ k ∈ s.mem.drains ∧ k.core ≠ core) ∧
      t.fibres = s.fibres ∧
      (Mem.wf s.mem = true → (∀ x, t.mem.byteFor core x = s.mem.byteFor core x) ∧
        ∀ k l, k ∈ s.mem.drains → k.core = core → line < 2 ^ 32 →
          Sparse.find s.mem.l1 (l1Key core line) = some l → l.epoch ≤ k.epoch →
          Sparse.find t.mem.l1 (l1Key core line) = none ∧
          ∀ x, x / 128 = line → Sparse.getZ t.mem.vault x = s.mem.byteFor core x)))) ∧
  (∀ (c : BitVec 3) (s : State) (f : Fibre) (core : Nat) (owed : List Mark), Issues s f → core = coreOf s.cur →
    owed = f.pendSet.filter (fun k => k.core ≠ core) →
    (s.lsuBusy s.cur Op.fenced = false →
      (∃ (t : State) (h : Fibre), exec (.fenceRel c) s = .next t.retire ∧ t.fibre s.cur = some h ∧ ({ t with
          mem := s.mem, fibres := s.fibres } : State) = s ∧
        (c.toNat ≤ 1 → t.mem = s.mem) ∧
        (2 ≤ c.toNat → c.toNat ≤ 3 → t.mem.l1 = s.mem.l1 ∧ t.mem.vault = s.mem.vault ∧
          Sparse.getN t.mem.epoch core = Sparse.getN s.mem.epoch core + 1 ∧
          h.wthru = some (Sparse.getN s.mem.epoch core)) ∧
        (4 ≤ c.toNat → h.wthru = none ∧ h.relNext = true ∧ (Mem.wf s.mem = true → ∀ x, x < 2 ^ 39 →
          Sparse.find t.mem.l1 (l1Key core (x / 128)) = none ∧
          Sparse.getZ t.mem.vault x = s.mem.byteFor core x))) ∧
      (f.draining = false → ∀ i r g sent t, (i, r, g) ∈ ([(.fenceAr c, s, id),
          (.fenceTx c, s, fun x => { x with mem := ({ x.mem with
            smp := x.mem.smp.filter fun l => l.core ≠ coreOf x.cur } : Mem).refresh (coreOf x.cur) }),
          (.fenceSc c, if c.toNat ≤ 1 then s else { s with mem := s.mem.writeBackAll core },
            fun x => if c.toNat ≤ 1 then x else { x with mem := x.mem.refresh (coreOf x.cur) })] :
            List (Instr × State × (State → State))) →
        (r.release s.cur c.toNat true false).acquire s.cur c.toNat = (sent, t) →
        (sent = false → exec i s = .next t.stall) ∧ (sent = true → exec i s = .next (g t).retire))) ∧
    (s.lsuBusy s.cur Op.fenced = true → f.draining = false →
      ∀ i ∈ [Instr.fenceRel c, .fenceAr c, .fenceSc c, .fenceTx c], exec i s = .next s.stall) ∧
    (s.lsuBusy s.cur (fun o => o.fenced && o.reads) = true → exec (.fenceAcq c) s = .next s.stall) ∧
    (s.lsuBusy s.cur (fun o => o.fenced && o.reads) = false →
      (c.toNat ≤ 1 → exec (.fenceAcq c) s = .next (s.modFibre s.cur Fibre.closeRelease).retire) ∧
      (2 ≤ c.toNat → (if f.draining then owed.any s.mem.drains.contains = false else owed = []) →
        ∃ (t : State) (h : Fibre), exec (.fenceAcq c) s = .next t.retire ∧ t.fibre s.cur = some h ∧
          h.pendSet = [] ∧ h.syncSet = [] ∧ h.draining = false ∧ h.sreg = f.sreg ∧
          t.mem.vault = s.mem.vault ∧ t.mem.l1 = s.mem.l1 ∧
          (f.pendSet ≠ [] ∨ f.syncSet ≠ [] → (∀ e ∈ t.mem.copies, e.1 / 2 ^ 64 ≠ core) ∧
            ∀ e ∈ t.mem.merges, e.cluster = core / 4 → core ∈ e.barred)) ∧
      (2 ≤ c.toNat → f.draining = false → owed ≠ [] → ∃ (t : State) (h : Fibre), exec (.fenceAcq c) s = .next t.stall ∧
        t.fibre s.cur = some h ∧ h.draining = true ∧ h.pendSet = f.pendSet ∧ ∀ k ∈ owed, k ∈ t.mem.drains) ∧
      (2 ≤ c.toNat → f.draining = true → owed.any s.mem.drains.contains = true →
        exec (.fenceAcq c) s = .next (s.modFibre s.cur Fibre.closeRelease).stall))) ∧
  (∀ (d : BitVec 7) (a : BitVec 6) (i : BitVec 7) (p z : BitVec 2) (x : BitVec 1) (s : State) (f : Fibre) (sp : Space)
    (nb n scope : Nat) (addr : List Dword), f.active ≠ 0 → sp = Space.ofCode p.toNat → nb = 2 ^ z.toNat →
    n = sizeRegs z.toNat → scope = sp.narrow (modeSC f.mode) → addr = laneAddrs s f a i nb sp →
    Settled s (resS s.cur [a.toNat]) → Settled s (resVs s.cur f (regRun d.toNat n ++ indexReg i)) →
    (∀ id o t, Issues s f → f.waitOp = some id → Sparse.find s.eng.ops id = some o → o.finished = true →
      s.acquire s.cur scope = (true, t) →
      exec (.ldacq d a i p x z) s = .next ((t.finishOp id).modFibre s.cur fun g =>
        { g.closeRelease with waitOp := none }).retire) ∧
    (∀ body t o, f.waitOp = none → body = .load (resVs s.cur f (regRun d.toNat n)) nb (decide (x = 1)) sp addr true →
      MayLaunch s f ctrLD (seenLanes sp (lanesOf f.active) addr nb) body →
      t = (enterLsu ((s.newOp f 1 f.active (f.s a.toNat) 0 (some ctrLD) body).2.addPend s.cur s.fresh
        (resVs s.cur f (regRun d.toNat n))) s.fresh).modFibre s.cur (Fibre.wrote · body.kind) →
      Sparse.find t.eng.ops s.fresh = some o → o.finished = false →
      exec (.ldacq d a i p x z) s =
        .next ((t.modFibre s.cur fun g => { g with waitOp := some s.fresh }).stall)) ∧
    (∀ body, s.lsuBusy s.cur Op.fenced = false →
      body = .store nb sp addr ((laneData s f d.toNat n).map (· % 2 ^ (8 * nb))) true →
      MayLaunch s f ctrST (seenLanes sp (lanesOf f.active) addr nb) body →
      exec (.strel d a i p z) s = launched (s.release s.cur scope false
        (scope == 4 && ownDie s f sp (lanesOf f.active) addr nb)) f ctrST f.active (f.s a.toNat) 0 [] body))

/-! ### Matrix engine -/

/-- A matrix command issues into the fibre's open batch: it captures its scalars, registers, MODE.SAT and MODE.SC,
and its tiles are pending (R334 to R336, R341, R344 to R351); without a matrix class in MODE.ET, or with a tile that
the slot does not have, it is ILL, and so is a record address that is no multiple of 64.
Readings and choices of the model in it: log 26. -/
def Obligations.MatrixCommands : Prop :=
  ∀ (a b : BitVec 6) (t : BitVec 3) (x y z h : BitVec 1) (p : BitVec 2) (s : State) (f : Fibre), Issues s f →
    f.openBatch.length < 8 → Settled s (resS s.cur [a.toNat, a.toNat + 1, b.toNat, b.toNat + 1]) →
    (∀ float, mxClass f.mode = some float →
      (t.toNat < (s.slot s.cur).tiles →
        exec (.mzero t) s = staged s f 0 0 (plainCmd f .mzero float 0 t.toNat 1)) ∧
      (∀ i k n, (i, k, n) ∈ ([(.mload a t, .mload, 1), (.mdrain a p t, .mdrain, 2 ^ p.toNat),
          (.mdraina a p t, .mdraina, 2 ^ p.toNat)] : List (Instr × MxKind × Nat)) →
        t.toNat + n ≤ (s.slot s.cur).tiles →
        exec i s = if (f.s a.toNat).toNat % 64 = 0
          then staged s f (f.s a.toNat) 0 (plainCmd f k float (f.s a.toNat) t.toNat n)
          else .next (s.takeTrap ⟨trapILL, 6, 0, 0⟩)) ∧
      (∀ i k t0 n ra rb w (names : Option (Nat × Nat) → List Nat) (held : Option (Nat × Nat) → Option (List VReg)),
        (i, k, t0, n, ra, rb, w) ∈ ([(.mma a b t y x, .mma, t.toNat, 1, x == 1, y == 1, false),
          (.mmaz a b t y x, .mmaz, t.toNat, 1, x == 1, y == 1, false),
          (.mmat a b z h, .mmat, 4 * h.toNat, 4, false, false, z == 1)] :
            List (Instr × MxKind × Nat × Nat × Bool × Bool × Bool)) →
        t0 + n ≤ (s.slot s.cur).tiles →
        (∀ r, names r = (r.map fun e => regRun e.1 e.2).getD []) →
        (∀ r, held r = r.map fun e => (regRun e.1 e.2).map fun m => s.v s.cur f m) →
        ∀ ca cb, operandRegs float ra true (k == .mmat) (mxK (f.s (a.toNat + 1))) (f.s a.toNat) (f.s (a.toNat + 1))
            = some ca →
          operandRegs float rb false (k == .mmat) (mxK (f.s (a.toNat + 1))) (f.s b.toNat) (f.s (b.toNat + 1))
            = some cb →
          Settled s (resVs s.cur f (names ca ++ names cb)) →
          exec i s = staged s f (f.s a.toNat) (f.s b.toNat)
            { kind := k, float := float, a0 := f.s a.toNat, a1 := f.s (a.toNat + 1), b0 := f.s b.toNat
              b1 := f.s (b.toNat + 1), ra := held ca, rb := held cb, tile := t0, span := n, z := w
              sat := modeSAT f.mode, scope := modeSC f.mode, phase := .staged, flags := 0 })) ∧
    (mxClass f.mode = none ∨ (s.slot s.cur).tiles ≤ t.toNat →
      ∀ i ∈ [Instr.mzero t, .mload a t, .mdrain a p t, .mdraina a p t, .mma a b t y x, .mmaz a b t y x],
        exec i s = .next (s.takeTrap ⟨trapILL, 6, 0, 0⟩)) ∧
    ((mxClass f.mode = some true ↔ modeET f.mode = 0x3C) ∧ (mxClass f.mode = some false ↔ modeET f.mode = 0x3D))

/-- MREAD gives lane j the three words of element j of the selected row; MWRITE makes element j of the row from the
lanes' words and leaves every other element; both wait for the tile's pending commands, and a selector with a bit
above bit 7 is ILL (R352).
MFENCE closes the open batch: its commands are queued, the batch takes the fibre's next number, which s[SA]
receives, and MX rises; without a command no counter rises; it cannot issue without room in the queue or with MX at
62. MWAIT cannot issue while a batch at or below s[SA] has not completed, and a number never closed is ILL (R337,
R353).
Readings and choices of the model in it: log 75. -/
def Obligations.MatrixRows : Prop :=
  (∀ (a : BitVec 6) (d : BitVec 7) (s : State) (f : Fibre) (float : Bool) (tile row : Nat), Issues s f →
    mxClass f.mode = some float → tile = (f.s a.toNat).toNat % 8 → row = (f.s a.toNat).toNat / 8 % 32 →
    tile < (s.slot s.cur).tiles → Settled s (resS s.cur [a.toNat]) → Settled s (resVs s.cur f (regRun d.toNat 3)) →
    opensTile s f tile = false →
    (f.s a.toNat < 256 → Settled s [.tile tile] →
      (∀ w : Nat → Nat → Word, (∀ k j, w k j =
          BitVec.extractLsb' (32 * k) 32 (Sparse.getZ (s.slot s.cur).tile (tile * 1024 + row * 32 + j))) →
        exec (.mread a d) s = .next (((s.setVLanes s.cur d.toNat (List.range 32) (w 0)).setVLanes s.cur (d.toNat + 1)
          (List.range 32) (w 1)).setVLanes s.cur (d.toNat + 2) (List.range 32) (w 2)).retire) ∧
      (∃ l, exec (.mwrite a d) s = .next (s.modSlot s.cur fun sl => { sl with tile := l }).retire ∧
        ∀ k, Sparse.getZ l k = if k / 32 = tile * 32 + row
          then lane (s.v s.cur f (d.toNat + 2)) (k % 32) ++ lane (s.v s.cur f (d.toNat + 1)) (k % 32) ++
            lane (s.v s.cur f d.toNat) (k % 32)
          else Sparse.getZ (s.slot s.cur).tile k)) ∧
    (f.s a.toNat < 256 → s.busy s.cur [.tile tile] = true →
      exec (.mread a d) s = .next s.stall ∧ exec (.mwrite a d) s = .next s.stall) ∧
    (256 ≤ f.s a.toNat → exec (.mread a d) s = .next (s.takeTrap ⟨trapILL, 6, 0, 0⟩) ∧
      exec (.mwrite a d) s = .next (s.takeTrap ⟨trapILL, 6, 0, 0⟩))) ∧
  (∀ (a : BitVec 6) (s : State) (f : Fibre) (num : Dword), Issues s f → Settled s (resS s.cur [a.toNat]) →
    num = BitVec.ofNat 64 f.nextBatch →
    (s.queueUse (s.cur / 32) + f.openBatch.length ≤ 16 → f.ctrFull ctrMX = false → batchCost s f = none →
      (∀ b ∈ s.co.batches, b.loc ≠ s.cur) →
      (f.openBatch = [] →
        exec (.mfence a) s = became s (Fibre.setS { f with nextBatch := f.nextBatch + 1 } a.toNat num)) ∧
      (f.openBatch ≠ [] → (∀ n ∈ f.openBatch, (s.mxCmd n).isSome) →
        exec (.mfence a) s = became (closed s f)
          ((Fibre.raiseCtr { f with openBatch := [], nextBatch := f.nextBatch + 1 } ctrMX).setS a.toNat num) ∧
        ∀ n c, (∃ o, (queuedOps s f).mxCmd n = some (o, c)) ↔ ∃ o c0, s.mxCmd n = some (o, c0) ∧
          c = if n ∈ f.openBatch then { c0 with phase := .queued } else c0)) ∧
    (16 < s.queueUse (s.cur / 32) + f.openBatch.length ∨ f.ctrFull ctrMX = true →
      exec (.mfence a) s = .next s.stall) ∧
    (f.nextBatch ≤ (f.s a.toNat).toNat → exec (.mwait a) s = .next (s.takeTrap ⟨trapILL, 6, 0, 0⟩)) ∧
    ((f.s a.toNat).toNat < f.nextBatch →
      exec (.mwait a) s = .next (if ∃ b ∈ s.co.batches, b.loc = s.cur ∧ b.num ≤ (f.s a.toNat).toNat
        then s.stall else s.retire)))

/-- The matrix engine: a queued command starts once the earlier commands with a common tile are complete, and MZERO
then makes its tile zero; a computed command completes, and the batch of which it was the last completes with it; a
waiting batch that may migrate moves to an idle engine of its cluster (R337 to R339, R349).
A product under A96F enters the accumulator exactly and the sum is rounded once, in RNE; an exactly zero sum is +0; a
NaN, a bad operand, and zero times infinity give the canonical NaN, the last two with the invalid flag (R121, R122).
Readings and choices of the model in it: log 12, 43 and 75. -/
def Obligations.MatrixEngine : Prop :=
  (∀ (sat z : Bool) (c fl : Nat) (x y : Val), (a96f.read c).isNaN = false →
    (x.isNaN = true ∨ y.isNaN = true →
      mxStep true sat (c, fl) (some x, some y) = (a96f.canonicalNaN, fl)) ∧
    (∀ ab ∈ [(none, some x), (some x, none), (none, none), (some (.inf z), some Val.zero),
        (some Val.zero, some (.inf z))], (mxStep true sat (c, fl) ab).1 = a96f.canonicalNaN ∧
      (mxStep true sat (c, fl) ab).2 = fl ||| flagInvalid) ∧
    (∀ n0 n1 n2 m0 m1 m2 e0 e1 e2 e sum, a96f.read c = .fin n0 m0 e0 → x = .fin n1 m1 e1 → y = .fin n2 m2 e2 →
      m1 * m2 ≠ 0 → e = min e0 (e1 + e2) →
      sum = signedMag n0 m0 * 2 ^ (e0 - e).toNat + signedMag (n1 != n2) (m1 * m2) * 2 ^ (e1 + e2 - e).toNat →
      (mxStep true sat (c, fl) (some x, some y)).1 =
        if sum = 0 then 0 else (a96f.round false Rctx.plain (.fin (decide (sum < 0)) sum.natAbs e)).1)) ∧
  ∀ (s : State) (id : Nat) (o : Op) (c : MxCmd) (t : State), s.mxCmd id = some (o, c) →
    (c.phase = .queued ∨ c.phase = .started → s.recorded id = false → s.mxBlocked id o c = false →
      exec (.matrixCommandStart id) s = .next (runMatrix s id false) ∧
      (c.kind = .mzero → s.recordOf id = none → ∀ k, Sparse.getZ ((runMatrix s id false).slot o.loc).tile k =
        if k / 1024 = c.tile then 0 else Sparse.getZ (s.slot o.loc).tile k)) ∧
    (c.phase ≠ .queued → c.phase ≠ .started → exec (.matrixCommandStart id) s = .next s) ∧
    (c.phase ≠ .computed → exec (.matrixCommandComplete id) s = .next s) ∧
    (t = s.modCmd id (fun c => { c with phase := .complete }) → c.phase = .computed →
      t.cmdDone id = true ∧
      (∀ b, t.co.batches.find? (fun b => b.loc = o.loc) = some b → b.ops.all t.cmdDone = false →
        exec (.matrixCommandComplete id) s = .next t) ∧
      (∀ b, t.co.batches = [b] → b.loc = o.loc → b.ops.all t.cmdDone = true →
        exec (.matrixCommandComplete id) s = .next (t.endBatch b))) ∧
    (∀ b engine, s.co.batches.find? (fun b => b.ops.contains id) = some b →
      s.co.batches.find? (fun x => x.engine = b.engine ∧ x.ops ≠ []) = some b →
      (∀ n ∈ b.ops, ∃ o c, s.mxCmd n = some (o, c) ∧ c.phase = .queued ∧ c.kind.migrates = true) →
      engine / 16 = b.engine / 16 → engine < 4 * Config.cores → (∀ x ∈ s.co.batches, x.engine ≠ engine) →
      exec (.batchMigration id engine) s = .next { s with co := { s.co with
        batches := s.co.batches.map fun x => if x = b then { x with engine := engine } else x } })

/-- A 10-bit scale code decodes as the table says, and the codes 0x001 to 0x3FB increase strictly in value, from 2^−128
to 1.75 × 2^127 (R109). A value is a magnitude and a power of two. -/
def Obligations.ScaleCodes : Prop :=
  (∀ (n : Bool) (m : Nat) (e : Int) (v : Val) (c : Nat),
    scaledVal 0 (.fin n m e) = Val.zero ∧
    (1 ≤ c → c ≤ 3 → scaledVal c (.fin n m e) = .fin n (m * c) (e - 128)) ∧
    (4 ≤ c → c ≤ 0x3FB → scaledVal c (.fin n m e) = .fin n (m * (4 + c % 4)) (e + ((c / 4 : Nat) - 127) - 2)) ∧
    (0x3FC ≤ c → (scaledVal c v).isNaN = true)) ∧
  (∀ c m1 m2 : Nat, ∀ e1 e2 : Int, 1 ≤ c → c < 0x3FB → scaleValue c = (m1, e1) → scaleValue (c + 1) = (m2, e2) →
    m1 * 2 ^ (e1 + 128).toNat < m2 * 2 ^ (e2 + 128).toNat) ∧
  scaleValue 1 = (1, -128) ∧ scaleValue 0x3FB = (7, 125)

/-- A96I is a 96-bit two's-complement integer: an addition wraps modulo 2^96, or clamps to the range when MODE.SAT was
set at issue (R113). -/
def Obligations.IntegerAccumulator : Prop :=
  ∀ (sat : Bool) (c : Nat) (x y : Val) (fl : Nat) (p : Int) (f : Fibre) (k : MxKind) (a : Dword) (t n : Nat),
    c < 2 ^ 96 → p = valInt x * valInt y →
    mxStep false sat (c, fl) (some x, some y) = (addA96i sat c p, fl) ∧ addA96i sat c p < 2 ^ 96 ∧
    signedOf 96 (addA96i sat c p) = (if sat then max (-(2 ^ 95)) (min (2 ^ 95 - 1) (signedOf 96 c + p))
      else Int.bmod (signedOf 96 c + p) (2 ^ 96)) ∧
    (plainCmd f k false a t n).sat = modeSAT f.mode

/-! ### Copy engine -/

/-- CPSTEP adds to the group's stage counter, which saturates; CPISSUE queues the entry of s[SA] to s[SA+3] and waits
without room; HWAITF and HWAITE wait for the handle's state; HREL and HREL.PUB change it after the fibre's accesses,
and are ILL in another state; HQUERY reads state and stage (R323, R326 to R329).
The copy engine: the entry at a group's cursor starts when the stage counter has reached its stage and a transfer
is free, and the cursor passes it; none starts once every fibre of the group is EXITING; a queued CPISSUE starts with
its leave; a started transfer that performs its accesses completes and leaves the machine (R323, R325, R328, R331).
Readings and choices of the model in it: log 40 (HREL waits and is no release), 43 and 95. -/
def Obligations.Copies : Prop :=
  (∀ (a h : BitVec 6) (n : BitVec 7) (s : State) (f : Fibre) (g : Group) (set : Handle → State), Issues s f →
    Sparse.find s.groups f.group = some g →
    set = (fun x => withGroupAs s f.group { g with handles := Sparse.put g.handles h.toNat x }) →
    (∃ g', exec (.cpstep n) s = .next (withGroupAs s f.group g').retire ∧
      g'.stage = min (g.stage + n.toNat) (2 ^ 32 - 1) ∧ { g' with stage := g.stage, steps := g.steps } = g) ∧
    (∀ e, Settled s (resS s.cur [a.toNat, a.toNat + 1, a.toNat + 2, a.toNat + 3]) →
      e = (f.s a.toNat).toNat + (f.s (a.toNat + 1)).toNat * 2 ^ 64 + (f.s (a.toNat + 2)).toNat * 2 ^ 128 +
        (f.s (a.toNat + 3)).toNat * 2 ^ 192 →
      (cpBad s.mem (clusterOf (coreOf s.cur)) e = true →
        exec (.cpissue a) s = .next (s.takeTrap ⟨trapILL, 6, 0, 0⟩)) ∧
      (cpBad s.mem (clusterOf (coreOf s.cur)) e = false → f.ctrFull ctrCP = true ∨ s.copyRoom f.group g = none →
        exec (.cpissue a) s = .next s.stall) ∧
      (∀ r, cpBad s.mem (clusterOf (coreOf s.cur)) e = false → f.ctrFull ctrCP = false →
        s.copyRoom f.group g = some r → cpBytes e ≤ 2 ^ 20 →
        exec (.cpissue a) s = .next (s.newOp f 5 f.active (f.s a.toNat) (f.s (a.toNat + 1)) (some ctrCP)
          (.copy e 0 false r false true)).2.retire)) ∧
    (∀ x, Sparse.find g.handles h.toNat = some x →
      exec (.hwaitf h) s = .next (if x.st = .full then s.retire else s.stall) ∧
      exec (.hwaite h) s = .next (if x.st = .free then s.retire else s.stall) ∧
      (s.lsuBusy s.cur Op.fenced = true →
        exec (.hrel h) s = .next s.stall ∧ exec (.hrelPub h) s = .next s.stall) ∧
      (s.lsuBusy s.cur Op.fenced = false →
        exec (.hrel h) s = .next (if x.st = .full then (set ⟨.free, 0, 0⟩).retire
          else s.takeTrap ⟨trapILL, 6, 0, 0⟩) ∧
        exec (.hrelPub h) s = .next (if x.st = .free then (set ⟨.full, 0, 0⟩).retire
          else s.takeTrap ⟨trapILL, 6, 0, 0⟩)) ∧
      (Settled s (resS s.cur [a.toNat]) → exec (.hquery a h) s = became s (f.setS a.toNat
        (BitVec.ofNat 64 (x.st.code + g.stage * 2 ^ 16))))) ∧
    (Sparse.find g.handles h.toNat = none → s.handlesUsed g.core < 64 →
      exec (.hwaitf h) s = .next (set ⟨.free, 0, 0⟩).stall ∧ exec (.hwaite h) s = .next (set ⟨.free, 0, 0⟩).retire) ∧
    (Sparse.find g.handles h.toNat = none → 64 ≤ s.handlesUsed g.core →
      exec (.hwaitf h) s = .next s.stall ∧ exec (.hwaite h) s = .next s.stall)) ∧
  ((∀ (s : State) (k : Nat) (g : Group) (base : Dword) (count e : Nat), Sparse.find s.groups k = some g →
    s.schedule g = (base, count) → g.sched = some e → g.schedOp = none → s.regionActive g.region = true →
    cpBad s.mem (clusterOf g.core) e = false → cpHv e = false → s.stageLeave k g (cpStage e) = (true, s) →
    (g.handles.all fun h => h.2.left != 0 || h.2.st == .free || h.2.st == .full) = true →
    (g.cursor < count → cpStage e ≤ g.stage → s.transfersOn g.core < 8 → s.leaving k = false → ∃ t,
      exec (.copyEntryStart k) s = .next t ∧
      (∃ o, Sparse.find t.eng.ops s.fresh = some o ∧ o.body = .copy e g.cursor true false true true) ∧
      (∃ h, Sparse.find t.groups k = some { g with cursor := g.cursor + 1, sched := none, handles := h }) ∧
      t.mem = s.mem ∧ t.fibres = s.fibres) ∧
    (count ≤ g.cursor ∨ g.stage < cpStage e ∨ 8 ≤ s.transfersOn g.core ∨ s.leaving k = true →
      exec (.copyEntryStart k) s = .next s)) ∧
  (∀ (s : State) (id e idx : Nat) (rsv lv : Bool) (o : Op) (g : Group), Sparse.find s.eng.ops id = some o →
    o.body = .copy e idx false rsv false lv → Sparse.find s.groups o.group = some g → cpHv e = false →
    exec (.cpissueStart id) s = .next (if lv = true ∧ s.regionActive g.region = true ∧ s.transfersOn g.core < 8
      then s.modOp id fun o => { o with body := .copy e idx false rsv true lv } else s)) ∧
  (∀ (s t : State) (id e idx : Nat) (rsv lv : Bool) (o : Op), Sparse.find s.eng.ops id = some o →
    o.body = .copy e idx false rsv true lv → s.recorded id = false →
    runThread s id 0 (transferProg s o.who.core e) = (.done (), t) →
    exec (.transferComplete id) s = .next (t.endTransfer id o e)) ∧
  (∀ (s : State) (id : Nat), s.recorded id = true → exec (.transferComplete id) s = .next s))

/-! ### Ray engine, sampler, rasteriser -/

/-- RQUERY and CQUERY start a traversal in a query slot that is not RUNNING, for the active lanes, from the root and
with the rays that the lanes hold; the slot runs and RY rises; a root that is no pointer of KIND 1 or 2, or a
misaligned record base, is ILL; a RUNNING slot or RY at 62 waits; no active lane does nothing (R367, R369, R370).
RCOMMIT makes the candidates of the active lanes at CAND their closest hits, and RRESUME discards them; the slot
runs again; on a slot that is not STOPPED both are ILL. RSTAT reads the slot's state and the active lanes at CAND
(R371, R372).
BQUERY issues a beam with s[SB] pending, under the credit of an earlier leave or with a granted leave, which
covers this and the next 15; a misaligned record is ILL (R236, R374, R379). A step of a query visits one node for one
lane, and a lane that has ended takes none; a beam whose record is refused or invalid ends with INVALID alone; one
that has nothing left ends with its counts (R365, R374 to R379).
A hit is a point of the ray on the triangle, at barycentric weights of one sign, with tmin ≤ t < tmax exactly, and t, u
and v are rounded once (R364).
Readings and choices of the model in it: log 15, 16, 28 and 43. -/
def Obligations.Rays : Prop :=
  (∀ (o d p0 p1 p2 : List Word) (tmin tmax t u v : Word) (cullb owns : Bool) (side : Nat),
    triHit o d tmin tmax cullb p0 p1 p2 side owns = some (t, u, v) →
    ∃ n det w0 w1 w2 : Int, det = w0 + w1 + w2 ∧ det ≠ 0 ∧ (cullb = true → det < 0) ∧
      ((0 ≤ w0 ∧ 0 ≤ w1 ∧ 0 ≤ w2) ∨ (w0 ≤ 0 ∧ w1 ≤ 0 ∧ w2 ≤ 0)) ∧
      (∀ k, k < 3 → n * fx (d.getD k 0) = w0 * (fx (p0.getD k 0) - fx (o.getD k 0)) +
        w1 * (fx (p1.getD k 0) - fx (o.getD k 0)) + w2 * (fx (p2.getD k 0) - fx (o.getD k 0))) ∧
      fx tmin * (det * det.sign) ≤ n * det.sign * 2 ^ 149 ∧
      (f32Finite tmax = true → n * det.sign * 2 ^ 149 < fx tmax * (det * det.sign)) ∧
      t = toF32 .rne (ratio n det) ∧ u = toF32 .rne (ratio w1 det) ∧ v = toF32 .rne (ratio w2 det)) ∧
  (∀ (a : BitVec 6) (n : BitVec 2) (v : BitVec 7) (s : State) (f : Fibre) (root : Nat) (w : Nat → Nat → Word)
    (lanes : List (Nat × RayLane)) (started : State → RayOp → Prop), Issues s f → root = (f.s a.toNat).toNat →
    Settled s (resS s.cur [a.toNat]) → Settled s (resVs s.cur f (regRun v.toNat 15)) →
    (∀ k i, w k i = lane (s.v s.cur f (v.toNat + k)) i) →
    lanes = (lanesOf f.active).map (fun i => (i, RayLane.start ((List.range 6).map fun k => w k i) (w 6 i) (w 7 i)
      (field (w 8 i) 0 8) (field (w 8 i) 8 3) none (nodeOf (windowBase root) root 0)
      (rayInvalid ((List.range 6).map fun k => w k i) (w 6 i) (w 7 i) || field (w 8 i) 11 21 != 0))) →
    (∀ t q, started t q ↔ (∃ o, Sparse.find t.eng.ops s.fresh = some o ∧ o.body = .ray q ∧ o.unit = 3 ∧
        o.lmask = f.active) ∧
      t.fibre s.cur = some { f.raiseCtr ctrRY with query := Sparse.put f.query n.toNat ⟨.running, s.fresh⟩ } ∧
      (∀ l, l ≠ s.cur → t.fibre l = s.fibre l) ∧ t.groups = s.groups ∧ t.co = s.co) →
    (f.active = 0 → exec (.rquery a n v) s = .next s.retire ∧ exec (.cquery a n v) s = .next s.retire) ∧
    (f.active ≠ 0 → ptrBad root = true ∨ ptrKind root = 0 ∨ ptrKind root = 3 →
      exec (.rquery a n v) s = .next (s.takeTrap ⟨trapILL, 6, 0, 0⟩)) ∧
    (f.active ≠ 0 → ptrBad root = false → ptrKind root = 1 ∨ ptrKind root = 2 →
      (f.slotState n.toNat = .running ∨ f.ctrFull ctrRY = true → exec (.rquery a n v) s = .next s.stall) ∧
      (f.slotState n.toNat ≠ .running → f.ctrFull ctrRY = false → (∃ e ∈ lanes, e.2.outcome = none) → ∃ t,
        exec (.rquery a n v) s = .next t.retire ∧
        started t ⟨n.toNat, false, windowBase root, 0, (regRun (v.toNat + 9) 6).map (resV (fidOf s.cur) f.wdesc),
          lanes⟩)) ∧
    (f.active ≠ 0 → root % 64 ≠ 0 → exec (.cquery a n v) s = .next (s.takeTrap ⟨trapILL, 6, 0, 0⟩)) ∧
    (f.active ≠ 0 → root % 64 = 0 →
      (f.slotState n.toNat = .running → exec (.cquery a n v) s = .next s.stall) ∧
      (f.slotState n.toNat ≠ .running → f.ctrFull ctrRY = false → ∃ t q, exec (.cquery a n v) s = .next t.retire ∧
        started t q ∧ q.cone = true ∧ q.recs = f.s a.toNat ∧ q.slot = n.toNat ∧
        q.lanes.map (·.1) = lanesOf f.active ∧ ∀ e ∈ q.lanes, e.2.ready = false ∧ e.2.outcome = none))) ∧
  (∀ (a : BitVec 6) (n : BitVec 2) (s : State) (f : Fibre), Issues s f →
    (f.slotState n.toNat ≠ .stopped → exec (.rcommit n) s = .next (s.takeTrap ⟨trapILL, 6, 0, 0⟩) ∧
      exec (.rresume n) s = .next (s.takeTrap ⟨trapILL, 6, 0, 0⟩)) ∧
    (f.slotState n.toNat = .stopped → f.active = 0 →
      exec (.rcommit n) s = .next s.retire ∧ exec (.rresume n) s = .next s.retire) ∧
    (∀ id o q, Sparse.find f.query n.toNat = some ⟨.stopped, id⟩ → s.rayOp id = some (o, q) → f.active ≠ 0 →
      Settled s q.dst → f.ctrFull ctrRY = false → ∀ i move,
      (i, move) ∈ ([(.rcommit n, fun l => match l.cand with
          | some h => { l with hit := some h, tmax := h.t, cand := none, outcome := if l.term then some outHIT else none }
          | none => l), (.rresume n, fun l => { l with cand := none, outcome := none })] :
            List (Instr × (RayLane → RayLane))) →
      ∀ lanes, lanes = q.lanes.map (fun e =>
          if f.active.getLsbD e.1 = true ∧ e.2.outcome = some outCAND then (e.1, move e.2) else e) →
        (∃ e ∈ lanes, e.2.outcome = none) → ∃ (t : State) (o' : Op), exec i s = .next t.retire ∧
          Sparse.find t.eng.ops id = some o' ∧ o'.body = .ray { q with lanes := lanes } ∧ o'.ctr = some ctrRY ∧
          t.fibre s.cur = some { f.raiseCtr ctrRY with query := Sparse.put f.query n.toNat ⟨.running, id⟩ } ∧
          t.mem = s.mem) ∧
    (Settled s (resS s.cur [a.toNat]) →
      (f.active = 0 → exec (.rstat a n) s = .next s.retire) ∧
      (f.active ≠ 0 → ∃ x, exec (.rstat a n) s = became s (f.setS a.toNat x) ∧
        x.setWidth 32 = BitVec.ofNat 32 (f.slotState n.toNat).code ∧
        ∀ id o q, Sparse.find f.query n.toNat = some ⟨.stopped, id⟩ → s.rayOp id = some (o, q) →
          (q.lanes.map (·.1)).Nodup → ∀ i, i < 32 → (x.getLsbD (32 + i) = true ↔
            f.active.getLsbD i = true ∧ ∃ l, (i, l) ∈ q.lanes ∧ l.outcome = some outCAND)))) ∧
  ((∀ (a b : BitVec 6) (s : State) (f : Fibre) (go : Nat → State → Out) (body : BeamOp), Issues s f →
    Settled s (resS s.cur [a.toNat, b.toNat]) →
    body = { addr := f.s a.toNat, query := none, res := .s (fidOf s.cur) b.toNat, scope := modeSC f.mode, stack := []
             cur := none, lpos := 0, splits := [], pend := [], follow := List.replicate 16 0, drop := false
             restart := none, best := [], emitted := 0, spill := false, invalid := false, subs := [], comb := [] } →
    go = (fun credit t => .next (((t.newOp f 3 f.active (f.s a.toNat) 0 (some ctrRY) (.beam body)).2.addPend s.cur
      s.fresh [body.res]).modFibre s.cur fun g => { g with beamCredit := credit }).retire) →
    ((f.s a.toNat).toNat % 64 ≠ 0 → exec (.bquery a b) s = .next (s.takeTrap ⟨trapILL, 6, 0, 0⟩)) ∧
    ((f.s a.toNat).toNat % 64 = 0 →
      (f.ctrFull ctrRY = true → exec (.bquery a b) s = .next s.stall) ∧
      (f.ctrFull ctrRY = false → f.beamCredit ≠ 0 → exec (.bquery a b) s = go (f.beamCredit - 1) s) ∧
      (f.ctrFull ctrRY = false → f.beamCredit = 0 → ∀ bal, f.leave = some bal →
        exec (.bquery a b) s = go 15 (s.setFibre s.cur { f with leave := none })))) ∧
  (∀ (s : State) (id i : Nat) (o : Op), Sparse.find s.eng.ops id = some o → s.recorded id = false →
    (∀ q, o.body = .ray q →
      exec (.nodeVisit id i) s = .next (stepQuery s id i o q) ∧
      (∀ l, Sparse.find q.lanes i = some l → l.outcome ≠ none → stepQuery s id i o q = s)) ∧
    (∀ b, o.body = .beam b →
      (∀ r l s1, b.query = none → (Req.record b.addr 128 beamBad).perform s o = (.done r l, s1) →
        r.headD 0 = 0 ∨ beamInvalid (leBytes 128 (r.headD 0)) = true →
        exec (.nodeVisit id i) s = .next (s1.endBeam id o { b with invalid := true })) ∧
      (∀ q, b.query = some q → b.comb = [] → b.splits = [] → b.subs = [] → b.cur = none → b.stack = [] →
        b.drop = false → exec (.nodeVisit id i) s = .next ((s.putRes o.loc b.res
          [(0, b.emitted + (if b.spill then 256 else 0) + (if b.invalid then 512 else 0))]).endOp id)) ∧
      (∀ q off x rest r l s1, b.query = some q → b.comb = (off, x) :: rest →
        (Req.atom (BitVec.ofNat 64 (bmHitbuf q + off)) 4 8 b.scope x).perform s o = (.done r l, s1) →
        exec (.nodeVisit id i) s = .next (s1.setBeam id { b with comb := rest })))))

/-- The texture instructions read their inputs at issue and leave their four result registers pending, with TX raised;
a misaligned descriptor is ILL and no active lane does nothing (R380, R381). A texture operation whose descriptor and
texels are read writes its results and TX falls; a TEXL beyond the levels or the level's size gives zeros (R382,
R383).
An index wraps, clamps or mirrors into the level, or lies in the border; N8 and S8 channels run from 0 or -1 to 1; the
four weights of a linear footprint are those of its fractions in 1/256 (R380, R382).
Readings and choices of the model in it: log 14, 28 and 43. -/
def Obligations.Textures : Prop :=
  (∀ (a : BitVec 6) (x : BitVec 7) (c : BitVec 2) (s : State) (f : Fibre) (i : Instr) (form n chan : Nat) (desc : Dword)
    (dst : List Res) (ins : List (List Word)), Issues s f →
    (i, form, n, chan) ∈ ([(.texs a x, 0, 3, 0), (.texd a x, 1, 6, 0), (.texc a x, 2, 5, 0), (.texl a x, 3, 3, 0),
      (.texg a c x, 4, 3, c.toNat)] : List (Instr × Nat × Nat × Nat)) →
    Settled s (resS s.cur [a.toNat]) → Settled s (resVs s.cur f (regRun x.toNat 6)) → desc = f.s a.toNat →
    dst = resVs s.cur f (regRun x.toNat 4) →
    ins = (List.range 32).map (fun l => (regRun x.toNat n).map fun k => lane (s.v s.cur f k) l) →
    (f.active = 0 → exec i s = .next s.retire) ∧
    (f.active ≠ 0 → desc.toNat % 64 ≠ 0 → exec i s = .next (s.takeTrap ⟨trapILL, 6, 0, 0⟩)) ∧
    (f.active ≠ 0 → desc.toNat % 64 = 0 → f.ctrFull ctrTX = true → exec i s = .next s.stall) ∧
    (f.active ≠ 0 → desc.toNat % 64 = 0 → f.ctrFull ctrTX = false →
      exec i s = .next (((s.drew 32).newOp f 2 f.active desc 0 (some ctrTX)
        (.tex ⟨form, chan, desc, ins, dst, s.draws⟩)).2.addPend s.cur s.fresh dst).retire)) ∧
  (∀ (s s1 s2 : State) (id v : Nat) (o : Op) (t : TexOp), Sparse.find s.eng.ops id = some o → o.body = .tex t →
    (s.recorded id = true → exec (.sampleComplete id) s = .next s) ∧
    (s.recorded id = false → runThread s id 32 (ask (.sample t.desc 64 txBad)) = (.done v, s1) →
      texLanes s1 id t v (lanesOf o.lmask) = ([], s2) →
      exec (.sampleComplete id) s = .next (s2.finishTex id t))) ∧
  (∀ (v chan draw : Nat) (ins : List Word), txLevels v ≤ (ins.getD 2 0).toNat ∨
      txW v (ins.getD 2 0).toNat ≤ (ins.getD 0 0).toNat ∨ txH v (ins.getD 2 0).toNat ≤ (ins.getD 1 0).toNat →
    laneProg v 3 chan ins draw = .ret [0, 0, 0, 0]) ∧
  (∀ (w : Nat) (i : Int), 0 < w →
    (∃ x, txIndex 0 w i = some x ∧ x < w ∧ (x : Int) % w = i % w) ∧
    (∃ x, txIndex 1 w i = some x ∧ (x : Int) = max 0 (min i (w - 1))) ∧
    (∃ x, txIndex 2 w i = some x ∧ x < w ∧ ((x : Int) = i % (2 * w) ∨ (x : Int) + i % (2 * w) = 2 * w - 1)) ∧
    (∀ x : Nat, txIndex 3 w i = some x ↔ (x : Int) = i ∧ x < w)) ∧
  (texelWord .n8 0 = 0 ∧ texelWord .n8 255 = one32 ∧ texelWord .s8 0x7F = one32 ∧ texelWord .s8 0x80 = 0xBF800000 ∧
    texelWord .s8 0x81 = 0xBF800000 ∧ texelWord .n16 0xFFFF = one32) ∧
  (∀ (v l : Nat) (x y : Int) (u w : Word) (a b : Nat), x = txCoord u (txW v l) → y = txCoord w (txH v l) →
    a = txPart x → b = txPart y → a < 256 ∧ b < 256 ∧
      filterLevel v l true u w = (texels v l [(txFloor x, txFloor y), (txFloor x + 1, txFloor y),
        (txFloor x, txFloor y + 1), (txFloor x + 1, txFloor y + 1)]).bind fun t => .ret (t.map (weigh
          [fFrac ((256 - a) * (256 - b) : Nat) 65536, fFrac (a * (256 - b) : Nat) 65536,
            fFrac ((256 - a) * b : Nat) 65536, fFrac (a * b : Nat) 65536])))

/-- RASTT and RCLEAR issue operations of the rasteriser with RS raised, RFRAME one without a counter that waits for
the operations of its frame, RTEST one for the undecided tests that its lanes name, which are then decided; a
misaligned descriptor, and reserved bits of TESTED, are ILL (R385 to R389).
A triangle of zero area, with a value that is not finite, or of negative area under CULLB produces no sample;
TESTED produces none in the planes. A test that is rejected reads its descriptor and writes nothing: the machine is as
that read leaves it, and as it was where the descriptor has been read before. A raster operation that performs all its
accesses is over, and a frame's event is written only once its operations are over and its tests are decided, as the
release write of its number (R386, R388, R389).
Readings and choices of the model in it: log 28, 43 and 44. -/
def Obligations.Raster : Prop :=
  (∀ (a b : BitVec 6) (x : BitVec 7) (s : State) (f : Fibre) (desc : Dword) (ins : List (List Word)), Issues s f →
    Settled s (resS s.cur [a.toNat, b.toNat]) → Settled s (resVs s.cur f (regRun x.toNat 12)) → desc = f.s a.toNat →
    ins = (List.range 32).map (fun l => (regRun x.toNat 12).map fun k => lane (s.v s.cur f k) l) →
    (f.active = 0 → ∀ i ∈ [Instr.rastt a x, .rtestAcc x, .rtestRej x], exec i s = .next s.retire) ∧
    (f.active ≠ 0 → desc.toNat % 64 ≠ 0 → exec (.rastt a x) s = .next (s.takeTrap ⟨trapILL, 6, 0, 0⟩)) ∧
    (f.active ≠ 0 → desc.toNat % 64 = 0 →
      (∀ l ∈ lanesOf f.active, lane (s.v s.cur f (x.toNat + 11)) l < 2) →
      exec (.rastt a x) s = .next (if f.ctrFull ctrRS then s.stall
        else (s.newOp f 4 f.active desc 0 (some ctrRS) (.rast (.tri desc ins))).2.retire)) ∧
    (∀ l ∈ lanesOf f.active, 2 ≤ lane (s.v s.cur f (x.toNat + 11)) l →
      exec (.rastt a x) s = .next (s.takeTrap ⟨trapILL, 6, 0, 0⟩)) ∧
    (desc.toNat % 64 ≠ 0 → ∀ i ∈ [Instr.rclear a, .rframe a b], exec i s = .next (s.takeTrap ⟨trapILL, 6, 0, 0⟩)) ∧
    (desc.toNat % 64 = 0 →
      exec (.rclear a) s = .next (if f.ctrFull ctrRS then s.stall
        else (s.newOp f 4 f.active desc 0 (some ctrRS) (.rast (.clear desc))).2.retire) ∧
      exec (.rframe a b) s = .next (s.newOp f 4 f.active desc (f.s b.toNat) none
        (.frame desc (f.s b.toNat) (modeSC f.mode)
          (s.eng.ops.filterMap fun e => if e.2.rasters f.asid desc then some e.1 else none))).2.retire) ∧
    (f.active ≠ 0 → f.ctrFull ctrRS = false → ∀ acc tests t,
      s.decideTests f x.toNat (lanesOf f.active) = (tests, t) →
      exec (if acc then .rtestAcc x else .rtestRej x) s = .next (if tests = [] then s.retire
        else (t.newOp f 4 (maskOf (tests.map (·.1))) 0 0 (some ctrRS) (.rast (.test acc tests))).2.retire) ∧
      (∀ e ∈ tests, e.1 ∈ lanesOf f.active ∧ e.2 ∈ s.co.tests ∧ e.2 ∉ t.co.tests ∧ e.2.asid = f.asid) ∧
      { t with co := s.co } = s)) ∧
  ((∀ (v : Nat) (ins : List Word), (ins.take 9).all f32Finite = false ∨ laneTri v ins = none →
    triProg v ins = .ret []) ∧
  (∀ (v : Nat) (ins : List Word) (t : List Vtx), laneTri v ins = some t →
    triArea t ≠ 0 ∧ (rsCullb v = true → 0 < triArea t)) ∧
  (∀ (id i k v : Nat) (tests : List (Nat × RTest)) (t : RTest) (s s1 : State) (o : Op),
    tests.find? (fun e => e.1 = i) = some (k, t) →
    (runThread s id i (ask (.record t.desc 64 rsBad)) = (.done v, s1) →
      testLane id false tests s i = (none, s1)) ∧
    (Sparse.find s.eng.ops id = some o → Sparse.get [] o.logs i = [v] → o.half = [] →
      testLane id false tests s i = (none, s))) ∧
  (∀ (s : State) (id : Nat) (o : Op), Sparse.find s.eng.ops id = some o →
    (s.recorded id = true → exec (.rastComplete id) s = .next s ∧ exec (.frameEvent id) s = .next s) ∧
    (s.recorded id = false →
      (∀ desc ins v s1 s2, o.body = .rast (.tri desc ins) →
        runThread s id 32 (ask (.record desc 64 rsBad)) = (.done v, s1) →
        rastLanes s1 id (triLane id o v desc ins) (lanesOf o.lmask) = (none, s2) →
        exec (.rastComplete id) s = .next (s2.endOp id)) ∧
      (∀ acc tests s1, o.body = .rast (.test acc tests) →
        rastLanes s id (testLane id acc tests) (lanesOf o.lmask) = (none, s1) →
        exec (.rastComplete id) s = .next (s1.endOp id)) ∧
      (∀ desc num scope after, o.body = .frame desc num scope after →
        ((∃ n ∈ after, s.opLive n = true) ∨ s.frameTests id o.asid desc = true →
          exec (.frameEvent id) s = .next s) ∧
        (∀ v s1 r l s2, (∀ n ∈ after, s.opLive n = false) → s.frameTests id o.asid desc = false →
          runThread s id 0 (ask (.record desc 64 rsBad)) = (.done v, s1) → v ≠ 0 →
          s1.releaseWrite o scope (rsEvent v) num.toNat = (.done r l, s2) →
          exec (.frameEvent id) s = .next (s2.endOp id))))))

/-! ### Barriers, windows, the end of a fibre -/

/-- FARRIVE raises the fibre's arrival count unless it already stands above the phase count; the phase count rises
when every participant has arrived, is EXITING or has left; FWAITB waits for the phase; FBAR is both in order; a
fibre outside the mask is ILL; a fibre that is PARKED, or that stands still for the debugger, counts as not arrived
(R393, R431). An arrival is a release of its group: it waits for the stores of the fibre that have not been performed
(R142); the reads that wait inside the unit are performed first, and one that parks the fibre takes the arrival back.
NBINIT sets a barrier's target of 1 to 32, unless arrivals are pending; NBARRIVE counts an arrival, and the one
that reaches the target advances the phase and clears the tally; it waits as FARRIVE does; NBWAIT waits for the phase in
which the fibre last arrived to end; NBSYNC is both; a barrier never initialised is ILL (R136, R395, R396).
Readings and choices of the model in it: log 37 and 39. -/
def Obligations.Barriers : Prop :=
  (∀ (s : State) (f : Fibre), Issues s f →
    s.lsuWaits s.cur (fun _ => true) = false → s.readFirst s.cur = s ∧ s.lsuWaits s.cur (fun o => !o.reads) = false) ∧
  (∀ (b : BitVec 2) (s : State) (f : Fibre) (k n : Nat) (here h : Fibre) (t u : State), Issues s f →
    k = b.toNat → n = Sparse.getN f.fbArr k → u = s.readFirst s.cur → u.fibre s.cur = some h →
    here = { f with fbArr := Sparse.setN f.fbArr k (n + 1) } → t = u.arriveFbar k →
    (s.fbarPhase k = none → ∀ i ∈ [Instr.farrive b, .fwaitb b, .fbar b],
      exec i s = .next (s.takeTrap ⟨trapILL, 6, 0, 0⟩)) ∧
    (∀ x, Sparse.find (s.slot s.cur).fbar k = some x → bitOf x.mask (fidOf s.cur) = true →
      exec (.fwaitb b) s = .next (if n ≤ x.phase then s.retire else s.stall) ∧
      (x.phase < n ∨ s.lsuWaits s.cur (fun o => !o.reads) = true → exec (.farrive b) s = .next s.stall ∧
        (f.fbIn = false → exec (.fbar b) s = .next s.stall)) ∧
      (n ≤ x.phase → s.lsuWaits s.cur (fun o => !o.reads) = false →
        (h.st = .parked → exec (.farrive b) s = .next u ∧ (f.fbIn = false → exec (.fbar b) s = .next u)) ∧
        (h.st ≠ .parked → u.lsuWaits s.cur (fun _ => true) = true → exec (.farrive b) s = .next u.stall ∧
          (f.fbIn = false → exec (.fbar b) s = .next u.stall)) ∧
        (h.st ≠ .parked → u.lsuWaits s.cur (fun _ => true) = false → exec (.farrive b) s = .next t.retire ∧
          (f.fbIn = false → exec (.fbar b) s = .next (if (t.fbarPhase k).getD 0 = x.phase
            then (t.modFibre u.cur fun g => { g with fbIn := true }).stall else t.retire)))) ∧
      (f.fbIn = true → exec (.fbar b) s =
        if n ≤ x.phase then became s { f with fbIn := false } else .next s.stall) ∧
      (s.lsuWaits s.cur (fun _ => true) = false → f.st ≠ .exiting →
        t.fibre s.cur = some here ∧ (∀ l, l ≠ s.cur → t.fibre l = s.fibre l) ∧ t.mem = s.mem ∧
        t.fbarPhase k = some (if ∀ i, i < 4 → bitOf x.mask i = true → ∀ g, t.fibre (s.cur / 4 * 4 + i) = some g →
          g.st = .exiting ∨ g.st ≠ .parked ∧ g.debugger.stopped = false ∧ x.phase < Sparse.getN g.fbArr k
            then x.phase + 1 else x.phase)))) ∧
  (∀ (n : BitVec 8) (c : BitVec 6) (s : State) (f : Fibre) (g : Group) (set : NBar → State), Issues s f →
    Sparse.find s.groups f.group = some g →
    set = (fun b => withGroupAs s f.group { g with nbar := Sparse.put g.nbar n.toNat b }) →
    (Settled s (resS s.cur [c.toNat]) →
      (f.s c.toNat = 0 ∨ 32 < f.s c.toNat → exec (.nbinit n c) s = .next (s.takeTrap ⟨trapILL, 6, 0, 0⟩)) ∧
      (f.s c.toNat ≠ 0 → f.s c.toNat ≤ 32 →
        (Sparse.find g.nbar n.toNat = none → exec (.nbinit n c) s = .next (if 256 ≤ s.nbarsUsed g.core then s.stall
          else (set ⟨(f.s c.toNat).toNat, 0, 0⟩).retire)) ∧
        (∀ b, Sparse.find g.nbar n.toNat = some b → exec (.nbinit n c) s = .next (if b.tally = 0
          then (set ⟨(f.s c.toNat).toNat, 0, 0⟩).retire else s.takeTrap ⟨trapILL, 6, 0, 0⟩)))) ∧
    (Sparse.find g.nbar n.toNat = none → ∀ i ∈ [Instr.nbarrive n, .nbwait n, .nbsync n],
      exec i s = .next (s.takeTrap ⟨trapILL, 6, 0, 0⟩)) ∧
    (∀ b b', Sparse.find g.nbar n.toNat = some b → b' = (if b.tally + 1 < b.target
        then ⟨b.target, b.tally + 1, b.phase⟩ else ⟨b.target, 0, b.phase + 1⟩ : NBar) →
      (s.lsuWaits s.cur (fun _ => true) = false → f.st ≠ .parked →
        exec (.nbarrive n) s = became (set b') { f with nbWait := Sparse.put f.nbWait n.toNat b.phase }) ∧
      (s.lsuWaits s.cur (fun o => !o.reads) = true → exec (.nbarrive n) s = .next s.stall ∧
        (f.nbIn = false → exec (.nbsync n) s = .next s.stall)) ∧
      (s.lsuWaits s.cur (fun o => !o.reads) = false → ∀ u h, u = s.readFirst s.cur → u.fibre s.cur = some h →
        (h.st = .parked → exec (.nbarrive n) s = .next u ∧ (f.nbIn = false → exec (.nbsync n) s = .next u)) ∧
        (h.st ≠ .parked → u.lsuWaits s.cur (fun _ => true) = true → exec (.nbarrive n) s = .next u.stall ∧
          (f.nbIn = false → exec (.nbsync n) s = .next u.stall)) ∧
        (h.st ≠ .parked → u.lsuWaits s.cur (fun _ => true) = false →
          exec (.nbarrive n) s = .next (u.arriveNbar f n.toNat b).retire)) ∧
      (∀ k, Sparse.find f.nbWait n.toNat = some k → ∀ i ∈ [Instr.nbwait n, .nbsync n], i = .nbwait n ∨ f.nbIn = true →
        exec i s = if k < b.phase
          then became s { f with nbWait := Sparse.erase f.nbWait n.toNat, nbIn := false } else .next s.stall) ∧
      (Sparse.find f.nbWait n.toNat = none → exec (.nbwait n) s =
        .next (s.setFibre s.cur { f with nbWait := Sparse.put f.nbWait n.toNat b.phase }).stall) ∧
      (f.nbIn = false → s.lsuWaits s.cur (fun _ => true) = false → f.st ≠ .parked → exec (.nbsync n) s = if b.phase < b'.phase
        then became (set b') { f with nbWait := Sparse.erase (Sparse.put f.nbWait n.toNat b.phase) n.toNat }
        else .next ((set b').setFibre s.cur { f with
          nbWait := Sparse.put f.nbWait n.toNat b.phase, nbIn := true }).stall)))

/-- WINDOW gives the fibre a new frame size and shared base and keeps the rest of the window, once no register of
either window is pending; an operand outside R196 is ILL. EXIT ends the fibre: EXITING, its stack discarded, its
barriers counted; an EXITING fibre with nothing outstanding becomes EMPTY, and any other stays (R192, R261, R393,
R394).
Readings and choices of the model in it: log 38 and 45. -/
def Obligations.WindowAndExit : Prop :=
  (∀ (a : BitVec 6) (s : State) (f : Fibre) (x w : Dword), Issues s f → Settled s (resS s.cur [a.toNat]) →
    x = f.s a.toNat →
    w = mkWdesc (wSpill f.wdesc) (wDepth f.wdesc) (wRing f.wdesc) (field x 12 10) (field x 0 5) →
    (windowBad f.wdesc x (s.slot s.cur).h = true → exec (.window a) s = .next (s.takeTrap ⟨trapILL, 6, 0, 0⟩)) ∧
    (windowBad f.wdesc x (s.slot s.cur).h = false →
      Settled s ((List.range 128).flatMap fun n => [resV (fidOf s.cur) f.wdesc n, resV (fidOf s.cur) w n]) →
      exec (.window a) s = became s { f with wdesc := w }) ∧
    (windowBad f.wdesc x (s.slot s.cur).h = false → field x 0 5 * 8 ≤ wRing f.wdesc * 8 ∧ 1 ≤ field x 0 5 ∧
      field x 0 5 ≤ 16)) ∧
  (∀ (s : State) (f : Fibre), Issues s f → f.openBatch = [] → f.owes = [] → f.tests = [] → ∃ t : State,
    exec .exit s = .next t ∧ t.fibre s.cur = some { f with
      st := .exiting, stack := [], fbIn := false, nbIn := false, issued := f.issued + 1, cede := false
      pc := f.pc + (if f.cede then 8 else 4) } ∧
    (∀ l, l ≠ s.cur → t.fibre l = s.fibre l) ∧ t.mem = s.mem ∧ t.groups = s.groups ∧ t.eng = s.eng) ∧
  (∀ (s : State) (loc : Nat) (f : Fibre), s.fibre loc = some f →
    (s.mayEmpty loc f = false → exec (.fibreEmpty loc) s = .next s) ∧
    (s.mayEmpty loc f = true → (∃ t : State, exec (.fibreEmpty loc) s = .next t ∧ t.fibre loc = none) ∧ f.st = .exiting ∧
      (∀ c, c < 8 → f.counter c = 0) ∧ ∀ k, k < 4 → Sparse.find s.eng.recs (loc * 4 + k) = none))

/-! ### Work and coordination -/

/-- CONT emits one record per active lane, with the header pair, the lane's twelve words and the device's region, and
its lanes retire; RETIRE retires its lanes; a fibre without a lane left ends as at EXIT; a malformed header pair is
ILL and a full teller waits (R204, R398 to R400).
Readings and choices of the model in it: log 28 and 29. -/
def Obligations.ContAndRetire : Prop :=
  ∀ (a : BitVec 6) (x : BitVec 7) (s t : State) (f : Fibre) (recs : List ContRec) (last : State → State),
    Issues s f → Settled s (resS s.cur [a.toNat, a.toNat + 1]) → Settled s (resVs s.cur f (regRun x.toNat 12)) →
    recs = (lanesOf f.active).map (contRecord s f a.toNat x.toNat) →
    t = s.emit (coreOf s.cur) f.region (s.lsuOps s.cur) (some (s.opOf f 8 f.active (f.s a.toNat) (f.s (a.toNat + 1))
      none (.tell (coreOf s.cur) f.region recs))) recs →
    last = (fun u => ((u.endLanes s.cur (lanesOf f.active)).modFibre s.cur fun g => { g with
      exec := g.exec &&& ~~~f.active, stack := g.stack.map fun e => e.without f.active }).retire) →
    (f.emptyWithout f.active = false → exec .retire s = .next (last s)) ∧
    (f.emptyWithout f.active = true → f.openBatch = [] → exec .retire s = exec .exit s ∧
      exec .retire s = .next s.exitFibre) ∧
    (f.active ≠ 0 → contBad (f.s a.toNat) (f.s (a.toNat + 1)) = true →
      exec (.cont a x) s = .next (s.takeTrap ⟨trapILL, 6, 0, 0⟩)) ∧
    (f.active ≠ 0 → contBad (f.s a.toNat) (f.s (a.toNat + 1)) = false →
      (s.tellerRoom (coreOf s.cur) f.region (field (f.s a.toNat) 0 48) (lanesOf f.active).length = false →
        exec (.cont a x) s = .next s.stall) ∧
      (s.tellerRoom (coreOf s.cur) f.region (field (f.s a.toNat) 0 48) (lanesOf f.active).length = true →
        (f.emptyWithout f.active = false → exec (.cont a x) s = .next (last t)) ∧
        (f.emptyWithout f.active = true → f.openBatch = [] → exec (.cont a x) s = .next t.exitFibre))) ∧
    (∀ i k b, k < 12 → f.region < 2 ^ 24 → b = (contRecord s f a.toNat x.toNat i).bytes →
      b.length = 64 ∧ recEntry b = field (f.s a.toNat) 0 48 ∧ recKey b = field (f.s (a.toNat + 1)) 0 32 ∧
      leNat ((b.drop 13).take 3) = f.region ∧
      leNat ((b.drop (16 + 4 * k)).take 4) = (lane (s.v s.cur f (x.toNat + k)) i).toNat)

/-- ENQ, LAUNCH, HCALL, REPLY and SOLICIT issue their operations when their operands are well formed and there is
room; ENQ without a queue traps with TASKQ; REPLY from a lane that owes none, and SOLICIT with a BUSY handle, are
ILL (R401, R402, R409, R412, R416).
Readings and choices of the model in it: log 33, 34, 74 and 80. -/
def Obligations.WorkRequests : Prop :=
  ∀ (a b n : BitVec 6) (x : BitVec 7) (s : State) (f : Fibre), Issues s f →
    Settled s (resS s.cur ([a.toNat, b.toNat] ++ (List.range 8).map fun i => a.toNat + i)) →
    ((f.s a.toNat).toNat % 256 ≠ 0 → exec (.launch a b) s = .next (s.takeTrap ⟨trapILL, 6, 0, 0⟩)) ∧
    ((f.s a.toNat).toNat % 256 = 0 → s.sched.launches.length + s.launching < 1024 → exec (.launch a b) s =
      .next ((s.newOp f 1 f.active (f.s a.toNat) 0 none (.launch (f.s a.toNat) (.s (fidOf s.cur) b.toNat))).2.addPend
        s.cur s.fresh [.s (fidOf s.cur) b.toNat]).retire) ∧
    ((f.s a.toNat).toNat % 64 ≠ 0 → exec (.hcall a) s = .next (s.takeTrap ⟨trapILL, 6, 0, 0⟩)) ∧
    ((f.s a.toNat).toNat % 64 = 0 → exec (.hcall a) s = .next (if 1024 ≤ s.io.hcWait.length ∨ f.ctrFull ctrST = true
      then s.stall
      else (s.newOp f 1 f.active (f.s a.toNat) 0 (some ctrST) (.hcall (f.s a.toNat))).2.retire)) ∧
    (∀ r queue, r = enqRecord f a.toNat → queue = leNat ((r.drop 12).take 1) →
      (recGroup r = false ∨ recReserved r ≠ 0 ∨ recEntry r % 4 ≠ 0 →
        exec (.enq a) s = .next (s.takeTrap ⟨trapILL, 6, 0, 0⟩)) ∧
      (recGroup r = true → recReserved r = 0 → recEntry r % 4 = 0 →
        (s.qtabOf f.region = none → exec (.enq a) s = .next (s.takeTrap ⟨trapTASKQ, 0, 0, 0⟩)) ∧
        (∀ qtab d, s.qtabOf f.region = some qtab → d = s.qdesc (qtab + 64 * queue) (coreOf s.cur) →
          s.absent [qtab + 64 * queue] = [] → s.heldAt [(qtab + 64 * queue, 64)] = [] →
          (d.valid = false → exec (.enq a) s = .next (s.takeTrap ⟨trapTASKQ, 0, 0, 0⟩)) ∧
          (d.valid = true → s.absent [d.head, d.tail] = [] → s.heldAt [(d.head, 16)] = [] → ∀ used,
            used = physNat s d.tail 8 - physNat s d.head 8 + s.enqueuing (coreOf s.cur) f.region queue →
            exec (.enq a) s = .next (if d.size ≤ used ∨ f.ctrFull ctrST = true then s.stall
              else ((s.recordUp f.region (recEntry r) true).newOp f 1 f.active (f.s a.toNat) 0 (some ctrST)
                (.enq queue r)).2.retire))))) ∧
    (Settled s (resVs s.cur f ((regRun x.toNat 2).filter fun n => decide (n < 128))) →
      (f.active = 0 → exec (.reply x) s = .next s.retire) ∧
      ((∃ i ∈ lanesOf f.active, Sparse.find f.owes i = none) →
        exec (.reply x) s = .next (s.takeTrap ⟨trapILL, 6, 0, 0⟩)) ∧
      (f.active ≠ 0 → (∀ i ∈ lanesOf f.active, ∃ c e k, Sparse.find f.owes i = some (c, e) ∧ s.census c = some k ∧
          censusWidth k.ctl = 4) →
        exec (.reply x) s = .next ((s.newOp f 1 f.active 0 0 none (.reply ((lanesOf f.active).filterMap fun i =>
          (Sparse.find f.owes i).map fun e => (e.1, e.2, (lane (s.v s.cur f x.toNat) i).toNat)))).2.modFibre s.cur
            fun g => { g with owes := (lanesOf f.active).foldl Sparse.erase g.owes }).retire)) ∧
    (∀ g, Sparse.find s.groups f.group = some g →
      (solicitBad (f.s (a.toNat + 2)) = true ∨ (Sparse.find g.cens n.toNat).isSome = true →
        exec (.solicit a n) s = .next (s.takeTrap ⟨trapILL, 6, 0, 0⟩)) ∧
      (solicitBad (f.s (a.toNat + 2)) = false → Sparse.find g.cens n.toNat = none →
        (4096 ≤ (s.co.censuses.filter fun c => c.value.isNone).length ∨ f.ctrFull ctrSC = true →
          exec (.solicit a n) s = .next s.stall) ∧
        ((s.co.censuses.filter fun c => c.value.isNone).length < 4096 → f.ctrFull ctrSC = false → ∃ t : State,
          exec (.solicit a n) s = .next t.retire ∧ t.fibre s.cur = some (f.raiseCtr ctrSC) ∧
          (∃ o, Sparse.find t.eng.ops s.fresh = some o ∧ o.body = .solicit n.toNat) ∧
          Sparse.find t.groups f.group = some { g with cens := Sparse.put g.cens n.toNat s.fresh } ∧
          t.co.censuses = s.co.censuses ++ [⟨s.fresh, s.cur, f.group, n.toNat, f.region, f.asid, f.s a.toNat,
            f.s (a.toNat + 1), f.s (a.toNat + 2), f.s (a.toNat + 3), s.lsuOps s.cur, none, [], [], false, false,
            none⟩])))

/-- TREG, TDROP and TMOVE issue operations of unit 1, TREG and TMOVE with a pending write on s[D], TDROP and TMOVE with
SC raised; they are performed behind the fibre's earlier reads (R133, R406, R407, R444).
TREG inserts a RESIDENT entry at the lowest free index of its core and returns its identifier, or all ones;
TDROP frees an unpinned RESIDENT entry of the fibre's address space, marks a pinned one, and leaves every other;
TMOVE starts the move of such an entry, or returns all ones; a malformed identifier of TDROP, and a core above 191 of
TMOVE, are ILL (R403, R404, R406, R407, R445).
The steps of a move: the entry comes to stand INBOUND at the target's lowest free index and the switch takes its
place in the root's order; without one the source is RESIDENT again; the target's switch makes its entry RESIDENT,
the source's frees its entry or sets REMOVE, and each message reaches a core in the root's order (R404, R407, R408).
Readings and choices of the model in it: log 34, 57, 58 and 61. -/
def Obligations.Directories : Prop :=
  (∀ (a b d : BitVec 6) (s : State) (f : Fibre) (x : Dword) (dst : Res), Issues s f →
    Settled s (resS s.cur [a.toNat, b.toNat, b.toNat + 1, d.toNat]) → x = f.s a.toNat →
    dst = .s (fidOf s.cur) d.toNat →
    exec (.treg a b d) s = .next ((s.newOp f 1 f.active x (f.s b.toNat) none
      (.treg dst x (f.s b.toNat))).2.addPend s.cur s.fresh [dst]).retire ∧
    (dirIdBad x = true → exec (.tdrop a) s = .next (s.takeTrap ⟨trapILL, 6, 0, 0⟩)) ∧
    (dirIdBad x = false → exec (.tdrop a) s = .next (if f.ctrFull ctrSC then s.stall
      else (s.newOp f 1 f.active x 0 (some ctrSC) (.tdrop x.toNat)).2.retire)) ∧
    (191 < f.s b.toNat → exec (.tmove a b d) s = .next (s.takeTrap ⟨trapILL, 6, 0, 0⟩)) ∧
    (f.s b.toNat ≤ 191 → exec (.tmove a b d) s = .next (if f.ctrFull ctrSC then s.stall
      else ((s.newOp f 1 f.active x (f.s b.toNat) (some ctrSC) (.tmove dst x.toNat (f.s b.toNat).toNat
        (f.s (b.toNat + 1)))).2.addPend s.cur s.fresh [dst]).retire))) ∧
  (∀ (s : State) (core e : Nat), s.freeDir core = some e ↔ e / 512 = core ∧ s.dirEnt e = none ∧
    ∀ k, k / 512 = core → k < e → s.dirEnt k ≠ none) ∧
  (∀ (s : State) (id : Nat) (o : Op), Sparse.find s.eng.ops id = some o → o.body.isDir = true →
    s.recorded id = false →
    (o.finished = true ∨ s.behindOthers id o = true → exec (.lsuComplete id) s = .next s) ∧
    (o.finished = false → s.behindOthers id o = false →
      (∀ dst key pay, o.body = .treg dst key pay →
        (s.freeDir (coreOf o.loc) = none →
          exec (.lsuComplete id) s = .next ((s.putRes o.loc dst [(0, 2 ^ 64 - 1)]).endOp id)) ∧
        (∀ e, s.freeDir (coreOf o.loc) = some e → exec (.lsuComplete id) s = .next
          (((s.putDir e ⟨key, pay, o.asid, 0, false, .resident⟩).putRes o.loc dst [(0, e)]).endOp id))) ∧
      (∀ n, o.body = .tdrop n →
        ((∀ e, s.dirEnt n = some e → e.asid ≠ o.asid ∨ e.st ≠ .resident) →
          exec (.lsuComplete id) s = .next (s.endOp id)) ∧
        (∀ e, s.dirEnt n = some e → e.asid = o.asid → e.st = .resident →
          (e.pins ≠ 0 → exec (.lsuComplete id) s = .next ((s.putDir n { e with remove := true }).endOp id)) ∧
          (e.pins = 0 → (∀ m ∈ s.co.moves, m.src ≠ n) → ∃ t : State,
            exec (.lsuComplete id) s = .next (t.endOp id) ∧
            (∀ k, t.dirEnt k = if k = n then none else s.dirEnt k) ∧ ({ t with co := s.co } : State) = s))) ∧
      (∀ dst src core pay, o.body = .tmove dst src core pay →
        ((∀ e, s.dirEnt src = some e → e.asid ≠ o.asid ∨ e.st ≠ .resident) →
          exec (.lsuComplete id) s = .next ((s.putRes o.loc dst [(0, 2 ^ 64 - 1)]).endOp id)) ∧
        (∀ e, s.dirEnt src = some e → e.asid = o.asid → e.st = .resident → ∃ t : State,
          exec (.lsuComplete id) s = .next t ∧
          (∀ k, t.dirEnt k = if k = src then some { e with st := .moving } else s.dirEnt k) ∧
          t.co.moves = s.co.moves ++ [⟨id, src, core, pay, none, false⟩] ∧
          Sparse.find t.eng.ops id = some { o with finished := true } ∧ t.fibres = s.fibres ∧ t.mem = s.mem)))) ∧
  (∀ (s : State) (m : Move) (e : DirEnt), s.co.moves.find? (fun k => k.op = m.op) = some m →
    (m.new = none → s.dirEnt m.src = some e →
      (∀ n, s.freeDir m.target = some n → ∃ t : State, exec (.tmoveInsert m.op) s = .next t ∧
        (∀ k, t.dirEnt k = if k = n then some ⟨e.key, m.payload, e.asid, 0, false, .inbound⟩ else s.dirEnt k) ∧
        t.co.root = s.co.root ++ [⟨none, some m.op, [m.src / 512 * 2, m.target * 2 + 1]⟩] ∧ t.fibres = s.fibres) ∧
      (s.freeDir m.target = none →
        exec (.tmoveInsert m.op) s =
          .next ((s.putDir m.src { e with st := .resident }).endMove m.op (2 ^ 64 - 1)))) ∧
    (∀ n x y, m.new = some n → s.nextMsg m.target = some x → x.move = some m.op →
      x.cores.contains (m.target * 2 + 1) = true → s.dirEnt n = some y → ∃ t : State, exec (.switch m.op true) s = .next t ∧
        (∀ k, t.dirEnt k = if k = n then some { y with st := .resident } else s.dirEnt k) ∧ t.fibres = s.fibres) ∧
    (∀ x y, s.nextMsg (m.src / 512) = some x → x.move = some m.op → x.cores.contains (m.src / 512 * 2) = true →
      s.dirEnt m.src = some y → ∃ t : State, exec (.switch m.op false) s = .next t ∧
        (∀ k, t.dirEnt k = if k = m.src ∧ m.ended = false
          then (if y.pins = 0 then none else some { y with remove := true }) else s.dirEnt k)) ∧
    (∀ x target, s.nextMsg (if target then m.target else m.src / 512) = some x → x.move ≠ some m.op →
      exec (.switch m.op target) s = .next s))

/-- A census matches an entry, at the moment its broadcast reaches the entry's core, when the entry is of the asker's
address space, its key agrees with the census's under the mask, REMOVE is clear, and it is RESIDENT or MOVING, or was
before it was PINNED; the sweep pins exactly those entries: an entry of the core has one pin more after it exactly
when it matched, and every other entry is as it was (R405). -/
def Obligations.CensusMatch : Prop :=
  ∀ (s : State) (c : Census) (core serial : Nat),
    (∀ e x, (e, x) ∈ s.matching c core ↔ (e, x) ∈ s.co.dirs ∧ e / 512 = core ∧ x.asid = c.asid ∧
      (x.key ^^^ c.key) &&& c.mask = 0 ∧ x.remove = false ∧ (x.st = .resident ∨ x.st = .moving)) ∧
    (∀ msg, s.nextMsg core = some msg → msg.census = some c.id →
      s.co.censuses.find? (fun k => k.serial = some serial) = some c →
      s.replySlots core + (s.matching c core).length ≤ replyStore →
      s.tellerHolds core + s.tellerComing core + (s.matching c core).length ≤ tellerSize →
      s.tellerRoom core c.region (field c.ctl 0 48) (s.matching c core).length = true →
      ∃ t : State, exec (.censusSweep serial core) s = .next t ∧
        (∀ e x, (∀ y, (e, y) ∈ s.matching c core ↔ y = x) → t.dirEnt e = some { x with pins := x.pins + 1 }) ∧
        (∀ e, (∀ y, (e, y) ∉ s.matching c core) → t.dirEnt e = s.dirEnt e))

/-- A census is numbered and sent to every core once the asker's earlier accesses are over; it is held at a core
without reply slots; it completes when every core has swept and every reply is there, with the responder count and
the combined value; CWAIT gives the count and the flags, CREAD the value and frees the handle; both wait for it, and
are ILL for a FREE handle (R409, R410, R413, R414).
Readings and choices of the model in it: log 36. -/
def Obligations.Censuses : Prop :=
  (∀ (s : State) (id : Nat) (c : Census), s.census id = some c → c.serial = none →
    ((∃ o ∈ c.after, s.opLive o = true) → exec (.censusBroadcast id) s = .next s) ∧
    ((∀ o ∈ c.after, s.opLive o = false) → ∃ t : State, exec (.censusBroadcast id) s = .next t ∧
      t.co.root = s.co.root ++ [⟨some id, none, (List.range Config.cores).map (· * 2)⟩] ∧
      t.co.serial = (s.co.serial + 1) % 2 ^ 32 ∧ t.fibres = s.fibres ∧ t.groups = s.groups)) ∧
  (∀ (s : State) (core serial : Nat) (msg : RootMsg) (c : Census), s.nextMsg core = some msg →
    s.co.censuses.find? (fun k => k.serial = some serial) = some c →
    msg.census ≠ some c.id ∨ replyStore < s.replySlots core + (s.matching c core).length →
    exec (.censusSweep serial core) s = .next s) ∧
  (∀ (s : State) (serial : Nat) (c : Census),
    s.co.censuses.find? (fun k => k.serial = some serial ∧ k.value = none) = some c →
    (c.swept.length < Config.cores ∨ (∃ x ∈ c.slots, x.val = none) → exec (.censusComplete serial) s = .next s) ∧
    (Config.cores ≤ c.swept.length → (∀ x ∈ c.slots, x.val ≠ none) → ∀ t,
      t = (c.slots.foldl (fun acc x => acc.unpin x.ent) s).endOp c.id → t.groupKnown c.group = true →
      exec (.censusComplete serial) s =
        .next (t.modCensus c.id fun c => { c with value := some (c.combined, c.slots.length) }))) ∧
  (∀ (a n : BitVec 6) (s : State) (f : Fibre) (g : Group), Issues s f → Settled s (resS s.cur [a.toNat]) →
    Sparse.find s.groups f.group = some g →
    (Sparse.find g.cens n.toNat = none → ∀ i ∈ [Instr.cwait a n, .cread a n],
      exec i s = .next (s.takeTrap ⟨trapILL, 6, 0, 0⟩)) ∧
    (∀ id c, Sparse.find g.cens n.toNat = some id → s.census id = some c →
      (c.value = none → ∀ i ∈ [Instr.cwait a n, .cread a n], exec i s = .next s.stall) ∧
      (∀ v k, c.value = some (v, k) →
        exec (.cwait a n) s = .next ((s.startAcquire (coreOf s.cur) c.cores).putS a.toNat (BitVec.ofNat 64
          (k + (if c.noreply then 2 ^ 32 else 0) + (if c.lost then 2 ^ 33 else 0)))).retire ∧
        ∃ t : State, exec (.cread a n) s = .next t.retire ∧ t.fibre s.cur = some (f.setS a.toNat (BitVec.ofNat 64 v)) ∧
          t.co.censuses = s.co.censuses.filter (fun x => x.id ≠ c.id) ∧
          (c.group = f.group → Sparse.find t.groups f.group =
            some { g with cens := Sparse.erase g.cens n.toNat }))))

/-! ### System instructions -/

/-- The SYSX instructions are privileged: a fibre of a region that is not raises ILL under check 5 of R251 and has no
effect (R38, R85, R251, R417).
TLBINV waits for the fibre's accesses, releases at DEV scope, and removes what its operation names: one page's
leaves, the leaves of an address space without G, all leaves without G, everything, or an address space with its
context (R38 to R41); a malformed control word is ILL.
Readings and choices of the model in it: log 26 and 59. -/
def Obligations.Privilege : Prop :=
  (∀ (d a b : BitVec 6) (s : State) (f : Fibre), Issues s f → s.privOf f.region = false →
    ∀ i ∈ [Instr.tlbinv a b, .bankcfg d a, .region d a b, .leave d a, .errlog d a b],
      exec i s = .next (s.takeTrap ⟨trapILL, 5, 0, 0⟩)) ∧
  ((∀ (a b : BitVec 6) (s : State) (f : Fibre), Issues s f → s.privOf f.region = true →
    Settled s (resS s.cur [a.toNat, b.toNat]) →
    (tlbinvBad (f.s b.toNat) = true → exec (.tlbinv a b) s = .next (s.takeTrap ⟨trapILL, 6, 0, 0⟩)) ∧
    (tlbinvBad (f.s b.toNat) = false → exec (.tlbinv a b) s = .next (if s.lsuBusy s.cur (fun _ => true) then s.stall
      else ((s.release s.cur 4 true false).invalidate (f.s a.toNat) (f.s b.toNat)).retire)) ∧
    (tlbinvBad (f.s b.toNat) = true ↔ 2 ^ 19 ≤ f.s b.toNat ∨ 5 ≤ field (f.s b.toNat) 16 3)) ∧
  (∀ (x : Xlate) (va : Nat) (asid : BitVec 16) (e : TlbEnt) (w : WalkEnt) (c : CtxSlot),
    (e ∈ (x.invalidate va 0 asid).tlb ↔ e ∈ x.tlb ∧ ¬((e.asid = asid ∨ bitOf e.pte 9 = true) ∧ e.covers va = true)) ∧
    (e ∈ (x.invalidate va 1 asid).tlb ↔ e ∈ x.tlb ∧ (e.asid ≠ asid ∨ bitOf e.pte 9 = true)) ∧
    (w ∈ (x.invalidate va 1 asid).wcache ↔ w ∈ x.wcache ∧ w.asid ≠ asid) ∧
    (e ∈ (x.invalidate va 2 asid).tlb ↔ e ∈ x.tlb ∧ bitOf e.pte 9 = true) ∧ (x.invalidate va 2 asid).wcache = [] ∧
    (x.invalidate va 3 asid).tlb = [] ∧ (x.invalidate va 3 asid).wcache = [] ∧ (x.invalidate va 3 asid).ctxs = [] ∧
    (x.invalidate va 3 asid).atc = [] ∧
    (e ∈ (x.invalidate va 4 asid).tlb ↔ e ∈ (x.invalidate va 1 asid).tlb) ∧
    (c ∈ (x.invalidate va 4 asid).ctxs ↔ c ∈ x.ctxs ∧ c.asid ≠ asid)))

/-- BANKCFG puts a bank of its cluster into transit and waits; the switch comes when no earlier operation refers to
the bank, sends home the dirty lines that it holds as a way of the cache, gives it the new configuration, empties it
unless its contents are kept, and gives s[SD] the old configuration, which counts as a step of the debugger; a
malformed word is ILL and a bank in transit is waited for (R81, R82, R84 to R86, R432).
REGION performs its operation on a region of the fibre's own subtree and gives its status: outside the subtree 2
and an unknown region 4 without any effect, TICKETS set; a malformed control word is ILL. ERRLOG gives sequence number
and overflow count of a log, all ones outside the subtree (R208, R418, R420).
Readings and choices of the model in it: log 56, and log 80 for a control block that a host holds. -/
def Obligations.BanksAndRegions : Prop :=
  ((∀ (d a : BitVec 6) (s : State) (f : Fibre) (c : Dword) (bank : Nat), Issues s f → s.privOf f.region = true →
    Settled s (resS s.cur [d.toNat, a.toNat]) → c = f.s a.toNat →
    bank = clusterOf (coreOf s.cur) * 32 + field c 0 5 →
    (cfgBad c = true → exec (.bankcfg d a) s = .next (s.takeTrap ⟨trapILL, 6, 0, 0⟩)) ∧
    (cfgBad c = false → f.waitOp ≠ none ∨ s.mem.inTransit bank = true → exec (.bankcfg d a) s = .next s.stall) ∧
    (cfgBad c = false → f.waitOp = none → s.mem.inTransit bank = false → ∃ t : State,
      exec (.bankcfg d a) s = .next t.stall ∧ t.fibre s.cur = some { f with waitOp := some s.fresh } ∧
      t.mem.inTransit bank = true ∧
      t.mem.switches = s.mem.switches ++ [⟨s.fresh, bank, c, some s.cur, d.toNat, f.nextPc, none, 0⟩])) ∧
  (∀ (s : State) (cluster bank k : Nat) (w : BankSwitch), k = cluster * 32 + bank →
    s.mem.switches.find? (fun w => w.bank = k) = some w →
    ((∃ e ∈ s.eng.ops, e.1 < w.since ∧ e.2.refersTo s.mem k = true ∧ (e.2.body.isLsu && s.recorded e.1) = false) →
      exec (.bankSwitch cluster bank) s = .next s) ∧
    ((∀ e ∈ s.eng.ops, e.1 < w.since → e.2.refersTo s.mem k = true → (e.2.body.isLsu && s.recorded e.1) = true) →
      ∃ t : State,
      exec (.bankSwitch cluster bank) s = .next t ∧
      t.mem.bank k = ⟨cfgMode w.cfg, BitVec.ofNat 16 (field w.cfg 16 16), field w.cfg 11 4, []⟩ ∧
      (∀ j, j ≠ k → t.mem.bank j = s.mem.bank j) ∧
      (∀ left, left = s.mem.switches.filter (fun x => x.since ≠ w.since) →
        ((∀ x ∈ left, x.bank ≠ k) → t.mem.switches = left) ∧
        (∀ x, left.find? (fun x => x.bank = k) = some x →
          ∃ n, t.mem.switches = { x with since := n } :: left.erase x)) ∧
      (∀ line e, bank < 32 → line < 2 ^ 32 → Sparse.find t.mem.ccache (l1Key cluster line) = some e → e.bank ≠ k) ∧
      (cfgKeep w.cfg = false → ∀ x, x / 2 ^ 18 = cluster * 32 + bank → bank < 32 → Sparse.getZ t.mem.cscr x = 0) ∧
      (∀ l f, w.loc = some l → w.queue = none → s.fibre l = some f → f.waitOp = some w.since →
        ∀ g, g = { f with
          sreg := Sparse.setZ f.sreg w.dst ((s.mem.bank k).config bank)
          pc := w.next, waitOp := none, cede := false, st := if f.st = .stalled then .current else f.st
          issued := f.issued + 1 } →
        t.fibre l = some (if f.debugger.stopped = true then g else if f.debugger.steps = 1 then g.stop
          else { g with debugger := ⟨false, f.debugger.steps - 1,
            f.debugger.skipBreak && decide (1 < f.debugger.steps)⟩ }))))) ∧
  (∀ (d a b : BitVec 6) (s : State) (f : Fibre) (x c : Dword) (rgn : Nat), Issues s f → s.privOf f.region = true →
    Settled s (resS s.cur [d.toNat, a.toNat, b.toNat]) → x = f.s a.toNat → c = f.s b.toNat → rgn = x.toNat →
    (regionBad c = true → exec (.region d a b) s = .next (s.takeTrap ⟨trapILL, 6, 0, 0⟩)) ∧
    (regionBad c = false →
      (∀ code t, (field c 0 4 = 0 → s.heldAt [(x.toNat, 256)] = []) → s.regionOp (some f.region) x c = (code, t) →
        exec (.region d a b) s = .next (t.putS d.toNat (BitVec.ofNat 64 code)).retire) ∧
      (field c 0 4 ≠ 0 → rgn < 2 ^ 24 → s.rcb rgn = none →
        exec (.region d a b) s = became s (f.setS d.toNat 4)) ∧
      (∀ r, s.rcb rgn = some r → rgn < 2 ^ 24 → field c 0 4 ≠ 0 →
        (s.inSubtree f.region rgn = false ∨ (field c 0 4 = 1 ∧ f.region = rgn) →
          exec (.region d a b) s = became s (f.setS d.toNat 2)) ∧
        (s.inSubtree f.region rgn = true → field c 0 4 = 2 → (∀ i ∈ s.io.ifaces, i.st = .error) →
          ∃ t : State, exec (.region d a b) s = .next t.retire ∧ t.fibre s.cur = some (f.setS d.toNat 0) ∧
            t.rcb rgn = some { r with tickets := field c 32 32 }))) ∧
    (4 ≤ c → exec (.errlog d a b) s = .next (s.takeTrap ⟨trapILL, 6, 0, 0⟩)) ∧
    (c < 4 →
      (2 ^ 24 ≤ rgn ∨ s.rcb rgn = none ∨ s.inSubtree f.region rgn = false →
        exec (.errlog d a b) s = became s (f.setS d.toNat (BitVec.allOnes 64))) ∧
      (∀ r seq ovf, rgn < 2 ^ 24 → s.rcb rgn = some r → s.inSubtree f.region rgn = true →
        (seq, ovf) = (if c.getLsbD 0 then (r.rlseq, r.rlovf) else (r.elseq, r.elovf)) →
        ∃ t : State, exec (.errlog d a b) s = .next t.retire ∧
          t.fibre s.cur = some (f.setS d.toNat (BitVec.ofNat 64 (seq % 2 ^ 40 + min ovf (2 ^ 24 - 1) * 2 ^ 40))) ∧
          (c.getLsbD 1 = false → t.sched = s.sched) ∧
          (c.getLsbD 1 = true → t.rcb rgn = some (if c.getLsbD 0 then { r with rlovf := 0 }
            else { r with elovf := 0 })))))

/-- LEAVE waits for the grant of its cost from its cluster's purse and gives BAL after it; at the head of the queue it
is granted when BAL covers the cost or half the allowance, and BAL falls by the cost; class 0 is ILL. A refill makes
BAL the smaller of BAL + ALLOW and 2 × ALLOW; the controller sets the allowances (R235, R237, R419).
Readings and choices of the model in it: log 47. -/
def Obligations.Leave : Prop :=
  (∀ (d a : BitVec 6) (s : State) (f : Fibre) (x p : Dword) (k : Nat), Issues s f → s.privOf f.region = true →
    Settled s (resS s.cur [d.toNat, a.toNat]) → x = f.s a.toNat → k = clusterOf (coreOf s.cur) → p = s.purse k →
    (field x 0 2 = 0 ∨ field x 2 30 ≠ 0 → exec (.leave d a) s = .next (s.takeTrap ⟨trapILL, 6, 0, 0⟩)) ∧
    (field x 0 2 ≠ 0 → field x 2 30 = 0 →
      (∀ bal, f.leave = some bal →
        exec (.leave d a) s = became s (Fibre.setS { f with leave := none } d.toNat (bal.signExtend 64))) ∧
      (f.leave = none → (∃ r ∈ s.co.leaves, r.who = .fibre s.cur) → exec (.leave d a) s = .next s.stall) ∧
      (f.leave = none → s.co.leaves = [] → s.leaveOff = false →
        (((field x 32 32 : Nat) : Int) ≤ purseBal p ∨ purseAllow p ≤ 2 * purseBal p → ∃ t : State,
          exec (.leave d a) s = .next t.retire ∧ t.purse k = (s.setPurse k (field p 32 24)
            (purseBal p - (field x 32 32 : Nat))).purse k ∧ t.co.leaves = [] ∧
          t.fibre s.cur = some (f.setS d.toNat
            ((BitVec.ofInt 32 (purseBal p - (field x 32 32 : Nat))).signExtend 64))) ∧
        (purseBal p < (field x 32 32 : Nat) → 2 * purseBal p < purseAllow p → ∃ t : State,
          exec (.leave d a) s = .next t.stall ∧ t.co.leaves = [⟨k, f.region, field x 32 32, .fibre s.cur⟩] ∧
          t.fibre s.cur = some f)))) ∧
  (∀ (s : State) (k : Nat), s.co.leaves = [] →
    (k < Config.clusters → exec (.purseRefill k) s = .next (s.setPurse k (field (s.purse k) 32 24)
      (min (purseBal (s.purse k) + purseAllow (s.purse k)) (2 * purseAllow (s.purse k))))) ∧
    (∀ (allow : List (BitVec 24)) (temp draw : BitVec 16) (thr : Bool), s.barActive = true → ∃ t : State,
      exec (.allowanceSet allow temp draw thr) s = .next t ∧ t.fibres = s.fibres ∧ t.mem = s.mem ∧
      (∀ n a, n < Config.clusters → allow[n]? = some a →
        t.purse n = (s.setPurse n a.toNat (purseBal (s.purse n))).purse n) ∧
      t.reg.devstat.getLsbD 2 = thr))

/-! ### The host -/

/-- A completion gives the queue's ring the command's tag, status and result and leaves the queue idle; a malformed
command, and one whose operands are out of range, ends MALFORMED without effect, one that names what is not there
REFUSED; LAUNCH, TLBINV, BANKCFG, RGNOP, RGNREAD, RPLREAD, DIRREAD, SAVESIZE and ERRDRAIN have the effects of R451
(R449, R451, R452). A device address that names neither POOL nor a PINNED frame is out of range (R452).
In CONFIG_LOCKED, RUN and ERROR of a device interface TLBINV with OP CTX, RGNOP, RGNREAD, RPLREAD and DIRREAD complete
with LOCKED, without effect, where they name a region of its subtree or its address space (R458).
Readings and choices of the model in it: log 56, 60 and 80. -/
def Obligations.HostCommands : Prop :=
  (∀ (s : State) (q : Nat) (tag : Word) (status : Nat) (result : Dword) (x : Queue), x = s.queue q →
    ((s.complete q tag status result).queue q).busy = none ∧
    (∀ n, n ≠ q → (s.complete q tag status result).queue n = s.queue n) ∧
    (s.complete q tag status result).fibres = s.fibres ∧
    (ringSize x.cqBase ≠ 0 → ((s.complete q tag status result).queue q).cqTail = x.cqTail + 1 ∧
      ∀ i, i < 16 → Sparse.getZ (s.complete q tag status result).mem.host (ringAddr x.cqBase x.cqTail.toNat 16 + i) =
        (leBytes 4 tag.toNat ++ leBytes 4 status ++ leBytes 8 result.toNat).getD i 0)) ∧
  (∀ (s : State) (q : Nat) (tag rgn loc most : Word) (a b dst : Dword) (c : Byte) (fr core : BitVec 16),
    Ends (.malformedCommand q tag) s s q tag 1 0 ∧
    (a.toNat % 256 ≠ 0 ∨ 2 ^ 52 ≤ a ∨ s.namesMemory a.toNat = false →
      Ends (.launchCommand q tag a) s s q tag 1 0) ∧
    (a.toNat % 256 = 0 → a < 2 ^ 52 → s.namesMemory a.toNat = true → ∀ held, held = s.heldAt [(a.toNat, 256)] →
      (1024 ≤ s.sched.launches.length + s.launching ∨ held ≠ [] →
        Awaits (.launchCommand q tag a) s (askHost s held) q tag (.launch a)) ∧
      (s.sched.launches.length + s.launching < 1024 → held = [] →
        (s.launchStatus (physRead s a.toNat 256) none ≠ 0 → Ends (.launchCommand q tag a) s s q tag 2 0) ∧
        (s.launchStatus (physRead s a.toNat 256) none = 0 →
          Ends (.launchCommand q tag a) s (s.enterLaunch (physRead s a.toNat 256) none) q tag 0 0))) ∧
    (tlbinvBad b = true → Ends (.tlbinvCommand q tag a b) s s q tag 1 0) ∧
    (tlbinvBad b = false → Unlocked s → Ends (.tlbinvCommand q tag a b) s (s.invalidate a b) q tag 0 0) ∧
    (48 ≤ c ∨ cfgBad a = true → Ends (.bankcfgCommand q tag c a) s s q tag 1 0) ∧
    (c < 48 → cfgBad a = false → ∃ t : State,
      Awaits (.bankcfgCommand q tag c a) s t q tag (.bank (c.toNat * 32 + field a 0 5)) ∧
      t.mem.inTransit (c.toNat * 32 + field a 0 5) = true ∧ t.fibres = s.fibres) ∧
    (regionBad b = true → Ends (.rgnop q tag a b) s s q tag 1 0) ∧
    (regionBad b = false → Unlocked s → ∀ code t, s.regionOp none a b = (code, t) →
      Ends (.rgnop q tag a b) s t q tag (if code = 0 then 0 else 2) (BitVec.ofNat 64 code)) ∧
    (2 ^ 24 ≤ rgn → Ends (.rgnread q tag rgn dst) s s q tag 1 0 ∧ Ends (.savesize q tag rgn) s s q tag 1 0) ∧
    (rgn < 2 ^ 24 → s.rcb rgn.toNat = none →
      Ends (.rgnread q tag rgn dst) s s q tag 2 0 ∧ Ends (.savesize q tag rgn) s s q tag 2 0) ∧
    (∀ r, rgn < 2 ^ 24 → s.rcb rgn.toNat = some r →
      Ends (.savesize q tag rgn) s s q tag 0 (BitVec.ofNat 64 (s.saveSize rgn.toNat)) ∧
      (Unlocked s → Ends (.rgnread q tag rgn dst) s ((s.flushRcb rgn.toNat).hostWrite dst.toNat
        (physRead (s.flushRcb rgn.toNat) r.addr 256)) q tag 0 0)) ∧
    (24576 ≤ loc ∨ 4 ≤ fr → Ends (.rplread q tag loc fr dst) s s q tag 1 0) ∧
    (loc < 24576 → fr < 4 → Unlocked s →
      (s.recordAt (loc.toNat * 4 + fr.toNat) = none → Ends (.rplread q tag loc fr dst) s s q tag 2 0) ∧
      (∀ o r, s.recordAt (loc.toNat * 4 + fr.toNat) = some (o, r) → Ends (.rplread q tag loc fr dst) s
        (s.hostWrite dst.toNat (s.frameBytes (loc.toNat * 4 + fr.toNat) o r)) q tag 0 (BitVec.ofNat 64 o.bodyLen))) ∧
    (192 ≤ core → Ends (.dirread q tag core dst) s s q tag 1 0) ∧
    (core < 192 → Unlocked s →
      Ends (.dirread q tag core dst) s (s.hostWrite dst.toNat (s.dirBytes core.toNat)) q tag 0 0) ∧
    (∃ t : State, Ends (.errdrain q tag dst most) s t q tag 0 (BitVec.ofNat 64 (min most.toNat s.io.devLog.length)) ∧
      t.io.devLog = s.io.devLog.drop most.toNat ∧ t.fibres = s.fibres ∧
      t.mem.host = writeBytes s.mem.host dst.toNat ((s.io.devLog.take most.toNat).flatMap DevErr.bytes))) ∧
  (∀ (s : State) (q : Nat) (tag rgn loc : Word) (a b dst : Dword) (fr core : BitVec 16) (j : Iface), j ∈ s.io.ifaces →
    (∀ r, rgn < 2 ^ 24 → s.rcb rgn.toNat = some r → s.inSubtree j.region rgn.toNat = true →
      Ends (.rgnread q tag rgn dst) s s q tag 3 0) ∧
    (regionBad b = false → field b 0 4 ≠ 0 → a < 2 ^ 24 → s.inSubtree j.region a.toNat = true →
      Ends (.rgnop q tag a b) s s q tag 3 0) ∧
    (∀ n, regionBad b = false → field b 0 4 = 0 → s.enteredAt (physNat s a.toNat 8) = some n →
      s.inSubtree j.region n = true → Ends (.rgnop q tag a b) s s q tag 3 0) ∧
    (∀ f, loc < 24576 → fr < 4 → s.fibre loc.toNat = some f → s.inSubtree j.region f.region = true →
      Ends (.rplread q tag loc fr dst) s s q tag 3 0) ∧
    (∀ r, s.rcb j.region = some r →
      (tlbinvBad b = false → field b 16 3 = 4 → BitVec.ofNat 16 (field b 0 16) = r.asid →
        Ends (.tlbinvCommand q tag a b) s s q tag 3 0) ∧
      (∀ e x, core < 192 → (e, x) ∈ s.co.dirs → e / 512 = core.toNat → x.asid = r.asid →
        Ends (.dirread q tag core dst) s s q tag 3 0)))

/-- FRESUME lets a waiting record replay, resolves it with the error response, or kills the region that absorbed it;
with frame 0xFFFF it lets a trapped fibre go on at its instruction or behind it; what does not wait is REFUSED
(R175, R185, R428, R451).
PREEMPT suspends a region's subtree and its command waits for the save, which comes once its operations are at
rest; DISCARD is only for an idempotent region, and LOCKED for one that a device interface covers (R458); RESTORE waits for the placer; a region whose budget is spent is
suspended, and a holder gives its slot to a READY mate (R194, R230, R239 to R242).
Readings and choices of the model in it: log 46, 48 and 50. -/
def Obligations.Preemption : Prop :=
  (∀ (s : State) (q : Nat) (tag loc : Word) (fr : BitVec 16) (key : Nat), key = loc.toNat * 4 + fr.toNat →
    (24576 ≤ loc ∨ (4 ≤ fr ∧ fr ≠ 0xFFFF) → ∀ i ∈ [Instr.fresumeReplay q tag loc fr, .fresumeError q tag loc fr,
      .fresumeKill q tag loc fr], Ends i s s q tag 1 0) ∧
    (loc < 24576 → fr < 4 →
      (s.findWaiting key = none → ∀ i ∈ [Instr.fresumeReplay q tag loc fr, .fresumeError q tag loc fr,
        .fresumeKill q tag loc fr], Ends i s s q tag 2 0) ∧
      (∀ r o, Sparse.find s.eng.recs key = some r → r.waiting = true → Sparse.find s.eng.ops r.op = some o →
        (∀ i err, (i, err) ∈ [(Instr.fresumeReplay q tag loc fr, o.err), (.fresumeError q tag loc fr, true)] →
          ∃ t : State, Ends i s t q tag 0 0 ∧ Sparse.find t.eng.ops r.op = some { o with err := err } ∧
            (∀ k, Sparse.find t.eng.recs k = if k = key then some { r with ripe := true, waiting := false }
              else Sparse.find s.eng.recs k) ∧ t.fibres = s.fibres ∧ t.mem = s.mem) ∧
        Ends (.fresumeKill q tag loc fr) s (s.killRegion r.absorber) q tag 0 0)) ∧
    (loc < 24576 → fr = 0xFFFF → ∀ f w, s.fibre loc.toNat = some f → f.trapWait = some w →
      (∀ i pc, (i, pc) ∈ [(Instr.fresumeReplay q tag loc fr, f.pc), (.fresumeError q tag loc fr, w.next)] →
        Ends i s ((s.setFibre loc.toNat { f with trapWait := none, pc := pc }).unpark loc.toNat) q tag 0 0) ∧
      Ends (.fresumeKill q tag loc fr) s (s.killRegion w.absorber) q tag 0 0)) ∧
  ((∀ (s : State) (q : Nat) (tag rgn : Word) (a : Dword) (n : Nat), n = rgn.toNat →
    (2 ^ 24 ≤ rgn ∨ a.toNat % 4096 ≠ 0 ∨ 2 ^ 52 ≤ a ∨ s.namesMemory a.toNat = false →
      Ends (.preemptSave q tag rgn a) s s q tag 1 0 ∧ Ends (.preemptDiscard q tag rgn a) s s q tag 1 0) ∧
    (rgn < 2 ^ 24 → a.toNat % 4096 = 0 → a < 2 ^ 52 → s.namesMemory a.toNat = true →
      (∀ j ∈ s.io.ifaces, s.inSubtree j.region n = true → Ends (.preemptDiscard q tag rgn a) s s q tag 3 0) ∧
      (s.preemptable n = false → Ends (.preemptSave q tag rgn a) s s q tag 2 0) ∧
      (∀ r, s.preemptable n = true → s.rcb n = some r →
        Awaits (.preemptSave q tag rgn a) s ((s.setRcb n r).suspendRegion n) q tag (.save n a.toNat) ∧
        (Unlocked s → r.idem = false → Ends (.preemptDiscard q tag rgn a) s s q tag 2 0) ∧
        (Unlocked s → r.idem = true → Awaits (.preemptDiscard q tag rgn a) s
          (((s.setRcb n r).suspendRegion n).discardGroups n) q tag (.save n a.toNat)))) ∧
    (a.toNat % 4096 ≠ 0 ∨ 2 ^ 52 ≤ a ∨ s.namesMemory a.toNat = false → Ends (.restore q tag a) s s q tag 1 0) ∧
    (a.toNat % 4096 = 0 → a < 2 ^ 52 → s.namesMemory a.toNat = true → (∀ v ∈ s.sched.saves, v.area ≠ a.toNat) →
      Ends (.restore q tag a) s s q tag 2 0) ∧
    (∀ v r, a.toNat % 4096 = 0 → a < 2 ^ 52 → s.namesMemory a.toNat = true → s.sched.saves.find? (fun v => v.area = a.toNat) = some v →
      s.rcb v.region = some r → r.st ≠ .killed → s.io.pending = [] →
      (v.units ≠ [] → Awaits (.restore q tag a) s s q tag (.restore a.toNat)) ∧
      (v.units = [] → (∀ t, s.endRestore v q tag = some t → exec (.restore q tag a) s = .next t) ∧
        (s.endRestore v q tag = none → Awaits (.restore q tag a) s s q tag (.restore a.toNat))))) ∧
  (∀ (s : State) (n q area : Nat) (tag : Word), s.io.pending = [⟨q, tag, .save n area⟩] →
    (s.saveReady (s.gather area n) = false → exec (.contextSave n) s = .next s) ∧
    (∀ spills t, s.saveReady (s.gather area n) = true →
      readAllSpills s (s.gather area n).fibres [] = (true, spills, t) →
      Ends (.contextSave n) s (t.putAway { s.gather area n with spills := spills }) q tag 0 0)) ∧
  (∀ (s : State) (n : Nat) (r : Rcb), s.rcb n = some r → exec (.budgetExhausted n) s = .next (if r.st = .active ∧
    r.spent = true then s.suspendRegion n else s)) ∧
  (∀ (s : State) (slot loc : Nat) (f : Fibre), s.holder slot = some loc → s.fibre loc = some f →
    exec (.tenureSwitch slot) s = .next (if s.rotation slot = none then s else s.setFibre loc { f with st := .ready })))

/-- The debug commands: DBGATTACH and DBGDETACH, which releases every stop, DBGSTOP, DBGRUN and DBGSTEP of a fibre,
DBGBP and DBGWP, DBGREAD of an item once it has no pending write, DBGWRITE of a stopped fibre alone (R430 to R432,
R452). Each is LOCKED, without effect, where it names a region of a device interface's subtree, a fibre of it, or its
address space (R458).
Readings and choices of the model in it: log 21, 63 and 64. -/
def Obligations.DebugCommands : Prop :=
  (∀ (s : State) (q : Nat) (tag loc : Word) (host va : Dword) (en l2 kinds item index : Byte) (n asid : BitVec 16)
    (f : Fibre), Unlocked s → s.fibre loc.toNat = some f → loc < 24576 →
    (∀ r, s.rcb loc.toNat = some r →
      (∃ t : State, Ends (.dbgattach q tag loc) s t q tag 0 0 ∧ loc.toNat ∈ t.io.dbgRegions ∧ t.fibres = s.fibres) ∧
      (∃ t : State, Ends (.dbgdetach q tag loc) s t q tag 0 0 ∧ loc.toNat ∉ t.io.dbgRegions)) ∧
    (s.rcb loc.toNat = none → Ends (.dbgattach q tag loc) s s q tag 2 0 ∧ Ends (.dbgdetach q tag loc) s s q tag 2 0) ∧
    Ends (.dbgstop q tag 0 loc) s (s.debugStop loc.toNat) q tag 0 0 ∧
    (f.st = .exiting → s.debugStop loc.toNat = s) ∧
    (f.st ≠ .exiting → f.waitOp = none → ∃ g : Fibre, (s.debugStop loc.toNat).fibre loc.toNat = some g ∧
      g.debugger = ⟨true, 0, false⟩ ∧ g.pc = f.pc ∧ g.sreg = f.sreg ∧ g.ring = f.ring ∧ g.st = (match f.st with
        | .current | .stalled => .ready
        | st => st)) ∧
    Ends (.dbgrun q tag 0 loc) s (s.setFibre loc.toNat (f.run 0)) q tag 0 0 ∧ (f.run 0).debugger.stopped = false ∧
    Ends (.dbgstep q tag loc 0) s s q tag 1 0 ∧
    (n ≠ 0 → Ends (.dbgstep q tag loc n) s (s.setFibre loc.toNat { f with debugger := ⟨false, n.toNat, true⟩ }) q tag 0 0) ∧
    (16 ≤ index ∨ 2 ≤ en → Ends (.dbgbp q tag index en asid va) s s q tag 1 0) ∧
    (index < 16 → en < 2 → ∃ t : State, Ends (.dbgbp q tag index en asid va) s t q tag 0 0 ∧ t.fibres = s.fibres ∧
      ∀ k, Sparse.find t.io.bps k = if k = index.toNat then (if en = 0 then none else some ⟨asid, va⟩)
        else Sparse.find s.io.bps k) ∧
    (4 ≤ index ∨ 2 ≤ en ∨ l2 < 2 ∨ 12 < l2 ∨ 8 ≤ kinds →
      Ends (.dbgwp q tag index en asid l2 kinds va) s s q tag 1 0) ∧
    (index < 4 → en < 2 → 2 ≤ l2 → l2 ≤ 12 → kinds < 8 → ∃ t : State,
      Ends (.dbgwp q tag index en asid l2 kinds va) s t q tag 0 0 ∧ t.fibres = s.fibres ∧
      ∀ k, Sparse.find t.io.wps k = if k = index.toNat then (if en = 0 then none else some ⟨asid, va, l2.toNat, kinds⟩)
        else Sparse.find s.io.wps k) ∧
    (itemOk item.toNat index.toNat = false → Ends (.dbgread q tag loc item index host) s s q tag 1 0 ∧
      Ends (.dbgwrite q tag loc item index host) s s q tag 1 0) ∧
    (itemOk item.toNat index.toNat = true →
      (s.itemBusy loc.toNat f item.toNat index.toNat = true → Awaits (.dbgread q tag loc item index host) s s q tag
        (.item loc.toNat item.toNat index.toNat host)) ∧
      (s.itemBusy loc.toNat f item.toNat index.toNat = false → ∀ b,
        s.itemBytes loc.toNat f item.toNat index.toNat = some b → Ends (.dbgread q tag loc item index host) s
          (s.hostWrite host.toNat b) q tag 0 (BitVec.ofNat 64 b.length)) ∧
      (f.debugger.stopped = false → Ends (.dbgwrite q tag loc item index host) s s q tag 2 0) ∧
      (f.debugger.stopped = true → ∀ t, s.writeItem loc.toNat f item.toNat index.toNat
          (readBytes s.mem.host host.toNat (itemSize item.toNat)) = some t →
        Ends (.dbgwrite q tag loc item index host) s t q tag 0 (BitVec.ofNat 64 (itemSize item.toNat)))) ∧
    (∀ i t, i < 64 → s.writeItem loc.toNat f 0 0 (readBytes s.mem.host host.toNat 512) = some t →
      ∃ g, t.fibre loc.toNat = some g ∧ g.s i = BitVec.ofNat 64 (leNat (readBytes s.mem.host (host.toNat + 8 * i) 8))) ∧
    (∀ l i ix h, s.io.pending = [⟨q, tag, .item l i ix h⟩] →
      Ends (.dbgreadTimeout q) s s q tag Config.statusBusy 0) ∧
    (s.io.pending = [] → exec (.dbgreadTimeout q) s = .next s)) ∧
  (∀ (s : State) (q : Nat) (tag loc rgn : Word) (host va : Dword) (en l2 kinds item index : Byte) (n asid : BitVec 16)
    (f : Fibre) (j : Iface) (r : Rcb), j ∈ s.io.ifaces →
    (rgn < 2 ^ 24 → s.rcb rgn.toNat = some r → s.inSubtree j.region rgn.toNat = true →
      ∀ i ∈ [Instr.dbgattach q tag rgn, .dbgdetach q tag rgn, .dbgstop q tag 1 rgn, .dbgrun q tag 1 rgn],
        Ends i s s q tag 3 0) ∧
    (loc < 24576 → s.fibre loc.toNat = some f → s.inSubtree j.region f.region = true → n ≠ 0 →
      itemOk item.toNat index.toNat = true →
      ∀ i ∈ [Instr.dbgstop q tag 0 loc, .dbgrun q tag 0 loc, .dbgstep q tag loc n, .dbgread q tag loc item index host,
        .dbgwrite q tag loc item index host], Ends i s s q tag 3 0) ∧
    (s.rcb j.region = some r → asid = r.asid → en < 2 →
      (index < 16 → Ends (.dbgbp q tag index en asid va) s s q tag 3 0) ∧
      (index < 4 → 2 ≤ l2 → l2 ≤ 12 → kinds < 8 → Ends (.dbgwp q tag index en asid l2 kinds va) s s q tag 3 0)))

/-! ### The vault and the fabric -/

/-- A filled granule becomes CLEAN with the pool's bytes in its frame, and waiting records are ripe; a writeback ends
CLEAN, or DIRTY when a block was written since; an eviction ends FREE with zeroes in the frame, once no access holds a
reference; VPIN, VUNPIN, VFLUSH and VDROP act on the frames of their range and complete when all are there (R49 to R56,
R173, R177 to R181).
A sweep goes over the die's frames in order from where the last one stopped until the reserve of 2,048 is met: it skips
a frame that is PINNED, FILLING, EVICTING, referred to or awaited, clears the accessed bit of one that has it set, and
evicts a CLEAN, DIRTY or CLEANING one that has it clear; a PINNED frame stays. A background writeback takes the DIRTY
frames whose accessed bit a whole sweep has found clear, while more than a quarter of the die's frames are DIRTY (R181).
Readings and choices of the model in it: log 8. -/
def Obligations.Frames : Prop :=
  (∀ (s : State) (k : Nat) (f : Frame), Sparse.find s.mem.frames k = some f →
    (f.st ≠ .filling → exec (.granuleFilled k) s = .next s) ∧
    (f.st = .filling → f.evictNext = false →
      exec (.granuleFilled k) s = .next (((s.install k f).arrive f.gran).ripenGranule f.gran)) ∧
    (∀ fa ta x, poolFabric s.reg (f.gran * 4096) = some fa → poolTagAddr s.reg (f.gran * 4096) = some ta → x < 4096 →
      (s.install k f).frameState k = some .clean ∧
      Sparse.getZ (s.install k f).mem.vault (k * 4096 + x) = Sparse.getZ s.mem.fabric (fa + x)) ∧
    (∀ key r, Sparse.find s.eng.recs key = some r → f.gran ∈ r.grans →
      ∃ r', Sparse.find (s.ripenGranule f.gran).eng.recs key = some r' ∧ r'.ripe = true) ∧
    (f.st ≠ .cleaning → exec (.writebackDone k) s = .next s) ∧
    (f.st = .cleaning → f.evictNext = false → s.io.pending = [] → ∃ t : State, exec (.writebackDone k) s = .next t ∧
      t.frameState k = some (if f.dirty = 0 then .clean else .dirty) ∧ t.mem.vault = s.mem.vault ∧
      t.fibres = s.fibres) ∧
    (f.st ≠ .evicting ∨ f.refs ≠ 0 → exec (.evictionComplete k) s = .next s) ∧
    (f.st = .evicting → f.refs = 0 → f.pinNext = false → f.refill = false → s.io.pending = [] → ∃ t : State,
      exec (.evictionComplete k) s = .next t ∧ t.frameState k = none ∧
      (∀ x, x < 4096 → Sparse.getZ t.mem.vault (k * 4096 + x) = 0) ∧
      (∀ a, a / 4096 ≠ k → Sparse.getZ t.mem.vault a = Sparse.getZ s.mem.vault a) ∧
      ∀ b x fa ta, b < 64 → x < 64 → f.dirty.getLsbD b = true →
        (∀ c, c < 64 → poolFabric s.reg (f.gran * 4096 + c * 64) = some (fa + c * 64)) →
        (∀ c, c < 64 → poolTagAddr s.reg (f.gran * 4096 + c * 64) = some (ta + 2 * c)) →
        (ta + 128 ≤ fa ∨ fa + 4096 ≤ ta) →
        Sparse.getZ t.mem.fabric (fa + b * 64 + x) = Sparse.getZ s.mem.vault (k * 4096 + b * 64 + x))) ∧
  (∀ (s : State) (q : Nat) (tag : Word) (a n : Dword) (frames : List Nat),
    frames = (List.range (n.toNat / 4096)).map (a.toNat / 4096 + ·) →
    (rangeOff a n vaultLimit = true → Ends (.vpin q tag a n) s s q tag 1 0 ∧ Ends (.vunpin q tag a n) s s q tag 1 0) ∧
    (rangeOff a n poolLimit = true → Ends (.vflush q tag a n) s s q tag 1 0 ∧ Ends (.vdrop q tag a n) s s q tag 1 0) ∧
    (rangeOff a n vaultLimit = false →
      Ends (.vunpin q tag a n) s (frames.foldl (fun (acc : State) k => acc.unpinOne k) s) q tag 0 0 ∧
      ((∀ k ∈ frames, s.frameState k = none) → s.pinnedCount + frames.length ≤ pinLimit → ∃ t : State,
        Ends (.vpin q tag a n) s t q tag 0 0 ∧ (∀ k ∈ frames, t.frameState k = some .pinned) ∧
        (∀ k ∈ frames, ∀ x, x < 4096 → Sparse.getZ t.mem.vault (k * 4096 + x) = 0)) ∧
      ((∀ k ∈ frames, s.frameState k = none) → pinLimit < s.pinnedCount + frames.length →
        Ends (.vpin q tag a n) s s q tag 2 0)) ∧
    (rangeOff a n poolLimit = false →
      (s.framesIn a.toNat n.toNat = [] → Ends (.vflush q tag a n) s s q tag 0 0 ∧ Ends (.vdrop q tag a n) s s q tag 0 0) ∧
      (∀ k f, s.mem.frames = [(k, f)] → s.framesIn a.toNat n.toNat = [(k, f)] →
        (f.st = .dirty → ∃ t : State, Awaits (.vflush q tag a n) s t q tag (.frames .flush [(k, false)]) ∧
          t.frameState k = some .cleaning) ∧
        (f.st = .clean ∨ f.st = .dirty → ∃ t : State, Awaits (.vdrop q tag a n) s t q tag (.frames .drop [(k, false)]) ∧
          t.frameState k = some .evicting)))) ∧
  (∀ (s u : State) (die n k : Nat) (rest : List Nat),
    u = { s.drew 1 with clr := { s.clr with sweep := Sparse.setN s.clr.sweep die (k + 1) } } →
    s.sweepFrames die 0 (k :: rest) = s ∧ s.sweepFrames die n [] = s ∧
    (Sparse.find s.mem.frames k = none →
      s.sweepFrames die (n + 1) (k :: rest) = u.sweepFrames die (n + 1) rest) ∧
    (∀ j, s.frameState j = some .pinned → (s.sweepFrames die n rest).frameState j = some .pinned) ∧
    ∀ f, Sparse.find s.mem.frames k = some f →
      (s.eng.recs = [] → s.sched.saves = [] → u.awaited f = false) ∧
      (f.st = .pinned ∨ f.st = .filling ∨ f.st = .evicting →
        s.sweepFrames die (n + 1) (k :: rest) = u.sweepFrames die (n + 1) rest) ∧
      (f.st = .clean ∨ f.st = .dirty ∨ f.st = .cleaning →
        (u.awaited f = true ∨ f.refs ≠ 0 → s.sweepFrames die (n + 1) (k :: rest) =
          (u.modFrame k fun f => { f with idle := !f.accessed }).sweepFrames die (n + 1) rest) ∧
        (u.awaited f = false → f.refs = 0 → f.accessed = true → s.sweepFrames die (n + 1) (k :: rest) =
          (u.modFrame k fun f => { f with accessed := false, idle := false }).sweepFrames die (n + 1) rest) ∧
        (u.awaited f = false → f.refs = 0 → f.accessed = false →
          s.sweepFrames die (n + 1) (k :: rest) = (u.evict k).sweepFrames die n rest ∧
          (f.st ≠ .cleaning → (u.evict k).frameState k = some .evicting) ∧
          (f.st = .cleaning → Sparse.find (u.evict k).mem.frames k = some { f with evictNext := true })))) ∧
  (∀ (s : State) (die id : Nat),
    (∀ mine going from0, mine = s.mem.frames.filter (fun e => e.1 % 4 = die) →
      going = mine.filter (fun e => e.2.st = .evicting ∨ e.2.evictNext = true) → from0 = Sparse.getN s.clr.sweep die →
      die < 4 → exec (.sweepRetry die) s = .next (s.sweepFrames die (2048 - (dieFrames - mine.length + going.length))
        (((mine.map (·.1)).filter fun k => from0 ≤ k) ++ (mine.map (·.1)).filter fun k => k < from0))) ∧
    (4 ≤ die → exec (.sweepRetry die) s = .next s) ∧
    ((s.mem.frames.filter fun e => e.1 % 4 = die ∧ e.2.st = .dirty).length * 4 ≤ dieFrames →
      exec (.backgroundWriteback die) s = .next s) ∧
    (dieFrames < (s.mem.frames.filter fun e => e.1 % 4 = die ∧ e.2.st = .dirty).length * 4 →
      exec (.backgroundWriteback die) s = .next (((s.mem.frames.filter fun e => e.1 % 4 = die ∧ e.2.st = .dirty).filter
        fun e => e.2.idle && !e.2.accessed).foldl (fun (acc : State) e => acc.startClean e.1) s)) ∧
    ((∀ g ∈ s.clr.migs, g.id ≠ id) → exec (.migrationIssue id) s = .next s) ∧
    (∀ g gran, s.clr.migs = [g] → g.id = id → g.grans = [gran] → g.predicted = [] → s.mem.frames = [] →
      poolFabric s.reg (gran * 4096) ≠ none → ∃ t : State, exec (.migrationIssue id) s = .next t ∧ t.clr.migs = [] ∧
        ∃ k f, Sparse.find t.mem.frames k = some f ∧ f.st = .filling ∧ f.gran = gran ∧ f.asid = g.asid ∧
          k % 4 = homeDie gran))

/-- Ownership that was asked for comes with the block's state, shared or exclusive; BISnpInv takes the block away,
BISnpData leaves it shared, BISnpCur leaves it, and each is answered with the state that the block is left in; an M block
is written back with its tag before, with what the caches hold of it, its dirty bit clear: it is then I, S or E;
H2D_SNOOP empties the sampler caches of the line; a host reads and writes PINNED blocks at their home; a peer's write
waits while a host may hold the block, and its read while a host may hold it exclusively, a snoop on its way; a host's
answer frees its copy, and the device's own writes that waited for it are performed (R58, R60 to R62, R79, R173).
Readings and choices of the model in it: log 10 and 80. -/
def Obligations.Snoops : Prop :=
  (∀ (s : State) (a : Dword) (k b : Nat) (f : Frame) (st : Coh), frameOf s.mem.frames (a.toNat / 4096) = some (k, f) →
    b = a.toNat / 64 % 64 → f.hs = true → f.st = .clean → Sparse.find f.coh b = some st → st ≠ .m →
    (∀ o ∈ s.clr.owns, o.block ≠ a.toNat / 64) → Sparse.find s.mem.frames k = some f →
    (∃ (t : State) (g : Frame), exec (.bisnpinv a) s = .next t ∧ Sparse.find t.mem.frames k = some g ∧
      Sparse.find g.coh b = none) ∧
    (∃ (t : State) (g : Frame), exec (.bisnpdata a) s = .next t ∧ Sparse.find t.mem.frames k = some g ∧
      Sparse.find g.coh b = some .s) ∧
    ∃ (t : State) (g : Frame), exec (.bisnpcur a) s = .next t ∧ Sparse.find t.mem.frames k = some g ∧
      Sparse.find g.coh b = some st) ∧
  (∀ (s : State) (a : Dword), frameOf s.mem.frames (a.toNat / 4096) = none →
    ∀ i ∈ [Instr.bisnpinv a, .bisnpdata a, .bisnpcur a], exec i s = .next (s.answerSnoop (a.toNat / 64) none)) ∧
  (∀ (s : State) (a : Dword) (k : Nat) (f : Frame), frameOf s.mem.frames (a.toNat / 4096) = some (k, f) →
    (f.hs = false → ∀ i ∈ [Instr.bisnpinv a, .bisnpdata a, .bisnpcur a],
      exec i s = .next (s.answerSnoop (a.toNat / 64) none)) ∧
    (∀ i ∈ [Instr.bisnpinv a, .bisnpdata a, .bisnpcur a], ∃ (t : State) (left : Option Coh), exec i s = .next t ∧
      t.fibres = s.fibres ∧ t.clr.birsp = s.clr.birsp ++ [(a.toNat / 64, left)] ∧ left ≠ some .m)) ∧
  (∀ (s : State) (a : Dword) (k b fa ta : Nat) (f g : Frame) (m : Mem),
    frameOf s.mem.frames (a.toNat / 4096) = some (k, f) → b = a.toNat / 64 % 64 → f.hs = true → f.st ≠ .filling →
    Sparse.find f.coh b = some .m → (∀ o ∈ s.clr.owns, o.block ≠ a.toNat / 64) →
    m = (s.mem.closeMergeLine ((k * 64 + b) / 2)).recallLine ((k * 64 + b) / 2) →
    Sparse.find m.frames k = some g → g.dirty.getLsbD b = true → poolFabric s.reg (g.gran * 4096 + b * 64) = some fa →
    poolTagAddr s.reg (g.gran * 4096 + b * 64) = some ta → ta + 2 ≤ fa ∨ fa + 64 ≤ ta →
    ∀ i left, (i, left) ∈ [(Instr.bisnpinv a, none), (.bisnpdata a, some Coh.s), (.bisnpcur a, some .e)] →
      ∃ (t : State) (h : Frame), exec i s = .next t ∧ t.clr.birsp = s.clr.birsp ++ [(a.toNat / 64, left)] ∧
        Sparse.find t.mem.frames k = some h ∧ Sparse.find h.coh b = left ∧ h.dirty.getLsbD b = false ∧
        (∀ x, x < 64 → Sparse.getZ t.mem.fabric (fa + x) = Sparse.getZ m.vault (k * 4096 + b * 64 + x)) ∧
        ∀ x, x < 2 → Sparse.getZ t.mem.fabric (ta + x) =
          (leBytes 2 (Sparse.getZ m.vtags (k * 64 + b)).toNat).getD x 0) ∧
  (∀ (s : State) (n : Nat), (∀ o ∈ s.clr.owns, o.block ≠ n / 64) → exec (.ownershipGranted n) s = .next s) ∧
  (∀ (s : State) (n k : Nat) (f : Frame) (x : Bool), s.clr.owns = [⟨n / 64, x⟩] →
    findFrame s.mem.frames (n / 4096) = some (k, f) → Sparse.find s.mem.frames k = some f → f.present = true →
    f.hs = true → Sparse.find f.coh (n / 64 % 64) = some .s → s.eng.recs = [] → s.mem.ranges = [] → s.co.subs = [] →
    ∃ t : State, exec (.ownershipGranted n) s = .next t ∧ t.clr.owns = [] ∧
      ∃ g, Sparse.find t.mem.frames k = some g ∧
        Sparse.find g.coh (n / 64 % 64) = some (if x then .e else .s)) ∧
  (∀ (s : State) (a : Dword), ∃ t : State, exec (.h2dSnoop a) s = .next t ∧
    (∀ l, l ∈ t.mem.smp ↔ l ∈ s.mem.smp ∧ l.place ≠ .host (a.toNat / 128 * 128)) ∧ t.mem.host = s.mem.host) ∧
  (∀ (s : State) (agent : HdmAgent) (kind : HdmKind) (a : Dword) (d : BitVec 512) (base : Nat),
    base = a.toNat / 64 * 64 →
    (s.frameState (base / 4096) ≠ some .pinned → exec (.hdmAccess agent kind a d) s = .next s) ∧
    (s.frameState (base / 4096) = some .pinned → s.mem.l1 = [] → s.mem.ccache = [] → s.mem.partials = [] →
      (∃ t : State, exec (.hdmAccess .host .readShared a d) s = .next t ∧
        Sparse.find t.mem.hostBlocks (base / 64) ≠ none ∧ t.mem.vault = s.mem.vault) ∧
      (∃ t : State, exec (.hdmAccess .host .readOwned a d) s = .next t ∧
        Sparse.find t.mem.hostBlocks (base / 64) = some true) ∧
      (∃ t : State, exec (.hdmAccess .host .write a d) s = .next t ∧ Sparse.find t.mem.hostBlocks (base / 64) = none ∧
        ∀ x, Sparse.getZ t.mem.vault x = if base ≤ x ∧ x < base + 64 then (leBytes 64 d.toNat).getD (x - base) 0
          else Sparse.getZ s.mem.vault x) ∧
      (Sparse.find s.mem.hostBlocks (base / 64) = none → ∃ t : State, exec (.hdmAccess .peer .write a d) s = .next t ∧
        ∀ x, Sparse.getZ t.mem.vault x = if base ≤ x ∧ x < base + 64 then (leBytes 64 d.toNat).getD (x - base) 0
          else Sparse.getZ s.mem.vault x) ∧
      (∀ excl, Sparse.find s.mem.hostBlocks (base / 64) = some excl → ∀ c ∈ [HdmKind.write, .readShared, .readOwned],
        c = .write ∨ excl = true → ∃ t : State, exec (.hdmAccess .peer c a d) s = .next t ∧
          t.mem.vault = s.mem.vault ∧ t.mem.hostBlocks = s.mem.hostBlocks ∧
          ∃ h ∈ t.mem.hostSnoops, h.block = base / 64) ∧
      (∀ c ∈ [HdmKind.readShared, .readOwned], Sparse.find s.mem.hostBlocks (base / 64) ≠ some true →
        ∃ t : State, exec (.hdmAccess .peer c a d) s = .next t ∧ t.mem.vault = s.mem.vault ∧
          t.mem.hostSnoops = s.mem.hostSnoops))) ∧
  (∀ (s : State) (h : HostSnoop), s.mem.hostSnoops.find? (fun x => x.id = h.id) = some h → ∃ t : State,
    exec (.hostBirsp h.id) s = .next t.settleRanges.retrySubs ∧ Sparse.find t.mem.hostBlocks h.block = none ∧
    (∀ x, x ∈ t.mem.hostSnoops ↔ x ∈ s.mem.hostSnoops ∧ x.id ≠ h.id) ∧ t.fibres = s.fibres ∧
    ∀ x, Sparse.getZ t.mem.vault x = (match (s.mem.hostWrites.filter fun e => e.1 / 64 = h.block).reverse.find?
        fun e => e.1 = x with
      | some e => e.2
      | none => Sparse.getZ s.mem.vault x))

/-! ### The device -/

/-- A write to BAR0 reaches the register whose offset and width it matches, and keeps its fields, reserved bits zero;
any other, or one to a read-only register, is ignored, and all are of a device whose firmware failed its check. A read of
a listed offset gives its register, any other zero. PORTCFG is written only while CTXBASE[0] is clear, and LIMIT is
held between 1,200 and 2,600; a write of a cluster's CLMERGE with DIS set closes its merge entries; reports that wait
enter their ring as its base or head is written; the doorbell of a queue is a write of its SQTAIL (R13, R47, R95, R100,
R176, R184, R238, R424, R447 to R450, R456, R459).
Readings and choices of the model in it: log 47, 65 and 99. -/
def Obligations.DeviceRegisters : Prop :=
  (∀ (s : State) (off : BitVec 16) (n : Nat) (v : Dword),
    (n ≠ 4 ∧ n ≠ 8 ∨ off.toNat % n ≠ 0 → exec (.registerWrite off n v) s = .next s) ∧
    (off.toNat ∈ [0x0000, 0x0138, 0x0148] ∨ (0x2000 ≤ off.toNat ∧ off.toNat < 0x2180) ∨
      (0x4000 ≤ off.toNat ∧ off.toNat < 0x4100) ∨ 0x5008 ≤ off.toNat → exec (.registerWrite off n v) s = .next s)) ∧
  (∀ (s : State) (off : BitVec 16) (n q : Nat) (v : Dword) (w : Word), s.barActive = false →
    exec (.registerWrite off n v) s = .next s ∧ exec (.ctxbaseWrite v) s = .next s ∧
    exec (.sqtailDoorbell q w) s = .next s) ∧
  (∀ (s : State) (v : Dword), Unlocked s → s.barActive = true →
    exec (.registerWrite 0x0100 8 v) s = exec (.ctxbaseWrite v) s ∧
    ∃ t : State, exec (.ctxbaseWrite v) s = .next t ∧ t.mem.vault = s.mem.vault ∧ t.fibres = s.fibres ∧
      (∀ b, b < 64 → t.reg.ctxbase.getLsbD b = (v.getLsbD b && decide (b = 0 ∨ (21 ≤ b ∧ b < 52)))) ∧
      (v.getLsbD 0 = false → t.xl.ctxs = [] ∧ t.xl.tlb = [] ∧ t.xl.wcache = [] ∧ t.xl.atc = []) ∧
      (v.getLsbD 0 = true → t.xl = s.xl)) ∧
  (∀ (s : State) (v : Dword), s.barActive = true →
    (∃ x, exec (.registerWrite 0x0108 8 v) s = .next { s with reg := { s.reg with rgnbase := x } } ∧
      ∀ b, b < 64 → x.getLsbD b = (v.getLsbD b && decide (27 ≤ b ∧ b < 52))) ∧
    (∃ x, exec (.registerWrite 0x0110 8 v) s = .next { s with reg := { s.reg with rplbase := x } } ∧
      ∀ b, b < 64 → x.getLsbD b = (v.getLsbD b && decide (b = 0 ∨ (21 ≤ b ∧ b < 37)))) ∧
    (s.reg.ctxbase.getLsbD 0 = true → exec (.registerWrite 0x0128 4 v) s = .next s) ∧
    (s.reg.ctxbase.getLsbD 0 = false → ∃ x,
      exec (.registerWrite 0x0128 4 v) s = .next { s with reg := { s.reg with portcfg := x } } ∧
      ∀ b, b < 32 → x.getLsbD b = if b < 4 then v.getLsbD b else s.reg.portcfg.getLsbD b) ∧
    (v.getLsbD 0 = false ∨ s.co.leaves = [] → ∃ x, exec (.registerWrite 0x0124 4 v) s = .next { s with reg := { s.reg with lvctl := x } } ∧
      ∀ b, b < 32 → x.getLsbD b = (v.getLsbD b && decide (b < 6))) ∧
    (∃ x, exec (.registerWrite 0x5000 8 v) s = .next { s with reg := { s.reg with modpwr := x } } ∧
      field x 0 12 = max 1200 (min 2600 (field v 0 12)) ∧
      ∀ b, 12 ≤ b → b < 64 → x.getLsbD b = s.reg.modpwr.getLsbD b) ∧
    (∃ x, exec (.registerWrite 0x0118 8 v) s = .next { s with reg := { s.reg with tvbase := x } } ∧
      ∀ b, b < 64 → x.getLsbD b = (v.getLsbD b && decide (b = 0 ∨ (19 ≤ b ∧ b < 52)))) ∧
    (∃ x, exec (.registerWrite 0x0120 4 v) s = .next { s with reg := { s.reg with clrctl := x } } ∧
      ∀ b, b < 32 → x.getLsbD b = (v.getLsbD b && decide (b = 1 ∨ b = 2 ∨ (8 ≤ b ∧ b < 26)))) ∧
    (∃ x, exec (.registerWrite 0x0140 8 v) s = .next { s with reg := { s.reg with hcr := { s.reg.hcr with base := x } } } ∧
      ∀ b, b < 64 → x.getLsbD b = (v.getLsbD b && decide (b < 6 ∨ (12 ≤ b ∧ b < 52)))) ∧
    exec (.registerWrite 0x014C 4 v) s =
      .next { s with reg := { s.reg with hcr := { s.reg.hcr with head := v.setWidth 32 } } } ∧
    (∃ (t : State) (x : Dword), exec (.registerWrite 0x0130 8 v) s = .next t ∧
      (∀ b, b < 64 → x.getLsbD b = (v.getLsbD b && decide (b < 6 ∨ (12 ≤ b ∧ b < 52)))) ∧
      t.reg.frq.base = x ∧ t.reg.frq.head = s.reg.frq.head ∧
      (s.io.frqWait = [] → t = { s with reg := { s.reg with frq := { s.reg.frq with base := x } } })) ∧
    (∃ t : State, exec (.registerWrite 0x013C 4 v) s = .next t ∧
      t.reg.frq.head = v.setWidth 32 ∧ t.reg.frq.base = s.reg.frq.base ∧
      (s.io.frqWait = [] → t = { s with reg := { s.reg with frq := { s.reg.frq with head := v.setWidth 32 } } }))) ∧
  (∀ (s : State) (v : Dword) (n : Nat), s.barActive = true →
    (n < 16 → Unlocked s →
      (∃ (t : State) (x : Dword), exec (.registerWrite (BitVec.ofNat 16 (0x1000 + 16 * n)) 8 v) s = .next t ∧
        (∀ b, b < 64 → x.getLsbD b = (v.getLsbD b && decide (b = 63 ∨ b = 62 ∨ (58 ≤ b ∧ b < 62) ∨ (56 ≤ b ∧ b < 58) ∨
          (30 ≤ b ∧ b < 46)))) ∧
        t.fibres = s.fibres ∧ t.mem = s.mem ∧ t.reg.poolHi = s.reg.poolHi ∧ t.reg.poolTag = s.reg.poolTag ∧
        ∀ m, Sparse.getZ t.reg.poolLo m = if m = n then x else Sparse.getZ s.reg.poolLo m) ∧
      (∃ (t : State) (x : Dword), exec (.registerWrite (BitVec.ofNat 16 (0x1008 + 16 * n)) 8 v) s = .next t ∧
        (∀ b, b < 64 → x.getLsbD b = (v.getLsbD b && decide (b < 16 ∨ (30 ≤ b ∧ b < 52)))) ∧
        t.fibres = s.fibres ∧ t.mem = s.mem ∧ t.reg.poolLo = s.reg.poolLo ∧ t.reg.poolTag = s.reg.poolTag ∧
        ∀ m, Sparse.getZ t.reg.poolHi m = if m = n then x else Sparse.getZ s.reg.poolHi m)) ∧
    (n < 16 → ∃ (t : State) (x : Dword), exec (.registerWrite (BitVec.ofNat 16 (0x1100 + 8 * n)) 8 v) s = .next t ∧
      (∀ b, b < 64 → x.getLsbD b = (v.getLsbD b && decide (25 ≤ b ∧ b < 52))) ∧
      { t with reg := s.reg } = s ∧ t.reg.poolLo = s.reg.poolLo ∧ t.reg.poolHi = s.reg.poolHi ∧
      ∀ m, Sparse.getZ t.reg.poolTag m = if m = n then x else Sparse.getZ s.reg.poolTag m) ∧
    (n < 48 → ∃ (t : State) (x : Word), exec (.registerWrite (BitVec.ofNat 16 (0x2200 + 4 * n)) 4 v) s = .next t ∧
      (∀ b, b < 32 → x.getLsbD b = (v.getLsbD b && decide (b < 9))) ∧ t.fibres = s.fibres ∧
      (∀ m, Sparse.get clmergeReset t.reg.clmerge m = if m = n then x else Sparse.get clmergeReset s.reg.clmerge m) ∧
      (v.getLsbD 8 = false → t.mem = s.mem) ∧
      (v.getLsbD 8 = true → ∀ e, e ∈ t.mem.merges ↔ e ∈ s.mem.merges ∧ e.cluster ≠ n)) ∧
    (n < 16 → ∀ at0 : Nat → BitVec 16, at0 = (fun o => BitVec.ofNat 16 (0x3000 + 64 * n + o)) →
      (∃ x, exec (.registerWrite (at0 0) 8 v) s = .next (s.setQueue n { s.queue n with sqBase := x }) ∧
        ∀ b, b < 64 → x.getLsbD b = (v.getLsbD b && decide (b < 6 ∨ (12 ≤ b ∧ b < 52)))) ∧
      (∃ x, exec (.registerWrite (at0 0x10) 8 v) s = .next (s.setQueue n { s.queue n with cqBase := x }) ∧
        ∀ b, b < 64 → x.getLsbD b = (v.getLsbD b && decide (b < 6 ∨ (12 ≤ b ∧ b < 52)))) ∧
      exec (.registerWrite (at0 0x1C) 4 v) s = .next (s.setQueue n { s.queue n with cqHead := v.setWidth 32 }) ∧
      (∃ x, exec (.registerWrite (at0 0x20) 4 v) s = .next (s.setQueue n { s.queue n with qvec := x }) ∧
        ∀ b, b < 32 → x.getLsbD b = (v.getLsbD b && decide (b < 5))) ∧
      ∀ o ∈ [0x0C, 0x18], exec (.registerWrite (at0 o) 4 v) s = .next s)) ∧
  (∀ (s : State) (q : Nat) (w : Word), s.barActive = true →
    (q < 16 → exec (.sqtailDoorbell q w) s = .next (s.setQueue q { s.queue q with sqTail := w }) ∧
      exec (.registerWrite (BitVec.ofNat 16 (0x3008 + 64 * q)) 4 (w.setWidth 64)) s = exec (.sqtailDoorbell q w) s) ∧
    (16 ≤ q → exec (.sqtailDoorbell q w) s = .next s)) ∧
  (∀ (s : State) (off n : Nat),
    s.readReg 0x0000 4 = s.reg.devstat.toNat ∧ s.readReg 0x0100 8 = s.reg.ctxbase.toNat ∧
    s.readReg 0x0128 4 = s.reg.portcfg.toNat ∧ s.readReg 0x0138 4 = s.reg.frq.tail.toNat ∧
    s.readReg 0x5000 8 = s.reg.modpwr.toNat ∧ s.readReg 0x0108 8 = s.reg.rgnbase.toNat ∧
    s.readReg 0x0110 8 = s.reg.rplbase.toNat ∧ s.readReg 0x0118 8 = s.reg.tvbase.toNat ∧
    s.readReg 0x0120 4 = s.reg.clrctl.toNat ∧ s.readReg 0x0124 4 = s.reg.lvctl.toNat ∧
    s.readReg 0x0130 8 = s.reg.frq.base.toNat ∧ s.readReg 0x013C 4 = s.reg.frq.head.toNat ∧
    s.readReg 0x0140 8 = s.reg.hcr.base.toNat ∧ s.readReg 0x0148 4 = s.reg.hcr.tail.toNat ∧
    s.readReg 0x014C 4 = s.reg.hcr.head.toNat ∧
    (∀ i, i < 48 → s.readReg (0x2000 + 8 * i) 8 = (s.purse i).toNat ∧
      s.readReg (0x2200 + 4 * i) 4 = (Sparse.get clmergeReset s.reg.clmerge i).toNat) ∧
    (∀ i, i < 32 → s.readReg (0x4000 + 8 * i) 8 = (Sparse.getZ s.reg.errcnt i).toNat) ∧
    (∀ i, i < 16 → s.readReg (0x1000 + 16 * i) 8 = (Sparse.getZ s.reg.poolLo i).toNat ∧
      s.readReg (0x1008 + 16 * i) 8 = (Sparse.getZ s.reg.poolHi i).toNat ∧
      s.readReg (0x1100 + 8 * i) 8 = (Sparse.getZ s.reg.poolTag i).toNat) ∧
    (∀ q, q < 16 → ∀ x at0, x = s.queue q → at0 = 0x3000 + 64 * q →
      s.readReg at0 8 = x.sqBase.toNat ∧ s.readReg (at0 + 0x08) 4 = x.sqTail.toNat ∧
      s.readReg (at0 + 0x0C) 4 = x.sqHead.toNat ∧ s.readReg (at0 + 0x10) 8 = x.cqBase.toNat ∧
      s.readReg (at0 + 0x18) 4 = x.cqTail.toNat ∧ s.readReg (at0 + 0x1C) 4 = x.cqHead.toNat ∧
      s.readReg (at0 + 0x20) 4 = x.qvec.toNat) ∧
    (n ≠ 4 ∧ n ≠ 8 ∨ off % n ≠ 0 ∨ 0x5008 ≤ off → s.readReg off n = 0)) ∧
  ∀ (s : State) (port : Nat), (4 ≤ port → exec (.linkTrained port) s = .next s) ∧
    (port < 4 → ∃ x, exec (.linkTrained port) s = .next { s with reg := { s.reg with portcfg := x } } ∧
      ∀ b, b < 32 → x.getLsbD b = if b = 4 + port then true else s.reg.portcfg.getLsbD b)

/-- A cold reset gives every register its reset value and zeroes the vault, and DEVSTAT says what the firmware check
found; a function-level reset aborts the commands in progress and kills every region, keeps PORTCFG and the pool map,
writes dirty frames back, drops every granule and keeps PINNED frames and their contents; a core reset writes the core's
dirty lines back, and leaves it without fibres, receipts, records or copies; a core that nothing keeps is gated and powers
up with its clock as it was; the controller lowers every ALLOW at the thermal limit, and a trip stops the dies (R145,
R226, R235, R280, R456, R459, R460).
Readings and choices of the model in it: log 3 for the registers without a reset value, CTXBASE and RGNBASE among them,
and log 65 and 66. -/
def Obligations.ResetsAndPower : Prop :=
  (∀ (s : State) (failed : Option (BitVec 4)), ∃ t : State, exec (.coldReset failed) s = .next t ∧
    { t.reg with devstat := 0 } = State.reset.reg ∧
    t.reg.devstat = (match failed with
      | none => 1
      | some i => BitVec.ofNat 32 (8 + 16 * i.toNat)) ∧
    t.mem.vault = [] ∧ t.mem.frames = [] ∧ t.fibres = [] ∧ t.groups = [] ∧ t.tripped = false ∧
    t.mem.host = s.mem.host ∧ t.mem.fabric = s.mem.fabric) ∧
  (∀ s : State, ∃ t : State, exec .functionLevelReset s = .next t ∧ t.io.pending = [] ∧
      (∀ p, s.io.pending = [p] → s.abortCommands = s.complete p.queue p.tag 4 0) ∧
      (∀ l f, s.fibre l = some f → (Sparse.find s.sched.rcbs f.region).isSome = true → t.fibre l = none) ∧ t.reg.portcfg = s.reg.portcfg ∧ t.reg.poolLo = s.reg.poolLo ∧
      t.reg.poolHi = s.reg.poolHi ∧ t.reg.poolTag = s.reg.poolTag ∧ t.reg.ctxbase = 0 ∧ t.reg.rgnbase = 0 ∧
      t.reg.rplbase = 0 ∧ t.reg.tvbase = 0 ∧ t.reg.clrctl = 0x00C81000 ∧ t.reg.lvctl = 0x30 ∧ t.reg.purse = [] ∧
      t.reg.clmerge = [] ∧ t.reg.errcnt = [] ∧ field t.reg.modpwr 0 12 = 2400 ∧ t.io.queues = [] ∧
      t.mem.banks = [] ∧ t.mem.icache = [] ∧ t.mem.smp = [] ∧ t.reg.devstat = 0 ∧
      t.reg.frq = State.reset.reg.frq ∧ t.reg.hcr = State.reset.reg.hcr ∧
      (Sparse.sortedFrom none s.mem.frames = true →
        ∀ k, t.frameState k = if s.frameState k = some .pinned then some .pinned else none) ∧
      (s.allRegions = [] → Unlocked s → s.mem.l1 = [] → s.mem.ccache = [] → s.mem.ranges = [] →
        (∀ a, s.frameState (a / 4096) = some .pinned → Sparse.getZ t.mem.vault a = Sparse.getZ s.mem.vault a) ∧
        ∀ k f b x fa ta, s.mem.frames = [(k, f)] → f.st ≠ .pinned → b < 64 → x < 64 → f.dirty.getLsbD b = true →
          (∀ m ∈ s.mem.marks, m.1 / 32 ≠ k) →
          (∀ c, c < 64 → poolFabric s.reg (f.gran * 4096 + c * 64) = some (fa + c * 64)) →
          (∀ c, c < 64 → poolTagAddr s.reg (f.gran * 4096 + c * 64) = some (ta + 2 * c)) →
          (ta + 128 ≤ fa ∨ fa + 4096 ≤ ta) →
          Sparse.getZ t.mem.fabric (fa + b * 64 + x) = Sparse.getZ s.mem.vault (k * 4096 + b * 64 + x))) ∧
  (∀ (s : State) (core : Nat), (Config.cores ≤ core → exec (.coreReset core) s = .next s) ∧
    (core < Config.cores → ∃ t : State, exec (.coreReset core) s = .next t ∧ Sparse.getZ t.clk core = 0 ∧
      (∀ l, coreOf l = core → t.fibre l = none) ∧ (∀ r ∈ t.sched.receipts, r.core ≠ core) ∧
      (∀ b ∈ t.sched.bins, b.core ≠ core) ∧ (∀ u ∈ t.sched.tellIn, u.core ≠ core) ∧
      t.mem.dirtyLines core = [] ∧ (∀ e ∈ t.mem.copies, e.1 / 2 ^ 64 ≠ core) ∧
      (∀ l ∈ t.mem.icache, l.core ≠ core) ∧ ∀ l ∈ t.mem.smp, l.core ≠ core)) ∧
  (∀ (s : State) (core : Nat),
    ((∃ e ∈ s.fibres, coreOf e.1 = core) ∨ (∃ r ∈ s.sched.receipts, r.core = core) ∨
      (∃ b ∈ s.sched.bins, b.core = core) ∨ s.replySlots core ≠ 0 ∨ core ∈ s.gated →
      exec (.corePowerGate core) s = .next s) ∧
    (core < Config.cores → core ∉ s.gated → (∀ e ∈ s.fibres, coreOf e.1 ≠ core) → (∀ r ∈ s.sched.receipts, r.core ≠ core) →
      (∀ b ∈ s.sched.bins, b.core ≠ core) → (∀ b ∈ s.sched.tellIn, b.core ≠ core) → s.replySlots core = 0 →
      s.mem.l1 = [] → s.mem.ccache = [] → s.mem.copies = [] → exec (.corePowerGate core) s = .next { s with gated := s.gated ++ [core] }) ∧
    exec (.corePowerUp core) s = .next { s with gated := s.gated.filter fun c => c ≠ core }) ∧
  (∀ (s : State) (allow : BitVec 24), s.co.leaves = [] → s.barActive = true → ∃ t : State, exec (.thermalLimit allow) s = .next t ∧
    t.reg.devstat.getLsbD 2 = true ∧ ∀ c, c < 48 →
      field (t.purse c) 32 24 = min allow.toNat (field (s.purse c) 32 24) ∧ field (t.purse c) 0 32 = field (s.purse c) 0 32) ∧
  ∀ s : State, ∃ t : State, exec .thermalTrip s = .next t ∧ t.tripped = true ∧ t.fibres = s.fibres ∧ t.reg = s.reg

/-- An invalidation request drops what overlaps its range, and a completion enters the ATC only for an outstanding
request; errors are counted, those not corrected are logged and do what their structure's row says; an IDE failure takes
the port down, and the interfaces of a port in host attach go to ERROR; the security engine answers; device interfaces
pass through their states, and one whose captured bytes have changed is in ERROR (R42, R44, R96, R455, R457, R458).
Readings and choices of the model in it: log 20, 23, 41, 68, 69, 70, 79 and 101. -/
def Obligations.ErrorsAndSecurity : Prop :=
  (∀ (s : State) (base len : Dword), s.barActive = true →
    ∃ t : State, exec (.atsInvalidationRequest base len) s = .next t ∧
    t.mem = s.mem ∧ t.fibres = s.fibres ∧
    t.xl.invDone = s.xl.invDone ++ [(base.toNat, len.toNat)] ∧
    ∀ e, e ∈ t.xl.atc ↔ e ∈ s.xl.atc ∧ ¬ (e.host < base.toNat + len.toNat ∧ base.toNat < e.host + 2 ^ e.log2)) ∧
  (∀ (s : State) (asid : BitVec 16) (page host : Dword) (log2 : Nat) (read write fail : Bool),
    ((∀ r ∈ s.xl.atsReq, r.asid = asid → r.page ≠ page.toNat) ∨ log2 < 12 →
      exec (.atsCompletion asid page host log2 read write fail) s = .next s) ∧
    ((∃ r ∈ s.xl.atsReq, r.asid = asid ∧ r.page = page.toNat) → 12 ≤ log2 → s.co.subs = [] →
      exec (.atsCompletion asid page host log2 read write fail) s =
        .next { s with xl := { s.xl with
          atsReq := s.xl.atsReq.filter fun r => !(r.asid == asid && r.page == page.toNat)
          atc := ⟨asid, page.toNat, log2, host.toNat / 2 ^ log2 * 2 ^ log2, read, write, fail⟩ ::
            s.xl.atc.take 16383 } })) ∧
  (∀ (s : State) (what : ErrPart) (place addr : Nat), ∃ t : State,
    exec (.correctableError what place addr) s = .next t ∧ t.io = s.io ∧ t.mem = s.mem ∧
    ∀ i, Sparse.getZ t.reg.errcnt i = if i = 2 * errIndex what ∧ Sparse.getZ s.reg.errcnt i ≠ BitVec.allOnes 64
      then Sparse.getZ s.reg.errcnt i + 1 else Sparse.getZ s.reg.errcnt i) ∧
  (∀ (s : State) (what : ErrPart) (place addr : Nat),
    what ≠ .vault → (what = .registers → s.fibre (place * 128 + addr % 128) = none) →
    (what = .groupScratch → s.scratchOwner place addr = none) →
    ∃ t : State, exec (.uncorrectableError what place addr) s = .next t ∧
      (∃ clk, t.io.devLog = s.io.devLog ++ [⟨errIndex what, place, addr, clk⟩]) ∧
      (∀ i, Sparse.getZ t.reg.errcnt i = if i = 2 * errIndex what + 1 ∧ Sparse.getZ s.reg.errcnt i ≠ BitVec.allOnes 64
        then Sparse.getZ s.reg.errcnt i + 1 else Sparse.getZ s.reg.errcnt i) ∧
      t.reg.devstat.getLsbD 1 = true ∧ t.fibres = s.fibres ∧
      (what = .samplerCache → ∀ l, l ∈ t.mem.smp ↔
        l ∈ s.mem.smp ∧ (l.core ≠ place ∨ l.place.addr / 128 ≠ addr / 128)) ∧
      (what = .homeCache → ∀ f, Sparse.find s.mem.frames (addr / 4096) = some f →
        ∃ g, Sparse.find t.mem.frames (addr / 4096) = some g ∧ ({ g with poison := f.poison } : Frame) = f ∧
          ∀ b, b < 64 → g.poison.getLsbD b = (f.poison.getLsbD b ||
            (decide (Sparse.find s.mem.homec (addr / 128) = some true) && decide (b / 2 = addr / 128 % 32)))) ∧
      (what = .coreL1 → Sparse.find s.mem.l1 (l1Key place (addr / 128)) = none →
        t.mem = s.mem.dropCopy place (addr / 128)) ∧
      (what = .snoopFilter → t.mem = s.mem.recallLine (addr / 128)) ∧
      (what = .clusterCache → Sparse.find t.mem.ccache (l1Key place (addr / 128)) = none ∧ t.mem.l1 = s.mem.l1) ∧
      ((∃ n, what = .port n) ∨ what = .ide ∨ what = .firmware → t.mem = s.mem)) ∧
  (∀ (s : State) (addr : Nat), exec (.uncorrectableError .vault 0 addr) s = exec (.vaultUncorrectableError addr) s ∧
    ∃ t : State, exec (.vaultUncorrectableError addr) s = .next t ∧
      (∃ e, t.io.devLog = s.io.devLog ++ [e] ∧ e.part = 8) ∧
      ∀ f, Sparse.find s.mem.frames (addr / 4096) = some f →
        (f.st = .pinned ∨ (f.st = .dirty ∧ f.dirty.getLsbD (addr / 64 % 64) = true) →
          ∃ g, Sparse.find t.mem.frames (addr / 4096) = some g ∧ g.poison.getLsbD (addr / 64 % 64) = true ∧ g.st = f.st) ∧
        (f.st = .clean → f.dirty = 0 → s.mem.l1 = [] → s.mem.ccache = [] →
          ∃ g, Sparse.find t.mem.frames (addr / 4096) = some g ∧ g.st = .evicting ∧ g.refill = true)) ∧
  (∀ (s : State) (port : Nat), ∃ t : State, exec (.ideFailure port []) s = .next t ∧
    t.reg.portcfg.getLsbD (4 + port % 4) = false ∧ (Unlocked s → t.fibres = s.fibres) ∧
    (∃ clk, t.io.devLog = s.io.devLog ++ [⟨13, port, 0, clk⟩]) ∧
    (s.reg.portcfg.getLsbD (port % 4) = false → ∀ x ∈ t.io.ifaces, x.st = .error)) ∧
  (∀ (s : State) (port stream : Nat) (point : BitVec 768) (nonce : BitVec 256) (ea sh : Bool) (o l : BitVec 16) (i : Byte)
      (t : SpdmAnswer → State), t = (fun a => { s with io := { s.io with spdm := s.io.spdm ++ [a] } }) →
    exec .getVersion s = .next (t (.version 1 2)) ∧
    (∃ n, exec .getCapabilities s = .next (t (.capabilities n))) ∧
    exec (.negotiateAlgorithms ea sh) s = .next (t (if ea ∧ sh then .algorithms true true else .error)) ∧
    (∃ d, exec .getDigests s = .next (t (.digests d))) ∧
    (∃ c, exec (.getCertificate o l) s = .next (t (.certificate c)) ∧ c.length = l.toNat) ∧
    (∃ (u : State) (sig : BitVec 768), exec (.challenge nonce) s = .next u ∧
      u.io = (t (.challengeAuth nonce sig)).io ∧ u.fibres = s.fibres ∧ u.mem = s.mem) ∧
    ((1 ≤ i.toNat ∧ i.toNat ≤ 5) → ∃ m, exec (.getMeasurements i) s = .next (t (.measurements [(i.toNat, m)]))) ∧
    (4 ≤ port ∨ 4 ≤ stream → exec (.keyExchange port stream point) s = .next (t .error)) ∧
    (port < 4 → stream < 4 → ∃ (u : State) (p : BitVec 768) (sig : BitVec 768),
      exec (.keyExchange port stream point) s = .next u ∧ u.io.spdm = s.io.spdm ++ [.keyExchange stream p sig] ∧
      port * 4 + stream ∈ u.io.streams ∧ u.mem = s.mem)) ∧
  ∀ (s : State) (rgn : Nat),
    (s.rcb rgn = none ∨ s.lockedRegion rgn = true → exec (.lockInterfaceRequest rgn) s = .next s) ∧
    (s.rcb rgn ≠ none → s.lockedRegion rgn = false → ∃ t : State, exec (.lockInterfaceRequest rgn) s = .next t ∧
      (∃ seen, t.io.ifaces = s.io.ifaces ++ [⟨rgn, .configLocked, false, seen⟩] ∧
        (∀ r, t.rcb rgn = some r →
          field s.reg.ctxbase 21 31 * 2 ^ 21 + 32 * r.asid.toNat ∈ seen.map (·.1)) ∧
        ∀ e ∈ seen, e.2 = physRead t e.1 e.2.length) ∧ t.fibres = s.fibres) ∧
    (∀ x ∈ s.io.ifaces, (∃ e ∈ x.seen, physRead s e.1 e.2.length ≠ e.2) →
      ∃ y ∈ s.checkCaptured.io.ifaces, y.region = x.region ∧ y.st = .error) ∧
    (∃ t : State, exec (.startInterfaceRequest rgn) s = .next t ∧ t.fibres = s.fibres ∧
      ∀ (n : Nat) (x : Iface), s.io.ifaces[n]? = some x → ∃ y : Iface, t.io.ifaces[n]? = some y ∧ y.region = x.region ∧
        y.st = if x.region = rgn ∧ x.st = .configLocked then .run else x.st) ∧
    ∃ t : State, exec (.stopInterfaceRequest rgn) s = .next t ∧ t.fibres = s.fibres ∧
      ∀ x ∈ t.io.ifaces, x.region = rgn → ∃ e ∈ s.fibres, s.inSubtree rgn e.2.region = true

/-! ### Work that starts and ends -/

/-- Nothing is placed while RPLBASE.EN or CTXBASE[0] is clear or the dies stand still; the region served has the highest PRIO and then
the lowest PASS; a group that is placed starts READY at its role's entry. A core takes a record for which it has room;
a launch that is over leaves the table. Records enter bins, bins ripen, and a ripe bin's fibre starts at ENTRY with one
lane per record (R13, R167, R204 to R207, R215, R220, R221, R224, R227, R228, R439, R440).
Readings and choices of the model in it: log 36, 49, 50 and 80. -/
def Obligations.WorkStarts : Prop :=
  (∀ s : State, s.reg.rplbase.getLsbD 0 = false ∨ s.reg.ctxbase.getLsbD 0 = false ∨ s.tripped = true →
    exec .placement s = .next s) ∧
  (∀ (s : State) (l : List (Nat × Rcb × List Work)) (x : Nat × Rcb × List Work), s.bestRegion l = some x → x ∈ l ∧
    ((∃ y ∈ l, s.heldBack y.2.2 = false) → s.heldBack x.2.2 = false) ∧
    ∀ y ∈ l, s.heldBack y.2.2 = s.heldBack x.2.2 →
      y.2.1.prio < x.2.1.prio ∨ (y.2.1.prio = x.2.1.prio ∧ x.2.1.pass ≤ y.2.1.pass)) ∧
  (∀ (s u : State) (n id lin core k : Nat) (r : Rcb) (w : List Work) (l : Launch) (role : Role),
    s.reg.rplbase.getLsbD 0 = true → s.reg.ctxbase.getLsbD 0 = true → s.tripped = false → s.restoring = none →
    s.mem.hostBlocks = [] →
    u = s.notePass s.considered →
    u.bestRegion u.considered = some (n, r, .group id :: w) → Sparse.find u.sched.launches id = some l →
    l.lrec.ngang = 1 → l.lrec.nrole = 1 → l.lrec.roles = [role] → l.lrec.args = [] → l.nextLin = some lin →
    u.gridCore l = some core → u.fitSlots core [] l.lrec.gangNeeds = some [k] →
    ∃ (t : State) (f : Fibre), exec .placement s = .next t ∧ t.fibre (4 * k) = some f ∧ f.st = .ready ∧
      f.pc = BitVec.ofNat 48 role.entry ∧ f.exec = l.lrec.lanes lin 0 ∧ f.lid = 0 ∧ f.launch = id ∧ f.asid = r.asid ∧
      f.region = l.lrec.rnum ∧ ∀ i, i / 4 ≠ k → t.fibre i = s.fibre i) ∧
  (∀ (s : State) (core rgn : Nat) (r : Rcb),
    (Config.cores ≤ core ∨ s.coreRuns core = false → exec (.taskTake core) s = .next s) ∧
    (s.mem.hostBlocks = [] → s.workRegions = [rgn] → s.findTask core rgn = none →
      exec (.taskTake core) s = .next s) ∧
    (∀ qtab x b, s.mem.hostBlocks = [] → core < Config.cores → s.coreRuns core = true → s.workRegions = [rgn] → s.rcb rgn = some r →
      r.st = .active →
      r.tickets ≠ 0 → s.findTask core rgn = some (qtab, x, b) → s.taskRoom core rgn b = true → recBad b = false →
      recGroup b = true → s.declaring rgn (recEntry b) true ≠ none →
      ∃ t : State, exec (.taskTake core) s = .next t ∧
        t.sched.receipts = s.sched.receipts ++ [⟨core, rgn, x.queue, b, false⟩] ∧ t.fibres = s.fibres)) ∧
  (∀ (s : State) (id : Nat),
    (Sparse.find s.sched.launches id = none → exec (.launchRetire id) s = .next s) ∧
    ∀ l, Sparse.find s.sched.launches id = some l →
      (l.placed ≠ 0 ∨ l.records ≠ 0 ∨ l.nextLin ≠ none → exec (.launchRetire id) s = .next s) ∧
      (l.placed = 0 → l.records = 0 → l.nextLin = none → l.lrec.done = 0 → s.io.pending = [] →
        exec (.launchRetire id) s = .next { s with sched := { s.sched with launches := Sparse.erase s.sched.launches id } })) ∧
  (∀ (s : State) (core rgn bin : Nat) (r : ContRec) (u : TellRun) (op : Option Op),
    ((∀ t ∈ s.sched.tellIn, t.core ≠ core ∨ (∃ id ∈ t.after, (Sparse.find s.eng.ops id).isSome = true) ∨
        (4096 < s.tellerHolds core + t.records.length ∧ s.overflowRoom t.region < t.records.length)) →
      exec (.tellerRecordArrival core) s = .next s) ∧
    (u = ⟨core, rgn, [], [r], op⟩ → s.sched.tellIn = [u] → s.sched.bins = [] → ∃ t : State,
      exec (.tellerRecordArrival core) s = .next t ∧ t.sched.tellIn = [] ∧
      t.sched.bins = [⟨core, rgn, recEntry r.bytes, recKey r.bytes, [r], !s.regionOnCore core rgn, false⟩]) ∧
    ((s.sched.bins.filter fun b => b.core = core)[bin]? = none → exec (.binRipen core bin) s = .next s) ∧
    ∀ b, (s.sched.bins.filter fun b => b.core = core)[bin]? = some b → ∃ t : State,
      exec (.binRipen core bin) s = .next t ∧ { b with ripe := true } ∈ t.sched.bins ∧ t.fibres = s.fibres ∧
      ∀ x ∈ s.sched.bins, x ≠ b → x ∈ t.sched.bins) ∧
  (∀ (s : State) (rgn : Nat) (c : Rcb) (m : OverflowMark),
    (s.rcb rgn = none ∨ (∀ x ∈ s.co.overflow, x.region ≠ rgn) → exec (.overflowReturn rgn) s = .next s) ∧
    (∀ at0, at0 = c.covbase + 64 * (m.idx % 2 ^ c.covlog2) → s.rcb rgn = some c → s.co.overflow = [m] → m.region = rgn →
      s.tellerHolds m.core < 4096 → s.physTrouble at0 = none → physHeld s at0 64 = [] → ∃ t : State, exec (.overflowReturn rgn) s = .next t ∧
        t.rcb rgn = some { c with covhead := (c.covhead + 1) % 2 ^ 32 } ∧ t.co.overflow = [] ∧
        t.tellerHolds m.core = s.tellerHolds m.core + 1)) ∧
  ∀ (s : State) (core : Nat),
    ((∀ b ∈ s.sched.bins, b.core ≠ core ∨ b.ripe = false) → exec (.tellerPlacement core) s = .next s) ∧
    ∀ b lid l d loc asid, s.sched.bins = [b] → b.core = core → b.ripe = true →
      s.declaring b.region b.entry false ≠ none → s.binPlace b = some (lid, l, d, loc, asid) →
      ∃ (t : State) (f : Fibre), exec (.tellerPlacement core) s = .next t ∧ t.sched.bins = [] ∧ t.fibre loc = some f ∧
        f.st = .ready ∧ f.pc = BitVec.ofNat 48 b.entry ∧ f.exec = BitVec.ofNat 32 (2 ^ b.records.length - 1) ∧
        f.region = b.region ∧ f.asid = asid ∧ f.launch = lid

/-- The oldest waiting fault report and HCALL record enter their rings when these have room, at the ring's tail, which
rises, and a report that has waited unreported is then made; an advance within a microsecond of a send is sent with the next; an operation that is over writes its destination
and lowers its counter; a record replays only when it is ripe and its fibre is not pre-empted (R173, R183, R184, R189,
R308, R416, R450, R453).
A walk that nothing waits for does nothing; another caches the leaf that it finds, and nothing where it is refused. It
reads at each of five levels the one entry that the address indexes, refuses it with NOPTE, RSVD, SIZE or KIND in that
order, sets A of a leaf, and D for a write, and goes on at the table that a pointer names. An access then needs an
enabled translation and a good context, U for an unprivileged fibre, and its kind's bits, and is refused with the cause
of the first check that fails (R13 to R19, R21 to R23, R26 to R28, R30).
Readings and choices of the model in it: log 33 and 71, and log 77 and 78 for contexts and table pages. -/
def Obligations.Deliveries : Prop :=
  (∀ (s : State) (g : Ring) (n : Nat), n = field g.base 0 6 →
    (g = s.reg.frq → s.io.frqWait = [] ∨ n = 0 ∨ 2 ^ n ≤ (g.tail - g.head).toNat →
      exec .faultReportDelivery s = .next s) ∧
    (∀ r rest, g = s.reg.frq → s.io.frqWait = r :: rest → n ≠ 0 → (g.tail - g.head).toNat < 2 ^ n → ∃ u : State,
      u.io.frqWait = rest ∧ u.io.late = s.io.late ∧ u.reg.frq = { g with tail := g.tail + 1 } ∧
      u.mem.host = writeBytes s.mem.host (field g.base 12 40 * 4096 + g.tail.toNat % 2 ^ n * 64) r.bytes ∧
      u.mem.vault = s.mem.vault ∧ u.fibres = s.fibres ∧
      (s.io.late = [] → exec .faultReportDelivery s = .next u) ∧
      (∀ l more, s.io.late = l :: more → exec .faultReportDelivery s =
        .next (({ u with io := { u.io with late := more } } : State).reportNow l))) ∧
    (g = s.reg.hcr → s.io.hcWait = [] ∨ n = 0 ∨ 2 ^ n ≤ (g.tail - g.head).toNat →
      exec .hcallRingDelivery s = .next s) ∧
    (∀ e rest, g = s.reg.hcr → s.io.hcWait = e :: rest → n ≠ 0 → (g.tail - g.head).toNat < 2 ^ n → ∃ t : State,
      exec .hcallRingDelivery s = .next t ∧ t.io.hcWait = rest ∧ t.reg.hcr = { g with tail := g.tail + 1 } ∧
      Sparse.find t.eng.ops e.op = none ∧
      t.mem.host = writeBytes s.mem.host (field g.base 12 40 * 4096 + g.tail.toNat % 2 ^ n * 64) e.bytes)) ∧
  (∀ (s : State) (v : Nat), ∃ t : State, exec (.msixCoalescedSend v) s = .next t ∧ t.mem = s.mem ∧
    (v ∈ s.io.msixWait → Sparse.getN t.io.msix v = Sparse.getN s.io.msix v + 1 ∧ v ∈ t.io.msixOpen) ∧
    (v ∉ s.io.msixWait → t.io.msix = s.io.msix ∧ t.io.msixOpen = s.io.msixOpen.erase v)) ∧
  (∀ (s : State) (id : Nat),
    (Sparse.find s.eng.ops id = none ∨ s.recorded id = true → exec (.lsuComplete id) s = .next s) ∧
    (∀ o q b va dst, Sparse.find s.eng.ops id = some o → s.oldestLsu id o = false →
      o.body = .enq q b ∨ o.body = .launch va dst → exec (.lsuComplete id) s = .next s) ∧
    ∀ o fid n nb sx sp addr sy c f, Sparse.find s.eng.ops id = some o → s.eng.recs = [] → s.eng.held = [] →
      o.body = .load [.s fid n] nb sx sp addr sy → o.finished = true → o.ctr = some c → s.fibre o.loc = some f →
      fid = o.loc % 4 → ∃ (t : State) (g : Fibre), exec (.lsuComplete id) s = .next t ∧
        Sparse.find t.eng.ops id = none ∧ t.fibre o.loc = some g ∧
        g.s n = (f.setS n (BitVec.ofNat 64 ((Sparse.get [] o.results 0).headD 0))).s n ∧
        g.counter c = f.counter c - 1) ∧
  (∀ (s : State) (loc frame key : Nat) (r : Record), key = loc * 4 + frame % 4 →
    (Sparse.find s.eng.recs key = none ∨ s.fibre loc = none → exec (.recordReplay loc frame) s = .next s) ∧
    (Sparse.find s.eng.recs key = some r → r.ripe = false → r.running = false →
      exec (.recordReplay loc frame) s = .next s) ∧
    (∀ f, s.fibre loc = some f → f.st = .suspended → exec (.recordReplay loc frame) s = .next s) ∧
    (∀ f o q, Sparse.find s.eng.recs key = some r → s.fibre loc = some f → f.st ≠ .suspended → r.ripe = true →
      Sparse.find s.eng.ops r.op = some o → o.body = .ray q → ∃ t : State,
        exec (.recordReplay loc frame) s = .next t ∧ t.fibres = s.fibres ∧
        Sparse.find t.eng.recs key = some { r with running := true })) ∧
  (∀ (s : State) (core : Nat) (asid : BitVec 16) (va : Dword),
    ((∀ e ∈ s.eng.ops, coreOf e.2.loc ≠ core ∨ e.2.asid ≠ asid ∨ e.2.finished = true) ∨ canonical va.toNat = false →
      exec (.pageWalk core asid va) s = .next s) ∧
    (∃ t : State, exec (.pageWalk core asid va) s = .next t ∧ t.fibres = s.fibres ∧ t.eng = s.eng) ∧
    (∀ (o : Nat × Op) (c : CtxSlot) (s0 s1 : State), o ∈ s.eng.ops → coreOf o.2.loc = core → o.2.asid = asid →
      o.2.finished = false → s.recorded o.1 = false → canonical va.toNat = true → s.reg.ctxbase.getLsbD 0 = true →
      findCtx s.xl asid = some c → c.ok = true → (∀ e ∈ s.xl.tlb, e.serves (clusterOf core) asid va.toNat = false) →
      s0 = { s with xl := { s.xl with ctxs := c :: s.xl.ctxs.filter fun d => d.asid ≠ asid } } →
      (∀ e, walk s0 (clusterOf core) c va.toNat false = (.ok e, s1) → pteKind e.pte ≠ 1 →
        (findCtx s1.xl e.asid).isSome = true →
        exec (.pageWalk core asid va) s = .next { s1 with xl := s1.xl.install e } ∧ e ∈ (s1.xl.install e).tlb) ∧
      (∀ cause sz, walk s0 (clusterOf core) c va.toNat false = (.refuse cause sz, s1) →
        exec (.pageWalk core asid va) s = .next s1))) ∧
  (∀ (s s1 : State) (cluster : Nat) (c : CtxSlot) (asid : BitVec 16) (va level kind table ea place : Nat) (setD : Bool)
    (pte : Dword), ea = table + 8 * (va / 2 ^ (12 + 9 * level) % 512) → tablePlace s kind ea false = (.ok place, s1) →
    pte = BitVec.ofNat 64 (leNat (readBytes s1.mem.vault place 8)) →
    (∀ cause sz, pteRefusal s1 c level pte = some (cause, sz) →
      walkLevels s cluster c asid va setD level kind table = (.refuse cause sz, s1)) ∧
    (pteRefusal s1 c level pte = none → pte.getLsbD 1 = true →
      ∀ want log2 e, want = pte ||| BitVec.ofNat 64 (if setD then 0xC00 else 0x400) → log2 = pageLog2 (field pte 2 3) →
        e = (⟨cluster, asid, va / 2 ^ log2 * 2 ^ log2, log2, want, none⟩ : TlbEnt) →
        (want = pte → walkLevels s cluster c asid va setD level kind table = (.ok e, s1)) ∧
        (∀ p s2, want ≠ pte → tablePlace s1 kind ea true = (.ok p, s2) → ∃ t : State,
          walkLevels s cluster c asid va setD level kind table = (.ok e, t) ∧ t.fibres = s2.fibres ∧
          ∀ x, Sparse.getZ t.mem.vault x = if place ≤ x ∧ x < place + 8 then (leBytes 8 want.toNat).getD (x - place) 0
            else Sparse.getZ s2.mem.vault x)) ∧
    (∀ l, pteRefusal s1 c level pte = none → pte.getLsbD 1 = false → level = l + 1 → ∃ e : WalkEnt, e.pte = pte ∧
      walkLevels s cluster c asid va setD level kind table = walkLevels { s1 with xl := s1.xl.cachePointer e } cluster c
        asid va setD l (field pte 52 3) (field pte 12 40 * 4096))) ∧
  (∀ (s : State) (c : CtxSlot) (level a sz kind : Nat) (pte : Dword), a = field pte 12 40 * 4096 → sz = field pte 2 3 →
    kind = field pte 52 3 → level ≤ 4 →
    (pte.getLsbD 0 = false → pteRefusal s c level pte = some (0x02, 0)) ∧
    (pte.getLsbD 0 = true → field pte 57 7 ≠ 0 → ∃ z, pteRefusal s c level pte = some (0x03, z)) ∧
    (pte.getLsbD 0 = true → field pte 57 7 = 0 →
      (pte.getLsbD 1 = true → 3 ≤ level ∨ (level = 2 ∧ sz ≠ 7) ∨ (level = 1 ∧ (sz < 4 ∨ 6 < sz)) ∨ (level = 0 ∧ 3 < sz) ∨
        a % 2 ^ pageLog2 sz ≠ 0 → pteRefusal s c level pte = some (0x04, sz)) ∧
      (pte.getLsbD 1 = false → level = 0 ∨ sz ≠ 0 → pteRefusal s c level pte = some (0x04, 0)) ∧
      (pte.getLsbD 1 = true → (level = 2 ∧ sz = 7) ∨ (level = 1 ∧ 4 ≤ sz ∧ sz ≤ 6) ∨ (level = 0 ∧ sz ≤ 3) →
        a % 2 ^ pageLog2 sz = 0 →
        (4 ≤ kind ∨ (kind = 0 ∧ 2 ^ 46 ≤ a) ∨ (kind = 1 ∧ c.lo.getLsbD 1 = false) ∨
          (kind = 2 ∧ Config.frames * 4096 ≤ a) → pteRefusal s c level pte = some (0x05, sz)) ∧
        (kind = 3 ∨ (kind = 1 ∧ c.lo.getLsbD 1 = true) ∨ (kind = 2 ∧ a < Config.frames * 4096) ∨
          (kind = 0 ∧ a < 2 ^ 46 ∧ poolBad s.reg a (pte.getLsbD 56) = false) → pteRefusal s c level pte = none)) ∧
      (pte.getLsbD 1 = false → level ≠ 0 → sz = 0 →
        (kind ≠ 0 ∧ kind ≠ 2 ∨ (kind = 0 ∧ 2 ^ 46 ≤ a) ∨ (kind = 2 ∧ Config.frames * 4096 ≤ a) →
          pteRefusal s c level pte = some (0x05, 0)) ∧
        ((kind = 2 ∧ a < Config.frames * 4096) ∨ (kind = 0 ∧ a < 2 ^ 46 ∧ poolBad s.reg a false = false) →
          pteRefusal s c level pte = none)))) ∧
  ∀ (s : State) (w : Who) (k : AKind) (va : Nat) (e : TlbEnt) (c : CtxSlot), canonical va = true →
    (privHalf va = true → w.priv = true) →
    (s.reg.ctxbase.getLsbD 0 = false → checkPage s w k va = (.refuse 0x01 0, s)) ∧
    (s.reg.ctxbase.getLsbD 0 = true → findCtx s.xl w.asid = some c → c.ok = false →
      ∃ t : State, checkPage s w k va = (.refuse 0x01 0, t) ∧ t.mem = s.mem) ∧
    (e.host = none → permission w k e =
      (if w.priv = false ∧ e.pte.getLsbD 8 = false then some 0x09
      else if k ∈ [AKind.read, .tagrd, .atomic] ∧ e.pte.getLsbD 5 = false then some 0x0A
      else if k ∈ [AKind.write, .tagwr, .atomic] ∧ e.pte.getLsbD 6 = false then some 0x0B
      else if k = .exec ∧ e.pte.getLsbD 7 = false then some 0x0C
      else if k = .tagwr ∧ field e.pte 52 3 = 1 then some 0x0D else none)) ∧
    (s.reg.ctxbase.getLsbD 0 = true → findCtx s.xl w.asid = some c → c.ok = true →
      s.xl.tlb.find? (fun e => e.serves (clusterOf w.core) w.asid va && !(k.writes && !e.pte.getLsbD 11)) = some e →
      (∀ cause, pinnedGone s e va = false → permission w k e = some cause → ∃ t : State,
        checkPage s w k va = (.refuse cause (field e.pte 2 3), t) ∧ t.mem = s.mem) ∧
      (pinnedGone s e va = true → ∃ t : State, checkPage s w k va = (.refuse 0x05 (field e.pte 2 3), t) ∧ t.mem = s.mem) ∧
      (pinnedGone s e va = false → permission w k e = none → ∃ t : State, checkPage s w k va = (.ok e, t) ∧
        t.mem = s.mem))

/-! ### Reset -/

/-- Right after reset every register of the device holds the value that its table gives, the vault is zero, memories
list nothing, and nothing runs (R13, R95, R176, R235, R238, R447 to R450, R456, R459, R460). What the specification gives
no reset value is not named here. -/
def Obligations.ResetState : Prop :=
  State.reset.reg.devstat = 0 ∧ State.reset.reg.ctxbase.getLsbD 0 = false ∧ State.reset.reg.clrctl = 0x00C81000 ∧
  State.reset.reg.lvctl = 0x30 ∧ State.reset.reg.portcfg = 0 ∧ field State.reset.reg.modpwr 0 12 = 2400 ∧
  field State.reset.reg.frq.base 0 6 = 0 ∧ field State.reset.reg.hcr.base 0 6 = 0 ∧
  (∀ c, field (State.reset.purse c) 32 24 = 0x10000 ∧ field (State.reset.purse c) 0 32 = 0x20000) ∧
  (∀ c, Sparse.get clmergeReset State.reset.reg.clmerge c = 0x20) ∧
  (∀ n, Sparse.getZ State.reset.reg.poolLo n = 0 ∧ Sparse.getZ State.reset.reg.poolHi n = 0) ∧
  (∀ q, field (State.reset.queue q).sqBase 0 6 = 0 ∧ field (State.reset.queue q).cqBase 0 6 = 0) ∧
  (∀ a, Sparse.getZ State.reset.mem.vault a = 0) ∧ (∀ k, State.reset.frameState k = none) ∧
  State.reset.fibres = [] ∧ State.reset.groups = [] ∧ State.reset.sched.launches = [] ∧ State.reset.tripped = false ∧
  Mem.wf State.reset.mem = true

/-! ### The choice of a quadrant, and what caches hold -/

/-- Of two slots of a quadrant it prefers exactly one: the one whose region has the higher PRIO, among equal PRIO, and on
every 16th clock of its own count, the one that comes first in rotation after the slot that it last chose. A slot is
passed over exactly when the quadrant prefers another one that is a candidate; a choice makes the slot the last chosen
and counts the clock (R234). What the count counts is the model's reading (log 94). -/
def Obligations.QuadrantChoice : Prop :=
  ∀ (s : State) (n k m : Nat) (q : Quad), k / 8 = n / 8 → k ≠ n → q = s.quad (n / 8) → q.last < 8 →
    s.prefers k n = !s.prefers n k ∧
    (q.count ≠ 15 → s.slotPrio n < s.slotPrio k → s.prefers k n = true) ∧
    (q.count = 15 ∨ s.slotPrio n = s.slotPrio k → (s.prefers k n = true ↔
      ∃ i j, i < j ∧ j < 8 ∧ k % 8 = (q.last + 1 + i) % 8 ∧ n % 8 = (q.last + 1 + j) % 8)) ∧
    (s.outranked n = true ↔ ∃ x, x / 8 = n / 8 ∧ x ≠ n ∧ s.prefers x n = true ∧ s.candidate x = true) ∧
    (s.choseSlot n).quad (n / 8) = ⟨n % 8, (q.count + 1) % 16⟩ ∧
    (m ≠ n / 8 → (s.choseSlot n).quad m = s.quad m)

/-- After every step the device holds at most 8,192 RCBs in its cache, no set of a core's L1 holds more lines, dirty or
clean, than the ways that the carve-out leaves of its eight, and its dirty lines fit beside the carve-out in its 256 KiB
(R71, R72, R76, R210). Which line or RCB leaves, and the set of a line, are the model's free values (log 93). -/
def Obligations.CacheBounds : Prop :=
  ∀ s t : State, step s = .next t → t.sched.rcbs.length ≤ 8192 ∧
    ∀ core, (t.mem.dirtyLines core).length * 128 + t.carve core ≤ 256 * 1024 ∧
      ∀ line, (setMates (t.mem.l1Lines core) line).length ≤ 8 - t.carve core / 32768
end

