-- ==== Sys2Proof/Laws/Exec.lean ====
section
/-! SUPPORT. What `exec` does with each instruction is its meaning: one equation for each, so that no proof
unfolds the dispatch. -/

namespace Sys2Proof.Machine

@[simp] theorem exec_nop (s : State) :
    exec (.nop) s = execNop s := rfl

@[simp] theorem exec_exit (s : State) :
    exec (.exit) s = execExit s := rfl

@[simp] theorem exec_trap (i : BitVec 16) (s : State) :
    exec (.trap i) s = execTrap i s := rfl

@[simp] theorem exec_tret (s : State) :
    exec (.tret) s = execTret s := rfl

@[simp] theorem exec_bkpt (s : State) :
    exec (.bkpt) s = execBkpt s := rfl

@[simp] theorem exec_hcall (a : BitVec 6) (s : State) :
    exec (.hcall a) s = execHcall a s := rfl

@[simp] theorem exec_yield (s : State) :
    exec (.yield) s = execYield s := rfl

@[simp] theorem exec_halt (s : State) :
    exec (.halt) s = execHalt s := rfl

@[simp] theorem exec_cede (s : State) :
    exec (.cede) s = execCede s := rfl

@[simp] theorem exec_mode (v : BitVec 24) (s : State) :
    exec (.mode v) s = execMode v s := rfl

@[simp] theorem exec_modeField (f : BitVec 4) (v : BitVec 6) (s : State) :
    exec (.modeField f v) s = execModeField f v s := rfl

@[simp] theorem exec_modew (a : BitVec 6) (s : State) :
    exec (.modew a) s = execModew a s := rfl

@[simp] theorem exec_moder (d : BitVec 6) (s : State) :
    exec (.moder d) s = execModer d s := rfl

@[simp] theorem exec_fstr (d : BitVec 6) (s : State) :
    exec (.fstr d) s = execFstr d s := rfl

@[simp] theorem exec_fstw (a : BitVec 6) (s : State) :
    exec (.fstw a) s = execFstw a s := rfl

@[simp] theorem exec_wait (l : BitVec 6) (s : BitVec 6) (c : BitVec 6) (m : BitVec 6) (t : State) :
    exec (.wait l s c m) t = execWait l s c m t := rfl

@[simp] theorem exec_waitx (a : BitVec 6) (c : BitVec 3) (s : State) :
    exec (.waitx a c) s = execWaitx a c s := rfl

@[simp] theorem exec_bra (c : BitVec 4) (o : BitVec 22) (s : State) :
    exec (.bra c o) s = execBra c o s := rfl

@[simp] theorem exec_call (c : BitVec 4) (o : BitVec 22) (s : State) :
    exec (.call c o) s = execCall c o s := rfl

@[simp] theorem exec_ifOp (p : BitVec 3) (n : BitVec 1) (o : BitVec 19) (s : State) :
    exec (.ifOp p n o) s = execIfOp p n o s := rfl

@[simp] theorem exec_elseOp (o : BitVec 19) (s : State) :
    exec (.elseOp o) s = execElseOp o s := rfl

@[simp] theorem exec_endif (s : State) :
    exec (.endif) s = execEndif s := rfl

@[simp] theorem exec_loop (o : BitVec 19) (s : State) :
    exec (.loop o) s = execLoop o s := rfl

@[simp] theorem exec_breakOp (p : BitVec 3) (n : BitVec 1) (s : State) :
    exec (.breakOp p n) s = execBreakOp p n s := rfl

@[simp] theorem exec_lcont (p : BitVec 3) (n : BitVec 1) (s : State) :
    exec (.lcont p n) s = execLcont p n s := rfl

@[simp] theorem exec_endloop (p : BitVec 3) (n : BitVec 1) (o : BitVec 19) (s : State) :
    exec (.endloop p n o) s = execEndloop p n o s := rfl

@[simp] theorem exec_brx (a : BitVec 6) (s : State) :
    exec (.brx a) s = execBrx a s := rfl

@[simp] theorem exec_callx (c : BitVec 4) (a : BitVec 6) (s : State) :
    exec (.callx c a) s = execCallx c a s := rfl

@[simp] theorem exec_ret (a : BitVec 6) (s : State) :
    exec (.ret a) s = execRet a s := rfl

@[simp] theorem exec_add (d : BitVec 6) (a : BitVec 6) (b : BitVec 6) (s : State) :
    exec (.add d a b) s = execAdd d a b s := rfl

@[simp] theorem exec_sub (d : BitVec 6) (a : BitVec 6) (b : BitVec 6) (s : State) :
    exec (.sub d a b) s = execSub d a b s := rfl

@[simp] theorem exec_mul (d : BitVec 6) (a : BitVec 6) (b : BitVec 6) (s : State) :
    exec (.mul d a b) s = execMul d a b s := rfl

@[simp] theorem exec_mulh (d : BitVec 6) (a : BitVec 6) (b : BitVec 6) (s : State) :
    exec (.mulh d a b) s = execMulh d a b s := rfl

@[simp] theorem exec_mulhn (d : BitVec 6) (a : BitVec 6) (b : BitVec 6) (s : State) :
    exec (.mulhn d a b) s = execMulhn d a b s := rfl

@[simp] theorem exec_div (d : BitVec 6) (a : BitVec 6) (b : BitVec 6) (s : State) :
    exec (.div d a b) s = execDiv d a b s := rfl

@[simp] theorem exec_divn (d : BitVec 6) (a : BitVec 6) (b : BitVec 6) (s : State) :
    exec (.divn d a b) s = execDivn d a b s := rfl

@[simp] theorem exec_rem (d : BitVec 6) (a : BitVec 6) (b : BitVec 6) (s : State) :
    exec (.rem d a b) s = execRem d a b s := rfl

@[simp] theorem exec_and (d : BitVec 6) (a : BitVec 6) (b : BitVec 6) (s : State) :
    exec (.and d a b) s = execAnd d a b s := rfl

@[simp] theorem exec_or (d : BitVec 6) (a : BitVec 6) (b : BitVec 6) (s : State) :
    exec (.or d a b) s = execOr d a b s := rfl

@[simp] theorem exec_xor (d : BitVec 6) (a : BitVec 6) (b : BitVec 6) (s : State) :
    exec (.xor d a b) s = execXor d a b s := rfl

@[simp] theorem exec_andn (d : BitVec 6) (a : BitVec 6) (b : BitVec 6) (s : State) :
    exec (.andn d a b) s = execAndn d a b s := rfl

@[simp] theorem exec_shl (d : BitVec 6) (a : BitVec 6) (b : BitVec 6) (s : State) :
    exec (.shl d a b) s = execShl d a b s := rfl

@[simp] theorem exec_shr (d : BitVec 6) (a : BitVec 6) (b : BitVec 6) (s : State) :
    exec (.shr d a b) s = execShr d a b s := rfl

@[simp] theorem exec_sar (d : BitVec 6) (a : BitVec 6) (b : BitVec 6) (s : State) :
    exec (.sar d a b) s = execSar d a b s := rfl

@[simp] theorem exec_min (d : BitVec 6) (a : BitVec 6) (b : BitVec 6) (s : State) :
    exec (.min d a b) s = execMin d a b s := rfl

@[simp] theorem exec_max (d : BitVec 6) (a : BitVec 6) (b : BitVec 6) (s : State) :
    exec (.max d a b) s = execMax d a b s := rfl

@[simp] theorem exec_minn (d : BitVec 6) (a : BitVec 6) (b : BitVec 6) (s : State) :
    exec (.minn d a b) s = execMinn d a b s := rfl

@[simp] theorem exec_maxn (d : BitVec 6) (a : BitVec 6) (b : BitVec 6) (s : State) :
    exec (.maxn d a b) s = execMaxn d a b s := rfl

@[simp] theorem exec_cmp (d : BitVec 6) (a : BitVec 6) (b : BitVec 6) (s : State) :
    exec (.cmp d a b) s = execCmp d a b s := rfl

@[simp] theorem exec_cmpn (d : BitVec 6) (a : BitVec 6) (b : BitVec 6) (s : State) :
    exec (.cmpn d a b) s = execCmpn d a b s := rfl

@[simp] theorem exec_clz (d : BitVec 6) (a : BitVec 6) (s : State) :
    exec (.clz d a) s = execClz d a s := rfl

@[simp] theorem exec_popc (d : BitVec 6) (a : BitVec 6) (s : State) :
    exec (.popc d a) s = execPopc d a s := rfl

@[simp] theorem exec_mov (d : BitVec 6) (a : BitVec 6) (s : State) :
    exec (.mov d a) s = execMov d a s := rfl

@[simp] theorem exec_addi (d : BitVec 6) (a : BitVec 6) (i : BitVec 14) (s : State) :
    exec (.addi d a i) s = execAddi d a i s := rfl

@[simp] theorem exec_andi (d : BitVec 6) (a : BitVec 6) (i : BitVec 14) (s : State) :
    exec (.andi d a i) s = execAndi d a i s := rfl

@[simp] theorem exec_ori (d : BitVec 6) (a : BitVec 6) (i : BitVec 14) (s : State) :
    exec (.ori d a i) s = execOri d a i s := rfl

@[simp] theorem exec_cmpi (d : BitVec 6) (a : BitVec 6) (i : BitVec 14) (s : State) :
    exec (.cmpi d a i) s = execCmpi d a i s := rfl

@[simp] theorem exec_movz (d : BitVec 6) (h : BitVec 2) (i : BitVec 16) (s : State) :
    exec (.movz d h i) s = execMovz d h i s := rfl

@[simp] theorem exec_movk (d : BitVec 6) (h : BitVec 2) (i : BitVec 16) (s : State) :
    exec (.movk d h i) s = execMovk d h i s := rfl

@[simp] theorem exec_movs (d : BitVec 6) (h : BitVec 2) (i : BitVec 16) (s : State) :
    exec (.movs d h i) s = execMovs d h i s := rfl

@[simp] theorem exec_srd (d : BitVec 6) (n : BitVec 4) (s : State) :
    exec (.srd d n) s = execSrd d n s := rfl

@[simp] theorem exec_swr (a : BitVec 6) (n : BitVec 4) (s : State) :
    exec (.swr a n) s = execSwr a n s := rfl

@[simp] theorem exec_vadd (d : BitVec 7) (a : BitVec 7) (b : BitVec 7) (s : BitVec 1) (t : State) :
    exec (.vadd d a b s) t = execVadd d a b s t := rfl

@[simp] theorem exec_vsub (d : BitVec 7) (a : BitVec 7) (b : BitVec 7) (s : BitVec 1) (t : State) :
    exec (.vsub d a b s) t = execVsub d a b s t := rfl

@[simp] theorem exec_vmul (d : BitVec 7) (a : BitVec 7) (b : BitVec 7) (s : BitVec 1) (t : State) :
    exec (.vmul d a b s) t = execVmul d a b s t := rfl

@[simp] theorem exec_vmulh (d : BitVec 7) (a : BitVec 7) (b : BitVec 7) (s : BitVec 1) (t : State) :
    exec (.vmulh d a b s) t = execVmulh d a b s t := rfl

@[simp] theorem exec_vand (d : BitVec 7) (a : BitVec 7) (b : BitVec 7) (s : BitVec 1) (t : State) :
    exec (.vand d a b s) t = execVand d a b s t := rfl

@[simp] theorem exec_vor (d : BitVec 7) (a : BitVec 7) (b : BitVec 7) (s : BitVec 1) (t : State) :
    exec (.vor d a b s) t = execVor d a b s t := rfl

@[simp] theorem exec_vxor (d : BitVec 7) (a : BitVec 7) (b : BitVec 7) (s : BitVec 1) (t : State) :
    exec (.vxor d a b s) t = execVxor d a b s t := rfl

@[simp] theorem exec_vandn (d : BitVec 7) (a : BitVec 7) (b : BitVec 7) (s : BitVec 1) (t : State) :
    exec (.vandn d a b s) t = execVandn d a b s t := rfl

@[simp] theorem exec_vshl (d : BitVec 7) (a : BitVec 7) (b : BitVec 7) (s : BitVec 1) (t : State) :
    exec (.vshl d a b s) t = execVshl d a b s t := rfl

@[simp] theorem exec_vshr (d : BitVec 7) (a : BitVec 7) (b : BitVec 7) (s : BitVec 1) (t : State) :
    exec (.vshr d a b s) t = execVshr d a b s t := rfl

@[simp] theorem exec_vsar (d : BitVec 7) (a : BitVec 7) (b : BitVec 7) (s : BitVec 1) (t : State) :
    exec (.vsar d a b s) t = execVsar d a b s t := rfl

@[simp] theorem exec_vrot (d : BitVec 7) (a : BitVec 7) (b : BitVec 7) (s : BitVec 1) (t : State) :
    exec (.vrot d a b s) t = execVrot d a b s t := rfl

@[simp] theorem exec_vmin (d : BitVec 7) (a : BitVec 7) (b : BitVec 7) (s : BitVec 1) (t : State) :
    exec (.vmin d a b s) t = execVmin d a b s t := rfl

@[simp] theorem exec_vmax (d : BitVec 7) (a : BitVec 7) (b : BitVec 7) (s : BitVec 1) (t : State) :
    exec (.vmax d a b s) t = execVmax d a b s t := rfl

@[simp] theorem exec_vabsd (d : BitVec 7) (a : BitVec 7) (b : BitVec 7) (s : BitVec 1) (t : State) :
    exec (.vabsd d a b s) t = execVabsd d a b s t := rfl

@[simp] theorem exec_vavg (d : BitVec 7) (a : BitVec 7) (b : BitVec 7) (s : BitVec 1) (t : State) :
    exec (.vavg d a b s) t = execVavg d a b s t := rfl

@[simp] theorem exec_vcmpeq (d : BitVec 3) (a : BitVec 7) (b : BitVec 7) (s : BitVec 1) (t : State) :
    exec (.vcmpeq d a b s) t = execVcmpeq d a b s t := rfl

@[simp] theorem exec_vcmpne (d : BitVec 3) (a : BitVec 7) (b : BitVec 7) (s : BitVec 1) (t : State) :
    exec (.vcmpne d a b s) t = execVcmpne d a b s t := rfl

@[simp] theorem exec_vcmplt (d : BitVec 3) (a : BitVec 7) (b : BitVec 7) (s : BitVec 1) (t : State) :
    exec (.vcmplt d a b s) t = execVcmplt d a b s t := rfl

@[simp] theorem exec_vcmple (d : BitVec 3) (a : BitVec 7) (b : BitVec 7) (s : BitVec 1) (t : State) :
    exec (.vcmple d a b s) t = execVcmple d a b s t := rfl

@[simp] theorem exec_vfadd (r : BitVec 2) (d : BitVec 7) (a : BitVec 7) (b : BitVec 7) (s : BitVec 1) (t : State) :
    exec (.vfadd r d a b s) t = execVfadd r d a b s t := rfl

@[simp] theorem exec_vfsub (r : BitVec 2) (d : BitVec 7) (a : BitVec 7) (b : BitVec 7) (s : BitVec 1) (t : State) :
    exec (.vfsub r d a b s) t = execVfsub r d a b s t := rfl

@[simp] theorem exec_vfmul (r : BitVec 2) (d : BitVec 7) (a : BitVec 7) (b : BitVec 7) (s : BitVec 1) (t : State) :
    exec (.vfmul r d a b s) t = execVfmul r d a b s t := rfl

@[simp] theorem exec_vfdiv (r : BitVec 2) (d : BitVec 7) (a : BitVec 7) (b : BitVec 7) (s : BitVec 1) (t : State) :
    exec (.vfdiv r d a b s) t = execVfdiv r d a b s t := rfl

@[simp] theorem exec_vfmin (d : BitVec 7) (a : BitVec 7) (b : BitVec 7) (s : BitVec 1) (t : State) :
    exec (.vfmin d a b s) t = execVfmin d a b s t := rfl

@[simp] theorem exec_vfmax (d : BitVec 7) (a : BitVec 7) (b : BitVec 7) (s : BitVec 1) (t : State) :
    exec (.vfmax d a b s) t = execVfmax d a b s t := rfl

@[simp] theorem exec_vfminnum (d : BitVec 7) (a : BitVec 7) (b : BitVec 7) (s : BitVec 1) (t : State) :
    exec (.vfminnum d a b s) t = execVfminnum d a b s t := rfl

@[simp] theorem exec_vfmaxnum (d : BitVec 7) (a : BitVec 7) (b : BitVec 7) (s : BitVec 1) (t : State) :
    exec (.vfmaxnum d a b s) t = execVfmaxnum d a b s t := rfl

@[simp] theorem exec_vsel (d : BitVec 7) (a : BitVec 7) (b : BitVec 7) (s : BitVec 1) (t : State) :
    exec (.vsel d a b s) t = execVsel d a b s t := rfl

@[simp] theorem exec_vbcast (d : BitVec 7) (a : BitVec 7) (b : BitVec 6) (s : State) :
    exec (.vbcast d a b) s = execVbcast d a b s := rfl

@[simp] theorem exec_vclamp (d : BitVec 7) (a : BitVec 7) (b : BitVec 7) (s : BitVec 1) (t : State) :
    exec (.vclamp d a b s) t = execVclamp d a b s t := rfl

@[simp] theorem exec_vcsign (d : BitVec 7) (a : BitVec 7) (b : BitVec 7) (s : BitVec 1) (t : State) :
    exec (.vcsign d a b s) t = execVcsign d a b s t := rfl

@[simp] theorem exec_vdot4 (d : BitVec 7) (a : BitVec 7) (b : BitVec 7) (s : BitVec 1) (y : BitVec 1) (x : BitVec 1) (t : State) :
    exec (.vdot4 d a b s y x) t = execVdot4 d a b s y x t := rfl

@[simp] theorem exec_vdot8 (d : BitVec 7) (a : BitVec 7) (b : BitVec 7) (s : BitVec 1) (y : BitVec 1) (x : BitVec 1) (t : State) :
    exec (.vdot8 d a b s y x) t = execVdot8 d a b s y x t := rfl

@[simp] theorem exec_vmov (d : BitVec 7) (a : BitVec 7) (s : State) :
    exec (.vmov d a) s = execVmov d a s := rfl

@[simp] theorem exec_vneg (d : BitVec 7) (a : BitVec 7) (s : State) :
    exec (.vneg d a) s = execVneg d a s := rfl

@[simp] theorem exec_vabs (d : BitVec 7) (a : BitVec 7) (s : State) :
    exec (.vabs d a) s = execVabs d a s := rfl

@[simp] theorem exec_vnot (d : BitVec 7) (a : BitVec 7) (s : State) :
    exec (.vnot d a) s = execVnot d a s := rfl

@[simp] theorem exec_vclz (d : BitVec 7) (a : BitVec 7) (s : State) :
    exec (.vclz d a) s = execVclz d a s := rfl

@[simp] theorem exec_vpopc (d : BitVec 7) (a : BitVec 7) (s : State) :
    exec (.vpopc d a) s = execVpopc d a s := rfl

@[simp] theorem exec_vbrev (d : BitVec 7) (a : BitVec 7) (s : State) :
    exec (.vbrev d a) s = execVbrev d a s := rfl

@[simp] theorem exec_vfract (d : BitVec 7) (a : BitVec 7) (s : State) :
    exec (.vfract d a) s = execVfract d a s := rfl

@[simp] theorem exec_vfloor (d : BitVec 7) (a : BitVec 7) (s : State) :
    exec (.vfloor d a) s = execVfloor d a s := rfl

@[simp] theorem exec_vceil (d : BitVec 7) (a : BitVec 7) (s : State) :
    exec (.vceil d a) s = execVceil d a s := rfl

@[simp] theorem exec_vtrunc (d : BitVec 7) (a : BitVec 7) (s : State) :
    exec (.vtrunc d a) s = execVtrunc d a s := rfl

@[simp] theorem exec_vrint (r : BitVec 2) (d : BitVec 7) (a : BitVec 7) (s : State) :
    exec (.vrint r d a) s = execVrint r d a s := rfl

@[simp] theorem exec_vrcp (r : BitVec 2) (d : BitVec 7) (a : BitVec 7) (s : State) :
    exec (.vrcp r d a) s = execVrcp r d a s := rfl

@[simp] theorem exec_vrsq (r : BitVec 2) (d : BitVec 7) (a : BitVec 7) (s : State) :
    exec (.vrsq r d a) s = execVrsq r d a s := rfl

@[simp] theorem exec_vsqrt (r : BitVec 2) (d : BitVec 7) (a : BitVec 7) (s : State) :
    exec (.vsqrt r d a) s = execVsqrt r d a s := rfl

@[simp] theorem exec_vexp2 (r : BitVec 2) (d : BitVec 7) (a : BitVec 7) (s : State) :
    exec (.vexp2 r d a) s = execVexp2 r d a s := rfl

@[simp] theorem exec_vlog2 (r : BitVec 2) (d : BitVec 7) (a : BitVec 7) (s : State) :
    exec (.vlog2 r d a) s = execVlog2 r d a s := rfl

@[simp] theorem exec_vsin (r : BitVec 2) (d : BitVec 7) (a : BitVec 7) (s : State) :
    exec (.vsin r d a) s = execVsin r d a s := rfl

@[simp] theorem exec_vcos (r : BitVec 2) (d : BitVec 7) (a : BitVec 7) (s : State) :
    exec (.vcos r d a) s = execVcos r d a s := rfl

@[simp] theorem exec_vtanh (r : BitVec 2) (d : BitVec 7) (a : BitVec 7) (s : State) :
    exec (.vtanh r d a) s = execVtanh r d a s := rfl

@[simp] theorem exec_vfclass (d : BitVec 7) (a : BitVec 7) (s : State) :
    exec (.vfclass d a) s = execVfclass d a s := rfl

@[simp] theorem exec_vlaneid (d : BitVec 7) (s : State) :
    exec (.vlaneid d) s = execVlaneid d s := rfl

@[simp] theorem exec_vcvt (r : BitVec 2) (d : BitVec 7) (a : BitVec 7) (t : BitVec 6) (s : State) :
    exec (.vcvt r d a t) s = execVcvt r d a t s := rfl

@[simp] theorem exec_vcvts (r : BitVec 2) (d : BitVec 7) (a : BitVec 7) (t : BitVec 6) (s : State) :
    exec (.vcvts r d a t) s = execVcvts r d a t s := rfl

@[simp] theorem exec_vshfl (d : BitVec 7) (a : BitVec 7) (b : BitVec 7) (s : BitVec 1) (t : State) :
    exec (.vshfl d a b s) t = execVshfl d a b s t := rfl

@[simp] theorem exec_vshflx (d : BitVec 7) (a : BitVec 7) (b : BitVec 7) (s : BitVec 1) (t : State) :
    exec (.vshflx d a b s) t = execVshflx d a b s t := rfl

@[simp] theorem exec_vshflup (d : BitVec 7) (a : BitVec 7) (b : BitVec 7) (s : BitVec 1) (t : State) :
    exec (.vshflup d a b s) t = execVshflup d a b s t := rfl

@[simp] theorem exec_vshfldn (d : BitVec 7) (a : BitVec 7) (b : BitVec 7) (s : BitVec 1) (t : State) :
    exec (.vshfldn d a b s) t = execVshfldn d a b s t := rfl

@[simp] theorem exec_vrsum (r : BitVec 2) (d : BitVec 6) (a : BitVec 7) (s : State) :
    exec (.vrsum r d a) s = execVrsum r d a s := rfl

@[simp] theorem exec_vrmin (d : BitVec 6) (a : BitVec 7) (s : State) :
    exec (.vrmin d a) s = execVrmin d a s := rfl

@[simp] theorem exec_vrmax (d : BitVec 6) (a : BitVec 7) (s : State) :
    exec (.vrmax d a) s = execVrmax d a s := rfl

@[simp] theorem exec_vrand (d : BitVec 6) (a : BitVec 7) (s : State) :
    exec (.vrand d a) s = execVrand d a s := rfl

@[simp] theorem exec_vror (d : BitVec 6) (a : BitVec 7) (s : State) :
    exec (.vror d a) s = execVror d a s := rfl

@[simp] theorem exec_vrxor (d : BitVec 6) (a : BitVec 7) (s : State) :
    exec (.vrxor d a) s = execVrxor d a s := rfl

@[simp] theorem exec_vballot (d : BitVec 6) (a : BitVec 7) (s : State) :
    exec (.vballot d a) s = execVballot d a s := rfl

@[simp] theorem exec_vfirst (d : BitVec 6) (a : BitVec 7) (s : State) :
    exec (.vfirst d a) s = execVfirst d a s := rfl

@[simp] theorem exec_vbfe (d : BitVec 7) (a : BitVec 7) (b : BitVec 7) (s : BitVec 1) (t : State) :
    exec (.vbfe d a b s) t = execVbfe d a b s t := rfl

@[simp] theorem exec_vbfi (d : BitVec 7) (a : BitVec 7) (b : BitVec 7) (s : BitVec 1) (t : State) :
    exec (.vbfi d a b s) t = execVbfi d a b s t := rfl

@[simp] theorem exec_vperm (d : BitVec 7) (a : BitVec 7) (b : BitVec 7) (s : BitVec 1) (t : State) :
    exec (.vperm d a b s) t = execVperm d a b s t := rfl

@[simp] theorem exec_vfunnel (d : BitVec 7) (a : BitVec 7) (b : BitVec 7) (s : BitVec 1) (t : State) :
    exec (.vfunnel d a b s) t = execVfunnel d a b s t := rfl

@[simp] theorem exec_pand (d : BitVec 3) (a : BitVec 3) (b : BitVec 3) (s : State) :
    exec (.pand d a b) s = execPand d a b s := rfl

@[simp] theorem exec_por (d : BitVec 3) (a : BitVec 3) (b : BitVec 3) (s : State) :
    exec (.por d a b) s = execPor d a b s := rfl

@[simp] theorem exec_pxor (d : BitVec 3) (a : BitVec 3) (b : BitVec 3) (s : State) :
    exec (.pxor d a b) s = execPxor d a b s := rfl

@[simp] theorem exec_pandn (d : BitVec 3) (a : BitVec 3) (b : BitVec 3) (s : State) :
    exec (.pandn d a b) s = execPandn d a b s := rfl

@[simp] theorem exec_pnot (d : BitVec 3) (a : BitVec 3) (s : State) :
    exec (.pnot d a) s = execPnot d a s := rfl

@[simp] theorem exec_pmovs (d : BitVec 3) (a : BitVec 6) (s : State) :
    exec (.pmovs d a) s = execPmovs d a s := rfl

@[simp] theorem exec_smovp (d : BitVec 6) (a : BitVec 3) (s : State) :
    exec (.smovp d a) s = execSmovp d a s := rfl

@[simp] theorem exec_pset (d : BitVec 3) (s : State) :
    exec (.pset d) s = execPset d s := rfl

@[simp] theorem exec_pclr (d : BitVec 3) (s : State) :
    exec (.pclr d) s = execPclr d s := rfl

@[simp] theorem exec_rand32 (d : BitVec 7) (a : BitVec 7) (b : BitVec 7) (s : BitVec 1) (t : State) :
    exec (.rand32 d a b s) t = execRand32 d a b s t := rfl

@[simp] theorem exec_randf (d : BitVec 7) (a : BitVec 7) (b : BitVec 7) (s : BitVec 1) (t : State) :
    exec (.randf d a b s) t = execRandf d a b s t := rfl

@[simp] theorem exec_ld (d : BitVec 7) (a : BitVec 6) (i : BitVec 7) (p : BitVec 2) (x : BitVec 1) (z : BitVec 3) (s : State) :
    exec (.ld d a i p x z) s = execLd d a i p x z s := rfl

@[simp] theorem exec_st (d : BitVec 7) (a : BitVec 6) (i : BitVec 7) (p : BitVec 2) (z : BitVec 3) (s : State) :
    exec (.st d a i p z) s = execSt d a i p z s := rfl

@[simp] theorem exec_sld (d : BitVec 6) (a : BitVec 6) (o : BitVec 14) (s : State) :
    exec (.sld d a o) s = execSld d a o s := rfl

@[simp] theorem exec_sst (d : BitVec 6) (a : BitVec 6) (o : BitVec 14) (s : State) :
    exec (.sst d a o) s = execSst d a o s := rfl

@[simp] theorem exec_ldt (d : BitVec 7) (a : BitVec 6) (t : BitVec 6) (s : State) :
    exec (.ldt d a t) s = execLdt d a t s := rfl

@[simp] theorem exec_stt (d : BitVec 7) (a : BitVec 6) (t : BitVec 6) (s : State) :
    exec (.stt d a t) s = execStt d a t s := rfl

@[simp] theorem exec_atom (d : BitVec 7) (a : BitVec 6) (i : BitVec 7) (w : BitVec 1) (r : BitVec 1) (o : BitVec 4) (s : State) :
    exec (.atom d a i w r o) s = execAtom d a i w r o s := rfl

@[simp] theorem exec_satom (d : BitVec 6) (a : BitVec 6) (b : BitVec 6) (w : BitVec 1) (r : BitVec 1) (o : BitVec 4) (s : State) :
    exec (.satom d a b w r o) s = execSatom d a b w r o s := rfl

@[simp] theorem exec_fenceAcq (s : BitVec 3) (t : State) :
    exec (.fenceAcq s) t = execFenceAcq s t := rfl

@[simp] theorem exec_fenceRel (s : BitVec 3) (t : State) :
    exec (.fenceRel s) t = execFenceRel s t := rfl

@[simp] theorem exec_fenceAr (s : BitVec 3) (t : State) :
    exec (.fenceAr s) t = execFenceAr s t := rfl

@[simp] theorem exec_fenceSc (s : BitVec 3) (t : State) :
    exec (.fenceSc s) t = execFenceSc s t := rfl

@[simp] theorem exec_fenceTx (s : BitVec 3) (t : State) :
    exec (.fenceTx s) t = execFenceTx s t := rfl

@[simp] theorem exec_ldacq (d : BitVec 7) (a : BitVec 6) (i : BitVec 7) (p : BitVec 2) (x : BitVec 1) (z : BitVec 2) (s : State) :
    exec (.ldacq d a i p x z) s = execLdacq d a i p x z s := rfl

@[simp] theorem exec_strel (d : BitVec 7) (a : BitVec 6) (i : BitVec 7) (p : BitVec 2) (z : BitVec 2) (s : State) :
    exec (.strel d a i p z) s = execStrel d a i p z s := rfl

@[simp] theorem exec_cpstep (n : BitVec 7) (s : State) :
    exec (.cpstep n) s = execCpstep n s := rfl

@[simp] theorem exec_cpissue (a : BitVec 6) (s : State) :
    exec (.cpissue a) s = execCpissue a s := rfl

@[simp] theorem exec_hwaitf (h : BitVec 6) (s : State) :
    exec (.hwaitf h) s = execHwaitf h s := rfl

@[simp] theorem exec_hwaite (h : BitVec 6) (s : State) :
    exec (.hwaite h) s = execHwaite h s := rfl

@[simp] theorem exec_hrel (h : BitVec 6) (s : State) :
    exec (.hrel h) s = execHrel h s := rfl

@[simp] theorem exec_hrelPub (h : BitVec 6) (s : State) :
    exec (.hrelPub h) s = execHrelPub h s := rfl

@[simp] theorem exec_hquery (a : BitVec 6) (h : BitVec 6) (s : State) :
    exec (.hquery a h) s = execHquery a h s := rfl

@[simp] theorem exec_mma (a : BitVec 6) (b : BitVec 6) (t : BitVec 3) (y : BitVec 1) (x : BitVec 1) (s : State) :
    exec (.mma a b t y x) s = execMma a b t y x s := rfl

@[simp] theorem exec_mmaz (a : BitVec 6) (b : BitVec 6) (t : BitVec 3) (y : BitVec 1) (x : BitVec 1) (s : State) :
    exec (.mmaz a b t y x) s = execMmaz a b t y x s := rfl

@[simp] theorem exec_mmat (a : BitVec 6) (b : BitVec 6) (z : BitVec 1) (t : BitVec 1) (s : State) :
    exec (.mmat a b z t) s = execMmat a b z t s := rfl

@[simp] theorem exec_mfence (a : BitVec 6) (s : State) :
    exec (.mfence a) s = execMfence a s := rfl

@[simp] theorem exec_mwait (a : BitVec 6) (s : State) :
    exec (.mwait a) s = execMwait a s := rfl

@[simp] theorem exec_mzero (t : BitVec 3) (s : State) :
    exec (.mzero t) s = execMzero t s := rfl

@[simp] theorem exec_mdrain (a : BitVec 6) (p : BitVec 2) (t : BitVec 3) (s : State) :
    exec (.mdrain a p t) s = execMdrain a p t s := rfl

@[simp] theorem exec_mdraina (a : BitVec 6) (p : BitVec 2) (t : BitVec 3) (s : State) :
    exec (.mdraina a p t) s = execMdraina a p t s := rfl

@[simp] theorem exec_mload (a : BitVec 6) (t : BitVec 3) (s : State) :
    exec (.mload a t) s = execMload a t s := rfl

@[simp] theorem exec_mread (a : BitVec 6) (d : BitVec 7) (s : State) :
    exec (.mread a d) s = execMread a d s := rfl

@[simp] theorem exec_mwrite (a : BitVec 6) (v : BitVec 7) (s : State) :
    exec (.mwrite a v) s = execMwrite a v s := rfl

@[simp] theorem exec_rquery (a : BitVec 6) (n : BitVec 2) (x : BitVec 7) (s : State) :
    exec (.rquery a n x) s = execRquery a n x s := rfl

@[simp] theorem exec_bquery (a : BitVec 6) (b : BitVec 6) (s : State) :
    exec (.bquery a b) s = execBquery a b s := rfl

@[simp] theorem exec_cquery (a : BitVec 6) (n : BitVec 2) (x : BitVec 7) (s : State) :
    exec (.cquery a n x) s = execCquery a n x s := rfl

@[simp] theorem exec_rcommit (n : BitVec 2) (s : State) :
    exec (.rcommit n) s = execRcommit n s := rfl

@[simp] theorem exec_rresume (n : BitVec 2) (s : State) :
    exec (.rresume n) s = execRresume n s := rfl

@[simp] theorem exec_rstat (a : BitVec 6) (n : BitVec 2) (s : State) :
    exec (.rstat a n) s = execRstat a n s := rfl

@[simp] theorem exec_texs (a : BitVec 6) (x : BitVec 7) (s : State) :
    exec (.texs a x) s = execTexs a x s := rfl

@[simp] theorem exec_texd (a : BitVec 6) (x : BitVec 7) (s : State) :
    exec (.texd a x) s = execTexd a x s := rfl

@[simp] theorem exec_texc (a : BitVec 6) (x : BitVec 7) (s : State) :
    exec (.texc a x) s = execTexc a x s := rfl

@[simp] theorem exec_texl (a : BitVec 6) (x : BitVec 7) (s : State) :
    exec (.texl a x) s = execTexl a x s := rfl

@[simp] theorem exec_texg (a : BitVec 6) (c : BitVec 2) (x : BitVec 7) (s : State) :
    exec (.texg a c x) s = execTexg a c x s := rfl

@[simp] theorem exec_rastt (a : BitVec 6) (x : BitVec 7) (s : State) :
    exec (.rastt a x) s = execRastt a x s := rfl

@[simp] theorem exec_rframe (a : BitVec 6) (b : BitVec 6) (s : State) :
    exec (.rframe a b) s = execRframe a b s := rfl

@[simp] theorem exec_rtestAcc (x : BitVec 7) (s : State) :
    exec (.rtestAcc x) s = execRtestAcc x s := rfl

@[simp] theorem exec_rtestRej (x : BitVec 7) (s : State) :
    exec (.rtestRej x) s = execRtestRej x s := rfl

@[simp] theorem exec_rclear (a : BitVec 6) (s : State) :
    exec (.rclear a) s = execRclear a s := rfl

@[simp] theorem exec_fbar (b : BitVec 2) (s : State) :
    exec (.fbar b) s = execFbar b s := rfl

@[simp] theorem exec_farrive (b : BitVec 2) (s : State) :
    exec (.farrive b) s = execFarrive b s := rfl

@[simp] theorem exec_fwaitb (b : BitVec 2) (s : State) :
    exec (.fwaitb b) s = execFwaitb b s := rfl

@[simp] theorem exec_window (a : BitVec 6) (s : State) :
    exec (.window a) s = execWindow a s := rfl

@[simp] theorem exec_nbinit (n : BitVec 8) (c : BitVec 6) (s : State) :
    exec (.nbinit n c) s = execNbinit n c s := rfl

@[simp] theorem exec_nbarrive (n : BitVec 8) (s : State) :
    exec (.nbarrive n) s = execNbarrive n s := rfl

@[simp] theorem exec_nbwait (n : BitVec 8) (s : State) :
    exec (.nbwait n) s = execNbwait n s := rfl

@[simp] theorem exec_nbsync (n : BitVec 8) (s : State) :
    exec (.nbsync n) s = execNbsync n s := rfl

@[simp] theorem exec_cont (a : BitVec 6) (x : BitVec 7) (s : State) :
    exec (.cont a x) s = execCont a x s := rfl

@[simp] theorem exec_retire (s : State) :
    exec (.retire) s = execRetire s := rfl

@[simp] theorem exec_enq (a : BitVec 6) (s : State) :
    exec (.enq a) s = execEnq a s := rfl

@[simp] theorem exec_launch (a : BitVec 6) (b : BitVec 6) (s : State) :
    exec (.launch a b) s = execLaunch a b s := rfl

@[simp] theorem exec_solicit (a : BitVec 6) (n : BitVec 6) (s : State) :
    exec (.solicit a n) s = execSolicit a n s := rfl

@[simp] theorem exec_reply (x : BitVec 7) (s : State) :
    exec (.reply x) s = execReply x s := rfl

@[simp] theorem exec_cwait (a : BitVec 6) (n : BitVec 6) (s : State) :
    exec (.cwait a n) s = execCwait a n s := rfl

@[simp] theorem exec_cread (a : BitVec 6) (n : BitVec 6) (s : State) :
    exec (.cread a n) s = execCread a n s := rfl

@[simp] theorem exec_treg (a : BitVec 6) (b : BitVec 6) (d : BitVec 6) (s : State) :
    exec (.treg a b d) s = execTreg a b d s := rfl

@[simp] theorem exec_tdrop (a : BitVec 6) (s : State) :
    exec (.tdrop a) s = execTdrop a s := rfl

@[simp] theorem exec_tmove (a : BitVec 6) (b : BitVec 6) (d : BitVec 6) (s : State) :
    exec (.tmove a b d) s = execTmove a b d s := rfl

@[simp] theorem exec_crdecl (a : BitVec 6) (b : BitVec 6) (s : State) :
    exec (.crdecl a b) s = execCrdecl a b s := rfl

@[simp] theorem exec_cradd (a : BitVec 6) (v : BitVec 7) (s : State) :
    exec (.cradd a v) s = execCradd a v s := rfl

@[simp] theorem exec_crclose (a : BitVec 6) (s : State) :
    exec (.crclose a) s = execCrclose a s := rfl

@[simp] theorem exec_tlbinv (a : BitVec 6) (b : BitVec 6) (s : State) :
    exec (.tlbinv a b) s = execTlbinv a b s := rfl

@[simp] theorem exec_region (d : BitVec 6) (a : BitVec 6) (b : BitVec 6) (s : State) :
    exec (.region d a b) s = execRegion d a b s := rfl

@[simp] theorem exec_bankcfg (d : BitVec 6) (a : BitVec 6) (s : State) :
    exec (.bankcfg d a) s = execBankcfg d a s := rfl

@[simp] theorem exec_leave (d : BitVec 6) (a : BitVec 6) (s : State) :
    exec (.leave d a) s = execLeave d a s := rfl

@[simp] theorem exec_errlog (d : BitVec 6) (a : BitVec 6) (b : BitVec 6) (s : State) :
    exec (.errlog d a b) s = execErrlog d a b s := rfl

@[simp] theorem exec_tagset (a : BitVec 6) (b : BitVec 6) (s : State) :
    exec (.tagset a b) s = execTagset a b s := rfl

@[simp] theorem exec_tagget (d : BitVec 6) (a : BitVec 6) (s : State) :
    exec (.tagget d a) s = execTagget d a s := rfl

@[simp] theorem exec_vfma (d : BitVec 7) (a : BitVec 7) (b : BitVec 7) (c : BitVec 7) (s : State) :
    exec (.vfma d a b c) s = execVfma d a b c s := rfl

@[simp] theorem exec_launchCommand (q : Nat) (tag : BitVec 32) (addr : BitVec 64) (s : State) :
    exec (.launchCommand q tag addr) s = execLaunchCommand q tag addr s := rfl

@[simp] theorem exec_tlbinvCommand (q : Nat) (tag : BitVec 32) (va : BitVec 64) (ctl : BitVec 64) (s : State) :
    exec (.tlbinvCommand q tag va ctl) s = execTlbinvCommand q tag va ctl s := rfl

@[simp] theorem exec_bankcfgCommand (q : Nat) (tag : BitVec 32) (cluster : BitVec 8) (cfg : BitVec 64) (s : State) :
    exec (.bankcfgCommand q tag cluster cfg) s = execBankcfgCommand q tag cluster cfg s := rfl

@[simp] theorem exec_vpin (q : Nat) (tag : BitVec 32) (addr : BitVec 64) (len : BitVec 64) (s : State) :
    exec (.vpin q tag addr len) s = execVpin q tag addr len s := rfl

@[simp] theorem exec_vunpin (q : Nat) (tag : BitVec 32) (addr : BitVec 64) (len : BitVec 64) (s : State) :
    exec (.vunpin q tag addr len) s = execVunpin q tag addr len s := rfl

@[simp] theorem exec_vflush (q : Nat) (tag : BitVec 32) (addr : BitVec 64) (len : BitVec 64) (s : State) :
    exec (.vflush q tag addr len) s = execVflush q tag addr len s := rfl

@[simp] theorem exec_vdrop (q : Nat) (tag : BitVec 32) (addr : BitVec 64) (len : BitVec 64) (s : State) :
    exec (.vdrop q tag addr len) s = execVdrop q tag addr len s := rfl

@[simp] theorem exec_fresumeReplay (q : Nat) (tag : BitVec 32) (loc : BitVec 32) (frame : BitVec 16) (s : State) :
    exec (.fresumeReplay q tag loc frame) s = execFresumeReplay q tag loc frame s := rfl

@[simp] theorem exec_fresumeError (q : Nat) (tag : BitVec 32) (loc : BitVec 32) (frame : BitVec 16) (s : State) :
    exec (.fresumeError q tag loc frame) s = execFresumeError q tag loc frame s := rfl

@[simp] theorem exec_fresumeKill (q : Nat) (tag : BitVec 32) (loc : BitVec 32) (frame : BitVec 16) (s : State) :
    exec (.fresumeKill q tag loc frame) s = execFresumeKill q tag loc frame s := rfl

@[simp] theorem exec_preemptSave (q : Nat) (tag : BitVec 32) (rgn : BitVec 32) (area : BitVec 64) (s : State) :
    exec (.preemptSave q tag rgn area) s = execPreemptSave q tag rgn area s := rfl

@[simp] theorem exec_preemptDiscard (q : Nat) (tag : BitVec 32) (rgn : BitVec 32) (area : BitVec 64) (s : State) :
    exec (.preemptDiscard q tag rgn area) s = execPreemptDiscard q tag rgn area s := rfl

@[simp] theorem exec_restore (q : Nat) (tag : BitVec 32) (area : BitVec 64) (s : State) :
    exec (.restore q tag area) s = execRestore q tag area s := rfl

@[simp] theorem exec_savesize (q : Nat) (tag : BitVec 32) (rgn : BitVec 32) (s : State) :
    exec (.savesize q tag rgn) s = execSavesize q tag rgn s := rfl

@[simp] theorem exec_rgnop (q : Nat) (tag : BitVec 32) (a : BitVec 64) (b : BitVec 64) (s : State) :
    exec (.rgnop q tag a b) s = execRgnop q tag a b s := rfl

@[simp] theorem exec_rgnread (q : Nat) (tag : BitVec 32) (rgn : BitVec 32) (dst : BitVec 64) (s : State) :
    exec (.rgnread q tag rgn dst) s = execRgnread q tag rgn dst s := rfl

@[simp] theorem exec_rplread (q : Nat) (tag : BitVec 32) (loc : BitVec 32) (frame : BitVec 16) (dst : BitVec 64) (s : State) :
    exec (.rplread q tag loc frame dst) s = execRplread q tag loc frame dst s := rfl

@[simp] theorem exec_dirread (q : Nat) (tag : BitVec 32) (core : BitVec 16) (dst : BitVec 64) (s : State) :
    exec (.dirread q tag core dst) s = execDirread q tag core dst s := rfl

@[simp] theorem exec_dbgattach (q : Nat) (tag : BitVec 32) (rgn : BitVec 32) (s : State) :
    exec (.dbgattach q tag rgn) s = execDbgattach q tag rgn s := rfl

@[simp] theorem exec_dbgdetach (q : Nat) (tag : BitVec 32) (rgn : BitVec 32) (s : State) :
    exec (.dbgdetach q tag rgn) s = execDbgdetach q tag rgn s := rfl

@[simp] theorem exec_dbgstop (q : Nat) (tag : BitVec 32) (kind : BitVec 8) (target : BitVec 32) (s : State) :
    exec (.dbgstop q tag kind target) s = execDbgstop q tag kind target s := rfl

@[simp] theorem exec_dbgrun (q : Nat) (tag : BitVec 32) (kind : BitVec 8) (target : BitVec 32) (s : State) :
    exec (.dbgrun q tag kind target) s = execDbgrun q tag kind target s := rfl

@[simp] theorem exec_dbgstep (q : Nat) (tag : BitVec 32) (loc : BitVec 32) (count : BitVec 16) (s : State) :
    exec (.dbgstep q tag loc count) s = execDbgstep q tag loc count s := rfl

@[simp] theorem exec_dbgread (q : Nat) (tag : BitVec 32) (loc : BitVec 32) (item : BitVec 8) (index : BitVec 8) (host : BitVec 64) (s : State) :
    exec (.dbgread q tag loc item index host) s = execDbgread q tag loc item index host s := rfl

@[simp] theorem exec_dbgwrite (q : Nat) (tag : BitVec 32) (loc : BitVec 32) (item : BitVec 8) (index : BitVec 8) (host : BitVec 64) (s : State) :
    exec (.dbgwrite q tag loc item index host) s = execDbgwrite q tag loc item index host s := rfl

@[simp] theorem exec_dbgbp (q : Nat) (tag : BitVec 32) (index : BitVec 8) (enable : BitVec 8) (asid : BitVec 16) (pc : BitVec 64) (s : State) :
    exec (.dbgbp q tag index enable asid pc) s = execDbgbp q tag index enable asid pc s := rfl

@[simp] theorem exec_dbgwp (q : Nat) (tag : BitVec 32) (index : BitVec 8) (enable : BitVec 8) (asid : BitVec 16) (log2 : BitVec 8) (kinds : BitVec 8) (va : BitVec 64) (s : State) :
    exec (.dbgwp q tag index enable asid log2 kinds va) s = execDbgwp q tag index enable asid log2 kinds va s := rfl

@[simp] theorem exec_errdrain (q : Nat) (tag : BitVec 32) (dst : BitVec 64) (most : BitVec 32) (s : State) :
    exec (.errdrain q tag dst most) s = execErrdrain q tag dst most s := rfl

@[simp] theorem exec_malformedCommand (q : Nat) (tag : BitVec 32) (s : State) :
    exec (.malformedCommand q tag) s = execMalformedCommand q tag s := rfl

@[simp] theorem exec_sqtailDoorbell (q : Nat) (v : BitVec 32) (s : State) :
    exec (.sqtailDoorbell q v) s = execSqtailDoorbell q v s := rfl

@[simp] theorem exec_ctxbaseWrite (v : BitVec 64) (s : State) :
    exec (.ctxbaseWrite v) s = execCtxbaseWrite v s := rfl

@[simp] theorem exec_registerWrite (off : BitVec 16) (bytes : Nat) (v : BitVec 64) (s : State) :
    exec (.registerWrite off bytes v) s = execRegisterWrite off bytes v s := rfl

@[simp] theorem exec_coldReset (failed : Option (BitVec 4)) (s : State) :
    exec (.coldReset failed) s = execColdReset failed s := rfl

@[simp] theorem exec_functionLevelReset (s : State) :
    exec (.functionLevelReset) s = execFunctionLevelReset s := rfl

@[simp] theorem exec_coreReset (core : Nat) (s : State) :
    exec (.coreReset core) s = execCoreReset core s := rfl

@[simp] theorem exec_corePowerGate (core : Nat) (s : State) :
    exec (.corePowerGate core) s = execCorePowerGate core s := rfl

@[simp] theorem exec_bisnpinv (addr : BitVec 64) (s : State) :
    exec (.bisnpinv addr) s = execBisnpinv addr s := rfl

@[simp] theorem exec_bisnpdata (addr : BitVec 64) (s : State) :
    exec (.bisnpdata addr) s = execBisnpdata addr s := rfl

@[simp] theorem exec_bisnpcur (addr : BitVec 64) (s : State) :
    exec (.bisnpcur addr) s = execBisnpcur addr s := rfl

@[simp] theorem exec_h2dSnoop (addr : BitVec 64) (s : State) :
    exec (.h2dSnoop addr) s = execH2dSnoop addr s := rfl

@[simp] theorem exec_hdmAccess (agent : HdmAgent) (kind : HdmKind) (addr : BitVec 64) (data : BitVec 512) (s : State) :
    exec (.hdmAccess agent kind addr data) s = execHdmAccess agent kind addr data s := rfl

@[simp] theorem exec_atsInvalidationRequest (base : BitVec 64) (len : BitVec 64) (s : State) :
    exec (.atsInvalidationRequest base len) s = execAtsInvalidationRequest base len s := rfl

@[simp] theorem exec_atsCompletion (asid : BitVec 16) (page : BitVec 64) (host : BitVec 64) (log2 : Nat) (read : Bool) (write : Bool) (fail : Bool) (s : State) :
    exec (.atsCompletion asid page host log2 read write fail) s = execAtsCompletion asid page host log2 read write fail s := rfl

@[simp] theorem exec_ideFailure (port : Nat) (carried : List Nat) (s : State) :
    exec (.ideFailure port carried) s = execIdeFailure port carried s := rfl

@[simp] theorem exec_thermalLimit (allow : BitVec 24) (s : State) :
    exec (.thermalLimit allow) s = execThermalLimit allow s := rfl

@[simp] theorem exec_thermalTrip (s : State) :
    exec (.thermalTrip) s = execThermalTrip s := rfl

@[simp] theorem exec_getVersion (s : State) :
    exec (.getVersion) s = execGetVersion s := rfl

@[simp] theorem exec_getCapabilities (s : State) :
    exec (.getCapabilities) s = execGetCapabilities s := rfl

@[simp] theorem exec_negotiateAlgorithms (ecdsaP384 : Bool) (sha384 : Bool) (s : State) :
    exec (.negotiateAlgorithms ecdsaP384 sha384) s = execNegotiateAlgorithms ecdsaP384 sha384 s := rfl

@[simp] theorem exec_getDigests (s : State) :
    exec (.getDigests) s = execGetDigests s := rfl

@[simp] theorem exec_getCertificate (offset : BitVec 16) (length : BitVec 16) (s : State) :
    exec (.getCertificate offset length) s = execGetCertificate offset length s := rfl

@[simp] theorem exec_challenge (nonce : BitVec 256) (s : State) :
    exec (.challenge nonce) s = execChallenge nonce s := rfl

@[simp] theorem exec_getMeasurements (index : BitVec 8) (s : State) :
    exec (.getMeasurements index) s = execGetMeasurements index s := rfl

@[simp] theorem exec_keyExchange (port : Nat) (stream : Nat) (point : BitVec 768) (s : State) :
    exec (.keyExchange port stream point) s = execKeyExchange port stream point s := rfl

@[simp] theorem exec_lockInterfaceRequest (rgn : Nat) (s : State) :
    exec (.lockInterfaceRequest rgn) s = execLockInterfaceRequest rgn s := rfl

@[simp] theorem exec_startInterfaceRequest (rgn : Nat) (s : State) :
    exec (.startInterfaceRequest rgn) s = execStartInterfaceRequest rgn s := rfl

@[simp] theorem exec_stopInterfaceRequest (rgn : Nat) (s : State) :
    exec (.stopInterfaceRequest rgn) s = execStopInterfaceRequest rgn s := rfl

@[simp] theorem exec_correctableError (what : ErrPart) (place : Nat) (addr : Nat) (s : State) :
    exec (.correctableError what place addr) s = execCorrectableError what place addr s := rfl

@[simp] theorem exec_uncorrectableError (what : ErrPart) (place : Nat) (addr : Nat) (s : State) :
    exec (.uncorrectableError what place addr) s = execUncorrectableError what place addr s := rfl

@[simp] theorem exec_vaultUncorrectableError (addr : Nat) (s : State) :
    exec (.vaultUncorrectableError addr) s = execVaultUncorrectableError addr s := rfl

@[simp] theorem exec_purseRefill (cluster : Nat) (s : State) :
    exec (.purseRefill cluster) s = execPurseRefill cluster s := rfl

@[simp] theorem exec_migrationIssue (id : Nat) (s : State) :
    exec (.migrationIssue id) s = execMigrationIssue id s := rfl

@[simp] theorem exec_sweepRetry (die : Nat) (s : State) :
    exec (.sweepRetry die) s = execSweepRetry die s := rfl

@[simp] theorem exec_backgroundWriteback (die : Nat) (s : State) :
    exec (.backgroundWriteback die) s = execBackgroundWriteback die s := rfl

@[simp] theorem exec_granuleFilled (frame : Nat) (s : State) :
    exec (.granuleFilled frame) s = execGranuleFilled frame s := rfl

@[simp] theorem exec_writebackDone (frame : Nat) (s : State) :
    exec (.writebackDone frame) s = execWritebackDone frame s := rfl

@[simp] theorem exec_evictionComplete (frame : Nat) (s : State) :
    exec (.evictionComplete frame) s = execEvictionComplete frame s := rfl

@[simp] theorem exec_ownershipGranted (addr : Nat) (s : State) :
    exec (.ownershipGranted addr) s = execOwnershipGranted addr s := rfl

@[simp] theorem exec_pageWalk (core : Nat) (asid : BitVec 16) (va : BitVec 64) (s : State) :
    exec (.pageWalk core asid va) s = execPageWalk core asid va s := rfl

@[simp] theorem exec_lsuComplete (id : Nat) (s : State) :
    exec (.lsuComplete id) s = execLsuComplete id s := rfl

@[simp] theorem exec_msixCoalescedSend (vector : Nat) (s : State) :
    exec (.msixCoalescedSend vector) s = execMsixCoalescedSend vector s := rfl

@[simp] theorem exec_faultReportDelivery (s : State) :
    exec (.faultReportDelivery) s = execFaultReportDelivery s := rfl

@[simp] theorem exec_hcallRingDelivery (s : State) :
    exec (.hcallRingDelivery) s = execHcallRingDelivery s := rfl

@[simp] theorem exec_recordReplay (loc : Nat) (frame : Nat) (s : State) :
    exec (.recordReplay loc frame) s = execRecordReplay loc frame s := rfl

@[simp] theorem exec_drain (core : Nat) (s : State) :
    exec (.drain core) s = execDrain core s := rfl

@[simp] theorem exec_dirtyLineWriteback (core : Nat) (line : Nat) (s : State) :
    exec (.dirtyLineWriteback core line) s = execDirtyLineWriteback core line s := rfl

@[simp] theorem exec_mergeWindowClose (cluster : Nat) (line : Nat) (asid : BitVec 16) (s : State) :
    exec (.mergeWindowClose cluster line asid) s = execMergeWindowClose cluster line asid s := rfl

@[simp] theorem exec_tenureSwitch (slot : Nat) (s : State) :
    exec (.tenureSwitch slot) s = execTenureSwitch slot s := rfl

@[simp] theorem exec_budgetExhausted (rgn : Nat) (s : State) :
    exec (.budgetExhausted rgn) s = execBudgetExhausted rgn s := rfl

@[simp] theorem exec_placement (s : State) :
    exec (.placement) s = execPlacement s := rfl

@[simp] theorem exec_taskTake (core : Nat) (s : State) :
    exec (.taskTake core) s = execTaskTake core s := rfl

@[simp] theorem exec_tellerRecordArrival (core : Nat) (s : State) :
    exec (.tellerRecordArrival core) s = execTellerRecordArrival core s := rfl

@[simp] theorem exec_overflowReturn (rgn : Nat) (s : State) :
    exec (.overflowReturn rgn) s = execOverflowReturn rgn s := rfl

@[simp] theorem exec_binRipen (core : Nat) (bin : Nat) (s : State) :
    exec (.binRipen core bin) s = execBinRipen core bin s := rfl

@[simp] theorem exec_tellerPlacement (core : Nat) (s : State) :
    exec (.tellerPlacement core) s = execTellerPlacement core s := rfl

@[simp] theorem exec_fibreEmpty (loc : Nat) (s : State) :
    exec (.fibreEmpty loc) s = execFibreEmpty loc s := rfl

@[simp] theorem exec_launchRetire (id : Nat) (s : State) :
    exec (.launchRetire id) s = execLaunchRetire id s := rfl

@[simp] theorem exec_contextSave (rgn : Nat) (s : State) :
    exec (.contextSave rgn) s = execContextSave rgn s := rfl

@[simp] theorem exec_bankSwitch (cluster : Nat) (bank : Nat) (s : State) :
    exec (.bankSwitch cluster bank) s = execBankSwitch cluster bank s := rfl

@[simp] theorem exec_batchMigration (id : Nat) (engine : Nat) (s : State) :
    exec (.batchMigration id engine) s = execBatchMigration id engine s := rfl

@[simp] theorem exec_copyEntryStart (group : Nat) (s : State) :
    exec (.copyEntryStart group) s = execCopyEntryStart group s := rfl

@[simp] theorem exec_cpissueStart (id : Nat) (s : State) :
    exec (.cpissueStart id) s = execCpissueStart id s := rfl

@[simp] theorem exec_transferComplete (id : Nat) (s : State) :
    exec (.transferComplete id) s = execTransferComplete id s := rfl

@[simp] theorem exec_matrixCommandStart (id : Nat) (s : State) :
    exec (.matrixCommandStart id) s = execMatrixCommandStart id s := rfl

@[simp] theorem exec_matrixCommandComplete (id : Nat) (s : State) :
    exec (.matrixCommandComplete id) s = execMatrixCommandComplete id s := rfl

@[simp] theorem exec_nodeVisit (id : Nat) (lane : Nat) (s : State) :
    exec (.nodeVisit id lane) s = execNodeVisit id lane s := rfl

@[simp] theorem exec_sampleComplete (id : Nat) (s : State) :
    exec (.sampleComplete id) s = execSampleComplete id s := rfl

@[simp] theorem exec_rastComplete (id : Nat) (s : State) :
    exec (.rastComplete id) s = execRastComplete id s := rfl

@[simp] theorem exec_frameEvent (id : Nat) (s : State) :
    exec (.frameEvent id) s = execFrameEvent id s := rfl

@[simp] theorem exec_censusBroadcast (id : Nat) (s : State) :
    exec (.censusBroadcast id) s = execCensusBroadcast id s := rfl

@[simp] theorem exec_censusSweep (serial : Nat) (core : Nat) (s : State) :
    exec (.censusSweep serial core) s = execCensusSweep serial core s := rfl

@[simp] theorem exec_tmoveInsert (id : Nat) (s : State) :
    exec (.tmoveInsert id) s = execTmoveInsert id s := rfl

@[simp] theorem exec_switch (id : Nat) (target : Bool) (s : State) :
    exec (.switch id target) s = execSwitch id target s := rfl

@[simp] theorem exec_censusComplete (serial : Nat) (s : State) :
    exec (.censusComplete serial) s = execCensusComplete serial s := rfl

@[simp] theorem exec_dbgreadTimeout (q : Nat) (s : State) :
    exec (.dbgreadTimeout q) s = execDbgreadTimeout q s := rfl

@[simp] theorem exec_linkTrained (port : Nat) (s : State) :
    exec (.linkTrained port) s = execLinkTrained port s := rfl

@[simp] theorem exec_hostBirsp (id : Nat) (s : State) :
    exec (.hostBirsp id) s = execHostBirsp id s := rfl

@[simp] theorem exec_corePowerUp (core : Nat) (s : State) :
    exec (.corePowerUp core) s = execCorePowerUp core s := rfl

@[simp] theorem exec_allowanceSet (allow : List (BitVec 24)) (temp : BitVec 16) (draw : BitVec 16) (throttle : Bool) (s : State) :
    exec (.allowanceSet allow temp draw throttle) s = execAllowanceSet allow temp draw throttle s := rfl

end Sys2Proof.Machine
end

