-- ==== Sys2Proof/Laws/Sparse.lean ====
section
/-! SUPPORT. Reading back what was written to a finite map, what a write leaves alone, and that writes keep the
canonical form. -/

namespace Sys2Proof.Machine

variable {α : Type}

theorem Sparse.find_erase (m : Sparse α) (n k : Nat) :
    Sparse.find (Sparse.erase m n) k = if k = n then none else Sparse.find m k := by
  induction m with
  | nil => simp [Sparse.erase, Sparse.find]
  | cons e rest ih =>
    obtain ⟨a, v⟩ := e
    by_cases h : a = n <;> by_cases h2 : a = k <;> simp_all [Sparse.erase, Sparse.find]

theorem Sparse.get_erase (d : α) (m : Sparse α) (n k : Nat) :
    Sparse.get d (Sparse.erase m n) k = if k = n then d else Sparse.get d m k := by
  induction m with
  | nil => simp [Sparse.erase, Sparse.get]
  | cons e rest ih =>
    obtain ⟨a, v⟩ := e
    by_cases h : a = n <;> by_cases h2 : a = k <;> simp_all [Sparse.erase, Sparse.get]

theorem Sparse.find_put (m : Sparse α) (n k : Nat) (x : α) :
    Sparse.find (Sparse.put m n x) k = if k = n then some x else Sparse.find m k := by
  induction m with
  | nil => simp only [Sparse.put, Sparse.find]; split <;> split <;> simp_all
  | cons e rest ih =>
    obtain ⟨a, v⟩ := e
    simp only [Sparse.put]
    by_cases h1 : n < a
    · rw [if_pos h1]; simp only [Sparse.find]
      by_cases hk : n = k
      · subst hk; simp
      · simp [hk, Ne.symm hk]
    · rw [if_neg h1]
      by_cases h2 : a = n
      · subst h2; rw [if_pos rfl]; simp only [Sparse.find]
        by_cases hk : a = k
        · subst hk; simp
        · simp [hk, Ne.symm hk]
      · rw [if_neg h2]; simp only [Sparse.find, ih]
        by_cases hk : a = k
        · subst hk; simp [h2]
        · simp [hk]

theorem Sparse.get_put (d : α) (m : Sparse α) (n k : Nat) (x : α) :
    Sparse.get d (Sparse.put m n x) k = if k = n then x else Sparse.get d m k := by
  induction m with
  | nil => simp only [Sparse.put, Sparse.get]; split <;> split <;> simp_all
  | cons e rest ih =>
    obtain ⟨a, v⟩ := e
    simp only [Sparse.put]
    by_cases h1 : n < a
    · rw [if_pos h1]; simp only [Sparse.get]
      by_cases hk : n = k
      · subst hk; simp
      · simp [hk, Ne.symm hk]
    · rw [if_neg h1]
      by_cases h2 : a = n
      · subst h2; rw [if_pos rfl]; simp only [Sparse.get]
        by_cases hk : a = k
        · subst hk; simp
        · simp [hk, Ne.symm hk]
      · rw [if_neg h2]; simp only [Sparse.get, ih]
        by_cases hk : a = k
        · subst hk; simp [h2]
        · simp [hk]

theorem Sparse.get_set [DecidableEq α] (d : α) (m : Sparse α) (n k : Nat) (x : α) :
    Sparse.get d (Sparse.set d m n x) k = if k = n then x else Sparse.get d m k := by
  unfold Sparse.set
  split
  · rw [Sparse.get_erase]; split <;> simp_all
  · exact Sparse.get_put d m n k x

theorem Sparse.find_adjust (m : Sparse α) (n k : Nat) (g : α → α) :
    Sparse.find (Sparse.adjust m n g) k = if k = n then (Sparse.find m n).map g else Sparse.find m k := by
  unfold Sparse.adjust
  cases h : Sparse.find m n with
  | none => simp only [Option.map_none]; split <;> simp_all
  | some v => simp [Sparse.find_put]

theorem Sparse.put_put (m : Sparse α) (n : Nat) (x y : α) :
    Sparse.put (Sparse.put m n x) n y = Sparse.put m n y := by
  induction m with
  | nil => simp [Sparse.put]
  | cons e rest ih =>
    obtain ⟨a, v⟩ := e
    simp only [Sparse.put]
    split
    · simp [Sparse.put]
    · split
      · simp [Sparse.put]
      · simp_all [Sparse.put] <;> omega

/-! ### The canonical form -/

theorem Sparse.sortedFrom_weaken {m : Sparse α} {lo : Nat} (h : Sparse.sortedFrom (some lo) m = true) :
    Sparse.sortedFrom none m = true := by
  cases m with
  | nil => rfl
  | cons e rest => obtain ⟨a, v⟩ := e; simp_all [Sparse.sortedFrom]

theorem Sparse.sortedFrom_lower {m : Sparse α} {lo lo' : Nat} (h : Sparse.sortedFrom (some lo) m = true)
    (hl : lo' ≤ lo) : Sparse.sortedFrom (some lo') m = true := by
  cases m with
  | nil => rfl
  | cons e rest => obtain ⟨a, v⟩ := e; simp_all [Sparse.sortedFrom]; omega

theorem Sparse.sorted_erase (m : Sparse α) (n : Nat) : ∀ b : Option Nat, Sparse.sortedFrom b m = true →
    Sparse.sortedFrom b (Sparse.erase m n) = true := by
  induction m with
  | nil => intro b _; cases b <;> rfl
  | cons e rest ih =>
    obtain ⟨a, v⟩ := e
    intro b h
    cases b with
    | none =>
      simp only [Sparse.sortedFrom] at h
      simp only [Sparse.erase]
      split
      · exact Sparse.sortedFrom_weaken (ih _ h)
      · simpa [Sparse.sortedFrom] using ih _ h
    | some lo =>
      simp only [Sparse.sortedFrom, Bool.and_eq_true, decide_eq_true_eq] at h
      simp only [Sparse.erase]
      split
      · exact Sparse.sortedFrom_lower (ih _ h.2) (by omega)
      · simpa [Sparse.sortedFrom, h.1] using ih _ h.2

theorem Sparse.sorted_put (m : Sparse α) (n : Nat) (x : α) : ∀ b : Option Nat,
    (∀ lo, b = some lo → lo < n) → Sparse.sortedFrom b m = true →
    Sparse.sortedFrom b (Sparse.put m n x) = true := by
  induction m with
  | nil =>
    intro b hb _
    cases b with
    | none => rfl
    | some lo => simpa [Sparse.put, Sparse.sortedFrom] using hb lo rfl
  | cons e rest ih =>
    obtain ⟨a, v⟩ := e
    intro b hb h
    have hr : Sparse.sortedFrom (some a) rest = true := by cases b <;> simp_all [Sparse.sortedFrom]
    have ha : ∀ lo, b = some lo → lo < a := by rintro lo rfl; simp_all [Sparse.sortedFrom]
    simp only [Sparse.put]
    split
    · cases b <;> simp_all [Sparse.sortedFrom]
    · split
      · subst_vars; cases b <;> simp_all [Sparse.sortedFrom]
      · have := ih (some a) (by rintro lo ⟨⟩; omega) hr
        cases b <;> simp_all [Sparse.sortedFrom]

theorem Sparse.noDefault_erase [DecidableEq α] {d : α} (m : Sparse α) (n : Nat)
    (h : Sparse.noDefault d m = true) : Sparse.noDefault d (Sparse.erase m n) = true := by
  induction m with
  | nil => rfl
  | cons e rest ih =>
    obtain ⟨a, v⟩ := e
    simp only [Sparse.noDefault, Bool.and_eq_true] at h
    simp only [Sparse.erase]
    split
    · exact ih h.2
    · simpa [Sparse.noDefault] using ⟨by simpa using h.1, ih h.2⟩

theorem Sparse.noDefault_put [DecidableEq α] {d : α} (m : Sparse α) (n : Nat) (x : α) (hx : x ≠ d)
    (h : Sparse.noDefault d m = true) : Sparse.noDefault d (Sparse.put m n x) = true := by
  induction m with
  | nil => simp [Sparse.put, Sparse.noDefault, hx]
  | cons e rest ih =>
    obtain ⟨a, v⟩ := e
    simp only [Sparse.noDefault, Bool.and_eq_true] at h
    simp only [Sparse.put]
    split
    · simp_all [Sparse.noDefault]
    · split <;> simp_all [Sparse.noDefault]

/-- Writing keeps the canonical form. -/
theorem Sparse.wf_set [DecidableEq α] {d : α} {m : Sparse α} (n : Nat) (x : α) (h : Sparse.wf d m = true) :
    Sparse.wf d (Sparse.set d m n x) = true := by
  simp only [Sparse.wf, Bool.and_eq_true] at h ⊢
  unfold Sparse.set
  split
  · exact ⟨Sparse.sorted_erase m n none h.1, Sparse.noDefault_erase m n h.2⟩
  · next hx => exact ⟨Sparse.sorted_put m n x none (by simp) h.1, Sparse.noDefault_put m n x hx h.2⟩

end Sys2Proof.Machine
end

