-- ==== Sys2Proof/Laws/State.lean ====
section
/-! SUPPORT. What each update of the state or of a fibre leaves as it was, field by field. -/

namespace Sys2Proof.Machine

/-! ### setFibre -/

@[simp] theorem setFibre_cur (s : State) (l : Nat) (f : Fibre) : (s.setFibre l f).cur = s.cur := rfl
@[simp] theorem setFibre_iword (s : State) (l : Nat) (f : Fibre) : (s.setFibre l f).iword = s.iword := rfl
@[simp] theorem setFibre_slots (s : State) (l : Nat) (f : Fibre) : (s.setFibre l f).slots = s.slots := rfl
@[simp] theorem setFibre_groups (s : State) (l : Nat) (f : Fibre) : (s.setFibre l f).groups = s.groups := rfl
@[simp] theorem setFibre_sched (s : State) (l : Nat) (f : Fibre) : (s.setFibre l f).sched = s.sched := rfl
@[simp] theorem setFibre_co (s : State) (l : Nat) (f : Fibre) : (s.setFibre l f).co = s.co := rfl
@[simp] theorem setFibre_eng (s : State) (l : Nat) (f : Fibre) : (s.setFibre l f).eng = s.eng := rfl
@[simp] theorem setFibre_mem (s : State) (l : Nat) (f : Fibre) : (s.setFibre l f).mem = s.mem := rfl
@[simp] theorem setFibre_clr (s : State) (l : Nat) (f : Fibre) : (s.setFibre l f).clr = s.clr := rfl
@[simp] theorem setFibre_xl (s : State) (l : Nat) (f : Fibre) : (s.setFibre l f).xl = s.xl := rfl
@[simp] theorem setFibre_reg (s : State) (l : Nat) (f : Fibre) : (s.setFibre l f).reg = s.reg := rfl
@[simp] theorem setFibre_io (s : State) (l : Nat) (f : Fibre) : (s.setFibre l f).io = s.io := rfl
@[simp] theorem setFibre_clk (s : State) (l : Nat) (f : Fibre) : (s.setFibre l f).clk = s.clk := rfl
@[simp] theorem setFibre_gated (s : State) (l : Nat) (f : Fibre) : (s.setFibre l f).gated = s.gated := rfl
@[simp] theorem setFibre_tripped (s : State) (l : Nat) (f : Fibre) : (s.setFibre l f).tripped = s.tripped := rfl
@[simp] theorem setFibre_fw (s : State) (l : Nat) (f : Fibre) : (s.setFibre l f).fw = s.fw := rfl
@[simp] theorem setFibre_fresh (s : State) (l : Nat) (f : Fibre) : (s.setFibre l f).fresh = s.fresh := rfl
@[simp] theorem setFibre_draws (s : State) (l : Nat) (f : Fibre) : (s.setFibre l f).draws = s.draws := rfl
@[simp] theorem setFibre_turns (s : State) (l : Nat) (f : Fibre) : (s.setFibre l f).turns = s.turns := rfl
@[simp] theorem setFibre_quads (s : State) (l : Nat) (f : Fibre) : (s.setFibre l f).quads = s.quads := rfl

/-! ### modFibre -/

@[simp] theorem modFibre_cur (s : State) (l : Nat) (g : Fibre → Fibre) : (s.modFibre l g).cur = s.cur := rfl
@[simp] theorem modFibre_iword (s : State) (l : Nat) (g : Fibre → Fibre) : (s.modFibre l g).iword = s.iword := rfl
@[simp] theorem modFibre_slots (s : State) (l : Nat) (g : Fibre → Fibre) : (s.modFibre l g).slots = s.slots := rfl
@[simp] theorem modFibre_groups (s : State) (l : Nat) (g : Fibre → Fibre) : (s.modFibre l g).groups = s.groups := rfl
@[simp] theorem modFibre_sched (s : State) (l : Nat) (g : Fibre → Fibre) : (s.modFibre l g).sched = s.sched := rfl
@[simp] theorem modFibre_co (s : State) (l : Nat) (g : Fibre → Fibre) : (s.modFibre l g).co = s.co := rfl
@[simp] theorem modFibre_eng (s : State) (l : Nat) (g : Fibre → Fibre) : (s.modFibre l g).eng = s.eng := rfl
@[simp] theorem modFibre_mem (s : State) (l : Nat) (g : Fibre → Fibre) : (s.modFibre l g).mem = s.mem := rfl
@[simp] theorem modFibre_clr (s : State) (l : Nat) (g : Fibre → Fibre) : (s.modFibre l g).clr = s.clr := rfl
@[simp] theorem modFibre_xl (s : State) (l : Nat) (g : Fibre → Fibre) : (s.modFibre l g).xl = s.xl := rfl
@[simp] theorem modFibre_reg (s : State) (l : Nat) (g : Fibre → Fibre) : (s.modFibre l g).reg = s.reg := rfl
@[simp] theorem modFibre_io (s : State) (l : Nat) (g : Fibre → Fibre) : (s.modFibre l g).io = s.io := rfl
@[simp] theorem modFibre_clk (s : State) (l : Nat) (g : Fibre → Fibre) : (s.modFibre l g).clk = s.clk := rfl
@[simp] theorem modFibre_gated (s : State) (l : Nat) (g : Fibre → Fibre) : (s.modFibre l g).gated = s.gated := rfl
@[simp] theorem modFibre_tripped (s : State) (l : Nat) (g : Fibre → Fibre) : (s.modFibre l g).tripped = s.tripped := rfl
@[simp] theorem modFibre_fw (s : State) (l : Nat) (g : Fibre → Fibre) : (s.modFibre l g).fw = s.fw := rfl
@[simp] theorem modFibre_fresh (s : State) (l : Nat) (g : Fibre → Fibre) : (s.modFibre l g).fresh = s.fresh := rfl
@[simp] theorem modFibre_draws (s : State) (l : Nat) (g : Fibre → Fibre) : (s.modFibre l g).draws = s.draws := rfl
@[simp] theorem modFibre_turns (s : State) (l : Nat) (g : Fibre → Fibre) : (s.modFibre l g).turns = s.turns := rfl
@[simp] theorem modFibre_quads (s : State) (l : Nat) (g : Fibre → Fibre) : (s.modFibre l g).quads = s.quads := rfl

/-! ### modSlot -/

@[simp] theorem modSlot_cur (s : State) (l : Nat) (g : Slot → Slot) : (s.modSlot l g).cur = s.cur := rfl
@[simp] theorem modSlot_iword (s : State) (l : Nat) (g : Slot → Slot) : (s.modSlot l g).iword = s.iword := rfl
@[simp] theorem modSlot_fibres (s : State) (l : Nat) (g : Slot → Slot) : (s.modSlot l g).fibres = s.fibres := rfl
@[simp] theorem modSlot_groups (s : State) (l : Nat) (g : Slot → Slot) : (s.modSlot l g).groups = s.groups := rfl
@[simp] theorem modSlot_sched (s : State) (l : Nat) (g : Slot → Slot) : (s.modSlot l g).sched = s.sched := rfl
@[simp] theorem modSlot_co (s : State) (l : Nat) (g : Slot → Slot) : (s.modSlot l g).co = s.co := rfl
@[simp] theorem modSlot_eng (s : State) (l : Nat) (g : Slot → Slot) : (s.modSlot l g).eng = s.eng := rfl
@[simp] theorem modSlot_mem (s : State) (l : Nat) (g : Slot → Slot) : (s.modSlot l g).mem = s.mem := rfl
@[simp] theorem modSlot_clr (s : State) (l : Nat) (g : Slot → Slot) : (s.modSlot l g).clr = s.clr := rfl
@[simp] theorem modSlot_xl (s : State) (l : Nat) (g : Slot → Slot) : (s.modSlot l g).xl = s.xl := rfl
@[simp] theorem modSlot_reg (s : State) (l : Nat) (g : Slot → Slot) : (s.modSlot l g).reg = s.reg := rfl
@[simp] theorem modSlot_io (s : State) (l : Nat) (g : Slot → Slot) : (s.modSlot l g).io = s.io := rfl
@[simp] theorem modSlot_clk (s : State) (l : Nat) (g : Slot → Slot) : (s.modSlot l g).clk = s.clk := rfl
@[simp] theorem modSlot_gated (s : State) (l : Nat) (g : Slot → Slot) : (s.modSlot l g).gated = s.gated := rfl
@[simp] theorem modSlot_tripped (s : State) (l : Nat) (g : Slot → Slot) : (s.modSlot l g).tripped = s.tripped := rfl
@[simp] theorem modSlot_fw (s : State) (l : Nat) (g : Slot → Slot) : (s.modSlot l g).fw = s.fw := rfl
@[simp] theorem modSlot_fresh (s : State) (l : Nat) (g : Slot → Slot) : (s.modSlot l g).fresh = s.fresh := rfl
@[simp] theorem modSlot_draws (s : State) (l : Nat) (g : Slot → Slot) : (s.modSlot l g).draws = s.draws := rfl
@[simp] theorem modSlot_turns (s : State) (l : Nat) (g : Slot → Slot) : (s.modSlot l g).turns = s.turns := rfl
@[simp] theorem modSlot_quads (s : State) (l : Nat) (g : Slot → Slot) : (s.modSlot l g).quads = s.quads := rfl

/-! ### addPend -/

@[simp] theorem addPend_cur (s : State) (l n : Nat) (r : List Res) : (s.addPend l n r).cur = s.cur := rfl
@[simp] theorem addPend_iword (s : State) (l n : Nat) (r : List Res) : (s.addPend l n r).iword = s.iword := rfl
@[simp] theorem addPend_fibres (s : State) (l n : Nat) (r : List Res) : (s.addPend l n r).fibres = s.fibres := rfl
@[simp] theorem addPend_groups (s : State) (l n : Nat) (r : List Res) : (s.addPend l n r).groups = s.groups := rfl
@[simp] theorem addPend_sched (s : State) (l n : Nat) (r : List Res) : (s.addPend l n r).sched = s.sched := rfl
@[simp] theorem addPend_co (s : State) (l n : Nat) (r : List Res) : (s.addPend l n r).co = s.co := rfl
@[simp] theorem addPend_eng (s : State) (l n : Nat) (r : List Res) : (s.addPend l n r).eng = s.eng := rfl
@[simp] theorem addPend_mem (s : State) (l n : Nat) (r : List Res) : (s.addPend l n r).mem = s.mem := rfl
@[simp] theorem addPend_clr (s : State) (l n : Nat) (r : List Res) : (s.addPend l n r).clr = s.clr := rfl
@[simp] theorem addPend_xl (s : State) (l n : Nat) (r : List Res) : (s.addPend l n r).xl = s.xl := rfl
@[simp] theorem addPend_reg (s : State) (l n : Nat) (r : List Res) : (s.addPend l n r).reg = s.reg := rfl
@[simp] theorem addPend_io (s : State) (l n : Nat) (r : List Res) : (s.addPend l n r).io = s.io := rfl
@[simp] theorem addPend_clk (s : State) (l n : Nat) (r : List Res) : (s.addPend l n r).clk = s.clk := rfl
@[simp] theorem addPend_gated (s : State) (l n : Nat) (r : List Res) : (s.addPend l n r).gated = s.gated := rfl
@[simp] theorem addPend_tripped (s : State) (l n : Nat) (r : List Res) : (s.addPend l n r).tripped = s.tripped := rfl
@[simp] theorem addPend_fw (s : State) (l n : Nat) (r : List Res) : (s.addPend l n r).fw = s.fw := rfl
@[simp] theorem addPend_fresh (s : State) (l n : Nat) (r : List Res) : (s.addPend l n r).fresh = s.fresh := rfl
@[simp] theorem addPend_draws (s : State) (l n : Nat) (r : List Res) : (s.addPend l n r).draws = s.draws := rfl
@[simp] theorem addPend_turns (s : State) (l n : Nat) (r : List Res) : (s.addPend l n r).turns = s.turns := rfl
@[simp] theorem addPend_quads (s : State) (l n : Nat) (r : List Res) : (s.addPend l n r).quads = s.quads := rfl

/-! ### dropPend -/

@[simp] theorem dropPend_cur (s : State) (l n : Nat) : (s.dropPend l n).cur = s.cur := rfl
@[simp] theorem dropPend_iword (s : State) (l n : Nat) : (s.dropPend l n).iword = s.iword := rfl
@[simp] theorem dropPend_fibres (s : State) (l n : Nat) : (s.dropPend l n).fibres = s.fibres := rfl
@[simp] theorem dropPend_groups (s : State) (l n : Nat) : (s.dropPend l n).groups = s.groups := rfl
@[simp] theorem dropPend_sched (s : State) (l n : Nat) : (s.dropPend l n).sched = s.sched := rfl
@[simp] theorem dropPend_co (s : State) (l n : Nat) : (s.dropPend l n).co = s.co := rfl
@[simp] theorem dropPend_eng (s : State) (l n : Nat) : (s.dropPend l n).eng = s.eng := rfl
@[simp] theorem dropPend_mem (s : State) (l n : Nat) : (s.dropPend l n).mem = s.mem := rfl
@[simp] theorem dropPend_clr (s : State) (l n : Nat) : (s.dropPend l n).clr = s.clr := rfl
@[simp] theorem dropPend_xl (s : State) (l n : Nat) : (s.dropPend l n).xl = s.xl := rfl
@[simp] theorem dropPend_reg (s : State) (l n : Nat) : (s.dropPend l n).reg = s.reg := rfl
@[simp] theorem dropPend_io (s : State) (l n : Nat) : (s.dropPend l n).io = s.io := rfl
@[simp] theorem dropPend_clk (s : State) (l n : Nat) : (s.dropPend l n).clk = s.clk := rfl
@[simp] theorem dropPend_gated (s : State) (l n : Nat) : (s.dropPend l n).gated = s.gated := rfl
@[simp] theorem dropPend_tripped (s : State) (l n : Nat) : (s.dropPend l n).tripped = s.tripped := rfl
@[simp] theorem dropPend_fw (s : State) (l n : Nat) : (s.dropPend l n).fw = s.fw := rfl
@[simp] theorem dropPend_fresh (s : State) (l n : Nat) : (s.dropPend l n).fresh = s.fresh := rfl
@[simp] theorem dropPend_draws (s : State) (l n : Nat) : (s.dropPend l n).draws = s.draws := rfl
@[simp] theorem dropPend_turns (s : State) (l n : Nat) : (s.dropPend l n).turns = s.turns := rfl
@[simp] theorem dropPend_quads (s : State) (l n : Nat) : (s.dropPend l n).quads = s.quads := rfl

/-! ### modGroup -/

@[simp] theorem modGroup_cur (s : State) (k : Nat) (g : Group → Group) : (s.modGroup k g).cur = s.cur := rfl
@[simp] theorem modGroup_iword (s : State) (k : Nat) (g : Group → Group) : (s.modGroup k g).iword = s.iword := rfl
@[simp] theorem modGroup_fibres (s : State) (k : Nat) (g : Group → Group) : (s.modGroup k g).fibres = s.fibres := rfl
@[simp] theorem modGroup_slots (s : State) (k : Nat) (g : Group → Group) : (s.modGroup k g).slots = s.slots := rfl
@[simp] theorem modGroup_sched (s : State) (k : Nat) (g : Group → Group) : (s.modGroup k g).sched = s.sched := rfl
@[simp] theorem modGroup_co (s : State) (k : Nat) (g : Group → Group) : (s.modGroup k g).co = s.co := rfl
@[simp] theorem modGroup_eng (s : State) (k : Nat) (g : Group → Group) : (s.modGroup k g).eng = s.eng := rfl
@[simp] theorem modGroup_mem (s : State) (k : Nat) (g : Group → Group) : (s.modGroup k g).mem = s.mem := rfl
@[simp] theorem modGroup_clr (s : State) (k : Nat) (g : Group → Group) : (s.modGroup k g).clr = s.clr := rfl
@[simp] theorem modGroup_xl (s : State) (k : Nat) (g : Group → Group) : (s.modGroup k g).xl = s.xl := rfl
@[simp] theorem modGroup_reg (s : State) (k : Nat) (g : Group → Group) : (s.modGroup k g).reg = s.reg := rfl
@[simp] theorem modGroup_io (s : State) (k : Nat) (g : Group → Group) : (s.modGroup k g).io = s.io := rfl
@[simp] theorem modGroup_clk (s : State) (k : Nat) (g : Group → Group) : (s.modGroup k g).clk = s.clk := rfl
@[simp] theorem modGroup_gated (s : State) (k : Nat) (g : Group → Group) : (s.modGroup k g).gated = s.gated := rfl
@[simp] theorem modGroup_tripped (s : State) (k : Nat) (g : Group → Group) : (s.modGroup k g).tripped = s.tripped := rfl
@[simp] theorem modGroup_fw (s : State) (k : Nat) (g : Group → Group) : (s.modGroup k g).fw = s.fw := rfl
@[simp] theorem modGroup_fresh (s : State) (k : Nat) (g : Group → Group) : (s.modGroup k g).fresh = s.fresh := rfl
@[simp] theorem modGroup_draws (s : State) (k : Nat) (g : Group → Group) : (s.modGroup k g).draws = s.draws := rfl
@[simp] theorem modGroup_turns (s : State) (k : Nat) (g : Group → Group) : (s.modGroup k g).turns = s.turns := rfl
@[simp] theorem modGroup_quads (s : State) (k : Nat) (g : Group → Group) : (s.modGroup k g).quads = s.quads := rfl

/-! ### modOp -/

@[simp] theorem modOp_cur (s : State) (n : Nat) (g : Op → Op) : (s.modOp n g).cur = s.cur := rfl
@[simp] theorem modOp_iword (s : State) (n : Nat) (g : Op → Op) : (s.modOp n g).iword = s.iword := rfl
@[simp] theorem modOp_fibres (s : State) (n : Nat) (g : Op → Op) : (s.modOp n g).fibres = s.fibres := rfl
@[simp] theorem modOp_slots (s : State) (n : Nat) (g : Op → Op) : (s.modOp n g).slots = s.slots := rfl
@[simp] theorem modOp_groups (s : State) (n : Nat) (g : Op → Op) : (s.modOp n g).groups = s.groups := rfl
@[simp] theorem modOp_sched (s : State) (n : Nat) (g : Op → Op) : (s.modOp n g).sched = s.sched := rfl
@[simp] theorem modOp_co (s : State) (n : Nat) (g : Op → Op) : (s.modOp n g).co = s.co := rfl
@[simp] theorem modOp_mem (s : State) (n : Nat) (g : Op → Op) : (s.modOp n g).mem = s.mem := rfl
@[simp] theorem modOp_clr (s : State) (n : Nat) (g : Op → Op) : (s.modOp n g).clr = s.clr := rfl
@[simp] theorem modOp_xl (s : State) (n : Nat) (g : Op → Op) : (s.modOp n g).xl = s.xl := rfl
@[simp] theorem modOp_reg (s : State) (n : Nat) (g : Op → Op) : (s.modOp n g).reg = s.reg := rfl
@[simp] theorem modOp_io (s : State) (n : Nat) (g : Op → Op) : (s.modOp n g).io = s.io := rfl
@[simp] theorem modOp_clk (s : State) (n : Nat) (g : Op → Op) : (s.modOp n g).clk = s.clk := rfl
@[simp] theorem modOp_gated (s : State) (n : Nat) (g : Op → Op) : (s.modOp n g).gated = s.gated := rfl
@[simp] theorem modOp_tripped (s : State) (n : Nat) (g : Op → Op) : (s.modOp n g).tripped = s.tripped := rfl
@[simp] theorem modOp_fw (s : State) (n : Nat) (g : Op → Op) : (s.modOp n g).fw = s.fw := rfl
@[simp] theorem modOp_fresh (s : State) (n : Nat) (g : Op → Op) : (s.modOp n g).fresh = s.fresh := rfl
@[simp] theorem modOp_draws (s : State) (n : Nat) (g : Op → Op) : (s.modOp n g).draws = s.draws := rfl
@[simp] theorem modOp_turns (s : State) (n : Nat) (g : Op → Op) : (s.modOp n g).turns = s.turns := rfl
@[simp] theorem modOp_quads (s : State) (n : Nat) (g : Op → Op) : (s.modOp n g).quads = s.quads := rfl

/-! ### modFrame -/

@[simp] theorem modFrame_cur (s : State) (k : Nat) (g : Frame → Frame) : (s.modFrame k g).cur = s.cur := rfl
@[simp] theorem modFrame_iword (s : State) (k : Nat) (g : Frame → Frame) : (s.modFrame k g).iword = s.iword := rfl
@[simp] theorem modFrame_fibres (s : State) (k : Nat) (g : Frame → Frame) : (s.modFrame k g).fibres = s.fibres := rfl
@[simp] theorem modFrame_slots (s : State) (k : Nat) (g : Frame → Frame) : (s.modFrame k g).slots = s.slots := rfl
@[simp] theorem modFrame_groups (s : State) (k : Nat) (g : Frame → Frame) : (s.modFrame k g).groups = s.groups := rfl
@[simp] theorem modFrame_sched (s : State) (k : Nat) (g : Frame → Frame) : (s.modFrame k g).sched = s.sched := rfl
@[simp] theorem modFrame_co (s : State) (k : Nat) (g : Frame → Frame) : (s.modFrame k g).co = s.co := rfl
@[simp] theorem modFrame_eng (s : State) (k : Nat) (g : Frame → Frame) : (s.modFrame k g).eng = s.eng := rfl
@[simp] theorem modFrame_clr (s : State) (k : Nat) (g : Frame → Frame) : (s.modFrame k g).clr = s.clr := rfl
@[simp] theorem modFrame_xl (s : State) (k : Nat) (g : Frame → Frame) : (s.modFrame k g).xl = s.xl := rfl
@[simp] theorem modFrame_reg (s : State) (k : Nat) (g : Frame → Frame) : (s.modFrame k g).reg = s.reg := rfl
@[simp] theorem modFrame_io (s : State) (k : Nat) (g : Frame → Frame) : (s.modFrame k g).io = s.io := rfl
@[simp] theorem modFrame_clk (s : State) (k : Nat) (g : Frame → Frame) : (s.modFrame k g).clk = s.clk := rfl
@[simp] theorem modFrame_gated (s : State) (k : Nat) (g : Frame → Frame) : (s.modFrame k g).gated = s.gated := rfl
@[simp] theorem modFrame_tripped (s : State) (k : Nat) (g : Frame → Frame) : (s.modFrame k g).tripped = s.tripped := rfl
@[simp] theorem modFrame_fw (s : State) (k : Nat) (g : Frame → Frame) : (s.modFrame k g).fw = s.fw := rfl
@[simp] theorem modFrame_fresh (s : State) (k : Nat) (g : Frame → Frame) : (s.modFrame k g).fresh = s.fresh := rfl
@[simp] theorem modFrame_draws (s : State) (k : Nat) (g : Frame → Frame) : (s.modFrame k g).draws = s.draws := rfl
@[simp] theorem modFrame_turns (s : State) (k : Nat) (g : Frame → Frame) : (s.modFrame k g).turns = s.turns := rfl
@[simp] theorem modFrame_quads (s : State) (k : Nat) (g : Frame → Frame) : (s.modFrame k g).quads = s.quads := rfl

/-! ### hostWrite -/

@[simp] theorem hostWrite_cur (s : State) (a : Nat) (b : List Byte) : (s.hostWrite a b).cur = s.cur := rfl
@[simp] theorem hostWrite_iword (s : State) (a : Nat) (b : List Byte) : (s.hostWrite a b).iword = s.iword := rfl
@[simp] theorem hostWrite_fibres (s : State) (a : Nat) (b : List Byte) : (s.hostWrite a b).fibres = s.fibres := rfl
@[simp] theorem hostWrite_slots (s : State) (a : Nat) (b : List Byte) : (s.hostWrite a b).slots = s.slots := rfl
@[simp] theorem hostWrite_groups (s : State) (a : Nat) (b : List Byte) : (s.hostWrite a b).groups = s.groups := rfl
@[simp] theorem hostWrite_sched (s : State) (a : Nat) (b : List Byte) : (s.hostWrite a b).sched = s.sched := rfl
@[simp] theorem hostWrite_co (s : State) (a : Nat) (b : List Byte) : (s.hostWrite a b).co = s.co := rfl
@[simp] theorem hostWrite_eng (s : State) (a : Nat) (b : List Byte) : (s.hostWrite a b).eng = s.eng := rfl
@[simp] theorem hostWrite_clr (s : State) (a : Nat) (b : List Byte) : (s.hostWrite a b).clr = s.clr := rfl
@[simp] theorem hostWrite_xl (s : State) (a : Nat) (b : List Byte) : (s.hostWrite a b).xl = s.xl := rfl
@[simp] theorem hostWrite_reg (s : State) (a : Nat) (b : List Byte) : (s.hostWrite a b).reg = s.reg := rfl
@[simp] theorem hostWrite_io (s : State) (a : Nat) (b : List Byte) : (s.hostWrite a b).io = s.io := rfl
@[simp] theorem hostWrite_clk (s : State) (a : Nat) (b : List Byte) : (s.hostWrite a b).clk = s.clk := rfl
@[simp] theorem hostWrite_gated (s : State) (a : Nat) (b : List Byte) : (s.hostWrite a b).gated = s.gated := rfl
@[simp] theorem hostWrite_tripped (s : State) (a : Nat) (b : List Byte) : (s.hostWrite a b).tripped = s.tripped := rfl
@[simp] theorem hostWrite_fw (s : State) (a : Nat) (b : List Byte) : (s.hostWrite a b).fw = s.fw := rfl
@[simp] theorem hostWrite_fresh (s : State) (a : Nat) (b : List Byte) : (s.hostWrite a b).fresh = s.fresh := rfl
@[simp] theorem hostWrite_draws (s : State) (a : Nat) (b : List Byte) : (s.hostWrite a b).draws = s.draws := rfl
@[simp] theorem hostWrite_turns (s : State) (a : Nat) (b : List Byte) : (s.hostWrite a b).turns = s.turns := rfl
@[simp] theorem hostWrite_quads (s : State) (a : Nat) (b : List Byte) : (s.hostWrite a b).quads = s.quads := rfl

/-! ### setQueue -/

@[simp] theorem setQueue_cur (s : State) (q : Nat) (x : Queue) : (s.setQueue q x).cur = s.cur := rfl
@[simp] theorem setQueue_iword (s : State) (q : Nat) (x : Queue) : (s.setQueue q x).iword = s.iword := rfl
@[simp] theorem setQueue_fibres (s : State) (q : Nat) (x : Queue) : (s.setQueue q x).fibres = s.fibres := rfl
@[simp] theorem setQueue_slots (s : State) (q : Nat) (x : Queue) : (s.setQueue q x).slots = s.slots := rfl
@[simp] theorem setQueue_groups (s : State) (q : Nat) (x : Queue) : (s.setQueue q x).groups = s.groups := rfl
@[simp] theorem setQueue_sched (s : State) (q : Nat) (x : Queue) : (s.setQueue q x).sched = s.sched := rfl
@[simp] theorem setQueue_co (s : State) (q : Nat) (x : Queue) : (s.setQueue q x).co = s.co := rfl
@[simp] theorem setQueue_eng (s : State) (q : Nat) (x : Queue) : (s.setQueue q x).eng = s.eng := rfl
@[simp] theorem setQueue_mem (s : State) (q : Nat) (x : Queue) : (s.setQueue q x).mem = s.mem := rfl
@[simp] theorem setQueue_clr (s : State) (q : Nat) (x : Queue) : (s.setQueue q x).clr = s.clr := rfl
@[simp] theorem setQueue_xl (s : State) (q : Nat) (x : Queue) : (s.setQueue q x).xl = s.xl := rfl
@[simp] theorem setQueue_reg (s : State) (q : Nat) (x : Queue) : (s.setQueue q x).reg = s.reg := rfl
@[simp] theorem setQueue_clk (s : State) (q : Nat) (x : Queue) : (s.setQueue q x).clk = s.clk := rfl
@[simp] theorem setQueue_gated (s : State) (q : Nat) (x : Queue) : (s.setQueue q x).gated = s.gated := rfl
@[simp] theorem setQueue_tripped (s : State) (q : Nat) (x : Queue) : (s.setQueue q x).tripped = s.tripped := rfl
@[simp] theorem setQueue_fw (s : State) (q : Nat) (x : Queue) : (s.setQueue q x).fw = s.fw := rfl
@[simp] theorem setQueue_fresh (s : State) (q : Nat) (x : Queue) : (s.setQueue q x).fresh = s.fresh := rfl
@[simp] theorem setQueue_draws (s : State) (q : Nat) (x : Queue) : (s.setQueue q x).draws = s.draws := rfl
@[simp] theorem setQueue_turns (s : State) (q : Nat) (x : Queue) : (s.setQueue q x).turns = s.turns := rfl
@[simp] theorem setQueue_quads (s : State) (q : Nat) (x : Queue) : (s.setQueue q x).quads = s.quads := rfl

/-! ### await -/

@[simp] theorem await_cur (s : State) (q : Nat) (t : Word) (w : Waiting) : (s.await q t w).cur = s.cur := rfl
@[simp] theorem await_iword (s : State) (q : Nat) (t : Word) (w : Waiting) : (s.await q t w).iword = s.iword := rfl
@[simp] theorem await_fibres (s : State) (q : Nat) (t : Word) (w : Waiting) : (s.await q t w).fibres = s.fibres := rfl
@[simp] theorem await_slots (s : State) (q : Nat) (t : Word) (w : Waiting) : (s.await q t w).slots = s.slots := rfl
@[simp] theorem await_groups (s : State) (q : Nat) (t : Word) (w : Waiting) : (s.await q t w).groups = s.groups := rfl
@[simp] theorem await_sched (s : State) (q : Nat) (t : Word) (w : Waiting) : (s.await q t w).sched = s.sched := rfl
@[simp] theorem await_co (s : State) (q : Nat) (t : Word) (w : Waiting) : (s.await q t w).co = s.co := rfl
@[simp] theorem await_eng (s : State) (q : Nat) (t : Word) (w : Waiting) : (s.await q t w).eng = s.eng := rfl
@[simp] theorem await_mem (s : State) (q : Nat) (t : Word) (w : Waiting) : (s.await q t w).mem = s.mem := rfl
@[simp] theorem await_clr (s : State) (q : Nat) (t : Word) (w : Waiting) : (s.await q t w).clr = s.clr := rfl
@[simp] theorem await_xl (s : State) (q : Nat) (t : Word) (w : Waiting) : (s.await q t w).xl = s.xl := rfl
@[simp] theorem await_reg (s : State) (q : Nat) (t : Word) (w : Waiting) : (s.await q t w).reg = s.reg := rfl
@[simp] theorem await_clk (s : State) (q : Nat) (t : Word) (w : Waiting) : (s.await q t w).clk = s.clk := rfl
@[simp] theorem await_gated (s : State) (q : Nat) (t : Word) (w : Waiting) : (s.await q t w).gated = s.gated := rfl
@[simp] theorem await_tripped (s : State) (q : Nat) (t : Word) (w : Waiting) : (s.await q t w).tripped = s.tripped := rfl
@[simp] theorem await_fw (s : State) (q : Nat) (t : Word) (w : Waiting) : (s.await q t w).fw = s.fw := rfl
@[simp] theorem await_fresh (s : State) (q : Nat) (t : Word) (w : Waiting) : (s.await q t w).fresh = s.fresh := rfl
@[simp] theorem await_draws (s : State) (q : Nat) (t : Word) (w : Waiting) : (s.await q t w).draws = s.draws := rfl
@[simp] theorem await_turns (s : State) (q : Nat) (t : Word) (w : Waiting) : (s.await q t w).turns = s.turns := rfl
@[simp] theorem await_quads (s : State) (q : Nat) (t : Word) (w : Waiting) : (s.await q t w).quads = s.quads := rfl

/-! ### setRcb -/

@[simp] theorem setRcb_cur (s : State) (n : Nat) (r : Rcb) : (s.setRcb n r).cur = s.cur := rfl
@[simp] theorem setRcb_iword (s : State) (n : Nat) (r : Rcb) : (s.setRcb n r).iword = s.iword := rfl
@[simp] theorem setRcb_fibres (s : State) (n : Nat) (r : Rcb) : (s.setRcb n r).fibres = s.fibres := rfl
@[simp] theorem setRcb_slots (s : State) (n : Nat) (r : Rcb) : (s.setRcb n r).slots = s.slots := rfl
@[simp] theorem setRcb_groups (s : State) (n : Nat) (r : Rcb) : (s.setRcb n r).groups = s.groups := rfl
@[simp] theorem setRcb_co (s : State) (n : Nat) (r : Rcb) : (s.setRcb n r).co = s.co := rfl
@[simp] theorem setRcb_eng (s : State) (n : Nat) (r : Rcb) : (s.setRcb n r).eng = s.eng := rfl
@[simp] theorem setRcb_mem (s : State) (n : Nat) (r : Rcb) : (s.setRcb n r).mem = s.mem := rfl
@[simp] theorem setRcb_clr (s : State) (n : Nat) (r : Rcb) : (s.setRcb n r).clr = s.clr := rfl
@[simp] theorem setRcb_xl (s : State) (n : Nat) (r : Rcb) : (s.setRcb n r).xl = s.xl := rfl
@[simp] theorem setRcb_reg (s : State) (n : Nat) (r : Rcb) : (s.setRcb n r).reg = s.reg := rfl
@[simp] theorem setRcb_io (s : State) (n : Nat) (r : Rcb) : (s.setRcb n r).io = s.io := rfl
@[simp] theorem setRcb_clk (s : State) (n : Nat) (r : Rcb) : (s.setRcb n r).clk = s.clk := rfl
@[simp] theorem setRcb_gated (s : State) (n : Nat) (r : Rcb) : (s.setRcb n r).gated = s.gated := rfl
@[simp] theorem setRcb_tripped (s : State) (n : Nat) (r : Rcb) : (s.setRcb n r).tripped = s.tripped := rfl
@[simp] theorem setRcb_fw (s : State) (n : Nat) (r : Rcb) : (s.setRcb n r).fw = s.fw := rfl
@[simp] theorem setRcb_fresh (s : State) (n : Nat) (r : Rcb) : (s.setRcb n r).fresh = s.fresh := rfl
@[simp] theorem setRcb_draws (s : State) (n : Nat) (r : Rcb) : (s.setRcb n r).draws = s.draws := rfl
@[simp] theorem setRcb_turns (s : State) (n : Nat) (r : Rcb) : (s.setRcb n r).turns = s.turns := rfl
@[simp] theorem setRcb_quads (s : State) (n : Nat) (r : Rcb) : (s.setRcb n r).quads = s.quads := rfl

/-! ### modLaunch -/

@[simp] theorem modLaunch_cur (s : State) (n : Nat) (g : Launch → Launch) : (s.modLaunch n g).cur = s.cur := rfl
@[simp] theorem modLaunch_iword (s : State) (n : Nat) (g : Launch → Launch) : (s.modLaunch n g).iword = s.iword := rfl
@[simp] theorem modLaunch_fibres (s : State) (n : Nat) (g : Launch → Launch) : (s.modLaunch n g).fibres = s.fibres := rfl
@[simp] theorem modLaunch_slots (s : State) (n : Nat) (g : Launch → Launch) : (s.modLaunch n g).slots = s.slots := rfl
@[simp] theorem modLaunch_groups (s : State) (n : Nat) (g : Launch → Launch) : (s.modLaunch n g).groups = s.groups := rfl
@[simp] theorem modLaunch_co (s : State) (n : Nat) (g : Launch → Launch) : (s.modLaunch n g).co = s.co := rfl
@[simp] theorem modLaunch_eng (s : State) (n : Nat) (g : Launch → Launch) : (s.modLaunch n g).eng = s.eng := rfl
@[simp] theorem modLaunch_mem (s : State) (n : Nat) (g : Launch → Launch) : (s.modLaunch n g).mem = s.mem := rfl
@[simp] theorem modLaunch_clr (s : State) (n : Nat) (g : Launch → Launch) : (s.modLaunch n g).clr = s.clr := rfl
@[simp] theorem modLaunch_xl (s : State) (n : Nat) (g : Launch → Launch) : (s.modLaunch n g).xl = s.xl := rfl
@[simp] theorem modLaunch_reg (s : State) (n : Nat) (g : Launch → Launch) : (s.modLaunch n g).reg = s.reg := rfl
@[simp] theorem modLaunch_io (s : State) (n : Nat) (g : Launch → Launch) : (s.modLaunch n g).io = s.io := rfl
@[simp] theorem modLaunch_clk (s : State) (n : Nat) (g : Launch → Launch) : (s.modLaunch n g).clk = s.clk := rfl
@[simp] theorem modLaunch_gated (s : State) (n : Nat) (g : Launch → Launch) : (s.modLaunch n g).gated = s.gated := rfl
@[simp] theorem modLaunch_tripped (s : State) (n : Nat) (g : Launch → Launch) : (s.modLaunch n g).tripped = s.tripped := rfl
@[simp] theorem modLaunch_fw (s : State) (n : Nat) (g : Launch → Launch) : (s.modLaunch n g).fw = s.fw := rfl
@[simp] theorem modLaunch_fresh (s : State) (n : Nat) (g : Launch → Launch) : (s.modLaunch n g).fresh = s.fresh := rfl
@[simp] theorem modLaunch_draws (s : State) (n : Nat) (g : Launch → Launch) : (s.modLaunch n g).draws = s.draws := rfl
@[simp] theorem modLaunch_turns (s : State) (n : Nat) (g : Launch → Launch) : (s.modLaunch n g).turns = s.turns := rfl
@[simp] theorem modLaunch_quads (s : State) (n : Nat) (g : Launch → Launch) : (s.modLaunch n g).quads = s.quads := rfl

/-! ### drew -/

@[simp] theorem drew_cur (s : State) (n : Nat) : (s.drew n).cur = s.cur := rfl
@[simp] theorem drew_iword (s : State) (n : Nat) : (s.drew n).iword = s.iword := rfl
@[simp] theorem drew_fibres (s : State) (n : Nat) : (s.drew n).fibres = s.fibres := rfl
@[simp] theorem drew_slots (s : State) (n : Nat) : (s.drew n).slots = s.slots := rfl
@[simp] theorem drew_groups (s : State) (n : Nat) : (s.drew n).groups = s.groups := rfl
@[simp] theorem drew_sched (s : State) (n : Nat) : (s.drew n).sched = s.sched := rfl
@[simp] theorem drew_co (s : State) (n : Nat) : (s.drew n).co = s.co := rfl
@[simp] theorem drew_eng (s : State) (n : Nat) : (s.drew n).eng = s.eng := rfl
@[simp] theorem drew_mem (s : State) (n : Nat) : (s.drew n).mem = s.mem := rfl
@[simp] theorem drew_clr (s : State) (n : Nat) : (s.drew n).clr = s.clr := rfl
@[simp] theorem drew_xl (s : State) (n : Nat) : (s.drew n).xl = s.xl := rfl
@[simp] theorem drew_reg (s : State) (n : Nat) : (s.drew n).reg = s.reg := rfl
@[simp] theorem drew_io (s : State) (n : Nat) : (s.drew n).io = s.io := rfl
@[simp] theorem drew_clk (s : State) (n : Nat) : (s.drew n).clk = s.clk := rfl
@[simp] theorem drew_gated (s : State) (n : Nat) : (s.drew n).gated = s.gated := rfl
@[simp] theorem drew_tripped (s : State) (n : Nat) : (s.drew n).tripped = s.tripped := rfl
@[simp] theorem drew_fw (s : State) (n : Nat) : (s.drew n).fw = s.fw := rfl
@[simp] theorem drew_fresh (s : State) (n : Nat) : (s.drew n).fresh = s.fresh := rfl
@[simp] theorem drew_turns (s : State) (n : Nat) : (s.drew n).turns = s.turns := rfl
@[simp] theorem drew_quads (s : State) (n : Nat) : (s.drew n).quads = s.quads := rfl

/-! ### setS -/

@[simp] theorem setS_st (f : Fibre) (k : Nat) (v : Dword) : (f.setS k v).st = f.st := rfl
@[simp] theorem setS_pc (f : Fibre) (k : Nat) (v : Dword) : (f.setS k v).pc = f.pc := rfl
@[simp] theorem setS_exec (f : Fibre) (k : Nat) (v : Dword) : (f.setS k v).exec = f.exec := rfl
@[simp] theorem setS_stack (f : Fibre) (k : Nat) (v : Dword) : (f.setS k v).stack = f.stack := rfl
@[simp] theorem setS_pred (f : Fibre) (k : Nat) (v : Dword) : (f.setS k v).pred = f.pred := rfl
@[simp] theorem setS_mode (f : Fibre) (k : Nat) (v : Dword) : (f.setS k v).mode = f.mode := rfl
@[simp] theorem setS_cf (f : Fibre) (k : Nat) (v : Dword) : (f.setS k v).cf = f.cf := rfl
@[simp] theorem setS_lr (f : Fibre) (k : Nat) (v : Dword) : (f.setS k v).lr = f.lr := rfl
@[simp] theorem setS_issued (f : Fibre) (k : Nat) (v : Dword) : (f.setS k v).issued = f.issued := rfl
@[simp] theorem setS_wdesc (f : Fibre) (k : Nat) (v : Dword) : (f.setS k v).wdesc = f.wdesc := rfl
@[simp] theorem setS_ring (f : Fibre) (k : Nat) (v : Dword) : (f.setS k v).ring = f.ring := rfl
@[simp] theorem setS_ctr (f : Fibre) (k : Nat) (v : Dword) : (f.setS k v).ctr = f.ctr := rfl
@[simp] theorem setS_cede (f : Fibre) (k : Nat) (v : Dword) : (f.setS k v).cede = f.cede := rfl
@[simp] theorem setS_inHandler (f : Fibre) (k : Nat) (v : Dword) : (f.setS k v).inHandler = f.inHandler := rfl
@[simp] theorem setS_hidden (f : Fibre) (k : Nat) (v : Dword) : (f.setS k v).hidden = f.hidden := rfl
@[simp] theorem setS_region (f : Fibre) (k : Nat) (v : Dword) : (f.setS k v).region = f.region := rfl
@[simp] theorem setS_asid (f : Fibre) (k : Nat) (v : Dword) : (f.setS k v).asid = f.asid := rfl
@[simp] theorem setS_lid (f : Fibre) (k : Nat) (v : Dword) : (f.setS k v).lid = f.lid := rfl
@[simp] theorem setS_group (f : Fibre) (k : Nat) (v : Dword) : (f.setS k v).group = f.group := rfl
@[simp] theorem setS_launch (f : Fibre) (k : Nat) (v : Dword) : (f.setS k v).launch = f.launch := rfl
@[simp] theorem setS_fstat (f : Fibre) (k : Nat) (v : Dword) : (f.setS k v).fstat = f.fstat := rfl

/-! ### addFlags -/

@[simp] theorem addFlags_st (f : Fibre) (x : Nat) : (f.addFlags x).st = f.st := rfl
@[simp] theorem addFlags_pc (f : Fibre) (x : Nat) : (f.addFlags x).pc = f.pc := rfl
@[simp] theorem addFlags_exec (f : Fibre) (x : Nat) : (f.addFlags x).exec = f.exec := rfl
@[simp] theorem addFlags_stack (f : Fibre) (x : Nat) : (f.addFlags x).stack = f.stack := rfl
@[simp] theorem addFlags_pred (f : Fibre) (x : Nat) : (f.addFlags x).pred = f.pred := rfl
@[simp] theorem addFlags_mode (f : Fibre) (x : Nat) : (f.addFlags x).mode = f.mode := rfl
@[simp] theorem addFlags_cf (f : Fibre) (x : Nat) : (f.addFlags x).cf = f.cf := rfl
@[simp] theorem addFlags_lr (f : Fibre) (x : Nat) : (f.addFlags x).lr = f.lr := rfl
@[simp] theorem addFlags_issued (f : Fibre) (x : Nat) : (f.addFlags x).issued = f.issued := rfl
@[simp] theorem addFlags_wdesc (f : Fibre) (x : Nat) : (f.addFlags x).wdesc = f.wdesc := rfl
@[simp] theorem addFlags_ring (f : Fibre) (x : Nat) : (f.addFlags x).ring = f.ring := rfl
@[simp] theorem addFlags_ctr (f : Fibre) (x : Nat) : (f.addFlags x).ctr = f.ctr := rfl
@[simp] theorem addFlags_cede (f : Fibre) (x : Nat) : (f.addFlags x).cede = f.cede := rfl
@[simp] theorem addFlags_inHandler (f : Fibre) (x : Nat) : (f.addFlags x).inHandler = f.inHandler := rfl
@[simp] theorem addFlags_hidden (f : Fibre) (x : Nat) : (f.addFlags x).hidden = f.hidden := rfl
@[simp] theorem addFlags_region (f : Fibre) (x : Nat) : (f.addFlags x).region = f.region := rfl
@[simp] theorem addFlags_asid (f : Fibre) (x : Nat) : (f.addFlags x).asid = f.asid := rfl
@[simp] theorem addFlags_lid (f : Fibre) (x : Nat) : (f.addFlags x).lid = f.lid := rfl
@[simp] theorem addFlags_group (f : Fibre) (x : Nat) : (f.addFlags x).group = f.group := rfl
@[simp] theorem addFlags_launch (f : Fibre) (x : Nat) : (f.addFlags x).launch = f.launch := rfl
@[simp] theorem addFlags_sreg (f : Fibre) (x : Nat) : (f.addFlags x).sreg = f.sreg := rfl

/-! ### Registers -/

/-- A scalar reads what was written last. -/
@[simp] theorem s_setS (f : Fibre) (n k : Nat) (v : Dword) : (f.setS n v).s k = if k = n then v else f.s k := by
  simp only [Fibre.s, Fibre.setS]
  exact Sparse.get_set 0 f.sreg n k v

@[simp] theorem s_addFlags (f : Fibre) (k x : Nat) : (f.addFlags x).s k = f.s k := rfl

/-- A predicate reads what was written last; p7 is all ones. -/
theorem p_setP (f : Fibre) (n k : Nat) (v : Word) :
    (f.setP n v).p k = if k = 7 then BitVec.allOnes 32 else if k = n then v else f.p k := by
  simp only [Fibre.p, Fibre.setP]
  split
  · rfl
  · split <;> rename_i h
    · subst h; rw [if_neg (by assumption)]
    · exact Sparse.get_set 0 f.pred n k v

/-! ### choseSlot -/

@[simp] theorem choseSlot_cur (s : State) (n : Nat) : (s.choseSlot n).cur = s.cur := rfl
@[simp] theorem choseSlot_iword (s : State) (n : Nat) : (s.choseSlot n).iword = s.iword := rfl
@[simp] theorem choseSlot_fibres (s : State) (n : Nat) : (s.choseSlot n).fibres = s.fibres := rfl
@[simp] theorem choseSlot_slots (s : State) (n : Nat) : (s.choseSlot n).slots = s.slots := rfl
@[simp] theorem choseSlot_groups (s : State) (n : Nat) : (s.choseSlot n).groups = s.groups := rfl
@[simp] theorem choseSlot_sched (s : State) (n : Nat) : (s.choseSlot n).sched = s.sched := rfl
@[simp] theorem choseSlot_co (s : State) (n : Nat) : (s.choseSlot n).co = s.co := rfl
@[simp] theorem choseSlot_eng (s : State) (n : Nat) : (s.choseSlot n).eng = s.eng := rfl
@[simp] theorem choseSlot_mem (s : State) (n : Nat) : (s.choseSlot n).mem = s.mem := rfl
@[simp] theorem choseSlot_clr (s : State) (n : Nat) : (s.choseSlot n).clr = s.clr := rfl
@[simp] theorem choseSlot_xl (s : State) (n : Nat) : (s.choseSlot n).xl = s.xl := rfl
@[simp] theorem choseSlot_reg (s : State) (n : Nat) : (s.choseSlot n).reg = s.reg := rfl
@[simp] theorem choseSlot_io (s : State) (n : Nat) : (s.choseSlot n).io = s.io := rfl
@[simp] theorem choseSlot_clk (s : State) (n : Nat) : (s.choseSlot n).clk = s.clk := rfl
@[simp] theorem choseSlot_gated (s : State) (n : Nat) : (s.choseSlot n).gated = s.gated := rfl
@[simp] theorem choseSlot_tripped (s : State) (n : Nat) : (s.choseSlot n).tripped = s.tripped := rfl
@[simp] theorem choseSlot_fw (s : State) (n : Nat) : (s.choseSlot n).fw = s.fw := rfl
@[simp] theorem choseSlot_fresh (s : State) (n : Nat) : (s.choseSlot n).fresh = s.fresh := rfl
@[simp] theorem choseSlot_draws (s : State) (n : Nat) : (s.choseSlot n).draws = s.draws := rfl
@[simp] theorem choseSlot_turns (s : State) (n : Nat) : (s.choseSlot n).turns = s.turns := rfl

end Sys2Proof.Machine
end

