-- ==== Sys2Proof/Laws/Issue.lean ====
section
/-! SUPPORT. How an instruction of the fibre in issue runs: reading and writing fibres, the guard of the
scoreboard, and the ends of an instruction. -/

namespace Sys2Proof.Machine

/-! ### Fibres -/

@[simp] theorem fibre_setFibre (s : State) (l k : Nat) (f : Fibre) :
    (s.setFibre l f).fibre k = if k = l then some f else s.fibre k := by
  simp only [State.fibre, State.setFibre, Sparse.find_put]

theorem modFibre_of_fibre {s : State} {l : Nat} {f : Fibre} (g : Fibre → Fibre) (h : s.fibre l = some f) :
    s.modFibre l g = s.setFibre l (g f) := by
  simp only [State.fibre] at h
  simp only [State.modFibre, State.setFibre, Sparse.adjust, h]

theorem modFibre_of_none {s : State} {l : Nat} (g : Fibre → Fibre) (h : s.fibre l = none) : s.modFibre l g = s := by
  simp only [State.fibre] at h
  simp only [State.modFibre, Sparse.adjust, h]

theorem fibre_modFibre (s : State) (l k : Nat) (g : Fibre → Fibre) :
    (s.modFibre l g).fibre k = if k = l then (s.fibre l).map g else s.fibre k := by
  simp only [State.fibre, State.modFibre, Sparse.find_adjust]

@[simp] theorem setFibre_setFibre (s : State) (l : Nat) (f g : Fibre) :
    (s.setFibre l f).setFibre l g = s.setFibre l g := by
  simp only [State.setFibre, Sparse.put_put]

/-! ### Running an instruction -/

theorem runFibre_of {s : State} {f : Fibre} (body : Fibre → Act) (h : Issues s f) :
    runFibre s body = .next ((body f).finish s) := by
  simp only [Issues] at h
  simp only [runFibre, withFibre, h]

theorem guardBusy_of {s : State} {l : List Res} (a : Act) (h : Settled s l) : guardBusy s l a = a := by
  simp only [Settled] at h
  simp only [guardBusy, h, Bool.false_eq_true, if_false]

theorem guardBusy_stall {s : State} {l : List Res} (a : Act) (h : s.busy s.cur l = true) :
    guardBusy s l a = .stall := by
  simp only [guardBusy, h, if_true]

theorem scalarOp_of {s : State} {f : Fibre} {regs : List Nat} (body : Fibre → Act) (h : Issues s f)
    (hs : Settled s (resS s.cur regs)) : scalarOp s regs body = .next ((body f).finish s) := by
  simp only [scalarOp, runFibre_of _ h, guardBusy_of _ hs]

theorem scalarOp_stall {s : State} {f : Fibre} {regs : List Nat} (body : Fibre → Act) (h : Issues s f)
    (hs : s.busy s.cur (resS s.cur regs) = true) : scalarOp s regs body = .next s.stall := by
  simp only [scalarOp, runFibre_of _ h, guardBusy_stall _ hs, Act.finish]

/-- An instruction that changes its fibre and issues. -/
theorem done_modFibre {s : State} {f : Fibre} (g : Fibre → Fibre) (h : Issues s f) :
    (.next ((Act.done (s.modFibre s.cur g)).finish s) : Out) = became s (g f) := by
  simp only [Act.finish, became, modFibre_of_fibre g h]

/-- An instruction that changes nothing and issues. -/
theorem done_self {s : State} {f : Fibre} (h : Issues s f) : (.next ((Act.done s).finish s) : Out) = became s f := by
  have h' : s.fibre s.cur = some f := h
  simp only [Act.finish, became, State.retire, State.retireTo, h', fibre_setFibre, setFibre_cur, if_true,
    setFibre_setFibre]

/-- An instruction that changes nothing and goes on elsewhere. -/
theorem jump_self {s : State} {f : Fibre} (pc : BitVec 48) (h : Issues s f) :
    (.next ((Act.jump s pc).finish s) : Out) = wentTo s f pc := by
  have h' : s.fibre s.cur = some f := h
  simp only [Act.finish, wentTo, State.retireTo, h', fibre_setFibre, setFibre_cur, if_true, setFibre_setFibre]

/-- An instruction that changes its fibre and goes on elsewhere. -/
theorem jump_modFibre {s : State} {f : Fibre} (g : Fibre → Fibre) (pc : BitVec 48) (h : Issues s f) :
    (.next ((Act.jump (s.modFibre s.cur g) pc).finish s) : Out) = wentTo s (g f) pc := by
  simp only [Act.finish, wentTo, modFibre_of_fibre g h]

/-- The clock that an instruction takes changes region control blocks only. -/
theorem countClock_eq (s : State) (r : Nat) :
    ∃ rc, s.countClock r = { s with sched := { s.sched with rcbs := rc } } := by
  unfold State.countClock
  generalize s.chain r = l
  induction l generalizing s with
  | nil => exact ⟨s.sched.rcbs, rfl⟩
  | cons a l ih =>
    simp only [List.foldl_cons]
    have one : ∀ g : Rcb → Rcb, ∃ rc, s.modRcb a g = { s with sched := { s.sched with rcbs := rc } } := by
      intro g
      unfold State.modRcb
      split
      · exact ⟨_, rfl⟩
      · exact ⟨s.sched.rcbs, rfl⟩
    obtain ⟨rc, h⟩ := one _
    rw [h]
    obtain ⟨rc2, h2⟩ := ih { s with sched := { s.sched with rcbs := rc } }
    exact ⟨rc2, h2⟩

theorem setFibre_self {s : State} {f : Fibre} (hw : s.fibres = Sparse.put s.fibres s.cur f) :
    s.setFibre s.cur f = s := by
  simp only [State.setFibre, ← hw]

/-- A list of resources is settled when each part of it is. -/
theorem settled_append {s : State} {a b : List Res} : Settled s (a ++ b) ↔ Settled s a ∧ Settled s b := by
  simp only [Settled, State.busy, List.any_append, Bool.or_eq_false_iff]

theorem settled_cons {s : State} {r : Res} {l : List Res} : Settled s (r :: l) ↔ Settled s [r] ∧ Settled s l := by
  rw [← settled_append]; rfl

/-- A list of resources is settled when a larger one is. -/
theorem settled_sub {s : State} {l m : List Res} (h : Settled s l) (hm : m ⊆ l) : Settled s m := by
  simp only [Settled, State.busy, List.any_eq_false] at h ⊢
  exact fun x hx => h x (hm hx)

/-- Nothing is watched of accesses at which no watchpoint stands. -/
theorem watchGate_none {s : State} {f : Fibre} {k : AKind} {seen : List (Nat × Nat)}
    (h : ∀ a ∈ seen, s.watched f k a.1 a.2 = false) : watchGate s f k seen = none := by
  have hs : seen.filter (fun a => s.watched f k a.1 a.2) = [] := by
    rw [List.filter_eq_nil_iff]; intro a ha; rw [h a ha]; simp
  simp only [watchGate, hs, watchLanes]

/-- A memory instruction whose operation may start issues it. -/
theorem issueLsu_of {s s0 : State} {f : Fibre} {ctr lmask opa opb dst seen body} (h : MayLaunch s f ctr seen body) :
    (.next ((issued (issueLsu s f ctr lmask opa opb dst seen body)).finish s0) : Out) =
      launched s f ctr lmask opa opb dst body := by
  obtain ⟨hi, hc, hw⟩ := h
  simp only [issueLsu, hc, watchGate_none hw, Bool.false_eq_true, if_false, State.newOp, issued, Act.finish, launched]

/-! ### The load/store unit -/

/-- An operation that is not there leaves the machine as it is. -/
theorem runLsuOn_absent {now : Nat → Bool} {s : State} {id : Nat} {r : Bool} (h : Sparse.find s.eng.ops id = none) :
    runLsuOn now s id r = s := by simp [runLsuOn, h]

/-- An operation behind an earlier access of its fibre waits (R132, R133). -/
theorem runLsuOn_waits {now : Nat → Bool} {s : State} {id : Nat} {r : Bool} {o : Op}
    (h : Sparse.find s.eng.ops id = some o) (hb : s.behindOthers id o = true) : runLsuOn now s id r = s := by
  simp [runLsuOn, h, hb]

/-- An operation that enters the load/store unit behind an earlier access draws its free value and waits. -/
theorem enterLsu_waits {s : State} {id : Nat} {o : Op} (h : Sparse.find s.eng.ops id = some o)
    (hb : s.behindOthers id o = true) : enterLsu s id = s.drew 1 :=
  runLsuOn_waits (o := o) h hb

end Sys2Proof.Machine
end

