-- ==== Sys2Proof/Laws/Memory.lean ====
section
/-! SUPPORT. Memories: reading what was written, what a physical write leaves, and the canonical form, which every
operation over memory keeps. -/

namespace Sys2Proof.Machine

/-! ### Bytes -/

/-- A byte after a write is the written one inside the written range, and the old one outside it. -/
theorem getZ_write (p : Sparse Byte) (b : List Byte) : ∀ a x, Sparse.getZ (writeBytes p a b) x =
    if a ≤ x ∧ x < a + b.length then b.getD (x - a) 0 else Sparse.getZ p x := by
  induction b generalizing p with
  | nil => intro a x; simp [writeBytes] <;> omega
  | cons h t ih =>
    intro a x
    rw [writeBytes, ih, show Sparse.getZ (Sparse.setZ p a h) x = if x = a then h else Sparse.getZ p x from
      Sparse.get_set 0 p a x h]
    simp only [List.length_cons]
    by_cases h1 : x = a
    · subst h1
      rw [if_neg (by omega), if_pos rfl, if_pos (by omega), Nat.sub_self]; rfl
    · by_cases h2 : a + 1 ≤ x ∧ x < a + 1 + t.length
      · rw [if_pos h2, if_pos (by omega), show x - a = (x - (a + 1)) + 1 by omega]; simp
      · rw [if_neg h2, if_neg h1, if_neg (by omega)]

/-- Reading a range gives the bytes that were written there. -/
theorem readBytes_write (p : Sparse Byte) (b : List Byte) (a : Nat) :
    readBytes (writeBytes p a b) a b.length = b := by
  apply List.ext_getElem
  · simp [readBytes]
  · intro i h1 h2
    simp only [readBytes, List.getElem_map, List.getElem_range, getZ_write]
    rw [if_pos (by omega), show a + i - a = i by omega]
    simp [List.getD, h2]

@[simp] theorem length_leBytes (n x : Nat) : (leBytes n x).length = n := by
  induction n generalizing x with
  | zero => rfl
  | succ n ih => simp [leBytes, ih]

/-- A physical write changes memories only. -/
theorem physWrite_mem (p : Nat) (b : List Byte) (s : State) : ∃ m, physWrite s p b = { s with mem := m } := by
  induction b generalizing s p with
  | nil => exact ⟨s.mem, rfl⟩
  | cons h t ih => obtain ⟨m, hm⟩ := ih (p + 1) _; exact ⟨m, hm⟩

/-! ### What a core sees -/

/-- Two lines of one core, or of one cluster, have different keys. -/
theorem l1Key_inj {core l1 l2 : Nat} : l1Key core l1 = l1Key core l2 ↔ l1 = l2 := by
  simp only [l1Key]; omega

/-- A dirty byte of a core after a store of one byte into its L1. -/
theorem dirtyByte_l1Write (m : Mem) (core a x : Nat) (b : Byte) :
    (m.l1Write core a b).dirtyByte core x = if x = a then some b else m.dirtyByte core x := by
  simp only [Mem.dirtyByte, Mem.ownByte, Mem.l1Write, Mem.l1Line, Sparse.find_put, l1Key_inj]
  by_cases hl : x / 128 = a / 128
  · simp only [hl, if_true, Option.bind_some, Sparse.find_put]
    by_cases hx : x = a
    · subst hx; simp
    · have : ¬ x % 128 = a % 128 := by omega
      simp only [this, if_false, hx]
      cases h : Sparse.find m.l1 (l1Key core (a / 128)) with
      | none => simp [Sparse.find]
      | some l => simp
  · have : x ≠ a := by rintro rfl; exact hl rfl
    simp only [hl, if_false, this]

/-- What a core sees after a store of one byte into its L1. -/
theorem byteFor_l1Write (m : Mem) (core a x : Nat) (b : Byte) :
    (m.l1Write core a b).byteFor core x = if x = a then b else m.byteFor core x := by
  simp only [Mem.byteFor, dirtyByte_l1Write]
  split <;> rfl

/-- A store into one core's L1 is not seen by another. -/
theorem byteFor_l1Write_other {m : Mem} {core c a x : Nat} (b : Byte) (h : c ≠ core) (ha : a < 2 ^ 39) (hx : x < 2 ^ 39) :
    (m.l1Write core a b).byteFor c x = m.byteFor c x := by
  have : l1Key c (x / 128) ≠ l1Key core (a / 128) := by simp only [l1Key]; omega
  simp only [Mem.byteFor, Mem.dirtyByte, Mem.ownByte, Mem.l1Write, Sparse.find_put, if_neg this]

/-- A noted write changes no byte. -/
@[simp] theorem byteFor_wroteAt (m : Mem) (core a x : Nat) : (m.wroteAt a).byteFor core x = m.byteFor core x := rfl

/-- What a core sees rests on its lines, those of its cluster's cache and the vault alone. -/
theorem byteFor_eq {m k : Mem} {core x : Nat} (h1 : k.l1 = m.l1) (h2 : k.ccache = m.ccache) (h3 : k.vault = m.vault) :
    k.byteFor core x = m.byteFor core x := by simp only [Mem.byteFor, Mem.dirtyByte, Mem.ownByte, h1, h2, h3]

/-- A dirty byte of a core after one of them is dropped from its line and its cluster's. -/
theorem dirtyByte_dropByte (m : Mem) (core a x : Nat) :
    (m.modLine core (a / 128) (L1Line.dropByte · (a % 128))).dirtyByte core x =
      if x = a then none else m.dirtyByte core x := by
  simp only [Mem.dirtyByte, Mem.ownByte, Mem.modLine, Sparse.find_adjust, l1Key_inj]
  by_cases hl : x / 128 = a / 128
  · simp only [hl, if_true, Option.bind_map]
    have hf : ∀ l : L1Line, Sparse.find (l.dropByte (a % 128)).bytes (x % 128) =
        if x = a then none else Sparse.find l.bytes (x % 128) := fun l => by
      simp only [L1Line.dropByte, Sparse.find_erase]
      by_cases hx : x = a
      · subst hx; simp
      · have : ¬ x % 128 = a % 128 := by omega
        simp [this, hx]
    by_cases hx : x = a
    · subst hx
      cases Sparse.find m.l1 (l1Key core (x / 128)) <;>
        cases Sparse.find m.ccache (l1Key (core / 4) (x / 128)) <;> simp [Function.comp_def, hf]
    · cases Sparse.find m.l1 (l1Key core (a / 128)) <;>
        cases Sparse.find m.ccache (l1Key (core / 4) (a / 128)) <;> simp [Function.comp_def, hf, hx]
  · have : x ≠ a := by rintro rfl; exact hl rfl
    simp only [hl, if_false, this]

/-- What a core sees after it has written one byte through to the home. -/
theorem byteFor_homeByte (m : Mem) (core a x : Nat) (b : Byte) :
    (m.homeByte (some core) (.vault a) b).byteFor core x = if x = a then b else m.byteFor core x := by
  have hz : Sparse.getZ (Sparse.setZ m.vault a b) x = if x = a then b else Sparse.getZ m.vault x :=
    Sparse.get_set 0 m.vault a x b
  have hd := dirtyByte_dropByte m core a x
  simp only [Mem.homeByte, byteFor_wroteAt]
  simp only [Mem.byteFor]
  change (Mem.dirtyByte (m.modLine core (a / 128) (L1Line.dropByte · (a % 128))) core x).getD
    (Sparse.getZ (Sparse.setZ m.vault a b) x) = _
  rw [hd, hz]
  split <;> rfl


/-! ### The canonical form -/

theorem Sparse.wf_writeBytes {m : Sparse Byte} (b : List Byte) : ∀ a, Sparse.wf (0 : Byte) m = true →
    Sparse.wf (0 : Byte) (writeBytes m a b) = true := by
  induction b generalizing m with
  | nil => intro a h; exact h
  | cons x t ih => intro a h; exact ih _ (Sparse.wf_set a x h)

theorem Sparse.mem_put {α : Type} {m : Sparse α} {n : Nat} {x : α} {e : Nat × α} (h : e ∈ Sparse.put m n x) :
    e = (n, x) ∨ e ∈ m := by
  induction m with
  | nil => simpa [Sparse.put] using h
  | cons c rest ih =>
    obtain ⟨k, v⟩ := c
    simp only [Sparse.put] at h
    split at h
    · simpa using h
    · split at h
      · simp only [List.mem_cons] at h ⊢
        exact h.imp_right .inr
      · simp only [List.mem_cons] at h ⊢
        rcases h with h | h
        · exact .inr (.inl h)
        · exact (ih h).imp_right .inr

theorem Sparse.mem_erase {α : Type} {m : Sparse α} {n : Nat} {e : Nat × α} (h : e ∈ Sparse.erase m n) : e ∈ m := by
  induction m with
  | nil => simp [Sparse.erase] at h
  | cons c rest ih =>
    obtain ⟨k, v⟩ := c
    simp only [Sparse.erase] at h
    split at h
    · exact List.mem_cons_of_mem _ (ih h)
    · simp only [List.mem_cons] at h ⊢; exact h.imp_right ih

theorem Sparse.mem_of_find {α : Type} {m : Sparse α} {n : Nat} {x : α} (h : Sparse.find m n = some x) : (n, x) ∈ m := by
  induction m with
  | nil => simp [Sparse.find] at h
  | cons c rest ih =>
    obtain ⟨k, v⟩ := c
    simp only [Sparse.find] at h
    split at h
    · simp_all
    · exact List.mem_cons_of_mem _ (ih h)

/-- The parts of the canonical form. -/
theorem Mem.wf_iff (m : Mem) : Mem.wf m = true ↔ Sparse.wf (0 : Byte) m.fabric = true ∧
    Sparse.wf (0 : Byte) m.host = true ∧ Sparse.wf (0 : Byte) m.vault = true ∧ Sparse.wf (0 : Byte) m.cscr = true ∧
    Sparse.wf (0 : BitVec 16) m.vtags = true ∧ Sparse.wf (0 : BitVec 16) m.peerTags = true ∧
    (∀ e ∈ m.l1, e.2.wf = true) ∧ ∀ e ∈ m.ccache, e.2.line.wf = true := by
  simp only [Mem.wf, Memory.wf, Bool.and_eq_true, List.all_eq_true, and_assoc]

/-- What is not a memory does not matter for the canonical form. -/
theorem Mem.wf_congr {m k : Mem} (h : Mem.wf m = true) (h1 : k.fabric = m.fabric) (h2 : k.host = m.host)
    (h3 : k.vault = m.vault) (h4 : k.cscr = m.cscr) (h5 : k.vtags = m.vtags) (h6 : k.peerTags = m.peerTags)
    (h7 : k.l1 = m.l1) (h8 : k.ccache = m.ccache) : Mem.wf k = true := by
  rw [Mem.wf_iff] at *
  rwa [h1, h2, h3, h4, h5, h6, h7, h8]

/-- The parts of a line's canonical form. -/
theorem L1Line.wf_iff (l : L1Line) : l.wf = true ↔
    (Sparse.sortedFrom none l.bytes = true ∧ ∀ e ∈ l.bytes, e.1 < 128) ∧
      Sparse.sortedFrom none l.tags = true ∧ ∀ e ∈ l.tags, e.1 < 2 := by
  simp only [L1Line.wf, Bool.and_eq_true, List.all_eq_true, decide_eq_true_eq, and_assoc]

/-- Entries below a bound, sorted, stay so when one below it is put. -/
theorem Sparse.bounded_put {α : Type} {m : Sparse α} {n k : Nat} (x : α) (hn : n < k)
    (h : Sparse.sortedFrom none m = true ∧ ∀ e ∈ m, e.1 < k) :
    Sparse.sortedFrom none (Sparse.put m n x) = true ∧ ∀ e ∈ Sparse.put m n x, e.1 < k := by
  refine ⟨Sparse.sorted_put _ _ _ none (by simp) h.1, fun e he => ?_⟩
  rcases Sparse.mem_put he with rfl | he
  · exact hn
  · exact h.2 e he

/-- As `bounded_put`, for an entry taken out. -/
theorem Sparse.bounded_erase {α : Type} {m : Sparse α} {n k : Nat}
    (h : Sparse.sortedFrom none m = true ∧ ∀ e ∈ m, e.1 < k) :
    Sparse.sortedFrom none (Sparse.erase m n) = true ∧ ∀ e ∈ Sparse.erase m n, e.1 < k :=
  ⟨Sparse.sorted_erase _ _ none h.1, fun e he => h.2 e (Sparse.mem_erase he)⟩

theorem L1Line.wf_dropByte {l : L1Line} (o : Nat) (h : l.wf = true) : (l.dropByte o).wf = true := by
  rw [L1Line.wf_iff] at *
  exact ⟨Sparse.bounded_erase h.1, h.2⟩

theorem L1Line.wf_dropTag {l : L1Line} (o : Nat) (h : l.wf = true) : (l.dropTag o).wf = true := by
  rw [L1Line.wf_iff] at *
  exact ⟨h.1, Sparse.bounded_erase h.2⟩

theorem Mem.wf_wroteAt {m : Mem} (a : Nat) (h : Mem.wf m = true) : Mem.wf (m.wroteAt a) = true :=
  Mem.wf_congr h rfl rfl rfl rfl rfl rfl rfl rfl

theorem Mem.wf_poisonLine {m : Mem} (n : Nat) (h : Mem.wf m = true) : Mem.wf (m.poisonLine n) = true :=
  Mem.wf_congr h rfl rfl rfl rfl rfl rfl rfl rfl

theorem Mem.wf_closeMergeLine {m : Mem} (n : Nat) (h : Mem.wf m = true) : Mem.wf (m.closeMergeLine n) = true :=
  Mem.wf_congr h rfl rfl rfl rfl rfl rfl rfl rfl

/-- A line of a core is in canonical form, listed or new. -/
theorem Mem.wf_l1Line {m : Mem} (core line : Nat) (h : Mem.wf m = true) : (m.l1Line core line).wf = true := by
  rw [Mem.wf_iff] at h
  unfold Mem.l1Line
  cases hf : Sparse.find m.l1 (l1Key core line) with
  | none => rfl
  | some l => exact h.2.2.2.2.2.2.1 _ (Sparse.mem_of_find hf)

/-- Putting a line in canonical form into an L1 keeps the form. -/
theorem Mem.wf_putLine {m : Mem} {l : L1Line} (k : Nat) (h : Mem.wf m = true) (hl : l.wf = true) :
    Mem.wf { m with l1 := Sparse.put m.l1 k l } = true := by
  rw [Mem.wf_iff] at *
  obtain ⟨h1, h2, h3, h4, h5, h6, h7, h8⟩ := h
  refine ⟨h1, h2, h3, h4, h5, h6, fun e he => ?_, h8⟩
  rcases Sparse.mem_put he with rfl | he
  · exact hl
  · exact h7 e he

theorem Mem.wf_l1Write {m : Mem} (core a : Nat) (b : Byte) (h : Mem.wf m = true) :
    Mem.wf (m.l1Write core a b) = true := by
  have hl := Mem.wf_l1Line core (a / 128) h
  refine Mem.wf_putLine _ h ?_
  rw [L1Line.wf_iff] at *
  exact ⟨Sparse.bounded_put b (Nat.mod_lt _ (by decide)) hl.1, hl.2⟩

theorem Mem.wf_l1Tag {m : Mem} (core a : Nat) (t : BitVec 16) (h : Mem.wf m = true) :
    Mem.wf (m.l1Tag core a t) = true := by
  have hl := Mem.wf_l1Line core (a / 128) h
  refine Mem.wf_putLine _ h ?_
  rw [L1Line.wf_iff] at *
  exact ⟨hl.1, Sparse.bounded_put t (Nat.mod_lt _ (by decide)) hl.2⟩

theorem Sparse.mem_adjust {α : Type} {m : Sparse α} {n : Nat} {f : α → α} {e : Nat × α} (h : e ∈ Sparse.adjust m n f) :
    e ∈ m ∨ ∃ x, (n, x) ∈ m ∧ e = (n, f x) := by
  simp only [Sparse.adjust] at h
  split at h
  · exact .inl h
  · next x hx =>
    rcases Sparse.mem_put h with rfl | h
    · exact .inr ⟨x, Sparse.mem_of_find hx, rfl⟩
    · exact .inl h

/-- Changing a line of a core, and its cluster's, by what keeps its form keeps the form. -/
theorem Mem.wf_modLine {m : Mem} (core line : Nat) {g : L1Line → L1Line} (hg : ∀ l : L1Line, l.wf = true → (g l).wf = true)
    (h : Mem.wf m = true) : Mem.wf (m.modLine core line g) = true := by
  rw [Mem.wf_iff] at *
  obtain ⟨h1, h2, h3, h4, h5, h6, h7, h8⟩ := h
  refine ⟨h1, h2, h3, h4, h5, h6, fun e he => ?_, fun e he => ?_⟩
  · rcases Sparse.mem_adjust he with he | ⟨l, hl, rfl⟩
    · exact h7 e he
    · exact hg _ (h7 _ hl)
  · rcases Sparse.mem_adjust he with he | ⟨c, hc, rfl⟩
    · exact h8 e he
    · exact hg _ (h8 _ hc)

/-- Writing a byte of the vault keeps the form. -/
theorem Mem.wf_setVault {m : Mem} {v : Sparse Byte} (h : Mem.wf m = true) (hv : Sparse.wf (0 : Byte) v = true) :
    Mem.wf { m with vault := v } = true := by
  rw [Mem.wf_iff] at *
  exact ⟨h.1, h.2.1, hv, h.2.2.2⟩

/-- Writing a tag of the vault keeps the form. -/
theorem Mem.wf_setTags {m : Mem} {v : Sparse (BitVec 16)} (h : Mem.wf m = true) (hv : Sparse.wf (0 : BitVec 16) v = true) :
    Mem.wf { m with vtags := v } = true := by
  rw [Mem.wf_iff] at *
  exact ⟨h.1, h.2.1, h.2.2.1, h.2.2.2.1, hv, h.2.2.2.2.2⟩

theorem Mem.vault_wf {m : Mem} (h : Mem.wf m = true) : Sparse.wf (0 : Byte) m.vault = true := ((Mem.wf_iff m).1 h).2.2.1

theorem Mem.vtags_wf {m : Mem} (h : Mem.wf m = true) : Sparse.wf (0 : BitVec 16) m.vtags = true :=
  ((Mem.wf_iff m).1 h).2.2.2.2.1

theorem Mem.wf_homeByte {m : Mem} (who : Option Nat) (p : PLoc) (b : Byte) (h : Mem.wf m = true) :
    Mem.wf (m.homeByte who p b) = true := by
  cases p with
  | vault a =>
    refine Mem.wf_wroteAt a ?_
    cases who with
    | none => exact Mem.wf_setVault h (Sparse.wf_set a b (Mem.vault_wf h))
    | some c =>
      have h1 := Mem.wf_modLine c (a / 128) (fun _ hl => L1Line.wf_dropByte (a % 128) hl) h
      exact Mem.wf_setVault h1 (Sparse.wf_set a b (Mem.vault_wf h1))
  | host a =>
    rw [Mem.wf_iff] at *
    exact ⟨h.1, Sparse.wf_set a b h.2.1, h.2.2⟩
  | peer a =>
    rw [Mem.wf_iff] at *
    exact ⟨Sparse.wf_set a b h.1, h.2⟩

theorem Mem.wf_homeWrite (who : Option Nat) (b : List Byte) : ∀ (m : Mem) (p : PLoc), Mem.wf m = true →
    Mem.wf (m.homeWrite who p b) = true := by
  induction b with
  | nil => intro m p h; exact h
  | cons x t ih => intro m p h; exact ih _ _ (Mem.wf_homeByte who p x h)

theorem Mem.wf_storeAt (core : Nat) (b : List Byte) : ∀ (m : Mem) (p : PLoc), Mem.wf m = true →
    Mem.wf (m.storeAt core p b) = true := by
  induction b with
  | nil => intro m p h; cases p <;> exact h
  | cons x t ih =>
    intro m p h
    cases p with
    | vault a => exact ih _ _ (Mem.wf_wroteAt a (Mem.wf_l1Write core a x h))
    | host a => exact ih _ _ (Mem.wf_homeByte none _ x h)
    | peer a => exact ih _ _ (Mem.wf_homeByte none _ x h)

theorem Mem.wf_homeTag {m : Mem} (who : Option Nat) (p : PLoc) (t : BitVec 16) (h : Mem.wf m = true) :
    Mem.wf (m.homeTag who p t) = true := by
  cases p with
  | vault a =>
    refine Mem.wf_wroteAt a ?_
    cases who with
    | none => exact Mem.wf_setTags h (Sparse.wf_set _ t (Mem.vtags_wf h))
    | some c =>
      have h1 := Mem.wf_modLine c (a / 128) (fun _ hl => L1Line.wf_dropTag (a / 64 % 2) hl) h
      exact Mem.wf_setTags h1 (Sparse.wf_set _ t (Mem.vtags_wf h1))
  | host a => exact h
  | peer a =>
    rw [Mem.wf_iff] at *
    obtain ⟨h1, h2, h3, h4, h5, h6, h7⟩ := h
    exact ⟨h1, h2, h3, h4, h5, Sparse.wf_set _ t h6, h7⟩

theorem Mem.wf_tagStore {m : Mem} (core : Nat) (p : PLoc) (t : BitVec 16) (h : Mem.wf m = true) :
    Mem.wf (m.tagStore core p t) = true := by
  cases p with
  | vault a => exact Mem.wf_wroteAt a (Mem.wf_l1Tag core a t h)
  | host a => exact Mem.wf_homeTag none _ t h
  | peer a => exact Mem.wf_homeTag none _ t h

theorem Mem.wf_cscrWrite {m : Mem} (a : Nat) (b : List Byte) (h : Mem.wf m = true) :
    Mem.wf (m.cscrWrite a b) = true := by
  rw [Mem.wf_iff] at *
  obtain ⟨h1, h2, h3, h4, h5, h6, h7⟩ := h
  exact ⟨h1, h2, h3, Sparse.wf_writeBytes b a h4, h5, h6, h7⟩

/-- Folding an operation that keeps the canonical form keeps it. -/
theorem Mem.wf_foldl {α : Type} {f : Mem → α → Mem} (hf : ∀ m x, Mem.wf m = true → Mem.wf (f m x) = true)
    (l : List α) : ∀ m, Mem.wf m = true → Mem.wf (l.foldl f m) = true := by
  induction l with
  | nil => intro m h; exact h
  | cons x t ih => intro m h; exact ih _ (hf m x h)

theorem wf_putDirty {m : Sparse Byte} (b : Sparse Byte) : ∀ a, Sparse.wf (0 : Byte) m = true →
    Sparse.wf (0 : Byte) (putDirty m a b) = true := by
  induction b with
  | nil => intro a h; exact h
  | cons e t ih => intro a h; exact Sparse.wf_set _ _ (ih a h)

theorem wf_putTags {m : Sparse (BitVec 16)} (b : Sparse (BitVec 16)) : ∀ a, Sparse.wf (0 : BitVec 16) m = true →
    Sparse.wf (0 : BitVec 16) (putTags m a b) = true := by
  induction b with
  | nil => intro a h; exact h
  | cons e t ih => intro a h; exact Sparse.wf_set _ _ (ih a h)

theorem Mem.wf_atHome {m : Mem} (line : Nat) (w : Bool) (h : Mem.wf m = true) : Mem.wf (m.atHome line w) = true :=
  Mem.wf_congr h rfl rfl rfl rfl rfl rfl rfl rfl

theorem Mem.wf_dropCopy {m : Mem} (core line : Nat) (h : Mem.wf m = true) : Mem.wf (m.dropCopy core line) = true :=
  Mem.wf_congr h rfl rfl rfl rfl rfl rfl rfl rfl

theorem Mem.wf_closeMerge {m : Mem} (cluster line : Nat) (h : Mem.wf m = true) :
    Mem.wf (m.closeMerge cluster line) = true := Mem.wf_congr h rfl rfl rfl rfl rfl rfl rfl rfl

theorem Mem.wf_untrack {m : Mem} (line : Nat) (h : Mem.wf m = true) : Mem.wf (m.untrack line) = true :=
  Mem.wf_congr h rfl rfl rfl rfl rfl rfl rfl rfl

theorem Mem.wf_putHome {m : Mem} (line : Nat) (l : L1Line) (h : Mem.wf m = true) : Mem.wf (m.putHome line l) = true := by
  have h1 := Mem.wf_setTags (Mem.wf_setVault h (wf_putDirty l.bytes (line * 128) (Mem.vault_wf h)))
    (wf_putTags l.tags (line * 2) (Mem.vtags_wf h))
  have h2 := Mem.wf_foldl (f := fun acc (e : Nat × Byte) => acc.wroteAt (line * 128 + e.1))
    (fun _ _ hm => Mem.wf_wroteAt _ hm) l.bytes _ h1
  have h3 := Mem.wf_foldl (f := fun acc (e : Nat × BitVec 16) => acc.wroteAt (line * 128 + e.1 * 64))
    (fun _ _ hm => Mem.wf_wroteAt _ hm) l.tags _ h2
  simp only [Mem.putHome]
  refine Mem.wf_atHome line true ?_
  split
  · exact Mem.wf_poisonLine line h3
  · exact h3

/-- A cluster's cache without a line keeps the form. -/
theorem Mem.wf_eraseCc {m : Mem} (k : Nat) (u : List Nat) (h : Mem.wf m = true) :
    Mem.wf { m with ccache := Sparse.erase m.ccache k, ccUse := u } = true := by
  rw [Mem.wf_iff] at *
  obtain ⟨h1, h2, h3, h4, h5, h6, h7, h8⟩ := h
  exact ⟨h1, h2, h3, h4, h5, h6, h7, fun e he => h8 e (Sparse.mem_erase he)⟩

theorem Mem.wf_ccOut {m : Mem} (cluster line : Nat) (h : Mem.wf m = true) : Mem.wf (m.ccOut cluster line) = true := by
  simp only [Mem.ccOut]
  split
  · exact h
  · have h1 := Mem.wf_eraseCc (l1Key cluster line) (m.ccUse.erase (l1Key cluster line)) h
    split
    · exact h1
    · exact Mem.wf_closeMerge cluster line (Mem.wf_putHome line _ h1)

/-- An L1 without a line keeps the form. -/
theorem Mem.wf_eraseL1 {m : Mem} (k : Nat) (h : Mem.wf m = true) :
    Mem.wf { m with l1 := Sparse.erase m.l1 k } = true := by
  rw [Mem.wf_iff] at *
  obtain ⟨h1, h2, h3, h4, h5, h6, h7, h8⟩ := h
  exact ⟨h1, h2, h3, h4, h5, h6, fun e he => h7 e (Sparse.mem_erase he), h8⟩

theorem Mem.wf_writeBack {m : Mem} (core line : Nat) (h : Mem.wf m = true) : Mem.wf (m.writeBack core line) = true := by
  have h0 := Mem.wf_dropCopy core line (Mem.wf_ccOut (core / 4) line h)
  unfold Mem.writeBack
  extract_lets m1
  change Mem.wf m1 = true at h0
  clear_value m1
  split
  · exact h0
  · exact Mem.wf_closeMerge _ line (Mem.wf_putHome line _ (Mem.wf_eraseL1 _ h0))

theorem Mem.wf_ccFlush {m : Mem} (cluster : Nat) (h : Mem.wf m = true) : Mem.wf (m.ccFlush cluster) = true :=
  Mem.wf_foldl (fun _ _ hm => Mem.wf_ccOut _ _ hm) _ _ h

theorem Mem.wf_writeBackAll {m : Mem} (core : Nat) (h : Mem.wf m = true) : Mem.wf (m.writeBackAll core) = true :=
  Mem.wf_foldl (fun _ _ hm => Mem.wf_writeBack _ _ hm) _ _ (Mem.wf_ccFlush _ h)

theorem Mem.wf_drain {m : Mem} (k : Mark) (h : Mem.wf m = true) : Mem.wf (m.drain k) = true := by
  refine Mem.wf_foldl (fun m x hm => ?_) _ _ (Mem.wf_ccFlush _ h)
  split
  · exact Mem.wf_writeBack _ _ hm
  · exact hm

theorem Mem.wf_recallLine {m : Mem} (line : Nat) (h : Mem.wf m = true) : Mem.wf (m.recallLine line) = true :=
  Mem.wf_untrack line (Mem.wf_foldl (fun _ _ hm => Mem.wf_writeBack _ _ hm) _ _
    (Mem.wf_foldl (fun _ _ hm => Mem.wf_ccOut _ _ hm) _ _ h))

theorem Mem.wf_recallFrame {m : Mem} (k : Nat) (h : Mem.wf m = true) : Mem.wf (m.recallFrame k) = true := by
  have h1 := Mem.wf_foldl (f := fun acc i => acc.recallLine (k * 32 + i)) (fun _ _ hm => Mem.wf_recallLine _ hm)
    (List.range 32) _ (Mem.wf_foldl (f := fun acc e => acc.drain e) (fun _ x hm => Mem.wf_drain x hm)
      ((m.marks.filter fun e => e.1 / 32 = k).flatMap (·.2)) m h)
  unfold Mem.recallFrame
  extract_lets owed m0 m1
  change Mem.wf m1 = true at h1
  clear_value m1
  exact Mem.wf_congr h1 rfl rfl rfl rfl rfl rfl rfl rfl

/-- Entries below a bound, sorted, stay so under the entries of a list below it. -/
theorem Sparse.bounded_foldl {α : Type} {k : Nat} (l : Sparse α) : ∀ m : Sparse α, (∀ e ∈ l, e.1 < k) →
    (Sparse.sortedFrom none m = true ∧ ∀ e ∈ m, e.1 < k) →
    Sparse.sortedFrom none (l.foldl (fun acc e => Sparse.put acc e.1 e.2) m) = true ∧
      ∀ e ∈ l.foldl (fun acc e => Sparse.put acc e.1 e.2) m, e.1 < k := by
  induction l with
  | nil => exact fun m _ h => h
  | cons x t ih =>
    exact fun m hl h => ih _ (fun e he => hl e (List.mem_cons_of_mem _ he))
      (Sparse.bounded_put x.2 (hl x (List.mem_cons_self ..)) h)

theorem L1Line.wf_over {l old : L1Line} (h : l.wf = true) (ho : old.wf = true) : (l.over old).wf = true := by
  rw [L1Line.wf_iff] at *
  exact ⟨Sparse.bounded_foldl _ _ h.1.2 ho.1, Sparse.bounded_foldl _ _ h.2.2 ho.2⟩

/-- A line in canonical form may enter a cluster's cache. -/
theorem Mem.wf_putCc {m : Mem} {c : CcLine} (k : Nat) (h : Mem.wf m = true) (hc : c.line.wf = true) :
    Mem.wf { m with ccache := Sparse.put m.ccache k c } = true := by
  rw [Mem.wf_iff] at *
  obtain ⟨h1, h2, h3, h4, h5, h6, h7, h8⟩ := h
  refine ⟨h1, h2, h3, h4, h5, h6, h7, fun e he => ?_⟩
  rcases Sparse.mem_put he with rfl | he
  · exact hc
  · exact h8 e he

theorem Mem.wf_ccTouch {m : Mem} (k : Nat) (h : Mem.wf m = true) : Mem.wf (m.ccTouch k) = true :=
  Mem.wf_congr h rfl rfl rfl rfl rfl rfl rfl rfl

theorem Mem.wf_ccPut {m : Mem} (cluster line : Nat) {l : L1Line} (draw : Nat) (h : Mem.wf m = true) (hl : l.wf = true) :
    Mem.wf (m.ccPut cluster line l draw) = true := by
  unfold Mem.ccPut
  extract_lets k
  split
  · next e he =>
    exact Mem.wf_ccTouch k (Mem.wf_putCc k h (L1Line.wf_over hl (((Mem.wf_iff m).1 h).2.2.2.2.2.2.2 _ (Sparse.mem_of_find he))))
  · split
    · exact Mem.wf_ccTouch k (Mem.wf_putCc k h hl)
    · split
      · next x _ =>
        have h1 := Mem.wf_ccOut cluster x.1 h
        extract_lets m1
        change Mem.wf m1 = true at h1
        clear_value m1
        exact Mem.wf_ccTouch k (Mem.wf_putCc k h1 hl)
      · exact h

theorem Mem.wf_castOut {m : Mem} (core line draw : Nat) (h : Mem.wf m = true) :
    Mem.wf (m.castOut core line draw) = true := by
  simp only [Mem.castOut]
  split
  · exact h
  · next l hl =>
    exact Mem.wf_ccPut _ _ _ (Mem.wf_eraseL1 _ h) (((Mem.wf_iff m).1 h).2.2.2.2.2.2.1 _ (Sparse.mem_of_find hl))

theorem wf_lineOut {s : State} (core line : Nat) (h : Mem.wf s.mem = true) : Mem.wf (s.lineOut core line).mem = true := by
  have h1 := Mem.wf_dropCopy core line h
  unfold State.lineOut
  extract_lets held m
  change Mem.wf m = true at h1
  clear_value m
  split
  · split
    · exact Mem.wf_writeBack core line h1
    · exact Mem.wf_castOut core line _ h1
  · split
    · exact h1
    · exact Mem.wf_writeBack core line h1

theorem Mem.wf_askHost {m : Mem} (l : List Nat) (h : Mem.wf m = true) : Mem.wf (m.askHost l) = true := by
  refine Mem.wf_foldl (fun m b hm => ?_) l m h
  split
  · exact hm
  · exact Mem.wf_congr hm rfl rfl rfl rfl rfl rfl rfl rfl

theorem Mem.wf_devWrite {m : Mem} (a : Nat) (b : Byte) (h : Mem.wf m = true) : Mem.wf (m.devWrite a b) = true := by
  simp only [Mem.devWrite]
  split
  · exact Mem.wf_homeByte none _ b h
  · exact Mem.wf_congr (Mem.wf_askHost [a / 64] h) rfl rfl rfl rfl rfl rfl rfl rfl

theorem Mem.wf_blockBack {m : Mem} (block : Nat) (h : Mem.wf m = true) : Mem.wf (m.blockBack block) = true := by
  unfold Mem.blockBack
  extract_lets mine m1
  have h1 : Mem.wf m1 = true := Mem.wf_congr h rfl rfl rfl rfl rfl rfl rfl rfl
  clear_value m1 mine
  induction mine generalizing m1 with
  | nil => exact h1
  | cons e t ih => exact ih _ (Mem.wf_homeByte none (.vault e.1) e.2 h1)

theorem wf_physWrite (b : List Byte) : ∀ (s : State) (p : Nat), Mem.wf s.mem = true →
    Mem.wf (physWrite s p b).mem = true := by
  induction b with
  | nil => intro s p h; exact h
  | cons x t ih =>
    intro s p h
    simp only [physWrite]
    refine ih _ (p + 1) ?_
    split
    · exact Mem.wf_devWrite _ x h
    · rw [Mem.wf_iff] at *
      exact ⟨Sparse.wf_set _ x h.1, h.2⟩
    · exact h

theorem wf_reset : Mem.wf State.reset.mem = true := by decide

end Sys2Proof.Machine
end

