-- ==== Sys2Proof/Laws/PerInstr.lean ====
section
/-! SUPPORT. The encoding of each instruction fits its word of 32 bits; commands and events have no word. -/

namespace Sys2Proof.Laws.Encoding

/-- The number that stands for an instruction's word has at most 32 bits (R244). -/
def Statement (i : Instr) : Prop := ∀ n, encodeNat i = some n → n < 2 ^ 32

/-- An instruction whose number is known fits its word when the number does. -/
theorem of_eq {i : Instr} {m : Nat} (h : encodeNat i = some m) (hm : m < 2 ^ 32) : Statement i := by
  intro n hn; rw [h] at hn; cases hn; exact hm

/-- A command or an event has no word. -/
theorem of_none {i : Instr} (h : encodeNat i = none) : Statement i := by
  intro n hn; rw [h] at hn; cases hn

end Sys2Proof.Laws.Encoding

theorem Sys2Proof.Laws.Encoding.nop : Sys2Proof.Laws.Encoding.Statement (.nop) :=
  Sys2Proof.Laws.Encoding.of_eq rfl (by omega)
theorem Sys2Proof.Laws.Encoding.exit : Sys2Proof.Laws.Encoding.Statement (.exit) :=
  Sys2Proof.Laws.Encoding.of_eq rfl (by omega)
theorem Sys2Proof.Laws.Encoding.trap (i : BitVec 16) : Sys2Proof.Laws.Encoding.Statement (.trap i) :=
  Sys2Proof.Laws.Encoding.of_eq rfl (by omega)
theorem Sys2Proof.Laws.Encoding.tret : Sys2Proof.Laws.Encoding.Statement (.tret) :=
  Sys2Proof.Laws.Encoding.of_eq rfl (by omega)
theorem Sys2Proof.Laws.Encoding.bkpt : Sys2Proof.Laws.Encoding.Statement (.bkpt) :=
  Sys2Proof.Laws.Encoding.of_eq rfl (by omega)
theorem Sys2Proof.Laws.Encoding.hcall (a : BitVec 6) : Sys2Proof.Laws.Encoding.Statement (.hcall a) :=
  Sys2Proof.Laws.Encoding.of_eq rfl (by omega)
theorem Sys2Proof.Laws.Encoding.yield : Sys2Proof.Laws.Encoding.Statement (.yield) :=
  Sys2Proof.Laws.Encoding.of_eq rfl (by omega)
theorem Sys2Proof.Laws.Encoding.halt : Sys2Proof.Laws.Encoding.Statement (.halt) :=
  Sys2Proof.Laws.Encoding.of_eq rfl (by omega)
theorem Sys2Proof.Laws.Encoding.cede : Sys2Proof.Laws.Encoding.Statement (.cede) :=
  Sys2Proof.Laws.Encoding.of_eq rfl (by omega)
theorem Sys2Proof.Laws.Encoding.mode (v : BitVec 24) : Sys2Proof.Laws.Encoding.Statement (.mode v) :=
  Sys2Proof.Laws.Encoding.of_eq rfl (by omega)
theorem Sys2Proof.Laws.Encoding.modeField (f : BitVec 4) (v : BitVec 6) : Sys2Proof.Laws.Encoding.Statement (.modeField f v) :=
  Sys2Proof.Laws.Encoding.of_eq rfl (by omega)
theorem Sys2Proof.Laws.Encoding.modew (a : BitVec 6) : Sys2Proof.Laws.Encoding.Statement (.modew a) :=
  Sys2Proof.Laws.Encoding.of_eq rfl (by omega)
theorem Sys2Proof.Laws.Encoding.moder (d : BitVec 6) : Sys2Proof.Laws.Encoding.Statement (.moder d) :=
  Sys2Proof.Laws.Encoding.of_eq rfl (by omega)
theorem Sys2Proof.Laws.Encoding.fstr (d : BitVec 6) : Sys2Proof.Laws.Encoding.Statement (.fstr d) :=
  Sys2Proof.Laws.Encoding.of_eq rfl (by omega)
theorem Sys2Proof.Laws.Encoding.fstw (a : BitVec 6) : Sys2Proof.Laws.Encoding.Statement (.fstw a) :=
  Sys2Proof.Laws.Encoding.of_eq rfl (by omega)
theorem Sys2Proof.Laws.Encoding.wait (l : BitVec 6) (s : BitVec 6) (c : BitVec 6) (m : BitVec 6) : Sys2Proof.Laws.Encoding.Statement (.wait l s c m) :=
  Sys2Proof.Laws.Encoding.of_eq rfl (by omega)
theorem Sys2Proof.Laws.Encoding.waitx (a : BitVec 6) (c : BitVec 3) : Sys2Proof.Laws.Encoding.Statement (.waitx a c) :=
  Sys2Proof.Laws.Encoding.of_eq rfl (by omega)
theorem Sys2Proof.Laws.Encoding.bra (c : BitVec 4) (o : BitVec 22) : Sys2Proof.Laws.Encoding.Statement (.bra c o) :=
  Sys2Proof.Laws.Encoding.of_eq rfl (by omega)
theorem Sys2Proof.Laws.Encoding.call (c : BitVec 4) (o : BitVec 22) : Sys2Proof.Laws.Encoding.Statement (.call c o) :=
  Sys2Proof.Laws.Encoding.of_eq rfl (by omega)
theorem Sys2Proof.Laws.Encoding.ifOp (p : BitVec 3) (n : BitVec 1) (o : BitVec 19) : Sys2Proof.Laws.Encoding.Statement (.ifOp p n o) :=
  Sys2Proof.Laws.Encoding.of_eq rfl (by omega)
theorem Sys2Proof.Laws.Encoding.elseOp (o : BitVec 19) : Sys2Proof.Laws.Encoding.Statement (.elseOp o) :=
  Sys2Proof.Laws.Encoding.of_eq rfl (by omega)
theorem Sys2Proof.Laws.Encoding.endif : Sys2Proof.Laws.Encoding.Statement (.endif) :=
  Sys2Proof.Laws.Encoding.of_eq rfl (by omega)
theorem Sys2Proof.Laws.Encoding.loop (o : BitVec 19) : Sys2Proof.Laws.Encoding.Statement (.loop o) :=
  Sys2Proof.Laws.Encoding.of_eq rfl (by omega)
theorem Sys2Proof.Laws.Encoding.breakOp (p : BitVec 3) (n : BitVec 1) : Sys2Proof.Laws.Encoding.Statement (.breakOp p n) :=
  Sys2Proof.Laws.Encoding.of_eq rfl (by omega)
theorem Sys2Proof.Laws.Encoding.lcont (p : BitVec 3) (n : BitVec 1) : Sys2Proof.Laws.Encoding.Statement (.lcont p n) :=
  Sys2Proof.Laws.Encoding.of_eq rfl (by omega)
theorem Sys2Proof.Laws.Encoding.endloop (p : BitVec 3) (n : BitVec 1) (o : BitVec 19) : Sys2Proof.Laws.Encoding.Statement (.endloop p n o) :=
  Sys2Proof.Laws.Encoding.of_eq rfl (by omega)
theorem Sys2Proof.Laws.Encoding.brx (a : BitVec 6) : Sys2Proof.Laws.Encoding.Statement (.brx a) :=
  Sys2Proof.Laws.Encoding.of_eq rfl (by omega)
theorem Sys2Proof.Laws.Encoding.callx (c : BitVec 4) (a : BitVec 6) : Sys2Proof.Laws.Encoding.Statement (.callx c a) :=
  Sys2Proof.Laws.Encoding.of_eq rfl (by omega)
theorem Sys2Proof.Laws.Encoding.ret (a : BitVec 6) : Sys2Proof.Laws.Encoding.Statement (.ret a) :=
  Sys2Proof.Laws.Encoding.of_eq rfl (by omega)
theorem Sys2Proof.Laws.Encoding.add (d : BitVec 6) (a : BitVec 6) (b : BitVec 6) : Sys2Proof.Laws.Encoding.Statement (.add d a b) :=
  Sys2Proof.Laws.Encoding.of_eq rfl (by omega)
theorem Sys2Proof.Laws.Encoding.sub (d : BitVec 6) (a : BitVec 6) (b : BitVec 6) : Sys2Proof.Laws.Encoding.Statement (.sub d a b) :=
  Sys2Proof.Laws.Encoding.of_eq rfl (by omega)
theorem Sys2Proof.Laws.Encoding.mul (d : BitVec 6) (a : BitVec 6) (b : BitVec 6) : Sys2Proof.Laws.Encoding.Statement (.mul d a b) :=
  Sys2Proof.Laws.Encoding.of_eq rfl (by omega)
theorem Sys2Proof.Laws.Encoding.mulh (d : BitVec 6) (a : BitVec 6) (b : BitVec 6) : Sys2Proof.Laws.Encoding.Statement (.mulh d a b) :=
  Sys2Proof.Laws.Encoding.of_eq rfl (by omega)
theorem Sys2Proof.Laws.Encoding.mulhn (d : BitVec 6) (a : BitVec 6) (b : BitVec 6) : Sys2Proof.Laws.Encoding.Statement (.mulhn d a b) :=
  Sys2Proof.Laws.Encoding.of_eq rfl (by omega)
theorem Sys2Proof.Laws.Encoding.div (d : BitVec 6) (a : BitVec 6) (b : BitVec 6) : Sys2Proof.Laws.Encoding.Statement (.div d a b) :=
  Sys2Proof.Laws.Encoding.of_eq rfl (by omega)
theorem Sys2Proof.Laws.Encoding.divn (d : BitVec 6) (a : BitVec 6) (b : BitVec 6) : Sys2Proof.Laws.Encoding.Statement (.divn d a b) :=
  Sys2Proof.Laws.Encoding.of_eq rfl (by omega)
theorem Sys2Proof.Laws.Encoding.rem (d : BitVec 6) (a : BitVec 6) (b : BitVec 6) : Sys2Proof.Laws.Encoding.Statement (.rem d a b) :=
  Sys2Proof.Laws.Encoding.of_eq rfl (by omega)
theorem Sys2Proof.Laws.Encoding.and (d : BitVec 6) (a : BitVec 6) (b : BitVec 6) : Sys2Proof.Laws.Encoding.Statement (.and d a b) :=
  Sys2Proof.Laws.Encoding.of_eq rfl (by omega)
theorem Sys2Proof.Laws.Encoding.or (d : BitVec 6) (a : BitVec 6) (b : BitVec 6) : Sys2Proof.Laws.Encoding.Statement (.or d a b) :=
  Sys2Proof.Laws.Encoding.of_eq rfl (by omega)
theorem Sys2Proof.Laws.Encoding.xor (d : BitVec 6) (a : BitVec 6) (b : BitVec 6) : Sys2Proof.Laws.Encoding.Statement (.xor d a b) :=
  Sys2Proof.Laws.Encoding.of_eq rfl (by omega)
theorem Sys2Proof.Laws.Encoding.andn (d : BitVec 6) (a : BitVec 6) (b : BitVec 6) : Sys2Proof.Laws.Encoding.Statement (.andn d a b) :=
  Sys2Proof.Laws.Encoding.of_eq rfl (by omega)
theorem Sys2Proof.Laws.Encoding.shl (d : BitVec 6) (a : BitVec 6) (b : BitVec 6) : Sys2Proof.Laws.Encoding.Statement (.shl d a b) :=
  Sys2Proof.Laws.Encoding.of_eq rfl (by omega)
theorem Sys2Proof.Laws.Encoding.shr (d : BitVec 6) (a : BitVec 6) (b : BitVec 6) : Sys2Proof.Laws.Encoding.Statement (.shr d a b) :=
  Sys2Proof.Laws.Encoding.of_eq rfl (by omega)
theorem Sys2Proof.Laws.Encoding.sar (d : BitVec 6) (a : BitVec 6) (b : BitVec 6) : Sys2Proof.Laws.Encoding.Statement (.sar d a b) :=
  Sys2Proof.Laws.Encoding.of_eq rfl (by omega)
theorem Sys2Proof.Laws.Encoding.min (d : BitVec 6) (a : BitVec 6) (b : BitVec 6) : Sys2Proof.Laws.Encoding.Statement (.min d a b) :=
  Sys2Proof.Laws.Encoding.of_eq rfl (by omega)
theorem Sys2Proof.Laws.Encoding.max (d : BitVec 6) (a : BitVec 6) (b : BitVec 6) : Sys2Proof.Laws.Encoding.Statement (.max d a b) :=
  Sys2Proof.Laws.Encoding.of_eq rfl (by omega)
theorem Sys2Proof.Laws.Encoding.minn (d : BitVec 6) (a : BitVec 6) (b : BitVec 6) : Sys2Proof.Laws.Encoding.Statement (.minn d a b) :=
  Sys2Proof.Laws.Encoding.of_eq rfl (by omega)
theorem Sys2Proof.Laws.Encoding.maxn (d : BitVec 6) (a : BitVec 6) (b : BitVec 6) : Sys2Proof.Laws.Encoding.Statement (.maxn d a b) :=
  Sys2Proof.Laws.Encoding.of_eq rfl (by omega)
theorem Sys2Proof.Laws.Encoding.cmp (d : BitVec 6) (a : BitVec 6) (b : BitVec 6) : Sys2Proof.Laws.Encoding.Statement (.cmp d a b) :=
  Sys2Proof.Laws.Encoding.of_eq rfl (by omega)
theorem Sys2Proof.Laws.Encoding.cmpn (d : BitVec 6) (a : BitVec 6) (b : BitVec 6) : Sys2Proof.Laws.Encoding.Statement (.cmpn d a b) :=
  Sys2Proof.Laws.Encoding.of_eq rfl (by omega)
theorem Sys2Proof.Laws.Encoding.clz (d : BitVec 6) (a : BitVec 6) : Sys2Proof.Laws.Encoding.Statement (.clz d a) :=
  Sys2Proof.Laws.Encoding.of_eq rfl (by omega)
theorem Sys2Proof.Laws.Encoding.popc (d : BitVec 6) (a : BitVec 6) : Sys2Proof.Laws.Encoding.Statement (.popc d a) :=
  Sys2Proof.Laws.Encoding.of_eq rfl (by omega)
theorem Sys2Proof.Laws.Encoding.mov (d : BitVec 6) (a : BitVec 6) : Sys2Proof.Laws.Encoding.Statement (.mov d a) :=
  Sys2Proof.Laws.Encoding.of_eq rfl (by omega)
theorem Sys2Proof.Laws.Encoding.addi (d : BitVec 6) (a : BitVec 6) (i : BitVec 14) : Sys2Proof.Laws.Encoding.Statement (.addi d a i) :=
  Sys2Proof.Laws.Encoding.of_eq rfl (by omega)
theorem Sys2Proof.Laws.Encoding.andi (d : BitVec 6) (a : BitVec 6) (i : BitVec 14) : Sys2Proof.Laws.Encoding.Statement (.andi d a i) :=
  Sys2Proof.Laws.Encoding.of_eq rfl (by omega)
theorem Sys2Proof.Laws.Encoding.ori (d : BitVec 6) (a : BitVec 6) (i : BitVec 14) : Sys2Proof.Laws.Encoding.Statement (.ori d a i) :=
  Sys2Proof.Laws.Encoding.of_eq rfl (by omega)
theorem Sys2Proof.Laws.Encoding.cmpi (d : BitVec 6) (a : BitVec 6) (i : BitVec 14) : Sys2Proof.Laws.Encoding.Statement (.cmpi d a i) :=
  Sys2Proof.Laws.Encoding.of_eq rfl (by omega)
theorem Sys2Proof.Laws.Encoding.movz (d : BitVec 6) (h : BitVec 2) (i : BitVec 16) : Sys2Proof.Laws.Encoding.Statement (.movz d h i) :=
  Sys2Proof.Laws.Encoding.of_eq rfl (by omega)
theorem Sys2Proof.Laws.Encoding.movk (d : BitVec 6) (h : BitVec 2) (i : BitVec 16) : Sys2Proof.Laws.Encoding.Statement (.movk d h i) :=
  Sys2Proof.Laws.Encoding.of_eq rfl (by omega)
theorem Sys2Proof.Laws.Encoding.movs (d : BitVec 6) (h : BitVec 2) (i : BitVec 16) : Sys2Proof.Laws.Encoding.Statement (.movs d h i) :=
  Sys2Proof.Laws.Encoding.of_eq rfl (by omega)
theorem Sys2Proof.Laws.Encoding.srd (d : BitVec 6) (n : BitVec 4) : Sys2Proof.Laws.Encoding.Statement (.srd d n) :=
  Sys2Proof.Laws.Encoding.of_eq rfl (by omega)
theorem Sys2Proof.Laws.Encoding.swr (a : BitVec 6) (n : BitVec 4) : Sys2Proof.Laws.Encoding.Statement (.swr a n) :=
  Sys2Proof.Laws.Encoding.of_eq rfl (by omega)
theorem Sys2Proof.Laws.Encoding.vadd (d : BitVec 7) (a : BitVec 7) (b : BitVec 7) (s : BitVec 1) : Sys2Proof.Laws.Encoding.Statement (.vadd d a b s) :=
  Sys2Proof.Laws.Encoding.of_eq rfl (by omega)
theorem Sys2Proof.Laws.Encoding.vsub (d : BitVec 7) (a : BitVec 7) (b : BitVec 7) (s : BitVec 1) : Sys2Proof.Laws.Encoding.Statement (.vsub d a b s) :=
  Sys2Proof.Laws.Encoding.of_eq rfl (by omega)
theorem Sys2Proof.Laws.Encoding.vmul (d : BitVec 7) (a : BitVec 7) (b : BitVec 7) (s : BitVec 1) : Sys2Proof.Laws.Encoding.Statement (.vmul d a b s) :=
  Sys2Proof.Laws.Encoding.of_eq rfl (by omega)
theorem Sys2Proof.Laws.Encoding.vmulh (d : BitVec 7) (a : BitVec 7) (b : BitVec 7) (s : BitVec 1) : Sys2Proof.Laws.Encoding.Statement (.vmulh d a b s) :=
  Sys2Proof.Laws.Encoding.of_eq rfl (by omega)
theorem Sys2Proof.Laws.Encoding.vand (d : BitVec 7) (a : BitVec 7) (b : BitVec 7) (s : BitVec 1) : Sys2Proof.Laws.Encoding.Statement (.vand d a b s) :=
  Sys2Proof.Laws.Encoding.of_eq rfl (by omega)
theorem Sys2Proof.Laws.Encoding.vor (d : BitVec 7) (a : BitVec 7) (b : BitVec 7) (s : BitVec 1) : Sys2Proof.Laws.Encoding.Statement (.vor d a b s) :=
  Sys2Proof.Laws.Encoding.of_eq rfl (by omega)
theorem Sys2Proof.Laws.Encoding.vxor (d : BitVec 7) (a : BitVec 7) (b : BitVec 7) (s : BitVec 1) : Sys2Proof.Laws.Encoding.Statement (.vxor d a b s) :=
  Sys2Proof.Laws.Encoding.of_eq rfl (by omega)
theorem Sys2Proof.Laws.Encoding.vandn (d : BitVec 7) (a : BitVec 7) (b : BitVec 7) (s : BitVec 1) : Sys2Proof.Laws.Encoding.Statement (.vandn d a b s) :=
  Sys2Proof.Laws.Encoding.of_eq rfl (by omega)
theorem Sys2Proof.Laws.Encoding.vshl (d : BitVec 7) (a : BitVec 7) (b : BitVec 7) (s : BitVec 1) : Sys2Proof.Laws.Encoding.Statement (.vshl d a b s) :=
  Sys2Proof.Laws.Encoding.of_eq rfl (by omega)
theorem Sys2Proof.Laws.Encoding.vshr (d : BitVec 7) (a : BitVec 7) (b : BitVec 7) (s : BitVec 1) : Sys2Proof.Laws.Encoding.Statement (.vshr d a b s) :=
  Sys2Proof.Laws.Encoding.of_eq rfl (by omega)
theorem Sys2Proof.Laws.Encoding.vsar (d : BitVec 7) (a : BitVec 7) (b : BitVec 7) (s : BitVec 1) : Sys2Proof.Laws.Encoding.Statement (.vsar d a b s) :=
  Sys2Proof.Laws.Encoding.of_eq rfl (by omega)
theorem Sys2Proof.Laws.Encoding.vrot (d : BitVec 7) (a : BitVec 7) (b : BitVec 7) (s : BitVec 1) : Sys2Proof.Laws.Encoding.Statement (.vrot d a b s) :=
  Sys2Proof.Laws.Encoding.of_eq rfl (by omega)
theorem Sys2Proof.Laws.Encoding.vmin (d : BitVec 7) (a : BitVec 7) (b : BitVec 7) (s : BitVec 1) : Sys2Proof.Laws.Encoding.Statement (.vmin d a b s) :=
  Sys2Proof.Laws.Encoding.of_eq rfl (by omega)
theorem Sys2Proof.Laws.Encoding.vmax (d : BitVec 7) (a : BitVec 7) (b : BitVec 7) (s : BitVec 1) : Sys2Proof.Laws.Encoding.Statement (.vmax d a b s) :=
  Sys2Proof.Laws.Encoding.of_eq rfl (by omega)
theorem Sys2Proof.Laws.Encoding.vabsd (d : BitVec 7) (a : BitVec 7) (b : BitVec 7) (s : BitVec 1) : Sys2Proof.Laws.Encoding.Statement (.vabsd d a b s) :=
  Sys2Proof.Laws.Encoding.of_eq rfl (by omega)
theorem Sys2Proof.Laws.Encoding.vavg (d : BitVec 7) (a : BitVec 7) (b : BitVec 7) (s : BitVec 1) : Sys2Proof.Laws.Encoding.Statement (.vavg d a b s) :=
  Sys2Proof.Laws.Encoding.of_eq rfl (by omega)
theorem Sys2Proof.Laws.Encoding.vcmpeq (d : BitVec 3) (a : BitVec 7) (b : BitVec 7) (s : BitVec 1) : Sys2Proof.Laws.Encoding.Statement (.vcmpeq d a b s) :=
  Sys2Proof.Laws.Encoding.of_eq rfl (by omega)
theorem Sys2Proof.Laws.Encoding.vcmpne (d : BitVec 3) (a : BitVec 7) (b : BitVec 7) (s : BitVec 1) : Sys2Proof.Laws.Encoding.Statement (.vcmpne d a b s) :=
  Sys2Proof.Laws.Encoding.of_eq rfl (by omega)
theorem Sys2Proof.Laws.Encoding.vcmplt (d : BitVec 3) (a : BitVec 7) (b : BitVec 7) (s : BitVec 1) : Sys2Proof.Laws.Encoding.Statement (.vcmplt d a b s) :=
  Sys2Proof.Laws.Encoding.of_eq rfl (by omega)
theorem Sys2Proof.Laws.Encoding.vcmple (d : BitVec 3) (a : BitVec 7) (b : BitVec 7) (s : BitVec 1) : Sys2Proof.Laws.Encoding.Statement (.vcmple d a b s) :=
  Sys2Proof.Laws.Encoding.of_eq rfl (by omega)
theorem Sys2Proof.Laws.Encoding.vfadd (r : BitVec 2) (d : BitVec 7) (a : BitVec 7) (b : BitVec 7) (s : BitVec 1) : Sys2Proof.Laws.Encoding.Statement (.vfadd r d a b s) :=
  Sys2Proof.Laws.Encoding.of_eq rfl (by omega)
theorem Sys2Proof.Laws.Encoding.vfsub (r : BitVec 2) (d : BitVec 7) (a : BitVec 7) (b : BitVec 7) (s : BitVec 1) : Sys2Proof.Laws.Encoding.Statement (.vfsub r d a b s) :=
  Sys2Proof.Laws.Encoding.of_eq rfl (by omega)
theorem Sys2Proof.Laws.Encoding.vfmul (r : BitVec 2) (d : BitVec 7) (a : BitVec 7) (b : BitVec 7) (s : BitVec 1) : Sys2Proof.Laws.Encoding.Statement (.vfmul r d a b s) :=
  Sys2Proof.Laws.Encoding.of_eq rfl (by omega)
theorem Sys2Proof.Laws.Encoding.vfdiv (r : BitVec 2) (d : BitVec 7) (a : BitVec 7) (b : BitVec 7) (s : BitVec 1) : Sys2Proof.Laws.Encoding.Statement (.vfdiv r d a b s) :=
  Sys2Proof.Laws.Encoding.of_eq rfl (by omega)
theorem Sys2Proof.Laws.Encoding.vfmin (d : BitVec 7) (a : BitVec 7) (b : BitVec 7) (s : BitVec 1) : Sys2Proof.Laws.Encoding.Statement (.vfmin d a b s) :=
  Sys2Proof.Laws.Encoding.of_eq rfl (by omega)
theorem Sys2Proof.Laws.Encoding.vfmax (d : BitVec 7) (a : BitVec 7) (b : BitVec 7) (s : BitVec 1) : Sys2Proof.Laws.Encoding.Statement (.vfmax d a b s) :=
  Sys2Proof.Laws.Encoding.of_eq rfl (by omega)
theorem Sys2Proof.Laws.Encoding.vfminnum (d : BitVec 7) (a : BitVec 7) (b : BitVec 7) (s : BitVec 1) : Sys2Proof.Laws.Encoding.Statement (.vfminnum d a b s) :=
  Sys2Proof.Laws.Encoding.of_eq rfl (by omega)
theorem Sys2Proof.Laws.Encoding.vfmaxnum (d : BitVec 7) (a : BitVec 7) (b : BitVec 7) (s : BitVec 1) : Sys2Proof.Laws.Encoding.Statement (.vfmaxnum d a b s) :=
  Sys2Proof.Laws.Encoding.of_eq rfl (by omega)
theorem Sys2Proof.Laws.Encoding.vsel (d : BitVec 7) (a : BitVec 7) (b : BitVec 7) (s : BitVec 1) : Sys2Proof.Laws.Encoding.Statement (.vsel d a b s) :=
  Sys2Proof.Laws.Encoding.of_eq rfl (by omega)
theorem Sys2Proof.Laws.Encoding.vbcast (d : BitVec 7) (a : BitVec 7) (b : BitVec 6) : Sys2Proof.Laws.Encoding.Statement (.vbcast d a b) :=
  Sys2Proof.Laws.Encoding.of_eq rfl (by omega)
theorem Sys2Proof.Laws.Encoding.vclamp (d : BitVec 7) (a : BitVec 7) (b : BitVec 7) (s : BitVec 1) : Sys2Proof.Laws.Encoding.Statement (.vclamp d a b s) :=
  Sys2Proof.Laws.Encoding.of_eq rfl (by omega)
theorem Sys2Proof.Laws.Encoding.vcsign (d : BitVec 7) (a : BitVec 7) (b : BitVec 7) (s : BitVec 1) : Sys2Proof.Laws.Encoding.Statement (.vcsign d a b s) :=
  Sys2Proof.Laws.Encoding.of_eq rfl (by omega)
theorem Sys2Proof.Laws.Encoding.vdot4 (d : BitVec 7) (a : BitVec 7) (b : BitVec 7) (s : BitVec 1) (y : BitVec 1) (x : BitVec 1) : Sys2Proof.Laws.Encoding.Statement (.vdot4 d a b s y x) :=
  Sys2Proof.Laws.Encoding.of_eq rfl (by omega)
theorem Sys2Proof.Laws.Encoding.vdot8 (d : BitVec 7) (a : BitVec 7) (b : BitVec 7) (s : BitVec 1) (y : BitVec 1) (x : BitVec 1) : Sys2Proof.Laws.Encoding.Statement (.vdot8 d a b s y x) :=
  Sys2Proof.Laws.Encoding.of_eq rfl (by omega)
theorem Sys2Proof.Laws.Encoding.vmov (d : BitVec 7) (a : BitVec 7) : Sys2Proof.Laws.Encoding.Statement (.vmov d a) :=
  Sys2Proof.Laws.Encoding.of_eq rfl (by omega)
theorem Sys2Proof.Laws.Encoding.vneg (d : BitVec 7) (a : BitVec 7) : Sys2Proof.Laws.Encoding.Statement (.vneg d a) :=
  Sys2Proof.Laws.Encoding.of_eq rfl (by omega)
theorem Sys2Proof.Laws.Encoding.vabs (d : BitVec 7) (a : BitVec 7) : Sys2Proof.Laws.Encoding.Statement (.vabs d a) :=
  Sys2Proof.Laws.Encoding.of_eq rfl (by omega)
theorem Sys2Proof.Laws.Encoding.vnot (d : BitVec 7) (a : BitVec 7) : Sys2Proof.Laws.Encoding.Statement (.vnot d a) :=
  Sys2Proof.Laws.Encoding.of_eq rfl (by omega)
theorem Sys2Proof.Laws.Encoding.vclz (d : BitVec 7) (a : BitVec 7) : Sys2Proof.Laws.Encoding.Statement (.vclz d a) :=
  Sys2Proof.Laws.Encoding.of_eq rfl (by omega)
theorem Sys2Proof.Laws.Encoding.vpopc (d : BitVec 7) (a : BitVec 7) : Sys2Proof.Laws.Encoding.Statement (.vpopc d a) :=
  Sys2Proof.Laws.Encoding.of_eq rfl (by omega)
theorem Sys2Proof.Laws.Encoding.vbrev (d : BitVec 7) (a : BitVec 7) : Sys2Proof.Laws.Encoding.Statement (.vbrev d a) :=
  Sys2Proof.Laws.Encoding.of_eq rfl (by omega)
theorem Sys2Proof.Laws.Encoding.vfract (d : BitVec 7) (a : BitVec 7) : Sys2Proof.Laws.Encoding.Statement (.vfract d a) :=
  Sys2Proof.Laws.Encoding.of_eq rfl (by omega)
theorem Sys2Proof.Laws.Encoding.vfloor (d : BitVec 7) (a : BitVec 7) : Sys2Proof.Laws.Encoding.Statement (.vfloor d a) :=
  Sys2Proof.Laws.Encoding.of_eq rfl (by omega)
theorem Sys2Proof.Laws.Encoding.vceil (d : BitVec 7) (a : BitVec 7) : Sys2Proof.Laws.Encoding.Statement (.vceil d a) :=
  Sys2Proof.Laws.Encoding.of_eq rfl (by omega)
theorem Sys2Proof.Laws.Encoding.vtrunc (d : BitVec 7) (a : BitVec 7) : Sys2Proof.Laws.Encoding.Statement (.vtrunc d a) :=
  Sys2Proof.Laws.Encoding.of_eq rfl (by omega)
theorem Sys2Proof.Laws.Encoding.vrint (r : BitVec 2) (d : BitVec 7) (a : BitVec 7) : Sys2Proof.Laws.Encoding.Statement (.vrint r d a) :=
  Sys2Proof.Laws.Encoding.of_eq rfl (by omega)
theorem Sys2Proof.Laws.Encoding.vrcp (r : BitVec 2) (d : BitVec 7) (a : BitVec 7) : Sys2Proof.Laws.Encoding.Statement (.vrcp r d a) :=
  Sys2Proof.Laws.Encoding.of_eq rfl (by omega)
theorem Sys2Proof.Laws.Encoding.vrsq (r : BitVec 2) (d : BitVec 7) (a : BitVec 7) : Sys2Proof.Laws.Encoding.Statement (.vrsq r d a) :=
  Sys2Proof.Laws.Encoding.of_eq rfl (by omega)
theorem Sys2Proof.Laws.Encoding.vsqrt (r : BitVec 2) (d : BitVec 7) (a : BitVec 7) : Sys2Proof.Laws.Encoding.Statement (.vsqrt r d a) :=
  Sys2Proof.Laws.Encoding.of_eq rfl (by omega)
theorem Sys2Proof.Laws.Encoding.vexp2 (r : BitVec 2) (d : BitVec 7) (a : BitVec 7) : Sys2Proof.Laws.Encoding.Statement (.vexp2 r d a) :=
  Sys2Proof.Laws.Encoding.of_eq rfl (by omega)
theorem Sys2Proof.Laws.Encoding.vlog2 (r : BitVec 2) (d : BitVec 7) (a : BitVec 7) : Sys2Proof.Laws.Encoding.Statement (.vlog2 r d a) :=
  Sys2Proof.Laws.Encoding.of_eq rfl (by omega)
theorem Sys2Proof.Laws.Encoding.vsin (r : BitVec 2) (d : BitVec 7) (a : BitVec 7) : Sys2Proof.Laws.Encoding.Statement (.vsin r d a) :=
  Sys2Proof.Laws.Encoding.of_eq rfl (by omega)
theorem Sys2Proof.Laws.Encoding.vcos (r : BitVec 2) (d : BitVec 7) (a : BitVec 7) : Sys2Proof.Laws.Encoding.Statement (.vcos r d a) :=
  Sys2Proof.Laws.Encoding.of_eq rfl (by omega)
theorem Sys2Proof.Laws.Encoding.vtanh (r : BitVec 2) (d : BitVec 7) (a : BitVec 7) : Sys2Proof.Laws.Encoding.Statement (.vtanh r d a) :=
  Sys2Proof.Laws.Encoding.of_eq rfl (by omega)
theorem Sys2Proof.Laws.Encoding.vfclass (d : BitVec 7) (a : BitVec 7) : Sys2Proof.Laws.Encoding.Statement (.vfclass d a) :=
  Sys2Proof.Laws.Encoding.of_eq rfl (by omega)
theorem Sys2Proof.Laws.Encoding.vlaneid (d : BitVec 7) : Sys2Proof.Laws.Encoding.Statement (.vlaneid d) :=
  Sys2Proof.Laws.Encoding.of_eq rfl (by omega)
theorem Sys2Proof.Laws.Encoding.vcvt (r : BitVec 2) (d : BitVec 7) (a : BitVec 7) (t : BitVec 6) : Sys2Proof.Laws.Encoding.Statement (.vcvt r d a t) :=
  Sys2Proof.Laws.Encoding.of_eq rfl (by omega)
theorem Sys2Proof.Laws.Encoding.vcvts (r : BitVec 2) (d : BitVec 7) (a : BitVec 7) (t : BitVec 6) : Sys2Proof.Laws.Encoding.Statement (.vcvts r d a t) :=
  Sys2Proof.Laws.Encoding.of_eq rfl (by omega)
theorem Sys2Proof.Laws.Encoding.vshfl (d : BitVec 7) (a : BitVec 7) (b : BitVec 7) (s : BitVec 1) : Sys2Proof.Laws.Encoding.Statement (.vshfl d a b s) :=
  Sys2Proof.Laws.Encoding.of_eq rfl (by omega)
theorem Sys2Proof.Laws.Encoding.vshflx (d : BitVec 7) (a : BitVec 7) (b : BitVec 7) (s : BitVec 1) : Sys2Proof.Laws.Encoding.Statement (.vshflx d a b s) :=
  Sys2Proof.Laws.Encoding.of_eq rfl (by omega)
theorem Sys2Proof.Laws.Encoding.vshflup (d : BitVec 7) (a : BitVec 7) (b : BitVec 7) (s : BitVec 1) : Sys2Proof.Laws.Encoding.Statement (.vshflup d a b s) :=
  Sys2Proof.Laws.Encoding.of_eq rfl (by omega)
theorem Sys2Proof.Laws.Encoding.vshfldn (d : BitVec 7) (a : BitVec 7) (b : BitVec 7) (s : BitVec 1) : Sys2Proof.Laws.Encoding.Statement (.vshfldn d a b s) :=
  Sys2Proof.Laws.Encoding.of_eq rfl (by omega)
theorem Sys2Proof.Laws.Encoding.vrsum (r : BitVec 2) (d : BitVec 6) (a : BitVec 7) : Sys2Proof.Laws.Encoding.Statement (.vrsum r d a) :=
  Sys2Proof.Laws.Encoding.of_eq rfl (by omega)
theorem Sys2Proof.Laws.Encoding.vrmin (d : BitVec 6) (a : BitVec 7) : Sys2Proof.Laws.Encoding.Statement (.vrmin d a) :=
  Sys2Proof.Laws.Encoding.of_eq rfl (by omega)
theorem Sys2Proof.Laws.Encoding.vrmax (d : BitVec 6) (a : BitVec 7) : Sys2Proof.Laws.Encoding.Statement (.vrmax d a) :=
  Sys2Proof.Laws.Encoding.of_eq rfl (by omega)
theorem Sys2Proof.Laws.Encoding.vrand (d : BitVec 6) (a : BitVec 7) : Sys2Proof.Laws.Encoding.Statement (.vrand d a) :=
  Sys2Proof.Laws.Encoding.of_eq rfl (by omega)
theorem Sys2Proof.Laws.Encoding.vror (d : BitVec 6) (a : BitVec 7) : Sys2Proof.Laws.Encoding.Statement (.vror d a) :=
  Sys2Proof.Laws.Encoding.of_eq rfl (by omega)
theorem Sys2Proof.Laws.Encoding.vrxor (d : BitVec 6) (a : BitVec 7) : Sys2Proof.Laws.Encoding.Statement (.vrxor d a) :=
  Sys2Proof.Laws.Encoding.of_eq rfl (by omega)
theorem Sys2Proof.Laws.Encoding.vballot (d : BitVec 6) (a : BitVec 7) : Sys2Proof.Laws.Encoding.Statement (.vballot d a) :=
  Sys2Proof.Laws.Encoding.of_eq rfl (by omega)
theorem Sys2Proof.Laws.Encoding.vfirst (d : BitVec 6) (a : BitVec 7) : Sys2Proof.Laws.Encoding.Statement (.vfirst d a) :=
  Sys2Proof.Laws.Encoding.of_eq rfl (by omega)
theorem Sys2Proof.Laws.Encoding.vbfe (d : BitVec 7) (a : BitVec 7) (b : BitVec 7) (s : BitVec 1) : Sys2Proof.Laws.Encoding.Statement (.vbfe d a b s) :=
  Sys2Proof.Laws.Encoding.of_eq rfl (by omega)
theorem Sys2Proof.Laws.Encoding.vbfi (d : BitVec 7) (a : BitVec 7) (b : BitVec 7) (s : BitVec 1) : Sys2Proof.Laws.Encoding.Statement (.vbfi d a b s) :=
  Sys2Proof.Laws.Encoding.of_eq rfl (by omega)
theorem Sys2Proof.Laws.Encoding.vperm (d : BitVec 7) (a : BitVec 7) (b : BitVec 7) (s : BitVec 1) : Sys2Proof.Laws.Encoding.Statement (.vperm d a b s) :=
  Sys2Proof.Laws.Encoding.of_eq rfl (by omega)
theorem Sys2Proof.Laws.Encoding.vfunnel (d : BitVec 7) (a : BitVec 7) (b : BitVec 7) (s : BitVec 1) : Sys2Proof.Laws.Encoding.Statement (.vfunnel d a b s) :=
  Sys2Proof.Laws.Encoding.of_eq rfl (by omega)
theorem Sys2Proof.Laws.Encoding.pand (d : BitVec 3) (a : BitVec 3) (b : BitVec 3) : Sys2Proof.Laws.Encoding.Statement (.pand d a b) :=
  Sys2Proof.Laws.Encoding.of_eq rfl (by omega)
theorem Sys2Proof.Laws.Encoding.por (d : BitVec 3) (a : BitVec 3) (b : BitVec 3) : Sys2Proof.Laws.Encoding.Statement (.por d a b) :=
  Sys2Proof.Laws.Encoding.of_eq rfl (by omega)
theorem Sys2Proof.Laws.Encoding.pxor (d : BitVec 3) (a : BitVec 3) (b : BitVec 3) : Sys2Proof.Laws.Encoding.Statement (.pxor d a b) :=
  Sys2Proof.Laws.Encoding.of_eq rfl (by omega)
theorem Sys2Proof.Laws.Encoding.pandn (d : BitVec 3) (a : BitVec 3) (b : BitVec 3) : Sys2Proof.Laws.Encoding.Statement (.pandn d a b) :=
  Sys2Proof.Laws.Encoding.of_eq rfl (by omega)
theorem Sys2Proof.Laws.Encoding.pnot (d : BitVec 3) (a : BitVec 3) : Sys2Proof.Laws.Encoding.Statement (.pnot d a) :=
  Sys2Proof.Laws.Encoding.of_eq rfl (by omega)
theorem Sys2Proof.Laws.Encoding.pmovs (d : BitVec 3) (a : BitVec 6) : Sys2Proof.Laws.Encoding.Statement (.pmovs d a) :=
  Sys2Proof.Laws.Encoding.of_eq rfl (by omega)
theorem Sys2Proof.Laws.Encoding.smovp (d : BitVec 6) (a : BitVec 3) : Sys2Proof.Laws.Encoding.Statement (.smovp d a) :=
  Sys2Proof.Laws.Encoding.of_eq rfl (by omega)
theorem Sys2Proof.Laws.Encoding.pset (d : BitVec 3) : Sys2Proof.Laws.Encoding.Statement (.pset d) :=
  Sys2Proof.Laws.Encoding.of_eq rfl (by omega)
theorem Sys2Proof.Laws.Encoding.pclr (d : BitVec 3) : Sys2Proof.Laws.Encoding.Statement (.pclr d) :=
  Sys2Proof.Laws.Encoding.of_eq rfl (by omega)
theorem Sys2Proof.Laws.Encoding.rand32 (d : BitVec 7) (a : BitVec 7) (b : BitVec 7) (s : BitVec 1) : Sys2Proof.Laws.Encoding.Statement (.rand32 d a b s) :=
  Sys2Proof.Laws.Encoding.of_eq rfl (by omega)
theorem Sys2Proof.Laws.Encoding.randf (d : BitVec 7) (a : BitVec 7) (b : BitVec 7) (s : BitVec 1) : Sys2Proof.Laws.Encoding.Statement (.randf d a b s) :=
  Sys2Proof.Laws.Encoding.of_eq rfl (by omega)
theorem Sys2Proof.Laws.Encoding.ld (d : BitVec 7) (a : BitVec 6) (i : BitVec 7) (p : BitVec 2) (x : BitVec 1) (z : BitVec 3) : Sys2Proof.Laws.Encoding.Statement (.ld d a i p x z) :=
  Sys2Proof.Laws.Encoding.of_eq rfl (by omega)
theorem Sys2Proof.Laws.Encoding.st (d : BitVec 7) (a : BitVec 6) (i : BitVec 7) (p : BitVec 2) (z : BitVec 3) : Sys2Proof.Laws.Encoding.Statement (.st d a i p z) :=
  Sys2Proof.Laws.Encoding.of_eq rfl (by omega)
theorem Sys2Proof.Laws.Encoding.sld (d : BitVec 6) (a : BitVec 6) (o : BitVec 14) : Sys2Proof.Laws.Encoding.Statement (.sld d a o) :=
  Sys2Proof.Laws.Encoding.of_eq rfl (by omega)
theorem Sys2Proof.Laws.Encoding.sst (d : BitVec 6) (a : BitVec 6) (o : BitVec 14) : Sys2Proof.Laws.Encoding.Statement (.sst d a o) :=
  Sys2Proof.Laws.Encoding.of_eq rfl (by omega)
theorem Sys2Proof.Laws.Encoding.ldt (d : BitVec 7) (a : BitVec 6) (t : BitVec 6) : Sys2Proof.Laws.Encoding.Statement (.ldt d a t) :=
  Sys2Proof.Laws.Encoding.of_eq rfl (by omega)
theorem Sys2Proof.Laws.Encoding.stt (d : BitVec 7) (a : BitVec 6) (t : BitVec 6) : Sys2Proof.Laws.Encoding.Statement (.stt d a t) :=
  Sys2Proof.Laws.Encoding.of_eq rfl (by omega)
theorem Sys2Proof.Laws.Encoding.atom (d : BitVec 7) (a : BitVec 6) (i : BitVec 7) (w : BitVec 1) (r : BitVec 1) (o : BitVec 4) : Sys2Proof.Laws.Encoding.Statement (.atom d a i w r o) :=
  Sys2Proof.Laws.Encoding.of_eq rfl (by omega)
theorem Sys2Proof.Laws.Encoding.satom (d : BitVec 6) (a : BitVec 6) (b : BitVec 6) (w : BitVec 1) (r : BitVec 1) (o : BitVec 4) : Sys2Proof.Laws.Encoding.Statement (.satom d a b w r o) :=
  Sys2Proof.Laws.Encoding.of_eq rfl (by omega)
theorem Sys2Proof.Laws.Encoding.fenceAcq (s : BitVec 3) : Sys2Proof.Laws.Encoding.Statement (.fenceAcq s) :=
  Sys2Proof.Laws.Encoding.of_eq rfl (by omega)
theorem Sys2Proof.Laws.Encoding.fenceRel (s : BitVec 3) : Sys2Proof.Laws.Encoding.Statement (.fenceRel s) :=
  Sys2Proof.Laws.Encoding.of_eq rfl (by omega)
theorem Sys2Proof.Laws.Encoding.fenceAr (s : BitVec 3) : Sys2Proof.Laws.Encoding.Statement (.fenceAr s) :=
  Sys2Proof.Laws.Encoding.of_eq rfl (by omega)
theorem Sys2Proof.Laws.Encoding.fenceSc (s : BitVec 3) : Sys2Proof.Laws.Encoding.Statement (.fenceSc s) :=
  Sys2Proof.Laws.Encoding.of_eq rfl (by omega)
theorem Sys2Proof.Laws.Encoding.fenceTx (s : BitVec 3) : Sys2Proof.Laws.Encoding.Statement (.fenceTx s) :=
  Sys2Proof.Laws.Encoding.of_eq rfl (by omega)
theorem Sys2Proof.Laws.Encoding.ldacq (d : BitVec 7) (a : BitVec 6) (i : BitVec 7) (p : BitVec 2) (x : BitVec 1) (z : BitVec 2) : Sys2Proof.Laws.Encoding.Statement (.ldacq d a i p x z) :=
  Sys2Proof.Laws.Encoding.of_eq rfl (by omega)
theorem Sys2Proof.Laws.Encoding.strel (d : BitVec 7) (a : BitVec 6) (i : BitVec 7) (p : BitVec 2) (z : BitVec 2) : Sys2Proof.Laws.Encoding.Statement (.strel d a i p z) :=
  Sys2Proof.Laws.Encoding.of_eq rfl (by omega)
theorem Sys2Proof.Laws.Encoding.cpstep (n : BitVec 7) : Sys2Proof.Laws.Encoding.Statement (.cpstep n) :=
  Sys2Proof.Laws.Encoding.of_eq rfl (by omega)
theorem Sys2Proof.Laws.Encoding.cpissue (a : BitVec 6) : Sys2Proof.Laws.Encoding.Statement (.cpissue a) :=
  Sys2Proof.Laws.Encoding.of_eq rfl (by omega)
theorem Sys2Proof.Laws.Encoding.hwaitf (h : BitVec 6) : Sys2Proof.Laws.Encoding.Statement (.hwaitf h) :=
  Sys2Proof.Laws.Encoding.of_eq rfl (by omega)
theorem Sys2Proof.Laws.Encoding.hwaite (h : BitVec 6) : Sys2Proof.Laws.Encoding.Statement (.hwaite h) :=
  Sys2Proof.Laws.Encoding.of_eq rfl (by omega)
theorem Sys2Proof.Laws.Encoding.hrel (h : BitVec 6) : Sys2Proof.Laws.Encoding.Statement (.hrel h) :=
  Sys2Proof.Laws.Encoding.of_eq rfl (by omega)
theorem Sys2Proof.Laws.Encoding.hrelPub (h : BitVec 6) : Sys2Proof.Laws.Encoding.Statement (.hrelPub h) :=
  Sys2Proof.Laws.Encoding.of_eq rfl (by omega)
theorem Sys2Proof.Laws.Encoding.hquery (a : BitVec 6) (h : BitVec 6) : Sys2Proof.Laws.Encoding.Statement (.hquery a h) :=
  Sys2Proof.Laws.Encoding.of_eq rfl (by omega)
theorem Sys2Proof.Laws.Encoding.mma (a : BitVec 6) (b : BitVec 6) (t : BitVec 3) (y : BitVec 1) (x : BitVec 1) : Sys2Proof.Laws.Encoding.Statement (.mma a b t y x) :=
  Sys2Proof.Laws.Encoding.of_eq rfl (by omega)
theorem Sys2Proof.Laws.Encoding.mmaz (a : BitVec 6) (b : BitVec 6) (t : BitVec 3) (y : BitVec 1) (x : BitVec 1) : Sys2Proof.Laws.Encoding.Statement (.mmaz a b t y x) :=
  Sys2Proof.Laws.Encoding.of_eq rfl (by omega)
theorem Sys2Proof.Laws.Encoding.mmat (a : BitVec 6) (b : BitVec 6) (z : BitVec 1) (t : BitVec 1) : Sys2Proof.Laws.Encoding.Statement (.mmat a b z t) :=
  Sys2Proof.Laws.Encoding.of_eq rfl (by omega)
theorem Sys2Proof.Laws.Encoding.mfence (a : BitVec 6) : Sys2Proof.Laws.Encoding.Statement (.mfence a) :=
  Sys2Proof.Laws.Encoding.of_eq rfl (by omega)
theorem Sys2Proof.Laws.Encoding.mwait (a : BitVec 6) : Sys2Proof.Laws.Encoding.Statement (.mwait a) :=
  Sys2Proof.Laws.Encoding.of_eq rfl (by omega)
theorem Sys2Proof.Laws.Encoding.mzero (t : BitVec 3) : Sys2Proof.Laws.Encoding.Statement (.mzero t) :=
  Sys2Proof.Laws.Encoding.of_eq rfl (by omega)
theorem Sys2Proof.Laws.Encoding.mdrain (a : BitVec 6) (p : BitVec 2) (t : BitVec 3) : Sys2Proof.Laws.Encoding.Statement (.mdrain a p t) :=
  Sys2Proof.Laws.Encoding.of_eq rfl (by omega)
theorem Sys2Proof.Laws.Encoding.mdraina (a : BitVec 6) (p : BitVec 2) (t : BitVec 3) : Sys2Proof.Laws.Encoding.Statement (.mdraina a p t) :=
  Sys2Proof.Laws.Encoding.of_eq rfl (by omega)
theorem Sys2Proof.Laws.Encoding.mload (a : BitVec 6) (t : BitVec 3) : Sys2Proof.Laws.Encoding.Statement (.mload a t) :=
  Sys2Proof.Laws.Encoding.of_eq rfl (by omega)
theorem Sys2Proof.Laws.Encoding.mread (a : BitVec 6) (d : BitVec 7) : Sys2Proof.Laws.Encoding.Statement (.mread a d) :=
  Sys2Proof.Laws.Encoding.of_eq rfl (by omega)
theorem Sys2Proof.Laws.Encoding.mwrite (a : BitVec 6) (v : BitVec 7) : Sys2Proof.Laws.Encoding.Statement (.mwrite a v) :=
  Sys2Proof.Laws.Encoding.of_eq rfl (by omega)
theorem Sys2Proof.Laws.Encoding.rquery (a : BitVec 6) (n : BitVec 2) (x : BitVec 7) : Sys2Proof.Laws.Encoding.Statement (.rquery a n x) :=
  Sys2Proof.Laws.Encoding.of_eq rfl (by omega)
theorem Sys2Proof.Laws.Encoding.bquery (a : BitVec 6) (b : BitVec 6) : Sys2Proof.Laws.Encoding.Statement (.bquery a b) :=
  Sys2Proof.Laws.Encoding.of_eq rfl (by omega)
theorem Sys2Proof.Laws.Encoding.cquery (a : BitVec 6) (n : BitVec 2) (x : BitVec 7) : Sys2Proof.Laws.Encoding.Statement (.cquery a n x) :=
  Sys2Proof.Laws.Encoding.of_eq rfl (by omega)
theorem Sys2Proof.Laws.Encoding.rcommit (n : BitVec 2) : Sys2Proof.Laws.Encoding.Statement (.rcommit n) :=
  Sys2Proof.Laws.Encoding.of_eq rfl (by omega)
theorem Sys2Proof.Laws.Encoding.rresume (n : BitVec 2) : Sys2Proof.Laws.Encoding.Statement (.rresume n) :=
  Sys2Proof.Laws.Encoding.of_eq rfl (by omega)
theorem Sys2Proof.Laws.Encoding.rstat (a : BitVec 6) (n : BitVec 2) : Sys2Proof.Laws.Encoding.Statement (.rstat a n) :=
  Sys2Proof.Laws.Encoding.of_eq rfl (by omega)
theorem Sys2Proof.Laws.Encoding.texs (a : BitVec 6) (x : BitVec 7) : Sys2Proof.Laws.Encoding.Statement (.texs a x) :=
  Sys2Proof.Laws.Encoding.of_eq rfl (by omega)
theorem Sys2Proof.Laws.Encoding.texd (a : BitVec 6) (x : BitVec 7) : Sys2Proof.Laws.Encoding.Statement (.texd a x) :=
  Sys2Proof.Laws.Encoding.of_eq rfl (by omega)
theorem Sys2Proof.Laws.Encoding.texc (a : BitVec 6) (x : BitVec 7) : Sys2Proof.Laws.Encoding.Statement (.texc a x) :=
  Sys2Proof.Laws.Encoding.of_eq rfl (by omega)
theorem Sys2Proof.Laws.Encoding.texl (a : BitVec 6) (x : BitVec 7) : Sys2Proof.Laws.Encoding.Statement (.texl a x) :=
  Sys2Proof.Laws.Encoding.of_eq rfl (by omega)
theorem Sys2Proof.Laws.Encoding.texg (a : BitVec 6) (c : BitVec 2) (x : BitVec 7) : Sys2Proof.Laws.Encoding.Statement (.texg a c x) :=
  Sys2Proof.Laws.Encoding.of_eq rfl (by omega)
theorem Sys2Proof.Laws.Encoding.rastt (a : BitVec 6) (x : BitVec 7) : Sys2Proof.Laws.Encoding.Statement (.rastt a x) :=
  Sys2Proof.Laws.Encoding.of_eq rfl (by omega)
theorem Sys2Proof.Laws.Encoding.rframe (a : BitVec 6) (b : BitVec 6) : Sys2Proof.Laws.Encoding.Statement (.rframe a b) :=
  Sys2Proof.Laws.Encoding.of_eq rfl (by omega)
theorem Sys2Proof.Laws.Encoding.rtestAcc (x : BitVec 7) : Sys2Proof.Laws.Encoding.Statement (.rtestAcc x) :=
  Sys2Proof.Laws.Encoding.of_eq rfl (by omega)
theorem Sys2Proof.Laws.Encoding.rtestRej (x : BitVec 7) : Sys2Proof.Laws.Encoding.Statement (.rtestRej x) :=
  Sys2Proof.Laws.Encoding.of_eq rfl (by omega)
theorem Sys2Proof.Laws.Encoding.rclear (a : BitVec 6) : Sys2Proof.Laws.Encoding.Statement (.rclear a) :=
  Sys2Proof.Laws.Encoding.of_eq rfl (by omega)
theorem Sys2Proof.Laws.Encoding.fbar (b : BitVec 2) : Sys2Proof.Laws.Encoding.Statement (.fbar b) :=
  Sys2Proof.Laws.Encoding.of_eq rfl (by omega)
theorem Sys2Proof.Laws.Encoding.farrive (b : BitVec 2) : Sys2Proof.Laws.Encoding.Statement (.farrive b) :=
  Sys2Proof.Laws.Encoding.of_eq rfl (by omega)
theorem Sys2Proof.Laws.Encoding.fwaitb (b : BitVec 2) : Sys2Proof.Laws.Encoding.Statement (.fwaitb b) :=
  Sys2Proof.Laws.Encoding.of_eq rfl (by omega)
theorem Sys2Proof.Laws.Encoding.window (a : BitVec 6) : Sys2Proof.Laws.Encoding.Statement (.window a) :=
  Sys2Proof.Laws.Encoding.of_eq rfl (by omega)
theorem Sys2Proof.Laws.Encoding.nbinit (n : BitVec 8) (c : BitVec 6) : Sys2Proof.Laws.Encoding.Statement (.nbinit n c) :=
  Sys2Proof.Laws.Encoding.of_eq rfl (by omega)
theorem Sys2Proof.Laws.Encoding.nbarrive (n : BitVec 8) : Sys2Proof.Laws.Encoding.Statement (.nbarrive n) :=
  Sys2Proof.Laws.Encoding.of_eq rfl (by omega)
theorem Sys2Proof.Laws.Encoding.nbwait (n : BitVec 8) : Sys2Proof.Laws.Encoding.Statement (.nbwait n) :=
  Sys2Proof.Laws.Encoding.of_eq rfl (by omega)
theorem Sys2Proof.Laws.Encoding.nbsync (n : BitVec 8) : Sys2Proof.Laws.Encoding.Statement (.nbsync n) :=
  Sys2Proof.Laws.Encoding.of_eq rfl (by omega)
theorem Sys2Proof.Laws.Encoding.cont (a : BitVec 6) (x : BitVec 7) : Sys2Proof.Laws.Encoding.Statement (.cont a x) :=
  Sys2Proof.Laws.Encoding.of_eq rfl (by omega)
theorem Sys2Proof.Laws.Encoding.retire : Sys2Proof.Laws.Encoding.Statement (.retire) :=
  Sys2Proof.Laws.Encoding.of_eq rfl (by omega)
theorem Sys2Proof.Laws.Encoding.enq (a : BitVec 6) : Sys2Proof.Laws.Encoding.Statement (.enq a) :=
  Sys2Proof.Laws.Encoding.of_eq rfl (by omega)
theorem Sys2Proof.Laws.Encoding.launch (a : BitVec 6) (b : BitVec 6) : Sys2Proof.Laws.Encoding.Statement (.launch a b) :=
  Sys2Proof.Laws.Encoding.of_eq rfl (by omega)
theorem Sys2Proof.Laws.Encoding.solicit (a : BitVec 6) (n : BitVec 6) : Sys2Proof.Laws.Encoding.Statement (.solicit a n) :=
  Sys2Proof.Laws.Encoding.of_eq rfl (by omega)
theorem Sys2Proof.Laws.Encoding.reply (x : BitVec 7) : Sys2Proof.Laws.Encoding.Statement (.reply x) :=
  Sys2Proof.Laws.Encoding.of_eq rfl (by omega)
theorem Sys2Proof.Laws.Encoding.cwait (a : BitVec 6) (n : BitVec 6) : Sys2Proof.Laws.Encoding.Statement (.cwait a n) :=
  Sys2Proof.Laws.Encoding.of_eq rfl (by omega)
theorem Sys2Proof.Laws.Encoding.cread (a : BitVec 6) (n : BitVec 6) : Sys2Proof.Laws.Encoding.Statement (.cread a n) :=
  Sys2Proof.Laws.Encoding.of_eq rfl (by omega)
theorem Sys2Proof.Laws.Encoding.treg (a : BitVec 6) (b : BitVec 6) (d : BitVec 6) : Sys2Proof.Laws.Encoding.Statement (.treg a b d) :=
  Sys2Proof.Laws.Encoding.of_eq rfl (by omega)
theorem Sys2Proof.Laws.Encoding.tdrop (a : BitVec 6) : Sys2Proof.Laws.Encoding.Statement (.tdrop a) :=
  Sys2Proof.Laws.Encoding.of_eq rfl (by omega)
theorem Sys2Proof.Laws.Encoding.tmove (a : BitVec 6) (b : BitVec 6) (d : BitVec 6) : Sys2Proof.Laws.Encoding.Statement (.tmove a b d) :=
  Sys2Proof.Laws.Encoding.of_eq rfl (by omega)
theorem Sys2Proof.Laws.Encoding.crdecl (a : BitVec 6) (b : BitVec 6) : Sys2Proof.Laws.Encoding.Statement (.crdecl a b) :=
  Sys2Proof.Laws.Encoding.of_eq rfl (by omega)
theorem Sys2Proof.Laws.Encoding.cradd (a : BitVec 6) (v : BitVec 7) : Sys2Proof.Laws.Encoding.Statement (.cradd a v) :=
  Sys2Proof.Laws.Encoding.of_eq rfl (by omega)
theorem Sys2Proof.Laws.Encoding.crclose (a : BitVec 6) : Sys2Proof.Laws.Encoding.Statement (.crclose a) :=
  Sys2Proof.Laws.Encoding.of_eq rfl (by omega)
theorem Sys2Proof.Laws.Encoding.tlbinv (a : BitVec 6) (b : BitVec 6) : Sys2Proof.Laws.Encoding.Statement (.tlbinv a b) :=
  Sys2Proof.Laws.Encoding.of_eq rfl (by omega)
theorem Sys2Proof.Laws.Encoding.region (d : BitVec 6) (a : BitVec 6) (b : BitVec 6) : Sys2Proof.Laws.Encoding.Statement (.region d a b) :=
  Sys2Proof.Laws.Encoding.of_eq rfl (by omega)
theorem Sys2Proof.Laws.Encoding.bankcfg (d : BitVec 6) (a : BitVec 6) : Sys2Proof.Laws.Encoding.Statement (.bankcfg d a) :=
  Sys2Proof.Laws.Encoding.of_eq rfl (by omega)
theorem Sys2Proof.Laws.Encoding.leave (d : BitVec 6) (a : BitVec 6) : Sys2Proof.Laws.Encoding.Statement (.leave d a) :=
  Sys2Proof.Laws.Encoding.of_eq rfl (by omega)
theorem Sys2Proof.Laws.Encoding.errlog (d : BitVec 6) (a : BitVec 6) (b : BitVec 6) : Sys2Proof.Laws.Encoding.Statement (.errlog d a b) :=
  Sys2Proof.Laws.Encoding.of_eq rfl (by omega)
theorem Sys2Proof.Laws.Encoding.tagset (a : BitVec 6) (b : BitVec 6) : Sys2Proof.Laws.Encoding.Statement (.tagset a b) :=
  Sys2Proof.Laws.Encoding.of_eq rfl (by omega)
theorem Sys2Proof.Laws.Encoding.tagget (d : BitVec 6) (a : BitVec 6) : Sys2Proof.Laws.Encoding.Statement (.tagget d a) :=
  Sys2Proof.Laws.Encoding.of_eq rfl (by omega)
theorem Sys2Proof.Laws.Encoding.vfma (d : BitVec 7) (a : BitVec 7) (b : BitVec 7) (c : BitVec 7) : Sys2Proof.Laws.Encoding.Statement (.vfma d a b c) :=
  Sys2Proof.Laws.Encoding.of_eq rfl (by omega)
theorem Sys2Proof.Laws.Encoding.launchCommand (q : Nat) (tag : BitVec 32) (addr : BitVec 64) : Sys2Proof.Laws.Encoding.Statement (.launchCommand q tag addr) :=
  Sys2Proof.Laws.Encoding.of_none rfl
theorem Sys2Proof.Laws.Encoding.tlbinvCommand (q : Nat) (tag : BitVec 32) (va : BitVec 64) (ctl : BitVec 64) : Sys2Proof.Laws.Encoding.Statement (.tlbinvCommand q tag va ctl) :=
  Sys2Proof.Laws.Encoding.of_none rfl
theorem Sys2Proof.Laws.Encoding.bankcfgCommand (q : Nat) (tag : BitVec 32) (cluster : BitVec 8) (cfg : BitVec 64) : Sys2Proof.Laws.Encoding.Statement (.bankcfgCommand q tag cluster cfg) :=
  Sys2Proof.Laws.Encoding.of_none rfl
theorem Sys2Proof.Laws.Encoding.vpin (q : Nat) (tag : BitVec 32) (addr : BitVec 64) (len : BitVec 64) : Sys2Proof.Laws.Encoding.Statement (.vpin q tag addr len) :=
  Sys2Proof.Laws.Encoding.of_none rfl
theorem Sys2Proof.Laws.Encoding.vunpin (q : Nat) (tag : BitVec 32) (addr : BitVec 64) (len : BitVec 64) : Sys2Proof.Laws.Encoding.Statement (.vunpin q tag addr len) :=
  Sys2Proof.Laws.Encoding.of_none rfl
theorem Sys2Proof.Laws.Encoding.vflush (q : Nat) (tag : BitVec 32) (addr : BitVec 64) (len : BitVec 64) : Sys2Proof.Laws.Encoding.Statement (.vflush q tag addr len) :=
  Sys2Proof.Laws.Encoding.of_none rfl
theorem Sys2Proof.Laws.Encoding.vdrop (q : Nat) (tag : BitVec 32) (addr : BitVec 64) (len : BitVec 64) : Sys2Proof.Laws.Encoding.Statement (.vdrop q tag addr len) :=
  Sys2Proof.Laws.Encoding.of_none rfl
theorem Sys2Proof.Laws.Encoding.fresumeReplay (q : Nat) (tag : BitVec 32) (loc : BitVec 32) (frame : BitVec 16) : Sys2Proof.Laws.Encoding.Statement (.fresumeReplay q tag loc frame) :=
  Sys2Proof.Laws.Encoding.of_none rfl
theorem Sys2Proof.Laws.Encoding.fresumeError (q : Nat) (tag : BitVec 32) (loc : BitVec 32) (frame : BitVec 16) : Sys2Proof.Laws.Encoding.Statement (.fresumeError q tag loc frame) :=
  Sys2Proof.Laws.Encoding.of_none rfl
theorem Sys2Proof.Laws.Encoding.fresumeKill (q : Nat) (tag : BitVec 32) (loc : BitVec 32) (frame : BitVec 16) : Sys2Proof.Laws.Encoding.Statement (.fresumeKill q tag loc frame) :=
  Sys2Proof.Laws.Encoding.of_none rfl
theorem Sys2Proof.Laws.Encoding.preemptSave (q : Nat) (tag : BitVec 32) (rgn : BitVec 32) (area : BitVec 64) : Sys2Proof.Laws.Encoding.Statement (.preemptSave q tag rgn area) :=
  Sys2Proof.Laws.Encoding.of_none rfl
theorem Sys2Proof.Laws.Encoding.preemptDiscard (q : Nat) (tag : BitVec 32) (rgn : BitVec 32) (area : BitVec 64) : Sys2Proof.Laws.Encoding.Statement (.preemptDiscard q tag rgn area) :=
  Sys2Proof.Laws.Encoding.of_none rfl
theorem Sys2Proof.Laws.Encoding.restore (q : Nat) (tag : BitVec 32) (area : BitVec 64) : Sys2Proof.Laws.Encoding.Statement (.restore q tag area) :=
  Sys2Proof.Laws.Encoding.of_none rfl
theorem Sys2Proof.Laws.Encoding.savesize (q : Nat) (tag : BitVec 32) (rgn : BitVec 32) : Sys2Proof.Laws.Encoding.Statement (.savesize q tag rgn) :=
  Sys2Proof.Laws.Encoding.of_none rfl
theorem Sys2Proof.Laws.Encoding.rgnop (q : Nat) (tag : BitVec 32) (a : BitVec 64) (b : BitVec 64) : Sys2Proof.Laws.Encoding.Statement (.rgnop q tag a b) :=
  Sys2Proof.Laws.Encoding.of_none rfl
theorem Sys2Proof.Laws.Encoding.rgnread (q : Nat) (tag : BitVec 32) (rgn : BitVec 32) (dst : BitVec 64) : Sys2Proof.Laws.Encoding.Statement (.rgnread q tag rgn dst) :=
  Sys2Proof.Laws.Encoding.of_none rfl
theorem Sys2Proof.Laws.Encoding.rplread (q : Nat) (tag : BitVec 32) (loc : BitVec 32) (frame : BitVec 16) (dst : BitVec 64) : Sys2Proof.Laws.Encoding.Statement (.rplread q tag loc frame dst) :=
  Sys2Proof.Laws.Encoding.of_none rfl
theorem Sys2Proof.Laws.Encoding.dirread (q : Nat) (tag : BitVec 32) (core : BitVec 16) (dst : BitVec 64) : Sys2Proof.Laws.Encoding.Statement (.dirread q tag core dst) :=
  Sys2Proof.Laws.Encoding.of_none rfl
theorem Sys2Proof.Laws.Encoding.dbgattach (q : Nat) (tag : BitVec 32) (rgn : BitVec 32) : Sys2Proof.Laws.Encoding.Statement (.dbgattach q tag rgn) :=
  Sys2Proof.Laws.Encoding.of_none rfl
theorem Sys2Proof.Laws.Encoding.dbgdetach (q : Nat) (tag : BitVec 32) (rgn : BitVec 32) : Sys2Proof.Laws.Encoding.Statement (.dbgdetach q tag rgn) :=
  Sys2Proof.Laws.Encoding.of_none rfl
theorem Sys2Proof.Laws.Encoding.dbgstop (q : Nat) (tag : BitVec 32) (kind : BitVec 8) (target : BitVec 32) : Sys2Proof.Laws.Encoding.Statement (.dbgstop q tag kind target) :=
  Sys2Proof.Laws.Encoding.of_none rfl
theorem Sys2Proof.Laws.Encoding.dbgrun (q : Nat) (tag : BitVec 32) (kind : BitVec 8) (target : BitVec 32) : Sys2Proof.Laws.Encoding.Statement (.dbgrun q tag kind target) :=
  Sys2Proof.Laws.Encoding.of_none rfl
theorem Sys2Proof.Laws.Encoding.dbgstep (q : Nat) (tag : BitVec 32) (loc : BitVec 32) (count : BitVec 16) : Sys2Proof.Laws.Encoding.Statement (.dbgstep q tag loc count) :=
  Sys2Proof.Laws.Encoding.of_none rfl
theorem Sys2Proof.Laws.Encoding.dbgread (q : Nat) (tag : BitVec 32) (loc : BitVec 32) (item : BitVec 8) (index : BitVec 8) (host : BitVec 64) : Sys2Proof.Laws.Encoding.Statement (.dbgread q tag loc item index host) :=
  Sys2Proof.Laws.Encoding.of_none rfl
theorem Sys2Proof.Laws.Encoding.dbgwrite (q : Nat) (tag : BitVec 32) (loc : BitVec 32) (item : BitVec 8) (index : BitVec 8) (host : BitVec 64) : Sys2Proof.Laws.Encoding.Statement (.dbgwrite q tag loc item index host) :=
  Sys2Proof.Laws.Encoding.of_none rfl
theorem Sys2Proof.Laws.Encoding.dbgbp (q : Nat) (tag : BitVec 32) (index : BitVec 8) (enable : BitVec 8) (asid : BitVec 16) (pc : BitVec 64) : Sys2Proof.Laws.Encoding.Statement (.dbgbp q tag index enable asid pc) :=
  Sys2Proof.Laws.Encoding.of_none rfl
theorem Sys2Proof.Laws.Encoding.dbgwp (q : Nat) (tag : BitVec 32) (index : BitVec 8) (enable : BitVec 8) (asid : BitVec 16) (log2 : BitVec 8) (kinds : BitVec 8) (va : BitVec 64) : Sys2Proof.Laws.Encoding.Statement (.dbgwp q tag index enable asid log2 kinds va) :=
  Sys2Proof.Laws.Encoding.of_none rfl
theorem Sys2Proof.Laws.Encoding.errdrain (q : Nat) (tag : BitVec 32) (dst : BitVec 64) (most : BitVec 32) : Sys2Proof.Laws.Encoding.Statement (.errdrain q tag dst most) :=
  Sys2Proof.Laws.Encoding.of_none rfl
theorem Sys2Proof.Laws.Encoding.malformedCommand (q : Nat) (tag : BitVec 32) : Sys2Proof.Laws.Encoding.Statement (.malformedCommand q tag) :=
  Sys2Proof.Laws.Encoding.of_none rfl
theorem Sys2Proof.Laws.Encoding.sqtailDoorbell (q : Nat) (v : BitVec 32) : Sys2Proof.Laws.Encoding.Statement (.sqtailDoorbell q v) :=
  Sys2Proof.Laws.Encoding.of_none rfl
theorem Sys2Proof.Laws.Encoding.ctxbaseWrite (v : BitVec 64) : Sys2Proof.Laws.Encoding.Statement (.ctxbaseWrite v) :=
  Sys2Proof.Laws.Encoding.of_none rfl
theorem Sys2Proof.Laws.Encoding.registerWrite (off : BitVec 16) (bytes : Nat) (v : BitVec 64) : Sys2Proof.Laws.Encoding.Statement (.registerWrite off bytes v) :=
  Sys2Proof.Laws.Encoding.of_none rfl
theorem Sys2Proof.Laws.Encoding.coldReset (failed : Option (BitVec 4)) : Sys2Proof.Laws.Encoding.Statement (.coldReset failed) :=
  Sys2Proof.Laws.Encoding.of_none rfl
theorem Sys2Proof.Laws.Encoding.functionLevelReset : Sys2Proof.Laws.Encoding.Statement (.functionLevelReset) :=
  Sys2Proof.Laws.Encoding.of_none rfl
theorem Sys2Proof.Laws.Encoding.coreReset (core : Nat) : Sys2Proof.Laws.Encoding.Statement (.coreReset core) :=
  Sys2Proof.Laws.Encoding.of_none rfl
theorem Sys2Proof.Laws.Encoding.corePowerGate (core : Nat) : Sys2Proof.Laws.Encoding.Statement (.corePowerGate core) :=
  Sys2Proof.Laws.Encoding.of_none rfl
theorem Sys2Proof.Laws.Encoding.bisnpinv (addr : BitVec 64) : Sys2Proof.Laws.Encoding.Statement (.bisnpinv addr) :=
  Sys2Proof.Laws.Encoding.of_none rfl
theorem Sys2Proof.Laws.Encoding.bisnpdata (addr : BitVec 64) : Sys2Proof.Laws.Encoding.Statement (.bisnpdata addr) :=
  Sys2Proof.Laws.Encoding.of_none rfl
theorem Sys2Proof.Laws.Encoding.bisnpcur (addr : BitVec 64) : Sys2Proof.Laws.Encoding.Statement (.bisnpcur addr) :=
  Sys2Proof.Laws.Encoding.of_none rfl
theorem Sys2Proof.Laws.Encoding.h2dSnoop (addr : BitVec 64) : Sys2Proof.Laws.Encoding.Statement (.h2dSnoop addr) :=
  Sys2Proof.Laws.Encoding.of_none rfl
theorem Sys2Proof.Laws.Encoding.hdmAccess (agent : HdmAgent) (kind : HdmKind) (addr : BitVec 64) (data : BitVec 512) : Sys2Proof.Laws.Encoding.Statement (.hdmAccess agent kind addr data) :=
  Sys2Proof.Laws.Encoding.of_none rfl
theorem Sys2Proof.Laws.Encoding.atsInvalidationRequest (base : BitVec 64) (len : BitVec 64) : Sys2Proof.Laws.Encoding.Statement (.atsInvalidationRequest base len) :=
  Sys2Proof.Laws.Encoding.of_none rfl
theorem Sys2Proof.Laws.Encoding.atsCompletion (asid : BitVec 16) (page : BitVec 64) (host : BitVec 64) (log2 : Nat) (read : Bool) (write : Bool) (fail : Bool) : Sys2Proof.Laws.Encoding.Statement (.atsCompletion asid page host log2 read write fail) :=
  Sys2Proof.Laws.Encoding.of_none rfl
theorem Sys2Proof.Laws.Encoding.ideFailure (port : Nat) (carried : List Nat) : Sys2Proof.Laws.Encoding.Statement (.ideFailure port carried) :=
  Sys2Proof.Laws.Encoding.of_none rfl
theorem Sys2Proof.Laws.Encoding.thermalLimit (allow : BitVec 24) : Sys2Proof.Laws.Encoding.Statement (.thermalLimit allow) :=
  Sys2Proof.Laws.Encoding.of_none rfl
theorem Sys2Proof.Laws.Encoding.thermalTrip : Sys2Proof.Laws.Encoding.Statement (.thermalTrip) :=
  Sys2Proof.Laws.Encoding.of_none rfl
theorem Sys2Proof.Laws.Encoding.getVersion : Sys2Proof.Laws.Encoding.Statement (.getVersion) :=
  Sys2Proof.Laws.Encoding.of_none rfl
theorem Sys2Proof.Laws.Encoding.getCapabilities : Sys2Proof.Laws.Encoding.Statement (.getCapabilities) :=
  Sys2Proof.Laws.Encoding.of_none rfl
theorem Sys2Proof.Laws.Encoding.negotiateAlgorithms (ecdsaP384 : Bool) (sha384 : Bool) : Sys2Proof.Laws.Encoding.Statement (.negotiateAlgorithms ecdsaP384 sha384) :=
  Sys2Proof.Laws.Encoding.of_none rfl
theorem Sys2Proof.Laws.Encoding.getDigests : Sys2Proof.Laws.Encoding.Statement (.getDigests) :=
  Sys2Proof.Laws.Encoding.of_none rfl
theorem Sys2Proof.Laws.Encoding.getCertificate (offset : BitVec 16) (length : BitVec 16) : Sys2Proof.Laws.Encoding.Statement (.getCertificate offset length) :=
  Sys2Proof.Laws.Encoding.of_none rfl
theorem Sys2Proof.Laws.Encoding.challenge (nonce : BitVec 256) : Sys2Proof.Laws.Encoding.Statement (.challenge nonce) :=
  Sys2Proof.Laws.Encoding.of_none rfl
theorem Sys2Proof.Laws.Encoding.getMeasurements (index : BitVec 8) : Sys2Proof.Laws.Encoding.Statement (.getMeasurements index) :=
  Sys2Proof.Laws.Encoding.of_none rfl
theorem Sys2Proof.Laws.Encoding.keyExchange (port : Nat) (stream : Nat) (point : BitVec 768) : Sys2Proof.Laws.Encoding.Statement (.keyExchange port stream point) :=
  Sys2Proof.Laws.Encoding.of_none rfl
theorem Sys2Proof.Laws.Encoding.lockInterfaceRequest (rgn : Nat) : Sys2Proof.Laws.Encoding.Statement (.lockInterfaceRequest rgn) :=
  Sys2Proof.Laws.Encoding.of_none rfl
theorem Sys2Proof.Laws.Encoding.startInterfaceRequest (rgn : Nat) : Sys2Proof.Laws.Encoding.Statement (.startInterfaceRequest rgn) :=
  Sys2Proof.Laws.Encoding.of_none rfl
theorem Sys2Proof.Laws.Encoding.stopInterfaceRequest (rgn : Nat) : Sys2Proof.Laws.Encoding.Statement (.stopInterfaceRequest rgn) :=
  Sys2Proof.Laws.Encoding.of_none rfl
theorem Sys2Proof.Laws.Encoding.correctableError (what : ErrPart) (place : Nat) (addr : Nat) : Sys2Proof.Laws.Encoding.Statement (.correctableError what place addr) :=
  Sys2Proof.Laws.Encoding.of_none rfl
theorem Sys2Proof.Laws.Encoding.uncorrectableError (what : ErrPart) (place : Nat) (addr : Nat) : Sys2Proof.Laws.Encoding.Statement (.uncorrectableError what place addr) :=
  Sys2Proof.Laws.Encoding.of_none rfl
theorem Sys2Proof.Laws.Encoding.vaultUncorrectableError (addr : Nat) : Sys2Proof.Laws.Encoding.Statement (.vaultUncorrectableError addr) :=
  Sys2Proof.Laws.Encoding.of_none rfl
theorem Sys2Proof.Laws.Encoding.purseRefill (cluster : Nat) : Sys2Proof.Laws.Encoding.Statement (.purseRefill cluster) :=
  Sys2Proof.Laws.Encoding.of_none rfl
theorem Sys2Proof.Laws.Encoding.migrationIssue (id : Nat) : Sys2Proof.Laws.Encoding.Statement (.migrationIssue id) :=
  Sys2Proof.Laws.Encoding.of_none rfl
theorem Sys2Proof.Laws.Encoding.sweepRetry (die : Nat) : Sys2Proof.Laws.Encoding.Statement (.sweepRetry die) :=
  Sys2Proof.Laws.Encoding.of_none rfl
theorem Sys2Proof.Laws.Encoding.backgroundWriteback (die : Nat) : Sys2Proof.Laws.Encoding.Statement (.backgroundWriteback die) :=
  Sys2Proof.Laws.Encoding.of_none rfl
theorem Sys2Proof.Laws.Encoding.granuleFilled (frame : Nat) : Sys2Proof.Laws.Encoding.Statement (.granuleFilled frame) :=
  Sys2Proof.Laws.Encoding.of_none rfl
theorem Sys2Proof.Laws.Encoding.writebackDone (frame : Nat) : Sys2Proof.Laws.Encoding.Statement (.writebackDone frame) :=
  Sys2Proof.Laws.Encoding.of_none rfl
theorem Sys2Proof.Laws.Encoding.evictionComplete (frame : Nat) : Sys2Proof.Laws.Encoding.Statement (.evictionComplete frame) :=
  Sys2Proof.Laws.Encoding.of_none rfl
theorem Sys2Proof.Laws.Encoding.ownershipGranted (addr : Nat) : Sys2Proof.Laws.Encoding.Statement (.ownershipGranted addr) :=
  Sys2Proof.Laws.Encoding.of_none rfl
theorem Sys2Proof.Laws.Encoding.pageWalk (core : Nat) (asid : BitVec 16) (va : BitVec 64) : Sys2Proof.Laws.Encoding.Statement (.pageWalk core asid va) :=
  Sys2Proof.Laws.Encoding.of_none rfl
theorem Sys2Proof.Laws.Encoding.lsuComplete (id : Nat) : Sys2Proof.Laws.Encoding.Statement (.lsuComplete id) :=
  Sys2Proof.Laws.Encoding.of_none rfl
theorem Sys2Proof.Laws.Encoding.msixCoalescedSend (vector : Nat) : Sys2Proof.Laws.Encoding.Statement (.msixCoalescedSend vector) :=
  Sys2Proof.Laws.Encoding.of_none rfl
theorem Sys2Proof.Laws.Encoding.faultReportDelivery : Sys2Proof.Laws.Encoding.Statement (.faultReportDelivery) :=
  Sys2Proof.Laws.Encoding.of_none rfl
theorem Sys2Proof.Laws.Encoding.hcallRingDelivery : Sys2Proof.Laws.Encoding.Statement (.hcallRingDelivery) :=
  Sys2Proof.Laws.Encoding.of_none rfl
theorem Sys2Proof.Laws.Encoding.recordReplay (loc : Nat) (frame : Nat) : Sys2Proof.Laws.Encoding.Statement (.recordReplay loc frame) :=
  Sys2Proof.Laws.Encoding.of_none rfl
theorem Sys2Proof.Laws.Encoding.drain (core : Nat) : Sys2Proof.Laws.Encoding.Statement (.drain core) :=
  Sys2Proof.Laws.Encoding.of_none rfl
theorem Sys2Proof.Laws.Encoding.dirtyLineWriteback (core : Nat) (line : Nat) : Sys2Proof.Laws.Encoding.Statement (.dirtyLineWriteback core line) :=
  Sys2Proof.Laws.Encoding.of_none rfl
theorem Sys2Proof.Laws.Encoding.mergeWindowClose (cluster : Nat) (line : Nat) (asid : BitVec 16) : Sys2Proof.Laws.Encoding.Statement (.mergeWindowClose cluster line asid) :=
  Sys2Proof.Laws.Encoding.of_none rfl
theorem Sys2Proof.Laws.Encoding.tenureSwitch (slot : Nat) : Sys2Proof.Laws.Encoding.Statement (.tenureSwitch slot) :=
  Sys2Proof.Laws.Encoding.of_none rfl
theorem Sys2Proof.Laws.Encoding.budgetExhausted (rgn : Nat) : Sys2Proof.Laws.Encoding.Statement (.budgetExhausted rgn) :=
  Sys2Proof.Laws.Encoding.of_none rfl
theorem Sys2Proof.Laws.Encoding.placement : Sys2Proof.Laws.Encoding.Statement (.placement) :=
  Sys2Proof.Laws.Encoding.of_none rfl
theorem Sys2Proof.Laws.Encoding.taskTake (core : Nat) : Sys2Proof.Laws.Encoding.Statement (.taskTake core) :=
  Sys2Proof.Laws.Encoding.of_none rfl
theorem Sys2Proof.Laws.Encoding.tellerRecordArrival (core : Nat) : Sys2Proof.Laws.Encoding.Statement (.tellerRecordArrival core) :=
  Sys2Proof.Laws.Encoding.of_none rfl
theorem Sys2Proof.Laws.Encoding.overflowReturn (rgn : Nat) : Sys2Proof.Laws.Encoding.Statement (.overflowReturn rgn) :=
  Sys2Proof.Laws.Encoding.of_none rfl
theorem Sys2Proof.Laws.Encoding.binRipen (core : Nat) (bin : Nat) : Sys2Proof.Laws.Encoding.Statement (.binRipen core bin) :=
  Sys2Proof.Laws.Encoding.of_none rfl
theorem Sys2Proof.Laws.Encoding.tellerPlacement (core : Nat) : Sys2Proof.Laws.Encoding.Statement (.tellerPlacement core) :=
  Sys2Proof.Laws.Encoding.of_none rfl
theorem Sys2Proof.Laws.Encoding.fibreEmpty (loc : Nat) : Sys2Proof.Laws.Encoding.Statement (.fibreEmpty loc) :=
  Sys2Proof.Laws.Encoding.of_none rfl
theorem Sys2Proof.Laws.Encoding.launchRetire (id : Nat) : Sys2Proof.Laws.Encoding.Statement (.launchRetire id) :=
  Sys2Proof.Laws.Encoding.of_none rfl
theorem Sys2Proof.Laws.Encoding.contextSave (rgn : Nat) : Sys2Proof.Laws.Encoding.Statement (.contextSave rgn) :=
  Sys2Proof.Laws.Encoding.of_none rfl
theorem Sys2Proof.Laws.Encoding.bankSwitch (cluster : Nat) (bank : Nat) : Sys2Proof.Laws.Encoding.Statement (.bankSwitch cluster bank) :=
  Sys2Proof.Laws.Encoding.of_none rfl
theorem Sys2Proof.Laws.Encoding.batchMigration (id : Nat) (engine : Nat) : Sys2Proof.Laws.Encoding.Statement (.batchMigration id engine) :=
  Sys2Proof.Laws.Encoding.of_none rfl
theorem Sys2Proof.Laws.Encoding.copyEntryStart (group : Nat) : Sys2Proof.Laws.Encoding.Statement (.copyEntryStart group) :=
  Sys2Proof.Laws.Encoding.of_none rfl
theorem Sys2Proof.Laws.Encoding.cpissueStart (id : Nat) : Sys2Proof.Laws.Encoding.Statement (.cpissueStart id) :=
  Sys2Proof.Laws.Encoding.of_none rfl
theorem Sys2Proof.Laws.Encoding.transferComplete (id : Nat) : Sys2Proof.Laws.Encoding.Statement (.transferComplete id) :=
  Sys2Proof.Laws.Encoding.of_none rfl
theorem Sys2Proof.Laws.Encoding.matrixCommandStart (id : Nat) : Sys2Proof.Laws.Encoding.Statement (.matrixCommandStart id) :=
  Sys2Proof.Laws.Encoding.of_none rfl
theorem Sys2Proof.Laws.Encoding.matrixCommandComplete (id : Nat) : Sys2Proof.Laws.Encoding.Statement (.matrixCommandComplete id) :=
  Sys2Proof.Laws.Encoding.of_none rfl
theorem Sys2Proof.Laws.Encoding.nodeVisit (id : Nat) (lane : Nat) : Sys2Proof.Laws.Encoding.Statement (.nodeVisit id lane) :=
  Sys2Proof.Laws.Encoding.of_none rfl
theorem Sys2Proof.Laws.Encoding.sampleComplete (id : Nat) : Sys2Proof.Laws.Encoding.Statement (.sampleComplete id) :=
  Sys2Proof.Laws.Encoding.of_none rfl
theorem Sys2Proof.Laws.Encoding.rastComplete (id : Nat) : Sys2Proof.Laws.Encoding.Statement (.rastComplete id) :=
  Sys2Proof.Laws.Encoding.of_none rfl
theorem Sys2Proof.Laws.Encoding.frameEvent (id : Nat) : Sys2Proof.Laws.Encoding.Statement (.frameEvent id) :=
  Sys2Proof.Laws.Encoding.of_none rfl
theorem Sys2Proof.Laws.Encoding.censusBroadcast (id : Nat) : Sys2Proof.Laws.Encoding.Statement (.censusBroadcast id) :=
  Sys2Proof.Laws.Encoding.of_none rfl
theorem Sys2Proof.Laws.Encoding.censusSweep (serial : Nat) (core : Nat) : Sys2Proof.Laws.Encoding.Statement (.censusSweep serial core) :=
  Sys2Proof.Laws.Encoding.of_none rfl
theorem Sys2Proof.Laws.Encoding.tmoveInsert (id : Nat) : Sys2Proof.Laws.Encoding.Statement (.tmoveInsert id) :=
  Sys2Proof.Laws.Encoding.of_none rfl
theorem Sys2Proof.Laws.Encoding.switch (id : Nat) (target : Bool) : Sys2Proof.Laws.Encoding.Statement (.switch id target) :=
  Sys2Proof.Laws.Encoding.of_none rfl
theorem Sys2Proof.Laws.Encoding.censusComplete (serial : Nat) : Sys2Proof.Laws.Encoding.Statement (.censusComplete serial) :=
  Sys2Proof.Laws.Encoding.of_none rfl
theorem Sys2Proof.Laws.Encoding.dbgreadTimeout (q : Nat) : Sys2Proof.Laws.Encoding.Statement (.dbgreadTimeout q) :=
  Sys2Proof.Laws.Encoding.of_none rfl
theorem Sys2Proof.Laws.Encoding.linkTrained (port : Nat) : Sys2Proof.Laws.Encoding.Statement (.linkTrained port) :=
  Sys2Proof.Laws.Encoding.of_none rfl
theorem Sys2Proof.Laws.Encoding.hostBirsp (id : Nat) : Sys2Proof.Laws.Encoding.Statement (.hostBirsp id) :=
  Sys2Proof.Laws.Encoding.of_none rfl
theorem Sys2Proof.Laws.Encoding.corePowerUp (core : Nat) : Sys2Proof.Laws.Encoding.Statement (.corePowerUp core) :=
  Sys2Proof.Laws.Encoding.of_none rfl
theorem Sys2Proof.Laws.Encoding.allowanceSet (allow : List (BitVec 24)) (temp : BitVec 16) (draw : BitVec 16) (throttle : Bool) : Sys2Proof.Laws.Encoding.Statement (.allowanceSet allow temp draw throttle) :=
  Sys2Proof.Laws.Encoding.of_none rfl
end

