-- ==== Sys2Proof/Laws/Scalar.lean ====
section
/-! SUPPORT. Scalar instructions: how their shared operations run, and their results in other words. -/

namespace Sys2Proof.Machine

/-- A two-operand scalar instruction. -/
theorem combines_of {i : Instr} {d a b : BitVec 6} {g : Dword → Dword → Dword} (h : ∀ s, exec i s = salu d a b g s) :
    Combines i d a b g := by
  intro s f hi hs
  rw [h, salu, scalarOp_of _ hi hs]
  exact done_modFibre (fun f' => f'.setS d.toNat (g (f.s a.toNat) (f.s b.toNat))) hi

/-- A one-operand scalar instruction. -/
theorem turns_of_one {i : Instr} {d a : BitVec 6} {g : Dword → Dword} (h : ∀ s, exec i s = saluOne d a g s) :
    Turns i [d.toNat, a.toNat] fun f => f.setS d.toNat (g (f.s a.toNat)) := by
  intro s f hi hs
  rw [h, saluOne, scalarOp_of _ hi hs]
  exact done_modFibre (fun f' => f'.setS d.toNat (g (f.s a.toNat))) hi

theorem aluMin_eq (x y : Dword) : aluMin x y = BitVec.ofInt 64 (min x.toInt y.toInt) := by
  unfold aluMin; split <;> rename_i h
  · simp [Int.min_def, h]
  · simp [Int.min_def, h]

theorem aluMax_eq (x y : Dword) : aluMax x y = BitVec.ofInt 64 (max x.toInt y.toInt) := by
  unfold aluMax; split <;> rename_i h
  · simp [Int.max_def, h]
  · simp [Int.max_def, h]

theorem aluMinn_eq (x y : Dword) : aluMinn x y = BitVec.ofNat 64 (min x.toNat y.toNat) := by
  unfold aluMinn; split <;> rename_i h
  · simp [h]
  · simp [Nat.min_def, h]

theorem aluMaxn_eq (x y : Dword) : aluMaxn x y = BitVec.ofNat 64 (max x.toNat y.toNat) := by
  unfold aluMaxn; split <;> rename_i h
  · simp [h]
  · simp [Nat.max_def, h]

theorem popCount_eq (n x : Nat) : popCount n x = (List.range n).countP fun i => x.testBit i := by
  induction n generalizing x with
  | zero => rfl
  | succ n ih =>
    rw [popCount, ih, List.range_succ_eq_map, List.countP_cons, List.countP_map]
    simp only [Function.comp_def, Nat.testBit_succ, Nat.testBit_zero]
    have : x % 2 = 0 ∨ x % 2 = 1 := by omega
    rcases this with h | h <;> simp [h] <;> omega

theorem compareFlags_eq (x y : Dword) : compareFlags x y = orderFlags x y := by
  unfold compareFlags orderFlags
  have h1 : (x.toInt < y.toInt) = (x.slt y = true) := by simp [BitVec.slt]
  have h2 : (x.toNat < y.toNat) = (x.ult y = true) := by simp [BitVec.ult]
  have h3 : (x = y) = ((x == y) = true) := by simp
  simp only [h1, h2, h3]
  cases x.ult y <;> cases x.slt y <;> cases x == y <;> decide

theorem aluCmp_eq (x y : Dword) : aluCmp x y = orderCode (x.slt y) (x == y) := by
  simp [aluCmp, BitVec.slt, orderCode]

theorem aluCmpn_eq (x y : Dword) : aluCmpn x y = orderCode (x.ult y) (x == y) := by
  simp [aluCmpn, BitVec.ult, orderCode]

/-- MOVK replaces one 16-bit part. -/
theorem putField_half (x : Dword) (h : BitVec 2) (i : BitVec 16) :
    putField x (16 * h.toNat) 16 i.toNat = (x &&& ~~~((0xFFFF : Dword) <<< (16 * h.toNat))) ||| (i.setWidth 64 <<< (16 * h.toNat)) := by
  apply BitVec.eq_of_getLsbD_eq
  intro k hk
  have hh : h.toNat < 4 := h.isLt
  have hi : i.toNat < 2^16 := i.isLt
  have hm : ∀ j, BitVec.getLsbD (65535 : Dword) j = decide (j < 16) := by
    intro j
    show (2^16-1).testBit j = _
    exact Nat.testBit_two_pow_sub_one 16 j
  have key : x.toNat - x.toNat / 2 ^ (16 * h.toNat) % 2 ^ 16 * 2 ^ (16 * h.toNat) + i.toNat % 2 ^ 16 * 2 ^ (16 * h.toNat)
     = 2 ^ (16 * h.toNat) * (2 ^ 16 * (x.toNat / 2 ^ (16 * h.toNat) / 2 ^ 16) + i.toNat) + x.toNat % 2 ^ (16 * h.toNat) := by
    have h1 := Nat.div_add_mod x.toNat (2 ^ (16 * h.toNat))
    have h2 := Nat.div_add_mod (x.toNat / 2 ^ (16 * h.toNat)) (2^16)
    rw [Nat.mod_eq_of_lt hi]
    generalize x.toNat / 2 ^ (16 * h.toNat) = q at *
    generalize x.toNat % 2 ^ (16 * h.toNat) = r at *
    generalize hP : 2 ^ (16 * h.toNat) = P at *
    generalize q / 2^16 = q1 at *
    generalize q % 2^16 = q0 at *
    rw [← h1, ← h2]
    simp only [Nat.mul_add, Nat.mul_comm]
    omega
  simp only [putField, field, BitVec.getLsbD_ofNat, hk, decide_true, Bool.true_and, BitVec.getLsbD_or, BitVec.getLsbD_and, BitVec.getLsbD_not, BitVec.getLsbD_shiftLeft, BitVec.getLsbD_setWidth]
  rw [key, Nat.testBit_two_pow_mul_add _ (Nat.mod_lt _ (Nat.two_pow_pos _)), Nat.testBit_two_pow_mul_add _ hi]
  have h16 : ∀ j, 16 ≤ j → i.toNat.testBit j = false := fun j hj => Nat.testBit_lt_two_pow (Nat.lt_of_lt_of_le hi (Nat.pow_le_pow_right (by omega) hj))
  have hn : ∀ j, Nat.testBit 65535 j = decide (j < 16) := Nat.testBit_two_pow_sub_one 16
  by_cases h1 : k < 16 * h.toNat
  · simp [h1, Nat.testBit_mod_two_pow, BitVec.getLsbD]
  · by_cases h2 : k - 16 * h.toNat < 16
    · have h4 : k - 16 * h.toNat < 64 := by omega
      simp [h1, h2, h4, hn, BitVec.getLsbD]
    · have h3 : 16 * h.toNat + (16 + (k - 16 * h.toNat - 16)) = k := by omega
      have h5 := h16 (k - 16 * h.toNat) (by omega)
      rw [if_neg h1, if_neg h2, Nat.testBit_div_two_pow, Nat.testBit_div_two_pow]
      rw [show k - 16 * h.toNat - 16 + 16 + 16 * h.toNat = k by omega]
      simp [h1, h2, h5, hn, BitVec.getLsbD]

theorem badTarget_iff (a : Dword) : badTarget a = true ↔ (a.toNat % 4 ≠ 0 ∨ 2 ^ 48 ≤ a.toNat) := by
  simp [badTarget, field]; have := a.isLt; omega

/-- A path instruction goes on with its new mask and stack, or away where the mask is empty. -/
theorem follows_of {s : State} {f : Fibre} (h : Issues s f) (e : Word) (st : List StackEnt) (away) :
    (.next ((pathNext s e st away).finish s) : Out) = follows s { f with exec := e, stack := st } away := by
  simp only [pathNext, follows]
  split
  · exact jump_modFibre (fun f => { f with exec := e, stack := st }) _ h
  · exact done_modFibre (fun f => { f with exec := e, stack := st }) h

theorem leaveLoop_eq (b into : Word) (above : List StackEnt) (l) (below) (h : ∀ e ∈ above, e.kind ≠ .loopEnt) (hl : l.kind = .loopEnt) :
    leaveLoop b into (above ++ l :: below) = above.map (fun e => ⟨e.kind, e.ent &&& ~~~b, e.pend &&& ~~~b, e.addr⟩) ++ ⟨l.kind, l.ent, l.pend ||| into, l.addr⟩ :: below := by
  induction above with
  | nil => simp [leaveLoop, hl]
  | cons a t ih =>
    have h1 := h a (by simp)
    have := ih (fun e he => h e (by simp [he]))
    simp [leaveLoop, h1, this]

end Sys2Proof.Machine
end

