-- ==== Sys2Proof/Laws/Vector.lean ====
section
/-! SUPPORT. Lane-acting instructions: how a vector operation runs, and flags that are always zero. -/

namespace Sys2Proof.Machine

/-- A vector operation that may execute and raises no enabled trap. -/
theorem vecOp_of {s : State} {f : Fibre} {pair : Bool} {d : Nat} {srcs : List Nat} {b} (lanes) (g : Nat → Nat × Nat)
    (h : LanesReady s f pair (d :: srcs) b) (hu : Untrapped f lanes g) :
    (.next ((vecOp s f pair d srcs b lanes g).finish s) : Out) = lanesBecame s pair d lanes g := by
  obtain ⟨hi, hp, hs⟩ := h
  have hs' : s.busy s.cur (vecRes s f pair (d :: srcs) b) = false := hs
  have hu' : enabledFlags f.mode (laneFlags (List.map (fun i => (i, g i)) lanes)) = 0 := hu
  simp only [vecOp, hp, hs', vecFinish, hu', Bool.false_eq_true, if_false, ne_eq, not_true_eq_false, Act.finish, lanesBecame, laneResults, List.map_map]; rfl

/-- Lanes that raise no flag raise no trap. -/
theorem untrapped_of_zero {f : Fibre} (lanes) {g : Nat → Nat × Nat} (h : ∀ l, (g l).2 = 0) : Untrapped f lanes g := by
  have : ∀ (l : List Nat) a, (laneResults l g).foldl (fun a e => a ||| e.2.2) a = a := by
    intro l; induction l with
    | nil => intro a; rfl
    | cons x t ih => intro a; simp only [laneResults, List.map_cons, List.foldl_cons, h]; have := ih a; simp only [laneResults] at this; simpa using this
  simp [Untrapped, laneFlags, this, enabledFlags]

theorem packElems_zero (w) : ∀ l : List (Nat × Nat), (∀ e ∈ l, e.2 = 0) → (packElems w l).2 = 0 := by
  intro l; induction l with
  | nil => intro _; rfl
  | cons x t ih =>
    intro h
    obtain ⟨a, b⟩ := x
    have h1 : b = 0 := h (a, b) (by simp)
    have h2 := ih fun e he => h e (by simp [he])
    simp [packElems, h1, h2, orFlags]

theorem perElem_zero (t : Fmt) (g : Nat → Nat × Nat) (h : ∀ e, (g e).2 = 0) : (perElem t g).2 = 0 := by
  apply packElems_zero; intro e he; simp only [List.mem_map] at he; obtain ⟨x, _, rfl⟩ := he; exact h x

end Sys2Proof.Machine
end

