-- ==== Sys2Proof/Tests/Slice0.lean ====
section
/-! SUPPORT. Tests: words of every family decode as the encoding tables of the specification say; single steps
against results calculated by hand from the rules; ill-formed terms; and for each statement a state that meets its
hypotheses. -/

namespace Sys2Proof.Tests
open Sys2Proof Sys2Proof.Machine
set_option Elab.async false

theorem test_decode_nop_to_modeField :
    decode 0x00000000 = .ok .nop ∧ decode 0x00100000 = .ok .exit ∧ decode 0x0020001B = .ok (.trap 27) ∧
    decode 0x00300000 = .ok .tret ∧ decode 0x00400000 = .ok .bkpt ∧ decode 0x005F0000 = .ok (.hcall 60) ∧
    decode 0x00600000 = .ok .yield ∧ decode 0x00700000 = .ok .halt ∧ decode 0x04000000 = .ok .cede ∧
    decode 0x08000068 = .ok (.mode 104) ∧ decode 0x0A400014 = .ok (.modeField 2 20) :=
  ⟨rfl, rfl, rfl, rfl, rfl, rfl, rfl, rfl, rfl, rfl, rfl⟩

theorem test_decode_modew_to_call :
    decode 0x0C0F8000 = .ok (.modew 62) ∧ decode 0x0C900001 = .ok (.moder 9) ∧ decode 0x0D400002 = .ok (.fstr 20) ∧
    decode 0x0C07C003 = .ok (.fstw 31) ∧ decode 0x12A058BC = .ok (.wait 42 1 24 47) ∧
    decode 0x140D4004 = .ok (.waitx 53 4) ∧ decode 0x180000D7 = .ok (.bra 0 215) ∧
    decode 0x1EC000E2 = .ok (.call 11 226) :=
  ⟨rfl, rfl, rfl, rfl, rfl, rfl, rfl, rfl⟩

theorem test_decode_ifOp_to_ret :
    decode 0x20680104 = .ok (.ifOp 6 1 260) ∧ decode 0x208000E1 = .ok (.elseOp 225) ∧ decode 0x21000000 = .ok .endif ∧
    decode 0x218000F7 = .ok (.loop 247) ∧ decode 0x22280000 = .ok (.breakOp 2 1) ∧
    decode 0x22D00000 = .ok (.lcont 5 0) ∧ decode 0x23080146 = .ok (.endloop 0 1 326) ∧
    decode 0x2408C000 = .ok (.brx 35) ∧ decode 0x24E14001 = .ok (.callx 14 5) ∧ decode 0x240E4002 = .ok (.ret 57) :=
  ⟨rfl, rfl, rfl, rfl, rfl, rfl, rfl, rfl, rfl, rfl⟩

theorem test_decode_add_to_andn :
    decode 0x2846F200 = .ok (.add 4 27 50) ∧ decode 0x28F9BD01 = .ok (.sub 15 38 61) ∧
    decode 0x29AC4802 = .ok (.mul 26 49 8) ∧ decode 0x2A5F1303 = .ok (.mulh 37 60 19) ∧
    decode 0x2B01DE04 = .ok (.mulhn 48 7 30) ∧ decode 0x2BB4A905 = .ok (.div 59 18 41) ∧
    decode 0x28677406 = .ok (.divn 6 29 52) ∧ decode 0x291A3F07 = .ok (.rem 17 40 63) ∧
    decode 0x29CCCA08 = .ok (.and 28 51 10) ∧ decode 0x2A7F9509 = .ok (.or 39 62 21) ∧
    decode 0x2B22600A = .ok (.xor 50 9 32) ∧ decode 0x2BD52B0B = .ok (.andn 61 20 43) :=
  ⟨rfl, rfl, rfl, rfl, rfl, rfl, rfl, rfl, rfl, rfl, rfl, rfl⟩

theorem test_decode_shl_to_mov :
    decode 0x2887F60C = .ok (.shl 8 31 54) ∧ decode 0x293A810D = .ok (.shr 19 42 1) ∧
    decode 0x29ED4C0E = .ok (.sar 30 53 12) ∧ decode 0x2A90170F = .ok (.min 41 0 23) ∧
    decode 0x2B42E210 = .ok (.max 52 11 34) ∧ decode 0x2BF5AD11 = .ok (.minn 63 22 45) ∧
    decode 0x28A87812 = .ok (.maxn 10 33 56) ∧ decode 0x295B0313 = .ok (.cmp 21 44 3) ∧
    decode 0x2A0DCE14 = .ok (.cmpn 32 55 14) ∧ decode 0x2AB08015 = .ok (.clz 43 2) ∧
    decode 0x2B634016 = .ok (.popc 54 13) ∧ decode 0x28160017 = .ok (.mov 1 24) :=
  ⟨rfl, rfl, rfl, rfl, rfl, rfl, rfl, rfl, rfl, rfl, rfl, rfl⟩

theorem test_decode_addi_to_swr :
    decode 0x2CC8C27A = .ok (.addi 12 35 634) ∧ decode 0x317B8285 = .ok (.andi 23 46 645) ∧
    decode 0x362E4290 = .ok (.ori 34 57 656) ∧ decode 0x3AD1029B = .ok (.cmpi 45 4 667) ∧
    decode 0x3F8C02A6 = .ok (.movz 56 3 678) ∧ decode 0x3C3902B1 = .ok (.movk 3 2 689) ∧
    decode 0x3CE602BC = .ok (.movs 14 1 700) ∧ decode 0x41900000 = .ok (.srd 25 0) ∧
    decode 0x40090B01 = .ok (.swr 36 11) :=
  ⟨rfl, rfl, rfl, rfl, rfl, rfl, rfl, rfl, rfl⟩

theorem test_decode_vadd_to_vrot :
    decode 0x445F1AE8 = .ok (.vadd 47 70 93 0) ∧ decode 0x4475452D = .ok (.vsub 58 81 37 1) ∧
    decode 0x448B739A = .ok (.vmul 69 92 115 0) ∧ decode 0x44A19D2F = .ok (.vmulh 80 103 37 1) ∧
    decode 0x48B7C848 = .ok (.vand 91 114 9 0) ∧ decode 0x48CDF4A5 = .ok (.vor 102 125 20 1) ∧
    decode 0x48E220FA = .ok (.vxor 113 8 31 0) ∧ decode 0x48F84D57 = .ok (.vandn 124 19 42 1) ∧
    decode 0x4C0E79A8 = .ok (.vshl 7 30 53 0) ∧ decode 0x4C24A52D = .ok (.vshr 18 41 37 1) ∧
    decode 0x4C3AD25A = .ok (.vsar 29 52 75 0) ∧ decode 0x4C50FD2F = .ok (.vrot 40 63 37 1) :=
  ⟨rfl, rfl, rfl, rfl, rfl, rfl, rfl, rfl, rfl, rfl, rfl, rfl⟩

theorem test_decode_vmin_to_vfdiv :
    decode 0x50672B08 = .ok (.vmin 51 74 97 0) ∧ decode 0x507D552D = .ok (.vmax 62 85 37 1) ∧
    decode 0x509383BA = .ok (.vabsd 73 96 119 0) ∧ decode 0x50A9AC17 = .ok (.vavg 84 107 2 1) ∧
    decode 0x540FD868 = .ok (.vcmpeq 7 118 13 0) ∧ decode 0x540404C5 = .ok (.vcmpne 2 1 24 1) ∧
    decode 0x540A311A = .ok (.vcmplt 5 12 35 0) ∧ decode 0x54005D77 = .ok (.vcmple 0 23 46 1) ∧
    decode 0x5B44E52C = .ok (.vfadd 3 34 57 37 1) ∧ decode 0x5A5B12D9 = .ok (.vfsub 2 45 68 91 0) ∧
    decode 0x59713D2E = .ok (.vfmul 1 56 79 37 1) ∧ decode 0x58876B8B = .ok (.vfdiv 0 67 90 113 0) :=
  ⟨rfl, rfl, rfl, rfl, rfl, rfl, rfl, rfl, rfl, rfl, rfl, rfl⟩

theorem test_decode_vfmin_to_vdot8 :
    decode 0x5C6F3B28 = .ok (.vfmin 55 78 101 0) ∧ decode 0x5C85652D = .ok (.vfmax 66 89 37 1) ∧
    decode 0x5C9B93DA = .ok (.vfminnum 77 100 123 0) ∧ decode 0x5CB1BC37 = .ok (.vfmaxnum 88 111 6 1) ∧
    decode 0x60C7E888 = .ok (.vsel 99 122 17 0) ∧ decode 0x60DC14E5 = .ok (.vbcast 110 5 28) ∧
    decode 0x60F2413A = .ok (.vclamp 121 16 39 0) ∧ decode 0x60086D97 = .ok (.vcsign 4 27 50 1) ∧
    decode 0x641E99EA = .ok (.vdot4 15 38 61 0 1 0) ∧ decode 0x6834C52D = .ok (.vdot8 26 49 37 1 0 1) :=
  ⟨rfl, rfl, rfl, rfl, rfl, rfl, rfl, rfl, rfl, rfl⟩

theorem test_decode_vmov_to_vrint :
    decode 0x6C4AF000 = .ok (.vmov 37 60) ∧ decode 0x6C611C01 = .ok (.vneg 48 71) ∧
    decode 0x6C774802 = .ok (.vabs 59 82) ∧ decode 0x6C8D7403 = .ok (.vnot 70 93) ∧
    decode 0x6CA3A004 = .ok (.vclz 81 104) ∧ decode 0x6CB9CC05 = .ok (.vpopc 92 115) ∧
    decode 0x6CCFF806 = .ok (.vbrev 103 126) ∧ decode 0x6CE42407 = .ok (.vfract 114 9) ∧
    decode 0x6CFA5008 = .ok (.vfloor 125 20) ∧ decode 0x6C107C09 = .ok (.vceil 8 31) ∧
    decode 0x6C26A80A = .ok (.vtrunc 19 42) ∧ decode 0x6E6B300B = .ok (.vrint 2 53 76) :=
  ⟨rfl, rfl, rfl, rfl, rfl, rfl, rfl, rfl, rfl, rfl, rfl, rfl⟩

theorem test_decode_vrcp_to_vcvts :
    decode 0x6D815C0C = .ok (.vrcp 1 64 87) ∧ decode 0x6C97880D = .ok (.vrsq 0 75 98) ∧
    decode 0x6FADB40E = .ok (.vsqrt 3 86 109) ∧ decode 0x6EC3E00F = .ok (.vexp2 2 97 120) ∧
    decode 0x6DD80C10 = .ok (.vlog2 1 108 3) ∧ decode 0x6CEE3811 = .ok (.vsin 0 119 14) ∧
    decode 0x6F046412 = .ok (.vcos 3 2 25) ∧ decode 0x6E1A9013 = .ok (.vtanh 2 13 36) ∧
    decode 0x6C026014 = .ok (.vfclass 1 24) ∧ decode 0x6C180015 = .ok (.vlaneid 12) ∧
    decode 0x735D1429 = .ok (.vcvt 3 46 69 41) ∧ decode 0x72734067 = .ok (.vcvts 2 57 80 39) :=
  ⟨rfl, rfl, rfl, rfl, rfl, rfl, rfl, rfl, rfl, rfl, rfl, rfl⟩

theorem test_decode_vshfl_to_vfirst :
    decode 0x745B12D8 = .ok (.vshfl 45 68 91 0) ∧ decode 0x74713D2D = .ok (.vshflx 56 79 37 1) ∧
    decode 0x74876B8A = .ok (.vshflup 67 90 113 0) ∧ decode 0x749D952F = .ok (.vshfldn 78 101 37 1) ∧
    decode 0x79601C00 = .ok (.vrsum 1 48 7) ∧ decode 0x7849EC01 = .ok (.vrmin 36 123) ∧
    decode 0x785E1802 = .ok (.vrmax 47 6) ∧ decode 0x78744403 = .ok (.vrand 58 17) ∧
    decode 0x780A7004 = .ok (.vror 5 28) ∧ decode 0x78209C05 = .ok (.vrxor 16 39) ∧
    decode 0x7836C806 = .ok (.vballot 27 50) ∧ decode 0x784CF407 = .ok (.vfirst 38 61) :=
  ⟨rfl, rfl, rfl, rfl, rfl, rfl, rfl, rfl, rfl, rfl, rfl, rfl⟩

theorem test_decode_vbfe_to_vfunnel :
    decode 0x7C6322F8 = .ok (.vbfe 49 72 95 0) ∧ decode 0x7C794D2D = .ok (.vbfi 60 83 37 1) ∧
    decode 0x7C8F7BAA = .ok (.vperm 71 94 117 0) ∧ decode 0x7CA5A407 = .ok (.vfunnel 82 105 0 1) :=
  ⟨rfl, rfl, rfl, rfl⟩

theorem test_decode_pand_to_ld :
    decode 0x80510300 = .ok (.pand 5 4 3) ∧ decode 0x8001C601 = .ok (.por 0 7 6) ∧
    decode 0x80308102 = .ok (.pxor 3 2 1) ∧ decode 0x80614403 = .ok (.pandn 6 5 4) ∧
    decode 0x80100004 = .ok (.pnot 1 0) ∧ decode 0x804AC005 = .ok (.pmovs 4 43) ∧
    decode 0x81F18006 = .ok (.smovp 31 6) ∧ decode 0x80200007 = .ok (.pset 2) ∧ decode 0x80500008 = .ok (.pclr 5) ∧
    decode 0x84815D2C = .ok (.rand32 64 87 37 1) ∧ decode 0x84978BC9 = .ok (.randf 75 98 121 0) ∧
    decode 0x8AB5A129 = .ok (.ld 86 45 4 2 1 1) :=
  ⟨rfl, rfl, rfl, rfl, rfl, rfl, rfl, rfl, rfl, rfl, rfl, rfl⟩

theorem test_decode_st_to_fenceTx :
    decode 0x8F0F03D4 = .ok (.st 97 56 15 1 4) ∧ decode 0x92C0C69A = .ok (.sld 44 3 1690) ∧
    decode 0x977386A5 = .ok (.sst 55 14 1701) ∧ decode 0x98132C00 = .ok (.ldt 2 25 48) ∧
    decode 0x986C8EC1 = .ok (.stt 13 36 59) ∧ decode 0x9CC5F1AA = .ok (.atom 24 47 70 1 0 10) ∧
    decode 0xA23E911A = .ok (.satom 35 58 17 0 1 10) ∧ decode 0xA4500000 = .ok (.fenceAcq 5) ∧
    decode 0xA4900000 = .ok (.fenceRel 1) ∧ decode 0xA5400000 = .ok (.fenceAr 4) ∧
    decode 0xA5B00000 = .ok (.fenceSc 3) ∧ decode 0xA6200000 = .ok (.fenceTx 2) :=
  ⟨rfl, rfl, rfl, rfl, rfl, rfl, rfl, rfl, rfl, rfl, rfl, rfl⟩

theorem test_decode_ldacq_to_mmat :
    decode 0xAB2F84E8 = .ok (.ldacq 101 60 19 2 1 0) ∧ decode 0xAF80E790 = .ok (.strel 112 7 30 1 0) ∧
    decode 0xB0003D80 = .ok (.cpstep 123) ∧ decode 0xB0600001 = .ok (.cpissue 6) ∧
    decode 0xB0000882 = .ok (.hwaitf 17) ∧ decode 0xB0000E03 = .ok (.hwaite 28) ∧ decode 0xB0001384 = .ok (.hrel 39) ∧
    decode 0xB0005904 = .ok (.hrelPub 50) ∧ decode 0xB3D00A05 = .ok (.hquery 61 20) ∧
    decode 0xB487C304 = .ok (.mma 8 31 6 1 0) ∧ decode 0xB53A8091 = .ok (.mmaz 19 42 1 0 1) ∧
    decode 0xB5ED4220 = .ok (.mmat 30 53 0 1) :=
  ⟨rfl, rfl, rfl, rfl, rfl, rfl, rfl, rfl, rfl, rfl, rfl, rfl⟩

theorem test_decode_mfence_to_mwrite :
    decode 0xBA900000 = .ok (.mfence 41) ∧ decode 0xBB400001 = .ok (.mwait 52) ∧ decode 0xB8000382 = .ok (.mzero 7) ∧
    decode 0xB8A00403 = .ok (.mdrain 10 1 0) ∧ decode 0xB9500184 = .ok (.mdraina 21 0 3) ∧
    decode 0xBA000385 = .ok (.mload 32 7) ∧ decode 0xBAB02106 = .ok (.mread 43 66) ∧
    decode 0xBB602687 = .ok (.mwrite 54 77) :=
  ⟨rfl, rfl, rfl, rfl, rfl, rfl, rfl, rfl⟩

theorem test_decode_rquery_to_texg :
    decode 0xBC103780 = .ok (.rquery 1 0 111) ∧ decode 0xBCC8C001 = .ok (.bquery 12 35) ∧
    decode 0xBD708282 = .ok (.cquery 23 2 5) ∧ decode 0xBC008003 = .ok (.rcommit 2) ∧
    decode 0xBC004004 = .ok (.rresume 1) ∧ decode 0xBF80C005 = .ok (.rstat 56 3) ∧
    decode 0xC0300D00 = .ok (.texs 3 26) ∧ decode 0xC0E01281 = .ok (.texd 14 37) ∧
    decode 0xC1901802 = .ok (.texc 25 48) ∧ decode 0xC2401D83 = .ok (.texl 36 59) ∧
    decode 0xC2F0AE84 = .ok (.texg 47 2 93) :=
  ⟨rfl, rfl, rfl, rfl, rfl, rfl, rfl, rfl, rfl, rfl, rfl⟩

theorem test_decode_rastt_to_window :
    decode 0xC7A02880 = .ok (.rastt 58 81) ∧ decode 0xC4570001 = .ok (.rframe 5 28) ∧
    decode 0xC4006802 = .ok (.rtestAcc 80) ∧ decode 0xC4002D82 = .ok (.rtestRej 91) ∧
    decode 0xC6600003 = .ok (.rclear 38) ∧ decode 0xC8200000 = .ok (.fbar 1) ∧ decode 0xC8800000 = .ok (.farrive 0) ∧
    decode 0xC9600000 = .ok (.fwaitb 3) ∧ decode 0xC9A40000 = .ok (.window 18) :=
  ⟨rfl, rfl, rfl, rfl, rfl, rfl, rfl, rfl, rfl⟩

theorem test_decode_nbinit_to_launch :
    decode 0xCC4EE800 = .ok (.nbinit 157 52) ∧ decode 0xCCD40000 = .ok (.nbarrive 168) ∧
    decode 0xCD598000 = .ok (.nbwait 179) ∧ decode 0xCDDF0000 = .ok (.nbsync 190) ∧
    decode 0xD0903000 = .ok (.cont 9 96) ∧ decode 0xD0000001 = .ok .retire ∧ decode 0xD1F00002 = .ok (.enq 31) ∧
    decode 0xD2A04003 = .ok (.launch 42 1) :=
  ⟨rfl, rfl, rfl, rfl, rfl, rfl, rfl, rfl⟩

theorem test_decode_solicit_to_crclose :
    decode 0xD7500600 = .ok (.solicit 53 12) ∧ decode 0xD4000001 = .ok (.reply 0) ∧
    decode 0xD4B01102 = .ok (.cwait 11 34) ∧ decode 0xD5601683 = .ok (.cread 22 45) ∧
    decode 0xD61E0784 = .ok (.treg 33 56 15) ∧ decode 0xD6C00005 = .ok (.tdrop 44) ∧
    decode 0xD7739286 = .ok (.tmove 55 14 37) ∧ decode 0xD8264000 = .ok (.crdecl 2 25) ∧
    decode 0xD8D03201 = .ok (.cradd 13 100) ∧ decode 0xD9800002 = .ok (.crclose 24) :=
  ⟨rfl, rfl, rfl, rfl, rfl, rfl, rfl, rfl, rfl, rfl⟩

theorem test_decode_tlbinv_to_vfma :
    decode 0xDC08FA00 = .ok (.tlbinv 35 58) ∧ decode 0xDEE15C01 = .ok (.region 46 5 28) ∧
    decode 0xDF940002 = .ok (.bankcfg 57 16) ∧ decode 0xDC46C003 = .ok (.leave 4 27) ∧
    decode 0xDCF9BD04 = .ok (.errlog 15 38 61) ∧ decode 0xE006B100 = .ok (.tagset 26 49) ∧
    decode 0xE25F0001 = .ok (.tagget 37 60) ∧ decode 0xF611EF75 = .ok (.vfma 48 71 94 117) :=
  ⟨rfl, rfl, rfl, rfl, rfl, rfl, rfl, rfl⟩
/-! ### States for the tests -/

/-- The machine with a group and a slot for the fibre at locator 0, the fibre as `Fibre.start` gives it. -/
def w0 : State := State.reset.withFetchWord 32 0

/-- A fibre that has just started, CURRENT. -/
def f0 : Fibre := { Fibre.start 0x10000 with st := .current }

/-- The machine with a given fibre in issue. -/
def onF (f : Fibre) : State := w0.setFibre 0 f

/-- A fibre whose MODE has the element type of a code, and neither SAT nor trap enables. -/
def typed (code : Nat) : Fibre := { f0 with mode := BitVec.ofNat 32 (7 + code * 16) }

theorem issues_onF (f : Fibre) : Issues (onF f) f := rfl

theorem settled_onF (f : Fibre) (l : List Res) : Settled (onF f) l := by
  have h : (w0.slot 0).pend = [] := by decide
  have h : ((onF f).slot (onF f).cur).pend = [] := h
  simp [Settled, State.busy, h]

theorem lanesReady_onF (f : Fibre) (pair : Bool) (regs b) (h : pairBad pair (vecFields regs b) = false) :
    LanesReady (onF f) f pair regs b := ⟨rfl, h, settled_onF _ _⟩

theorem reduceReady_onF (f : Fibre) (pair : Bool) (d : BitVec 6) (a : BitVec 7) (h : pairBad pair [a.toNat] = false) :
    ReduceReady (onF f) f pair d a := ⟨rfl, h, settled_onF _ _⟩

theorem untrapped_noXE (f : Fibre) (lanes) (g) (h : modeXE f.mode = 0) : Untrapped f lanes g := by
  simp [Untrapped, enabledFlags, h]

/-! ### Words that are no instruction, and terms that are not well formed (R251) -/

/-- Check 2 of R251: condition 10 of BRA, space code 3, ATOM operation 15, and a conversion to RAW. -/
theorem test_reservedCode : (Instr.bra 10 0).reservedCode = true ∧ (Instr.bra 10 0).wf = false ∧
    (Instr.bra 9 0).wf = true ∧ (Instr.ld 0 0 0 3 0 0).wf = false ∧ (Instr.atom 0 0 0 0 0 15).wf = false ∧
    (Instr.vcvt 0 0 0 0).wf = false ∧ decode 0x1A800000 = .error .selector :=
  ⟨rfl, rfl, rfl, rfl, rfl, rfl, rfl⟩

/-- Check 3: a MODE field that does not exist, a rounding mode above 5, a scope above 5, a B field that names no
scalar under BS, and a nonzero field that the form does not use. -/
theorem test_badField : (Instr.modeField 9 0).badField = true ∧ (Instr.modeField 9 0).wf = false ∧
    (Instr.modeField 0 8).wf = false ∧ (Instr.modeField 0 7).wf = true ∧ (Instr.fenceAcq 6).wf = false ∧
    (Instr.fenceAcq 5).wf = true ∧ (Instr.vadd 1 2 64 1).wf = false ∧ (Instr.vadd 1 2 63 1).wf = true := by decide

/-- Check 4: a register run past the last register of its file; the run that just fits is well formed. -/
theorem test_badRegister : (Instr.ld 125 0 0 0 0 4).badRegister = true ∧ (Instr.ld 125 0 0 0 0 4).wf = false ∧
    (Instr.ld 124 0 0 0 0 4).wf = true ∧ (Instr.cpissue 61).wf = false ∧ (Instr.cpissue 60).wf = true ∧
    (Instr.enq 57).wf = false := by decide

/-! ### Witnesses for the hypotheses of the statements -/

/-- Scalars, predicates, moves, MODE, waits, traps: the fibre issues and its registers are settled; MODEW of a legal
and of an illegal value, FSTW at 31 and 32, link values on both sides of 2^52. -/
theorem witness_Scalars (f : Fibre) (l : List Nat) :
    Issues (onF f) f ∧ Settled (onF f) (resS (onF f).cur l) ∧ badMode 0x27 = false ∧ badMode 0x1000000 = true ∧
      (f0.setS 1 31).s 1 < 32 ∧ 32 ≤ (f0.setS 1 32).s 1 ∧ (f0.setS 1 (2 ^ 52 - 1)).s 1 < 2 ^ 52 ∧
      2 ^ 52 ≤ (f0.setS 1 (2 ^ 52)).s 1 ∧ (f0.setS 3 (-1)).s 3 = (0x3FFF : BitVec 14).signExtend 64 :=
  ⟨rfl, settled_onF _ _, rfl, rfl, by decide, by decide, by decide, by decide, by decide⟩

theorem witness_SpecialRegisters : Sparse.find (onF f0).groups f0.group = some Group.start := rfl

/-- A page of the vault that the host has pinned, mapped readable, writable and executable at address 0 for ASID 0 in
cluster 0. -/
def leaf0 : TlbEnt := ⟨0, 0, 0, 12, BitVec.ofNat 64 (2 * 2 ^ 52 + 0xFE0 + 1), none⟩
def frame0 : Frame := ⟨.pinned, 0, 0, 0, 0, false, [], 0, false, false, 0, false, false, false, false⟩

/-- A machine on which a given fibre is in issue and address 0 is mapped to a pinned frame. -/
def mapped (f : Fibre) : State :=
  { onF f with
    xl := { (onF f).xl with tlb := [leaf0], ctxs := [⟨0, 1, 0, true⟩] }
    mem := { (onF f).mem with frames := [(0, frame0)] }
    reg := { (onF f).reg with ctxbase := 1 } }

theorem witness_resolve : (resolve (mapped f0) ((mapped f0).who 0 f0) .exec 0 4).1 = .ok [(.vault 0, 4)] ∧
    (resolve (mapped f0) ((mapped f0).who 0 f0) .write 60 8).1 = .ok [(.vault 60, 8)] := by decide

/-- A step runs the word at the program counter: here NOP, and NOP behind CEDE. -/
theorem witness_StepRunsDecoded (w : Nat) :
    (State.reset.withFetchWord 32 w).turns = .slot 0 :: [] ∧
    ({ State.reset.withFetchWord 32 w with turns := [] } : State).chosen 0 = some 0 ∧
    (({ State.reset.withFetchWord 32 w with turns := [] } : State).select 0).fibre 0 = some f0 ∧
    (({ State.reset.withFetchWord 32 w with turns := [] } : State).select 0).breaksAt f0 = false ∧
    decode 0 = .ok .nop ∧ decode 0x04000000 = .ok .cede ∧ decode 0xE4000000 = .error .major :=
  ⟨rfl, rfl, rfl, rfl, rfl, rfl, rfl⟩

/-- Units with room for an instruction, and a die whose miss table is full. -/
def crowded : State :=
  { onF f0 with xl := { (onF f0).xl with atsReq := List.replicate missTable ⟨0, 0, 0, [0]⟩ } }
theorem witness_unitFull : (onF f0).unitFull .nop = false ∧ (onF f0).unitFull (.texs 0 0) = false ∧
    crowded.unitFull (.texs 0 0) = true := by
  have h : crowded.xl.missing (dieOf (coreOf crowded.cur)) = missTable := by
    have h : dieOf (coreOf (onF f0).cur) = 0 := by decide
    simp [Xlate.missing, crowded, h]
  refine ⟨rfl, by decide, ?_⟩
  simp [State.unitFull, unitOf, h]

/-- The word of a fetch. -/
def Fetched.bits : Fetched → Option Word
  | .word w _ => some w
  | .none _ => none

theorem witness_fetch :
    Fetched.bits ((State.reset.withFetchWord 32 0).fetch f0 f0.pc) = some 0 ∧
    Fetched.bits ((State.reset.withFetchWord 32 0x04000000).fetch f0 f0.pc) = some 0x04000000 ∧
    Fetched.bits ((State.reset.withFetchWord 32 0x04000000).fetch f0 (f0.pc + 4)) = some 0 ∧
    Fetched.bits ((State.reset.withFetchWord 32 0xE4000000).fetch f0 f0.pc) = some 0xE4000000 ∧
    f0.fetched ≠ some 0 ∧ (mapped f0).cached 0 f0.asid true 0 = none ∧ (mapped f0).cached 0 f0.asid false 0x10000 = some 0 := by
  decide

/-- A register with a pending write. -/
theorem witness_busy : ((onF f0).addPend 0 7 [.s 0 5]).busy 0 (resS 0 [5, 6]) = true ∧ f0.st = .current := by decide

/-- WAIT and WAITX: counters at their threshold, past it, and a threshold of 63. -/
theorem witness_ModesAndWaits :
    (∀ p ∈ [(ctrLD, (0 : BitVec 6)), (ctrST, 63), (ctrCP, 0), (ctrMX, 63)], p.2 = 63 ∨ f0.counter p.1 ≤ p.2.toNat) ∧
    (∃ p ∈ [(ctrLD, (0 : BitVec 6)), (ctrST, 63), (ctrCP, 0), (ctrMX, 63)], p.2 ≠ 63 ∧
      p.2.toNat < ({ f0 with ctr := [(ctrLD, 1)] } : Fibre).counter p.1) ∧
    f0.counter 5 ≤ (f0.s 1).toNat ∧ (f0.s 1).toNat < ({ f0 with ctr := [(5, 1)] } : Fibre).counter 5 ∧
    (2 : BitVec 6).toNat < 2 ^ 3 := by decide

/-- A debugger attached to the fibre's region. -/
theorem witness_TrapInstructions : (onF f0).attached f0 = false ∧
    ({ onF f0 with io := { (onF f0).io with dbgRegions := [0] } } : State).attached f0 = true := by decide

/-- A trap table in a pinned frame at device address 0 whose entry of ASID 0 is 8-aligned code with every ENABLE bit of codes 1 to 10. -/
def trapping (f : Fibre) : State :=
  { onF f with
    mem := { (onF f).mem with vault := [(2, 1), (6, 0xFF), (7, 0x83)], frames := [(0, frame0)] }
    reg := { (onF f).reg with tvbase := 1 } }

theorem witness_TrapEntry :
    physNat (trapping f0) (field (trapping f0).reg.tvbase 19 33 * 2 ^ 19 + 8 * f0.asid.toNat) 8 =
      0x83FF000000010000 ∧ bitOf (trapping f0).reg.tvbase 0 = true ∧ 0x83FF000000010000 / 2 ^ 63 % 2 = 1 ∧
    0x83FF000000010000 / 2 ^ 58 % 32 = 0 ∧ 0x83FF000000010000 % 4 = 0 ∧ 0x83FF000000010000 / 2 ^ (48 + (1 - 1)) % 2 = 1 ∧
    f0.inHandler = false ∧ ({ f0 with inHandler := true } : Fibre).inHandler = true ∧
    (f0.setS 60 4).s 60 = 4 ∧ (f0.setS 60 6).s 60 = 6 ∧ (onF f0).handlerFor f0 5 = none ∧
    (trapping f0).vectorHeld f0 = [] ∧ (onF f0).vectorHeld f0 = [] ∧
    ({ trapping f0 with mem := { (trapping f0).mem with hostBlocks := [(0, true)] } } : State).vectorHeld f0 ≠ [] := by
  decide

/-- Containment: IGNORE, RETRY, KILLSELF, and KILLPARENT at the root. -/
theorem witness_policies : ((List.range 4).map fun c => (({ onF f0 with sched := { (onF f0).sched with
    rcbs := [(0, { Rcb.start with contain := c })] } } : State).contain 0)) = [(0, 0), (1, 0), (2, 0), (2, 0)] := by decide

/-- Windows: a call that fits the ring, one whose units spill, one past an absent spill area, a return that is
resident, one below frame 0; links with low bits, at 2^48 and at 2^52; the mask stack empty, at 31 and 32. -/
theorem witness_Windows (f : Fibre) (hf : f = { f0 with wdesc := mkWdesc 0 0 16 0 8 }) :
    winB f.wdesc + 8 * 8 + winF f.wdesc ≤ winLo f.wdesc + winQ f.wdesc ∧
    ¬ winB f.wdesc + 8 * 9 + winF f.wdesc ≤ winLo f.wdesc + winQ f.wdesc ∧
    spillOverflow f 9 = true ∧ spillOverflow { f with spLen := 1024 } 9 = false ∧ (onF f).lsuWaits 0 (fun _ => true) = false ∧
    spillUnits f.wdesc 9 = [0] ∧ moveUnits (onF f) 0 false false [] = (none, 0, onF f) ∧
    moveUnits (onF f) 0 true false (fillUnits f.wdesc 0) = (none, 0, onF f) ∧
    wDepth f.wdesc < 1 ∧ (0 ≤ wDepth f.wdesc ∧ winLo f.wdesc ≤ winB f.wdesc - 8 * 0) := by
  subst hf; decide

theorem witness_Stack (e : StackEnt) :
    (List.replicate 31 e).length < 32 ∧ 32 ≤ (List.replicate 32 e).length ∧
    ([e] ++ e :: []).head? = some e := ⟨by simp, by simp, rfl⟩

/-- Vector types: 8, 16, 32 and 64 bits, integers and floats, RAW, and a code that no class has; a format to convert
to; a pair that just fits and one past v127. -/
theorem witness_Vectors (l : Nat → Nat × Nat) :
    intType (modeType (typed 0x10).mode) = some .s8 ∧ intType (modeType (typed 0x17).mode) = some .n64 ∧
    untypedPair (modeType (typed 0).mode) = some false ∧ untypedPair (modeType (typed 1).mode) = some true ∧
    floatType (modeType (typed 1).mode) = some .f64 ∧ floatType (modeType (typed 5).mode) = some .f16 ∧
    floatType (modeType (typed 0x10).mode) = none ∧
    mixedType (modeType (typed 2).mode) = some .f32 ∧ mixedType (modeType (typed 0x14).mode) = some .s32 ∧
    mixedType (modeType (typed 0x12).mode) = some .s16 ∧
    Fmt.ofCode 0x02 = some (.f32, false) ∧ modeType (typed 1).mode ≠ .raw ∧
    LanesReady (onF (typed 1)) (typed 1) true [126, 0] (some (4, 0)) ∧
    LanesReady (onF (typed 2)) (typed 2) false [127, 127] (some (5, 1)) ∧
    LanesReady (onF (typed 2)) (typed 2) false [127, 127] none ∧
    ReduceReady (onF (typed 2)) (typed 2) false 3 127 ∧ ReduceReady (onF (typed 1)) (typed 1) true 3 126 ∧
    Untrapped (typed 2) (lanesOf (typed 2).active) l ∧ enabledFlags (typed 2).mode 31 = 0 :=
  ⟨rfl, rfl, rfl, rfl, rfl, rfl, rfl, rfl, rfl, rfl, rfl, by decide, lanesReady_onF _ _ _ _ rfl,
    lanesReady_onF _ _ _ _ rfl, lanesReady_onF _ _ _ _ rfl, reduceReady_onF _ _ _ _ rfl, reduceReady_onF _ _ _ _ rfl,
    untrapped_noXE _ _ _ rfl, rfl⟩

/-- A division by zero with the trap on invalid and division enabled raises a flag that is enabled: zero over zero. -/
theorem witness_LaneWrites (f : Fibre) (hf : f = { typed 2 with mode := (typed 2).mode ||| 0x1F0000 }) :
    enabledFlags f.mode (laneFlags (laneResults [0] (floatLanes (onF f) f .f32 0 1 2 0 fun _ => Val.div))) ≠ 0 ∧
    [0, 31].Nodup ∧ (∀ i ∈ [0, 31], i < 32) ∧ (Sparse.find (onF f).slots (slotOf 0)).isSome := by
  subst hf; decide +kernel

/-- The generator's inputs, and element values of the compares: a NaN and none. -/
theorem witness_elements : (0 : Nat) < 2 ^ 32 ∧ (2 ^ 32 - 1 : Nat) < 2 ^ 32 ∧
    (Fmt.f32.readFtz false 0x7FC00000).1.isNaN = true ∧ (Fmt.f32.readFtz false 0).1.isNaN = false := by decide

/-! ### Memory -/

/-- An operation of the fibre at locator 0. -/
def op0 (body : OpBody) : Op :=
  { unit := 1, loc := 0, group := 0, asid := 0, priv := true, iword := 0, mode := 0x27, pc := 0x10000, cede := false
    opa := 0, opb := 0, lmask := 1, ldone := 0, ctr := none, body := body, logs := [], results := [], refs := []
    wmode := .plain, seq := 0, asked := [], preds := 0, half := [], pos := [], err := false, retries := 0
    finished := false }

/-- A machine with one operation in flight. -/
def withOp (s : State) (id : Nat) (o : Op) : State := { s with eng := { s.eng with ops := [(id, o)] } }

/-- A load of 8 bytes into s5, and a store. -/
def load0 : OpBody := .load [.s 0 5] 8 false .global [64] false
def store0 : OpBody := .store 8 .global [64] [1] false

theorem mayLaunch_onF (f : Fibre) (c : Nat) (seen) (body : OpBody) (h : f.ctrFull c = false) :
    MayLaunch (onF f) f c seen body ∧ MayLaunch ((onF f).drew 1) f c seen body := by
  refine ⟨⟨rfl, h, fun a _ => ?_⟩, ⟨rfl, h, fun a _ => ?_⟩⟩
  · have hw : (onF f).io.wps = [] := rfl
    simp [State.watched, hw]
  · have hw : (onF f).io.wps = [] := rfl
    simp [State.watched, hw]

/-- Addresses on both sides of each limit: the last canonical one and the first that is not, both halves, the last
byte of a scratch allocation and the first behind it. -/
theorem witness_Addresses : canonical (2 ^ 57 - 1) = false ∧ canonical (2 ^ 56 - 1) = true ∧
    privHalf (2 ^ 56 - 1) = false ∧ privHalf (2 ^ 64 - 1) = true ∧ canonical (2 ^ 64 - 1) = true ∧
    (State.who w0 0 f0).priv = true ∧ w0.scrLen 0 < 0 + 1 ∧ 0 + 0 ≤ w0.scrLen 0 := by decide

/-- Every memory instruction launches from a fresh fibre. -/
theorem witness_MemoryLaunch (r : List Nat) (v : List Nat) (seen) (body : OpBody) :
    f0.active ≠ 0 ∧ Settled (onF f0) (resS 0 r) ∧ Settled (onF f0) (resVs 0 f0 v) ∧
    MayLaunch (onF f0) f0 ctrLD seen body ∧ MayLaunch (onF f0) f0 ctrST seen body ∧
    MayLaunch ((onF f0).drew 1) f0 ctrLD seen body ∧ MayLaunch ((onF f0).drew 1) f0 ctrST seen body ∧
    f0.s 1 < 2 ^ 32 ∧ f0.s 1 < 2 ^ 16 ∧ (f0.s 1).toNat % 8 = 0 ∧
    misaligned (lanesOf f0.active) (laneAddrs (onF f0) f0 1 127 8 .global) 8 = [] :=
  ⟨by decide, settled_onF _ _, settled_onF _ _, (mayLaunch_onF _ _ _ _ rfl).1, (mayLaunch_onF _ _ _ _ rfl).1,
    (mayLaunch_onF _ _ _ _ rfl).2, (mayLaunch_onF _ _ _ _ rfl).2, by decide, by decide, by decide, by decide +kernel⟩

/-- No active lane; a counter at 62; addresses and operands that are refused. -/
theorem witness_MemoryEdges (f : Fibre) (hf : f = (f0.setS 1 2).setS 2 (2 ^ 32)) :
    ({ f0 with exec := 0 } : Fibre).active = 0 ∧ ({ f0 with ctr := [(ctrLD, 62)] } : Fibre).ctrFull ctrLD = true ∧
    ({ f0 with ctr := [(ctrST, 62)] } : Fibre).ctrFull ctrST = true ∧ (f.s 1).toNat % 4 ≠ 0 ∧ 2 ^ 32 ≤ f.s 2 ∧
    2 ^ 16 ≤ f.s 2 ∧ f.active ≠ 0 ∧
    misaligned (lanesOf f.active) (laneAddrs (onF f) f 1 127 4 .global) 4 ≠ [] := by subst hf; decide +kernel

/-- A lane in group scratch whose last byte is the last of the allocation; below, and at the scratch window. -/
theorem witness_ScratchAccess (g : Group) (hg : g = { Group.start with scrLen := 64 }) :
    Sparse.find ({ onF f0 with groups := [(0, g)] } : State).groups (op0 load0).group = some g ∧
    ((onF f0).fibre (op0 load0).loc).isSome = true ∧ (56 : Dword).toNat % 2 ^ 32 + 8 ≤ g.scrLen ∧ (56 : Dword) < 2 ^ 32 ∧
    field (0xFE00000000000038 : Dword) 32 32 = 0xFE000000 ∧
    (0xFE00000000000038 : Dword).toNat % 2 ^ 32 + 8 ≤ g.scrLen ∧
    (∀ k ∈ lanesOf (3 : Word), 0 < k → ∀ j, j < 8 →
      8 ≤ (BitVec.ofNat 64 (56 + 0 + j) - ([56, 48] : List Dword).getD k 0).toNat) ∧
    (48 : Dword).toNat + 16 ≤ g.scrLen := by subst hg; decide

/-- Values of 32-bit atomics at both ends; a trouble that is the worst of a list. -/
theorem witness_Atomics : (2 ^ 32 - 1 : Nat) < 2 ^ (8 * 4) ∧ (0 : Nat) < 2 ^ (8 * 8) ∧
    worst [Trouble.refuse 0 causeScrrange 0] = some (.refuse 0 causeScrrange 0) := by decide

theorem witness_MemoryCanonical : Mem.wf State.reset.mem = true ∧ Memory.wf ([] : List Host.Cell) = true := by decide

/-- A legal range of 128 bytes of 32-bit sums at 0, open as range 3 or not. -/
def range0 : CRange := ⟨0, 3, 0, 128, .add, 0x15, 0, false⟩
def ranged (f : Fibre) : State := { onF f with mem := { (onF f).mem with ranges := [range0] } }

theorem witness_CommutativeRanges (f : Fibre) (hf : f = ((f0.setS 1 0).setS 2 (3 * 2 ^ 50 + 0x15 * 2 ^ 40 + 128)).setS 3 3) :
    rangeBad (f.s 1) (f.s 2) = false ∧ rangeBad (f.s 1) 0 = true ∧ (onF f).mem.ranges.length < 512 ∧
    512 ≤ (List.replicate 512 range0).length ∧
    ((ranged f).mem.ranges.any fun r => r.asid = f.asid ∧ (r.rid = field (f.s 2) 50 6 ∨
      ((f.s 1).toNat < r.base + r.len ∧ r.base < (f.s 1).toNat + field (f.s 2) 0 40))) = true ∧
    (∀ i ∈ lanesOf f.active, (((List.range 32).map fun i => craddLane (ranged f) f (f.s 1) 10 i).getD i none) ≠ none) ∧
    f.s 3 < 64 ∧ range0 ∈ (ranged f).mem.ranges ∧ range0.asid = f.asid ∧ range0.rid = (f.s 3).toNat ∧
    range0.closing = false ∧ f.ctrFull ctrST = false ∧ 64 ≤ f.s 2 := by subst hf; decide +kernel

/-- No access in flight; one in flight; an acquire that is done at once, and one that waits for drains; an LDACQ whose
read is under way, and one whose read has returned. -/
theorem witness_Ordering (f : Fibre) (hf : f = { f0 with pendSet := [⟨4, 0⟩] }) :
    (onF f0).lsuBusy 0 (fun _ => true) = false ∧ (withOp (onF f0) 7 (op0 load0)).lsuBusy 0 (fun _ => true) = true ∧
    (withOp (onF f0) 7 (op0 load0)).lsuBusy 0 Op.reads = true ∧ f0.draining = false ∧
    ((onF f0).acquire 0 4).1 = true ∧ ((onF f).acquire 0 4).1 = false ∧ Mem.wf (onF f0).mem = true ∧ f0.active ≠ 0 ∧ f0.waitOp = none ∧
    (onF f0).lsuBusy 0 Op.fenced = false ∧ (withOp (onF f0) 7 (op0 load0)).lsuBusy 0 Op.fenced = true ∧
    (withOp (onF f0) 7 (op0 load0)).lsuBusy 0 (fun o => o.fenced && o.reads) = true ∧
    (onF f0).lsuBusy 0 (fun o => o.fenced && o.reads) = false ∧
    f.pendSet.filter (fun k => k.core ≠ 0) ≠ [] ∧ f0.pendSet.filter (fun k => k.core ≠ 0) = [] ∧
    Sparse.find (withOp (onF f0) 7 { op0 load0 with finished := true }).eng.ops 7 =
      some { op0 load0 with finished := true } := by subst hf; decide +kernel

/-- The read of an LDACQ behind an earlier access to its bytes that has not been performed has not returned. -/
theorem witness_LdacqWaits (s : State) (hs : s = withOp { onF f0 with fresh := 8 } 7 (op0 (.load [.s 0 5] 8 false .global [0] false))) :
    (Sparse.find (enterLsu ((s.newOp f0 1 f0.active (f0.s 1) 0 (some ctrLD) (.load [.s 0 6] 8 false .global [0] true)).2.addPend 0
      s.fresh [.s 0 6]) s.fresh).eng.ops s.fresh).map (·.finished) = some false := by subst hs; decide +kernel

/-! ### Matrix and copy engines -/

/-- A matrix command of the fibre at locator 0, and a machine with that command as operation 7. -/
def mx0 (p : MxPhase) (k : MxKind) : MxCmd := { plainCmd f0 k true 0 0 1 with phase := p }
def withCmd (s : State) (c : MxCmd) : State := withOp s 7 (op0 (.matrix c))

/-- Classes and tiles at their limits, with and without room for them; operands in scratch and in registers, the last
register operand that fits v0 to v127 and the first that does not. -/
theorem witness_MatrixCommands :
    mxClass (typed 0x3C).mode = some true ∧ mxClass (typed 0x3D).mode = some false ∧ mxClass (typed 2).mode = none ∧
    f0.openBatch.length < 8 ∧ 7 + 1 ≤ ((onF (typed 0x3C)).slot 0).tiles ∧ 0 + 2 ^ 3 ≤ ((onF (typed 0x3C)).slot 0).tiles ∧
    4 * 1 + 4 ≤ ((onF (typed 0x3C)).slot 0).tiles ∧
    (({ onF f0 with slots := [(0, { Slot.empty with tiles := 4 })] } : State).slot 0).tiles ≤ 4 ∧
    operandRegs true false true false (mxK 0) 0 0 = some none ∧
    operandRegs true true true false (mxK 0) (BitVec.ofNat 64 (9 * 2 ^ 26 + 112)) 0 = some (some (112, 16)) ∧
    operandRegs true true false false (mxK 0) (BitVec.ofNat 64 (9 * 2 ^ 26 + 113)) 0 = none ∧
    ((typed 0x3C).s 1).toNat % 64 = 0 ∧ ((typed 0x3C).setS 1 32 |>.s 1).toNat % 64 ≠ 0 := by decide +kernel

theorem witness_MatrixRows (f : Fibre) (hf : f = (typed 0x3D).setS 1 255) :
    mxClass f.mode = some false ∧ (f.s 1).toNat % 8 = 7 ∧ (f.s 1).toNat / 8 % 32 = 31 ∧ 7 < ((onF f).slot 0).tiles ∧
    opensTile (onF f) f 7 = false ∧ f.s 1 < 256 ∧ 256 ≤ ((f.setS 1 256).s 1) ∧
    ((onF f).addPend 0 9 [.tile 7]).busy 0 [.tile 7] = true := by subst hf; decide

/-- MFENCE with an empty batch, with one command in it, with a full queue and with a full counter; MWAIT for a batch
that exists, and for the next one. -/
theorem witness_MatrixFences (f : Fibre) (s : State) (hf : f = { typed 0x3C with openBatch := [7] })
    (hs : s = withCmd (onF f) (mx0 .staged .mzero)) :
    s.queueUse 0 + f.openBatch.length ≤ 16 ∧ f.ctrFull ctrMX = false ∧ batchCost s f = none ∧
    (∀ b ∈ s.co.batches, b.loc ≠ 0) ∧ (typed 0x3C).openBatch = [] ∧ f.openBatch ≠ [] ∧
    (∀ n ∈ f.openBatch, (s.mxCmd n).isSome) ∧ ({ f with ctr := [(ctrMX, 62)] } : Fibre).ctrFull ctrMX = true ∧
    16 < s.queueUse 0 + ({ f with openBatch := List.replicate 17 7 } : Fibre).openBatch.length ∧
    f.nextBatch ≤ (f.s 1).toNat ∧ (f.s 1).toNat < ({ f with nextBatch := 1 } : Fibre).nextBatch := by
  subst hf hs; decide +kernel

/-- A queued command that starts; a computed one whose batch it completes, and one whose batch goes on; a queued batch
that moves to the next engine. -/
theorem witness_MatrixEngine (s t : State) (b : Batch) (hs : s = withCmd (onF f0) (mx0 .queued .mzero))
    (ht : t = withCmd (onF f0) (mx0 .computed .mzero)) (hb : b = ⟨0, 0, 0, [7], 0, true⟩) :
    s.mxCmd 7 = some (op0 (.matrix (mx0 .queued .mzero)), mx0 .queued .mzero) ∧ s.recorded 7 = false ∧
    s.mxBlocked 7 (op0 (.matrix (mx0 .queued .mzero))) (mx0 .queued .mzero) = false ∧ s.recordOf 7 = none ∧
    t.mxCmd 7 = some (op0 (.matrix (mx0 .computed .mzero)), mx0 .computed .mzero) ∧
    (let u := t.modCmd 7 fun c => { c with phase := .complete }
     u.cmdDone 7 = true ∧ b.ops.all u.cmdDone = true) ∧
    [7].all t.cmdDone = false ∧
    ({ s with co := { s.co with batches := [b] } } : State).co.batches.find? (fun b => b.ops.contains 7) = some b ∧
    [b].find? (fun x => x.engine = b.engine ∧ x.ops ≠ []) = some b ∧ (mx0 .queued .mzero).kind.migrates = true ∧
    1 / 16 = b.engine / 16 ∧ 1 < 4 * Config.cores ∧ (∀ x ∈ [b], x.engine ≠ 1) := by
  subst hs ht hb; decide +kernel

theorem witness_Scales : scaleValue 1 = (1, -128) ∧ scaleValue 2 = (2, -128) ∧ (1 : Nat) < 0x3FB ∧
    (2 ^ 96 - 1 : Nat) < 2 ^ 96 := by decide

/-- A row of 64 bytes from global memory to global memory, stage 0. -/
def entry0 : Nat := 64 * 2 ^ 128

/-- A group with a schedule of one entry that has been read, and the launch that gives it. -/
def launch0 : Launch :=
  ⟨{ parseLaunch [] with rnum := 0, nx := 1, ny := 1, nz := 1, ngang := 1, nrole := 1, csbase := 64, cscount := 1
                         decls := [⟨0x20000, true, false, 0, 0⟩, ⟨0x30000, true, true, 0, 0⟩] }, 0, [], [], 0, 0, none⟩
def group0 : Group := { Group.start with kind := .grid, sched := some entry0 }
def copying : State :=
  { onF f0 with
    groups := [(0, group0)]
    sched := { (onF f0).sched with launches := [(0, launch0)], rcbs := [(0, Rcb.start)] } }

theorem witness_CopyControl (f : Fibre) (hf : f = f0.setS 3 64) :
    Sparse.find (onF f).groups f.group = some Group.start ∧
    (f.s 1).toNat + (f.s 2).toNat * 2 ^ 64 + (f.s 3).toNat * 2 ^ 128 + (f.s 4).toNat * 2 ^ 192 = entry0 ∧
    cpBad (onF f).mem 0 entry0 = false ∧ cpBad (onF f).mem 0 0 = true ∧ f.ctrFull ctrCP = false ∧
    (onF f).copyRoom f.group Group.start = some false ∧ cpBytes entry0 ≤ 2 ^ 20 ∧
    ({ f with ctr := [(ctrCP, 62)] } : Fibre).ctrFull ctrCP = true ∧
    Sparse.find ({ Group.start with handles := [(3, ⟨.full, 0, 0⟩)] } : Group).handles 3 = some ⟨.full, 0, 0⟩ ∧
    Sparse.find Group.start.handles 3 = none ∧ (onF f).handlesUsed 0 < 64 ∧
    64 ≤ ({ onF f with groups := [(0, { Group.start with
      handles := (List.range 64).map fun n => (n, ⟨.free, 0, 0⟩) })] } : State).handlesUsed 0 := by
  subst hf; decide +kernel

theorem witness_CopyEngine :
    copying.schedule group0 = (64, 1) ∧ group0.sched = some entry0 ∧ group0.schedOp = none ∧
    copying.regionActive 0 = true ∧ cpBad copying.mem 0 entry0 = false ∧ cpHv entry0 = false ∧
    (copying.stageLeave 0 group0 0).1 = true ∧ group0.cursor < 1 ∧ cpStage entry0 ≤ group0.stage ∧
    (group0.handles.all fun h => h.2.left != 0 || h.2.st == .free || h.2.st == .full) = true ∧
    copying.transfersOn 0 < 8 ∧ 1 ≤ ({ group0 with cursor := 1 } : Group).cursor ∧ copying.leaving 0 = false ∧
    ({ copying with fibres := [(0, { f0 with st := .exiting })] } : State).leaving 0 = true := by decide +kernel

/-- A thread has performed all its accesses. -/
def Ran.over {α : Type} : Ran α → Bool
  | .done _ => true
  | _ => false

/-- A started transfer within group scratch performs its accesses. -/
def inScratch : Nat := 64 * 2 ^ 128 + 2 * 2 ^ 121 + 2 * 2 ^ 57 + 64 * 2 ^ 64
theorem witness_Transfers (s : State) (o : Op) (ho : o = op0 (.copy inScratch 0 false false true true))
    (hs : s = withOp { onF f0 with groups := [(0, { Group.start with scrLen := 128 })] } 7 o) :
    s.recorded 7 = false ∧ Ran.over (runThread s 7 0 (transferProg s 0 inScratch)).1 = true := by
  subst ho hs; decide +kernel

/-! ### Ray engine, sampler, rasteriser -/

/-- All lanes hold 1.0. -/
def ones : VReg := BitVec.replicate 32 (0x3F800000 : Word)

/-- Rays from the origin along x, from 0 to 1, in v0 to v8. -/
def rayed : State := ((onF f0).setV 0 3 ones).setV 0 7 ones
def rayF : Fibre := (rayed.fibre 0).getD f0

/-- Roots of each kind of pointer, and none; a slot that is free, and one that runs. -/
theorem witness_RayQueries (w : Nat → Nat → Word) (hw : w = fun k i => lane (rayed.v 0 rayF k) i) :
    rayed.fibre rayed.cur = some rayF ∧ ptrBad 65 = false ∧ ptrBad 4 = true ∧ ptrKind 65 = 1 ∧ ptrKind 66 = 2 ∧
    ptrKind 64 = 0 ∧ ptrKind 67 = 3 ∧
    rayF.slotState 0 ≠ .running ∧ rayF.ctrFull ctrRY = false ∧ rayF.active ≠ 0 ∧
    ({ rayF with query := [(0, ⟨.running, 7⟩)] } : Fibre).slotState 0 = .running ∧
    (RayLane.start ((List.range 6).map fun k => w k 0) (w 6 0) (w 7 0) (field (w 8 0) 0 8) (field (w 8 0) 8 3) none
      (nodeOf (windowBase 65) 65 0)
      (rayInvalid ((List.range 6).map fun k => w k 0) (w 6 0) (w 7 0) || field (w 8 0) 11 21 != 0)).outcome = none ∧
    (64 : Nat) % 64 = 0 ∧ (32 : Nat) % 64 ≠ 0 := by subst hw; decide +kernel

/-- A machine on which address 0 is mapped to a pinned frame with given bytes. -/
def holding (cells : List Host.Cell) : State := { mapped f0 with mem := { (mapped f0).mem with vault := cells } }

/-- The value of a thread that has performed all its accesses. -/
def Ran.value : Ran Nat → Nat
  | .done v => v
  | _ => 0

/-- A query stopped with a candidate in lane 0, and a machine that holds it as operation 7. -/
def hit0 : Hit := ⟨0, 0, 0, 0, 0⟩
def lane0 : RayLane :=
  { RayLane.start [0, 0, 0, 0x3F800000, 0, 0] 0 0x3F800000 0xFF 0 none ⟨1, 1, 0⟩ false with
    cand := some hit0, outcome := some outCAND }
def query0 : RayOp := ⟨0, false, 0, 0, [], [(0, lane0)]⟩
def stoppedF : Fibre := { f0 with query := [(0, ⟨.stopped, 7⟩)] }
def queried : State := withOp (onF stoppedF) 7 (op0 (.ray query0))

theorem witness_RayCandidates :
    f0.slotState 0 ≠ .stopped ∧ stoppedF.slotState 0 = .stopped ∧ ({ stoppedF with exec := 0 } : Fibre).active = 0 ∧
    Sparse.find stoppedF.query 0 = some ⟨.stopped, 7⟩ ∧ queried.rayOp 7 = some (op0 (.ray query0), query0) ∧
    stoppedF.active ≠ 0 ∧ stoppedF.ctrFull ctrRY = false ∧ (query0.lanes.map (·.1)).Nodup ∧
    stoppedF.active.getLsbD 0 = true ∧ lane0.outcome = some outCAND ∧ lane0.term = false := by decide +kernel

/-- A beam before its record is read, with nothing left, and with a combining atomic left; an address that is a
multiple of 64 and one that is not; with credit, with a granted leave, and with a full counter. -/
def beam0 (a : Dword) : BeamOp :=
  { addr := a, query := none, res := .s 0 5, scope := 4, stack := [], cur := none, lpos := 0, splits := [], pend := []
    follow := [], drop := false, restart := none, best := [], emitted := 0, spill := false, invalid := false, subs := [], comb := [] }

/-- An access has been performed. -/
def PartOut.over : PartOut → Bool
  | .done _ _ => true
  | _ => false

theorem witness_Beams (s : State) (hs : s = withOp (holding [(64, 65)]) 7 (op0 (.beam (beam0 0)))) :
    s.recorded 7 = false ∧ PartOut.over ((Req.record 0 128 beamBad).perform s (op0 (.beam (beam0 0)))).1 = true ∧
    beamInvalid (leBytes 128 0) = true ∧
    PartOut.over ((Req.atom (BitVec.ofNat 64 (bmHitbuf [] + 0)) 4 8 4 0).perform s (op0 (.beam (beam0 0)))).1 = true ∧
    (f0.s 1).toNat % 64 = 0 ∧ ((f0.setS 1 32).s 1).toNat % 64 ≠ 0 ∧
    ({ f0 with ctr := [(ctrRY, 62)] } : Fibre).ctrFull ctrRY = true ∧ f0.ctrFull ctrRY = false ∧
    (beam0 0).drop = false ∧ ({ f0 with beamCredit := 1 } : Fibre).beamCredit ≠ 0 ∧ ({ f0 with leave := some 5 } : Fibre).leave = some 5 ∧
    lane0.outcome ≠ none := by subst hs; decide +kernel

/-- A texture operation over a mapped descriptor whose lane 0 reads beyond the levels. -/
def tex0 : TexOp := ⟨3, 0, 0, List.replicate 32 [0, 0, 16], [.v 0 0], 0⟩
theorem witness_Textures (s : State) (hs : s = withOp (holding [(12, 1), (13, 2), (14, 1)]) 7 (op0 (.tex tex0))) :
    s.recorded 7 = false ∧ Ran.over (runThread s 7 32 (ask (.sample 0 64 txBad))).1 = true ∧
    (texLanes s 7 tex0 (Ran.value (runThread s 7 32 (ask (.sample 0 64 txBad))).1) (lanesOf 1)).1 = [] ∧ txLevels (2 ^ 96) ≤ (([0, 0, 16] : List Word).getD 2 0).toNat ∧
    f0.ctrFull ctrTX = false ∧ ({ f0 with ctr := [(ctrTX, 62)] } : Fibre).ctrFull ctrTX = true := by
  subst hs; decide +kernel

/-- Operands of the rasteriser's instructions; TESTED of 1 and of 2. -/
theorem witness_RasterIssue :
    f0.active ≠ 0 ∧ ({ f0 with exec := 0 } : Fibre).active = 0 ∧ f0.ctrFull ctrRS = false ∧
    ({ f0 with ctr := [(ctrRS, 62)] } : Fibre).ctrFull ctrRS = true ∧ (f0.s 1).toNat % 64 = 0 ∧
    (∀ l ∈ lanesOf f0.active, lane ((onF f0).v 0 f0 11) l < 2) ∧
    (∀ l ∈ lanesOf f0.active, 2 ≤ lane (((onF f0).setV 0 11 ones).v 0 (((onF f0).setV 0 11 ones).fibre 0 |>.getD f0) 11) l) ∧
    ((onF f0).decideTests f0 0 (lanesOf f0.active)).1 = [] := by decide +kernel

/-- Triangles with a value that is not finite and with an area; operations of the rasteriser that come to their end. -/
def tri0 : List Word := [0, 0, 0, 0x41000000, 0, 0, 0, 0x41000000, 0, 0, 0, 0]
def rframe0 : Op := { op0 (.frame 0 1 4 []) with unit := 4 }
theorem witness_RasterEvents (s t u : State) (hs : s = withOp (mapped f0) 7 (op0 (.rast (.tri 0 []))))
    (ht : t = withOp (mapped f0) 7 (op0 (.rast (.test true [])))) (hu : u = withOp (holding [(24, 7)]) 7 rframe0) :
    (([0x7F800000] ++ tri0.drop 1).take 9).all f32Finite = false ∧ (tri0.take 9).all f32Finite = true ∧
    s.recorded 7 = false ∧ Ran.over (runThread s 7 32 (ask (.record 0 64 rsBad))).1 = true ∧
    (rastLanes s 7 (triLane 7 (op0 (.rast (.tri 0 []))) 0 0 []) []).1 = none ∧
    (rastLanes t 7 (testLane 7 true []) (lanesOf 1)).1 = none ∧
    u.frameTests 7 0 0 = false ∧ Ran.value (runThread u 7 0 (ask (.record 0 64 rsBad))).1 ≠ 0 ∧ (laneTri 0 tri0).isSome = true ∧
    PartOut.over (u.releaseWrite rframe0 4 0 1).1 = true := by subst hs ht hu; decide +kernel

/-! ### Barriers, the end of a fibre, work and coordination -/

/-- A fibre in and outside a barrier's mask, and at, below and above its phase; a barrier's tally below and at its target. -/
theorem witness_Barriers :
    ({ onF f0 with slots := [(0, Slot.empty)] } : State).fbarPhase 0 = none ∧
    Sparse.find ((onF f0).slot 0).fbar 0 = some ⟨1, 0⟩ ∧ bitOf (1 : BitVec 4) (fidOf 0) = true ∧
    Sparse.getN f0.fbArr 0 ≤ 0 ∧ 0 < Sparse.getN ({ f0 with fbArr := [(0, 1)] } : Fibre).fbArr 0 ∧
    f0.fbIn = false ∧ ({ f0 with fbIn := true } : Fibre).fbIn = true ∧ Sparse.find Group.start.nbar 9 = none ∧
    Sparse.find ({ Group.start with nbar := [(9, ⟨1, 0, 0⟩)] } : Group).nbar 9 = some ⟨1, 0, 0⟩ ∧
    Sparse.find f0.nbWait 9 = none ∧ Sparse.find ({ f0 with nbWait := [(9, 0)] } : Fibre).nbWait 9 = some 0 ∧
    f0.nbIn = false ∧ (onF f0).lsuWaits 0 (fun _ => true) = false ∧
    (withOp (onF f0) 7 (op0 load0)).lsuWaits 0 (fun o => !o.reads) = false ∧
    (withOp (onF f0) 7 (op0 store0)).lsuWaits 0 (fun o => !o.reads) = true ∧ f0.st ≠ .parked ∧ f0.s 1 = 0 ∧ (f0.setS 1 32).s 1 ≠ 0 ∧ (f0.setS 1 32).s 1 ≤ 32 ∧ 32 < (f0.setS 1 33).s 1 ∧
    (onF f0).nbarsUsed 0 < 256 ∧ 256 ≤ ({ onF f0 with groups := [(0, { Group.start with
      nbar := (List.range 256).map fun n => (n, ⟨1, 0, 0⟩) })] } : State).nbarsUsed 0 := by decide +kernel

theorem witness_WindowAndExit (f : Fibre) (hf : f = { f0 with st := .exiting }) :
    windowBad f0.wdesc 16 0 = false ∧ windowBad f0.wdesc 0 0 = true ∧ windowBad f0.wdesc 17 0 = true ∧
    f0.openBatch = [] ∧ f0.owes = [] ∧ f0.tests = [] ∧ (onF f).fibre 0 = some f ∧ (onF f).mayEmpty 0 f = true ∧
    (onF f0).mayEmpty 0 f0 = false := by subst hf; decide +kernel

/-- Header pairs of CONT, for an entry that the launch declares; the last lanes, and lanes that leave others behind; a
teller with room, and a full one. -/
def contF : Fibre := (f0.setS 1 0x20000).setS 2 7
def bin0 : Bin := ⟨0, 0, 0x20000, 7, List.replicate 32 ⟨[], .nothing⟩, true, false⟩
def fullTeller : State :=
  { copying with sched := { copying.sched with bins := List.replicate 128 bin0 } }
theorem witness_ContAndRetire :
    contBad (contF.s 1) (contF.s 2) = false ∧ contBad 2 0 = true ∧ contF.active ≠ 0 ∧
    ({ contF with stack := [⟨.ifEnt, 3, 0, 0⟩], exec := 1 } : Fibre).emptyWithout 1 = false ∧
    contF.emptyWithout contF.active = true ∧ copying.tellerRoom 0 0 0x20000 32 = true ∧
    fullTeller.tellerRoom 0 0 0x20000 32 = false := by decide +kernel

/-- A launch with a queue table in the pinned frame: the descriptor of queue 0 is valid, that of queue 1 is not. -/
def queueing (f : Fibre) : State :=
  { onF f with
    mem := { (onF f).mem with vault := [(106, 1)], frames := [(0, frame0)] }
    sched := { copying.sched with launches := [(0, { launch0 with lrec := { launch0.lrec with qtab := 64 } })] } }
def enqF : Fibre := f0.setS 1 (2 ^ 48)
def census0 : Census := ⟨9, 0, 0, 3, 0, 0, 0, 0, 5 * 2 ^ 48, 0, [], none, [], [], false, false, none⟩

theorem witness_WorkRequests :
    (f0.s 1).toNat % 256 = 0 ∧ ((f0.setS 1 128).s 1).toNat % 256 ≠ 0 ∧ ((f0.setS 1 32).s 1).toNat % 64 ≠ 0 ∧
    (onF f0).sched.launches.length + (onF f0).launching < 1024 ∧
    recGroup (enqRecord enqF 1) = true ∧ recGroup (enqRecord f0 1) = false ∧ recReserved (enqRecord enqF 1) = 0 ∧
    recEntry (enqRecord enqF 1) % 4 = 0 ∧ leNat (((enqRecord enqF 1).drop 12).take 1) = 0 ∧ (onF enqF).qtabOf 0 = none ∧
    (queueing enqF).qtabOf 0 = some 64 ∧ (queueing enqF).absent [64 + 64 * 0] = [] ∧
    ((queueing enqF).qdesc (64 + 64 * 0) 0).valid = true ∧ ((queueing enqF).qdesc (64 + 64 * 1) 0).valid = false ∧
    (queueing enqF).absent [((queueing enqF).qdesc 64 0).head, ((queueing enqF).qdesc 64 0).tail] = [] ∧
    physNat (queueing enqF) ((queueing enqF).qdesc 64 0).tail 8 - physNat (queueing enqF) ((queueing enqF).qdesc 64 0).head 8 +
      (queueing enqF).enqueuing 0 0 0 < ((queueing enqF).qdesc 64 0).size := by decide +kernel

theorem witness_RepliesAndCensuses (f : Fibre) (hf : f = { f0 with exec := 1, owes := [(0, (9, 0))] }) (s : State)
    (hs : s = { onF f with co := { (onF f).co with censuses := [census0] } }) :
    f.active ≠ 0 ∧ (∀ i ∈ lanesOf f.active, Sparse.find f.owes i = some (9, 0)) ∧ s.census 9 = some census0 ∧
    censusWidth census0.ctl = 4 ∧ (∃ i ∈ lanesOf f0.active, Sparse.find f0.owes i = none) ∧ 
    solicitBad ((f0.setS 3 (5 * 2 ^ 48)).s 3) = false ∧ solicitBad ((f0.setS 3 (6 * 2 ^ 48)).s 3) = true ∧
    Sparse.find Group.start.cens 3 = none ∧ f0.ctrFull ctrSC = false ∧
    ({ f0 with ctr := [(ctrSC, 62)] } : Fibre).ctrFull ctrSC = true ∧
    (s.co.censuses.filter fun c => c.value.isNone).length < 4096 := by subst hf hs; decide +kernel

/-- Directories with no entry, with one that the fibre may drop or move, with a pinned one, and with another's; a full
one; the first and the last identifier, and a malformed one. -/
def dent (pins : Nat) (asid : BitVec 16) : DirEnt := ⟨5, 6, asid, pins, false, .resident⟩
def listing (x : Nat) (e : DirEnt) : State := { onF f0 with co := { (onF f0).co with dirs := [(x, e)] } }
theorem witness_Directories :
    (onF f0).freeDir 0 = some 0 ∧ (listing 0 (dent 0 0)).freeDir 0 = some 1 ∧
    ({ onF f0 with co := { (onF f0).co with dirs := (List.range 512).map fun i => (i, dent 0 0) } } : State).freeDir 0 =
      none ∧
    dirIdBad 0 = false ∧ dirIdBad (BitVec.ofNat 64 (191 * 512 + 511)) = false ∧ dirIdBad (BitVec.ofNat 64 (192 * 512)) = true ∧
    (onF f0).dirEnt 0 = none ∧ (listing 0 (dent 0 0)).dirEnt 0 = some (dent 0 0) ∧ (dent 0 0).mine f0.asid = true ∧
    (dent 0 1).mine f0.asid = false ∧ (dent 1 0).pins ≠ 0 ∧ (191 : Dword) ≤ 191 ∧ (191 : Dword) < 192 := by decide +kernel

/-- A move before and after its insertion, with its switch in the root's order. -/
def moving (new : Option Nat) : State :=
  { listing 0 { dent 0 0 with st := .moving } with
    co := { (listing 0 { dent 0 0 with st := .moving }).co with
      dirs := [(0, { dent 1 0 with st := .moving }), (512, { dent 0 0 with st := .inbound })]
      moves := [⟨7, 0, 1, 6, new, false⟩], root := [⟨none, some 7, [0, 3]⟩] } }
theorem witness_DirectoryMoves :
    (moving none).co.moves.find? (fun k => k.op = 7) = some ⟨7, 0, 1, 6, none, false⟩ ∧
    (moving none).dirEnt 0 = some { dent 1 0 with st := .moving } ∧ (moving none).freeDir 1 = some 513 ∧
    (moving (some 512)).co.moves.find? (fun k => k.op = 7) = some ⟨7, 0, 1, 6, some 512, false⟩ ∧
    (moving (some 512)).nextMsg 1 = some ⟨none, some 7, [0, 3]⟩ ∧ ([0, 3].contains (1 * 2 + 1)) = true ∧
    (moving (some 512)).dirEnt 512 = some { dent 0 0 with st := .inbound } ∧
    (moving (some 512)).nextMsg 0 = some ⟨none, some 7, [0, 3]⟩ ∧ ([0, 3].contains (0 * 2)) = true ∧
    (dent 1 0).pins ≠ 0 ∧ (some 7 : Option Nat) ≠ some 8 := by decide +kernel

/-- A census before its broadcast, at a core, with all cores swept, and complete. -/
def asked (c : Census) (root : List RootMsg) : State :=
  { onF f0 with
    groups := [(0, { Group.start with cens := [(3, 9)] })]
    co := { (onF f0).co with censuses := [c], dirs := [(0, dent 0 0)], root := root } }
def sent0 : Census := { census0 with serial := some 4 }
def swept0 : Census := { sent0 with swept := List.range 192 }
theorem witness_Censuses :
    (asked census0 []).census 9 = some census0 ∧ census0.serial = none ∧
    (∀ o ∈ census0.after, (asked census0 []).opLive o = false) ∧
    (∃ o ∈ [7], (withOp (asked { census0 with after := [7] } []) 7 (op0 load0)).opLive o = true) ∧
    (asked sent0 [⟨some 9, none, [0]⟩]).nextMsg 0 = some ⟨some 9, none, [0]⟩ ∧
    (asked sent0 []).co.censuses.find? (fun k => k.serial = some 4) = some sent0 ∧
    (asked sent0 []).replySlots 0 + ((asked sent0 []).matching sent0 0).length ≤ replyStore ∧
    ((asked sent0 []).matching sent0 0).length = 1 ∧
    (asked sent0 []).tellerHolds 0 + (asked sent0 []).tellerComing 0 + ((asked sent0 []).matching sent0 0).length ≤ tellerSize ∧
    (asked sent0 []).tellerRoom 0 sent0.region (field sent0.ctl 0 48) 1 = true ∧ (some 8 : Option Nat) ≠ some sent0.id ∧
    (asked sent0 []).co.censuses.find? (fun k => k.serial = some 4 ∧ k.value = none) = some sent0 ∧
    sent0.swept.length < Config.cores ∧ Config.cores ≤ swept0.swept.length ∧ (∀ x ∈ swept0.slots, x.val ≠ none) ∧
    (swept0.slots.foldl (fun acc x => acc.unpin x.ent) (asked swept0 [])).groupKnown swept0.group = true ∧
    Sparse.find ({ Group.start with cens := [(3, 9)] } : Group).cens 3 = some 9 ∧ census0.value = none ∧
    ({ swept0 with value := some (1, 1) } : Census).value = some (1, 1) := by decide +kernel

/-! ### System instructions -/

/-- A region that is not privileged. -/
def plain0 : State := { onF f0 with sched := { (onF f0).sched with rcbs := [(0, { Rcb.start with priv := false })] } }

/-- A privileged fibre with two regions below it in a tree; control words on both sides of each limit; banks that are and
are not in transit, and a switch with and without an earlier reference. -/
def switch0 : BankSwitch := ⟨8, 3, 2 * 2 ^ 8 + 3, some 0, 5, 0x10004, none, 0⟩
def switching (o : Op) : State :=
  { withOp (onF { f0 with waitOp := some 8 }) 7 o with mem := { (onF f0).mem with switches := [switch0] } }
theorem witness_System :
    plain0.privOf f0.region = false ∧ (onF f0).privOf f0.region = true ∧ tlbinvBad (BitVec.ofNat 64 (2 ^ 19)) = true ∧
    tlbinvBad (BitVec.ofNat 64 (4 * 2 ^ 16 + 0xFFFF)) = false ∧ tlbinvBad (BitVec.ofNat 64 (5 * 2 ^ 16)) = true ∧
    cfgBad (BitVec.ofNat 64 (2 * 2 ^ 8 + 3)) = false ∧ cfgBad (BitVec.ofNat 64 (2 ^ 5)) = true ∧
    (onF f0).mem.inTransit 3 = false ∧ (switching (op0 load0)).mem.inTransit 3 = true ∧ f0.waitOp = none ∧
    (switching (op0 load0)).mem.switches.find? (fun w => w.bank = 0 * 32 + 3) = some switch0 ∧
    (∀ e ∈ (switching (op0 load0)).eng.ops, e.1 < switch0.since → e.2.refersTo (switching (op0 load0)).mem 3 = false) ∧
    (∃ e ∈ (switching (op0 (.copy (64 * 2 ^ 128 + 1 * 2 ^ 57 + 3 * 2 ^ 18) 0 false false true true))).eng.ops,
      e.1 < switch0.since ∧ e.2.refersTo (onF f0).mem 3 = true ∧ (e.2.body.isLsu && (onF f0).recorded e.1) = false) ∧
    (switching (op0 load0)).fibre 0 = some { f0 with waitOp := some 8 } ∧ (∀ x ∈ ([] : List BankSwitch), x.bank ≠ 3) ∧
    ([{ switch0 with since := 9 }] : List BankSwitch).find? (fun x => x.bank = 3) = some { switch0 with since := 9 } := by
  decide +kernel

/-- Regions inside and outside a subtree, and a number that no region has. -/
def tree0 : State :=
  { onF f0 with sched := { (onF f0).sched with rcbs := [(0, { Rcb.start with addr := 256 }), (1, { Rcb.start with parent := 256 })] } }
theorem witness_Regions :
    regionBad 6 = true ∧ regionBad 2 = false ∧ field (2 : Dword) 0 4 = 2 ∧ tree0.rcb 1 = some { Rcb.start with parent := 256 } ∧
    tree0.inSubtree f0.region 1 = true ∧ tree0.inSubtree 1 0 = false ∧ tree0.rcb 3 = none ∧
    field (1 : Dword) 0 4 = 1 ∧ tree0.io.ifaces = [] ∧ (4 : Dword) ≤ 4 ∧ (3 : Dword) < 4 := by decide +kernel

/-- Purses that cover a cost, that do not, and one at half its allowance; a granted and a waiting request. -/
theorem witness_Leave :
    field (1 : Dword) 0 2 ≠ 0 ∧ field (1 : Dword) 2 30 = 0 ∧ field (0 : Dword) 0 2 = 0 ∧ field (4 : Dword) 2 30 ≠ 0 ∧
    ({ f0 with leave := some 5 } : Fibre).leave = some 5 ∧ f0.leave = none ∧ (onF f0).co.leaves = [] ∧
    (onF f0).leaveOff = false ∧ ((field (1 : Dword) 32 32 : Nat) : Int) ≤ purseBal ((onF f0).purse 0) ∧
    purseBal (((onF f0).setPurse 0 4 0).purse 0) < (field (2 ^ 32 + 1 : Dword) 32 32 : Nat) ∧
    2 * purseBal (((onF f0).setPurse 0 5 2).purse 0) < purseAllow (((onF f0).setPurse 0 5 2).purse 0) ∧
    purseBal (((onF f0).setPurse 0 5 2).purse 0) < (field (3 * 2 ^ 32 + 1 : Dword) 32 32 : Nat) ∧
    purseAllow (((onF f0).setPurse 0 4 2).purse 0) ≤ 2 * purseBal (((onF f0).setPurse 0 4 2).purse 0) ∧
    (∃ r ∈ [(⟨0, 0, 1, .fibre 0⟩ : LeaveReq)], r.who = .fibre 0) ∧ 47 < Config.clusters := by decide +kernel

/-! ### The host -/

/-- A launch record in the pinned frame at device address 0: one gang of one role with a frame of 128 registers. -/
def launching : State := holding [(20, 1), (21, 1), (70, 16), (77, 16)]

/-- Queue 0 with a completion ring of two entries at 4096. -/
def queue0 : Queue := { Queue.reset with cqBase := 4097 }

/-- A record of a load in frame 0 of the fibre at locator 0, waiting or not. -/
def record0 (waiting : Bool) : Record :=
  { op := 7, kind := 1, cause := 4, va := 64, sz := 0, akind := 0, ripe := false, waiting := waiting, absorber := 0
    running := false, grans := [], blocks := [], clk := 0 }
def recorded (waiting : Bool) : State :=
  { onF f0 with eng := { (onF f0).eng with ops := [(7, op0 load0)], recs := [(0, record0 waiting)] } }

theorem witness_HostCommands :
    ringSize queue0.cqBase ≠ 0 ∧ ringSize Queue.reset.cqBase = 0 ∧ (0 : Dword).toNat % 256 = 0 ∧ (1 : Dword).toNat % 256 ≠ 0 ∧
    launching.launchStatus (physRead launching 0 256) none = 0 ∧ w0.launchStatus (physRead w0 0 256) none ≠ 0 ∧
    w0.sched.launches.length + w0.launching < 1024 ∧
    1024 ≤ (List.replicate 1024 ((0 : Nat), launch0)).length ∧ w0.io.ifaces = [] ∧ w0.rcb 0 ≠ none ∧ w0.rcb 1 = none ∧
    w0.recordAt 0 = none ∧ ((recorded false).recordAt 0).isSome = true ∧ (w0.regionOp none 1 2).1 = 4 ∧
    (24575 : Word) < 24576 ∧ (191 : BitVec 16) < 192 ∧ (0xFFFFFF : Word) < 2 ^ 24 ∧ (47 : Byte) < 48 ∧
    (0xFFFFFFFFFFF00 : Dword) < 2 ^ 52 := by decide +kernel

theorem witness_Resumes :
    w0.findWaiting 0 = none ∧ (recorded false).findWaiting 0 = none ∧ Sparse.find (recorded true).eng.recs 0 = some (record0 true) ∧
    (record0 true).waiting = true ∧ Sparse.find (recorded true).eng.ops 7 = some (op0 load0) ∧
    ({ f0 with trapWait := some ⟨0x10004, 0⟩ } : Fibre).trapWait = some ⟨0x10004, 0⟩ ∧ (3 : BitVec 16) < 4 := by decide +kernel

/-- A save area without a group, and with one of a task record. -/
def save0 (g : Sparse Group) : Save := ⟨4096, 0, [], [], g, [], [], [], [], [], [], [], [], []⟩
def saved (g : Sparse Group) : State := { onF f0 with sched := { (onF f0).sched with saves := [save0 g] } }
theorem witness_Preemption (s : State) (hs : s = { onF f0 with io := { (onF f0).io with pending := [⟨0, 5, .save 0 4096⟩] } }) :
    (onF f0).preemptable 0 = true ∧ s.preemptable 0 = false ∧ (onF f0).preemptable 1 = false ∧ (onF f0).rcb 0 = some Rcb.start ∧
    Rcb.start.idem = false ∧ ({ Rcb.start with idem := true } : Rcb).idem = true ∧
    (∀ v ∈ (onF f0).sched.saves, v.area ≠ 4096) ∧
    (saved []).sched.saves.find? (fun v => v.area = 4096) = some (save0 []) ∧ (save0 []).units = [] ∧
    (save0 [(0, Group.start)]).units ≠ [] ∧ (saved []).rcb 0 = some Rcb.start ∧ Rcb.start.st ≠ .killed ∧
    (saved []).io.pending = [] ∧ s.saveReady (s.gather 4096 0) = true ∧
    (readAllSpills s (s.gather 4096 0).fibres []).1 = true ∧
    (withOp s 7 (op0 load0)).saveReady ((withOp s 7 (op0 load0)).gather 4096 0) = false ∧
    (∃ t, (saved []).endRestore (save0 []) 0 0 = some t) ∧
    (onF f0).holder 0 = some 0 := by
  subst hs
  and_intros <;> first | decide +kernel | exact Exists.intro _ rfl

/-- A save area with more launches than the launch table has entries. -/
theorem restore_waits (s : State) (v : Save) (hn : v.launches.isEmpty = false)
    (h : launchTable < s.sched.launches.length + s.launching + v.launches.length) : s.endRestore v 0 0 = none := by
  simp [State.endRestore, State.launchesBack, hn, h]

theorem witness_RestoreWaits (v : Save) (hv : v = { save0 [] with launches := List.replicate 1025 (0, launch0) }) :
    w0.endRestore v 0 0 = none := by
  have h : v.launches.length = 1025 := by rw [hv]; exact List.length_replicate ..
  refine restore_waits w0 v (by rw [hv]; rfl) ?_
  have : launchTable = 1024 := rfl
  omega

theorem witness_DebugCommands (f : Fibre) (hf : f = { f0 with debugger := ⟨true, 0, false⟩ }) :
    (onF f0).io.ifaces = [] ∧ (onF f).fibre (0 : Word).toNat = some f ∧ (onF f).rcb (0 : Word).toNat ≠ none ∧
    ({ onF f with sched := { (onF f).sched with rcbs := [] } } : State).rcb 0 = none ∧ f0.st ≠ .exiting ∧
    itemOk 7 7 = true ∧ itemOk 7 8 = false ∧ itemOk 6 3 = true ∧ itemOk 8 0 = false ∧ (onF f).itemBusy 0 f 0 0 = false ∧
    ((onF f).addPend 0 7 [.s 0 5]).itemBusy 0 f 0 0 = true ∧ ((onF f).itemBytes 0 f 2 0).isSome = true ∧
    f.debugger.stopped = true ∧ f0.debugger.stopped = false ∧
    ((onF f).writeItem 0 f 0 0 (readBytes (onF f).mem.host 0 512)).isSome = true ∧
    (0 : Nat) < 64 ∧ (15 : Byte) < 16 ∧ (3 : Byte) < 4 ∧ (2 : Byte) ≤ 2 ∧ (12 : Byte) ≤ 12 ∧ (7 : Byte) < 8 := by
  subst hf; decide +kernel

/-! ### The vault and the device -/

/-- A device whose first pool-map entry maps a gibibyte with its tags behind it, and one frame. -/
def pooled (frames : Sparse Frame) : State :=
  { onF f0 with
    mem := { (onF f0).mem with frames := frames }
    reg := { (onF f0).reg with
      portcfg := 1
      poolLo := [(0, BitVec.ofNat 64 (2 ^ 63 + 2 ^ 62 + 2 ^ 58))], poolTag := [(0, BitVec.ofNat 64 (2 ^ 30))] } }
def fr (st : FrameState) (dirty : BitVec 64) : Frame := { Frame.pinned with st := st, gran := 4, dirty := dirty }

theorem witness_Frames :
    poolFabric (pooled []).reg (4 * 4096) = some 16384 ∧ poolTagAddr (pooled []).reg (4 * 4096) = some (2 ^ 30 + 512) ∧
    (∀ c, c < 64 → poolFabric (pooled []).reg (4 * 4096 + c * 64) = some (16384 + c * 64)) ∧
    (∀ c, c < 64 → poolTagAddr (pooled []).reg (4 * 4096 + c * 64) = some (2 ^ 30 + 512 + 2 * c)) ∧
    16384 + 4096 ≤ 2 ^ 30 + 512 ∧ Sparse.find (pooled [(8, fr .filling 0)]).mem.frames 8 = some (fr .filling 0) ∧
    (fr .filling 0).evictNext = false ∧ (fr .evicting 1).refs = 0 ∧ (fr .evicting 1).pinNext = false ∧
    (fr .evicting 1).refill = false ∧ (fr .evicting 1).dirty.getLsbD 0 = true ∧ (pooled []).io.pending = [] ∧
    rangeOff (BitVec.ofNat 64 (2 ^ 21)) (BitVec.ofNat 64 (2 ^ 21)) vaultLimit = false ∧
    rangeOff 0 (BitVec.ofNat 64 (vaultLimit + 2 ^ 21)) vaultLimit = true ∧ rangeOff 1 0 poolLimit = true ∧
    (pooled []).frameState 512 = none ∧ (pooled []).pinnedCount + 512 ≤ pinLimit ∧
    (pooled []).framesIn 0 (2 ^ 21) = [] ∧
    (pooled [(8, fr .dirty 1)]).framesIn 0 (2 ^ 21) = [(8, fr .dirty 1)] ∧ (pooled []).victimsWanted 0 = 0 ∧
    (0 : Nat) * 4 ≤ dieFrames := by decide +kernel

/-- A migration of one granule. -/
def mig0 : Migration := ⟨7, 0, 0, [4], [], [], [], [0]⟩
/-- A present frame with host-shared blocks: block 0 is shared. -/
def shared0 : Frame := { fr .clean 0 with hs := true, coh := [(0, .s)] }
def snooped : State := { pooled [(8, shared0)] with clr := { (pooled []).clr with migs := [mig0], owns := [⟨256, true⟩] } }
theorem witness_Snoops :
    snooped.clr.migs = [mig0] ∧ mig0.grans = [4] ∧ frameOf snooped.mem.frames ((16384 : Dword).toNat / 4096) = some (8, shared0) ∧
    Sparse.find shared0.coh ((16384 : Dword).toNat / 64 % 64) = some .s ∧ snooped.clr.owns = [⟨16384 / 64, true⟩] ∧
    (∀ o ∈ (pooled [(8, shared0)]).clr.owns, o.block ≠ (16384 : Dword).toNat / 64) ∧
    findFrame snooped.mem.frames (16384 / 4096) = some (8, shared0) ∧ shared0.present = true ∧ snooped.eng.recs = [] ∧
    snooped.co.subs = [] ∧ frameOf snooped.mem.frames 5 = none ∧ (fr .clean 0).hs = false ∧
    (mapped f0).frameState 0 = some .pinned ∧ (mapped f0).frameState 1 ≠ some .pinned ∧ (mapped f0).mem.l1 = [] ∧
    (mapped f0).mem.ccache = [] ∧ (mapped f0).mem.partials = [] ∧ snooped.mem.ranges = [] ∧ (fr .clean 0).st = .clean ∧
    (∀ o ∈ (pooled []).clr.owns, o.block ≠ 5) ∧ [(⟨3, 0⟩ : HostSnoop)].find? (fun x => x.id = 3) = some ⟨3, 0⟩ := by decide +kernel

/-- Registers that exist and are not there, with PORTCFG open and closed; empty cores and occupied ones; a machine without
regions. -/
theorem witness_Device :
    (0x0138 : BitVec 16).toNat ∈ [0x0000, 0x0138, 0x0148] ∧ (0x5008 : BitVec 16).toNat = 0x5008 ∧
    (mapped f0).reg.ctxbase.getLsbD 0 = true ∧ w0.reg.ctxbase.getLsbD 0 = false ∧
    State.reset.allRegions = [] ∧ State.reset.io.pending = [] ∧ Sparse.sortedFrom none (mapped f0).mem.frames = true ∧
    (mapped f0).mem.ranges = [] ∧ (mapped f0).mem.ccache = [] ∧ 191 < Config.cores ∧ Config.cores ≤ 192 ∧ (∃ e ∈ w0.fibres, coreOf e.1 = 0) ∧
    (∀ e ∈ w0.fibres, coreOf e.1 ≠ 1) ∧ 1 ∉ w0.gated ∧ w0.replySlots 1 = 0 ∧ w0.co.leaves = [] := by decide +kernel

theorem witness_Errors (s : State) (hs : s = { mapped f0 with xl := { (mapped f0).xl with atsReq := [⟨0, 4096, 0, [0]⟩] } }) :
    (∃ r ∈ s.xl.atsReq, r.asid = 0 ∧ r.page = (4096 : Dword).toNat) ∧
    (∀ r ∈ s.xl.atsReq, r.asid = 0 → r.page ≠ (8192 : Dword).toNat) ∧ s.co.subs = [] ∧
    s.fibre (1 * 128 + 0 % 128) = none ∧ s.scratchOwner 0 0 = none ∧ Sparse.find s.mem.frames (64 / 4096) = some frame0 ∧
    frame0.st = .pinned ∧ (fr .dirty 2).dirty.getLsbD (64 / 64 % 64) = true ∧ (fr .clean 0).dirty = 0 ∧
    s.rcb 0 ≠ none ∧ s.rcb 1 = none ∧ s.lockedRegion 0 = false ∧
    ({ s with io := { s.io with ifaces := [⟨0, .configLocked, false, []⟩] } } : State).lockedRegion 0 = true := by
  subst hs; decide +kernel

/-! ### Work that starts and ends -/

/-- A launch of one group with one role, ready to be placed. -/
def role0 : Role := ⟨0x20000, 16, 0, 16, false, 0⟩
def grid0 : Launch := { launch0 with lrec := { launch0.lrec with
  nx := 1, ny := 1, nz := 1, ngang := 1, nrole := 1, roles := [role0], args := [], done := 0 } }
def placing : State :=
  { onF f0 with
    reg := { (onF f0).reg with rplbase := 1, ctxbase := 1 }
    sched := { (onF f0).sched with launches := [(0, grid0)], rcbs := [(0, { Rcb.start with tickets := 1 })] } }
def noted : State := placing.notePass placing.considered
theorem witness_Placement :
    w0.reg.rplbase.getLsbD 0 = false ∧ placing.reg.rplbase.getLsbD 0 = true ∧ w0.reg.ctxbase.getLsbD 0 = false ∧
    placing.reg.ctxbase.getLsbD 0 = true ∧ placing.tripped = false ∧ placing.restoring = none ∧
    (noted.bestRegion noted.considered).map (fun x => x.2.2) = some [.group 0] ∧ Sparse.find noted.sched.launches 0 = some grid0 ∧
    grid0.nextLin = some 0 ∧ noted.gridCore grid0 = some 1 ∧ noted.fitSlots 1 [] grid0.lrec.gangNeeds = some [32] := by decide +kernel

/-- A queue table at device address 64 whose queue 0 holds one record for core 0. -/
def tasking : State :=
  { placing with
    mem := { placing.mem with
      vault := [(65, 2), (73, 4), (106, 1), (514, 3), (518, 1), (1032, 1)], frames := [(0, frame0)] }
    sched := { placing.sched with launches := [(0, { grid0 with lrec := { grid0.lrec with qtab := 64 } })] } }
theorem witness_TaskTake :
    tasking.coreRuns 0 = true ∧ tasking.workRegions = [0] ∧ tasking.rcb 0 = some { Rcb.start with tickets := 1 } ∧
    tasking.declaring 0 0x30000 true ≠ none ∧
    (tasking.findTask 0 0).map (fun x => (x.2.1, recBad x.2.2, recGroup x.2.2, recEntry x.2.2, tasking.taskRoom 0 0 x.2.2)) =
      some (.ring 0 0, false, true, 0x30000, true) ∧ placing.findTask 0 0 = none := by decide +kernel

/-- A launch that is over and one that is not; records on their way to a teller, a bin, a full ring. -/
def over0 : Launch := { grid0 with next := 1 }
def telling (bins : List Bin) (tellIn : List TellRun) : State :=
  { placing with sched := { placing.sched with bins := bins, tellIn := tellIn } }
def crec : ContRec := ⟨leBytes 64 (0x20000 + 7 * 2 ^ 64), .nothing⟩
def bin1 : Bin := ⟨0, 0, 0x20000, 7, [crec], true, false⟩
theorem witness_Tellers (s : State) (hs : s = telling [bin1] [⟨0, 0, [], [crec], none⟩]) :
    over0.placed = 0 ∧ over0.records = 0 ∧ over0.nextLin = none ∧ over0.lrec.done = 0 ∧ grid0.nextLin ≠ none ∧
    (∀ t ∈ (telling [] []).sched.tellIn, t.core ≠ 0) ∧
    (s.sched.bins.filter fun b => b.core = 0)[0]? = some bin1 ∧ (s.sched.bins.filter fun b => b.core = 0)[1]? = none ∧
    s.declaring 0 0x20000 false ≠ none ∧ (s.binPlace bin1).isSome = true ∧ bin1.ripe = true ∧
    (∀ b ∈ (telling [] []).sched.bins, b.core ≠ 0 ∨ b.ripe = false) ∧
    ({ Rcb.start with covtail := 1 } : Rcb).covhead ≠ ({ Rcb.start with covtail := 1 } : Rcb).covtail ∧
    s.tellerHolds 0 < tellerSize := by subst hs; decide +kernel

/-- Rings with room, without, and disabled; a load that has finished; records that are ripe and are not. -/
def ring0 : Ring := ⟨4097, 0, 0⟩
theorem witness_Deliveries :
    field ring0.base 0 6 ≠ 0 ∧ (ring0.tail - ring0.head).toNat < 2 ^ field ring0.base 0 6 ∧
    2 ^ field ring0.base 0 6 ≤ ((2 : Word) - 0).toNat ∧ field Ring.reset.base 0 6 = 0 ∧
    Sparse.find w0.eng.ops 7 = none ∧ (recorded false).recorded 7 = true ∧
    (withOp (onF f0) 8 (op0 load0)).oldestLsu 9 (op0 load0) = false ∧
    ({ op0 load0 with finished := true, ctr := some ctrLD } : Op).finished = true ∧ (withOp (onF f0) 7 (op0 load0)).eng.held = [] ∧
    (record0 false).ripe = false ∧ (record0 false).running = false ∧ f0.st ≠ .suspended ∧
    ({ f0 with st := .suspended } : Fibre).st = .suspended ∧ canonical (2 ^ 56) = false ∧
    w0.io.late = [] ∧ queried.eng.recs = [] := by decide +kernel

/-- Two slots of a quadrant on a clock of PRIO and on the 16th; a slot that is passed over. -/
def quadding (count : Nat) : State := { onF f0 with quads := [(0, ⟨7, count⟩)] }
theorem witness_QuadrantChoice :
    (1 : Nat) / 8 = 0 / 8 ∧ ((quadding 3).quad 0).last < 8 ∧ ((quadding 3).quad 0).count ≠ 15 ∧
    ((quadding 15).quad 0).count = 15 ∧ (quadding 3).slotPrio 0 = (quadding 3).slotPrio 1 ∧
    ({ quadding 3 with sched := { (quadding 3).sched with rcbs := [(0, { Rcb.start with prio := 2 })] } } : State).slotPrio 1 <
      ({ quadding 3 with sched := { (quadding 3).sched with rcbs := [(0, { Rcb.start with prio := 2 })] } } : State).slotPrio 0 := by
  decide +kernel

/-- A step that runs an instruction. -/
theorem witness_CacheBounds : ∃ t, step w0 = .next t := ⟨_, rfl⟩

/-! ### Further clauses of the statements -/

/-- A function whose internal value lies off its exact one: 2^(2^-11) in F16, written one place above its rounding. -/
theorem witness_FunctionBound :
    Fun.exp2.value (.fin false 1 (-11)) = .near (.fin false
      115831285791959935936968794451156492655853305910812169209458494123352827468835 (-256)) ∧
    (Fun.exp2.write .f16 (floatOf .f16) Rctx.plain (.fin false 1 (-11)) (2 ^ 300)).1 ≠
      ((floatOf .f16).round false Rctx.plain (.fin false
        115831285791959935936968794451156492655853305910812169209458494123352827468835 (-256))).1 ∧
    Rctx.plain.rm = .rne := by decide +kernel

/-- A core with a dirty line of an epoch that a drain takes, and a cluster that has a way of its cache. -/
def dirty0 : L1Line := ⟨[(127, 1)], [], 0, false⟩
def draining0 : State :=
  { onF f0 with mem := { (onF f0).mem with l1 := [(l1Key 0 5, dirty0)], drains := [⟨0, 0⟩] } }
theorem witness_Drains (w : WMode) (hw : w = ⟨some 2, false, true⟩) (f : Fibre)
    (hf : f = { f0 with pendSet := [⟨4, 0⟩], draining := true }) :
    Mem.wf draining0.mem = true ∧ (⟨0, 0⟩ : Mark) ∈ draining0.mem.drains ∧
    Sparse.find draining0.mem.l1 (l1Key 0 5) = some dirty0 ∧ draining0.mem.cacheBanks 0 ≠ [] ∧
    ({ draining0.mem with banks := (List.range 32).map fun i => (i, ⟨.off, 0, 0, []⟩) } : Mem).cacheBanks 0 = [] ∧
    w.through = some 2 ∧ f.draining = true ∧ (f.pendSet.filter fun k => k.core ≠ 0).any [(⟨4, 0⟩ : Mark)].contains = true ∧
    (f.pendSet.filter fun k => k.core ≠ 0).any draining0.mem.drains.contains = false := by
  subst hw hf; decide +kernel

/-- Values under A96F: a sum that is not zero, and one that is. -/
theorem witness_FloatAccumulator :
    a96f.read 0 = .fin false 0 (-16462) ∧ (a96f.read 0).isNaN = false ∧ a96f.canonicalNaN ≠ 0 ∧
    (Val.fin false 3 0) ≠ .zero ∧ 3 * 2 ≠ 0 ∧ (Val.nan false false 0).isNaN = true := by decide +kernel

/-- A rejected test whose descriptor is read now, and one whose descriptor was read before. -/
def rtest0 : RTest := ⟨1, 0, 0, 0, 0, 0, 0⟩
theorem witness_RejectedTest :
    [(0, rtest0)].find? (fun e => e.1 = 0) = some (0, rtest0) ∧
    Ran.over (runThread (mapped f0) 7 0 (ask (.record 0 64 rsBad))).1 = false ∧
    Sparse.get [] ({ op0 (.rast (.test false [(0, rtest0)])) with logs := [(0, [9])] } : Op).logs 0 = [9] ∧
    (op0 (.rast (.test false [(0, rtest0)]))).half = [] ∧
    Ran.over (runThread (withOp (mapped f0) 7 (op0 (.rast (.test false [(0, rtest0)])))) 7 0 (ask (.record 0 64 rsBad))).1 =
      true := by decide +kernel

/-- Arrivals: above the phase; behind a read that parks the fibre, and behind one that still waits. -/
def loading (s : State) : State := withOp s 7 (op0 load0)
theorem witness_Arrivals :
    (1 : Nat) < Sparse.getN ({ f0 with fbArr := [(0, 2)] } : Fibre).fbArr 0 ∧ (onF f0).readFirst 0 = onF f0 ∧
    (((loading (onF f0)).readFirst 0).fibre 0).map (·.st) = some .parked ∧
    (let u := (loading { mapped f0 with mem := { (mapped f0).mem with hostBlocks := [(1, true)] } }).readFirst 0
     (u.fibre 0).map (·.st) = some .current ∧ u.lsuWaits 0 (fun _ => true) = true) ∧
    (let u := (loading (mapped f0)).readFirst 0
     (u.fibre 0).map (·.st) = some .current ∧ u.lsuWaits 0 (fun _ => true) = false) := by decide +kernel

/-- Memory that an address names, on both sides of its end; blocks that a host holds. -/
theorem witness_HeldMemory (s : State) (hs : s = { mapped f0 with mem := { (mapped f0).mem with hostBlocks := [(1, true)] } }) :
    (mapped f0).namesMemory 4095 = true ∧ (mapped f0).namesMemory 4096 = false ∧ (mapped f0).heldAt [(64, 64)] = [] ∧
    s.heldAt [(64, 64)] = [1] ∧ s.heldAt [(0, 64)] = [] ∧ (queueing enqF).heldAt [(64, 64)] = [] ∧
    (onF f0).heldAt [(0, 256)] = [] ∧ s.physTrouble 64 = none ∧ physHeld (mapped f0) 64 64 = [] := by
  subst hs; decide +kernel

/-- Operations on directory entries at their turn: in front, behind an earlier read, and finished; entries that are
the fibre's, another's, pinned, none; a move that has ended. -/
def directing (body : OpBody) (x : Nat) (e : DirEnt) : State := withOp (listing x e) 7 (op0 body)
theorem witness_DirectoryOperations :
    (op0 (.treg (.s 0 5) 0 0)).body.isDir = true ∧ (op0 (.tdrop 0)).body.isDir = true ∧
    (op0 (.tmove (.s 0 5) 0 1 0)).body.isDir = true ∧ (directing (.tdrop 0) 0 (dent 0 0)).recorded 7 = false ∧
    (directing (.tdrop 0) 0 (dent 0 0)).behindOthers 7 (op0 (.tdrop 0)) = false ∧
    ({ onF f0 with eng := { (onF f0).eng with ops := [(6, op0 load0), (7, { op0 (.tdrop 0) with preds := 1 })] } } : State).behindOthers
      7 (op0 (.tdrop 0)) = true ∧
    (∀ e ∈ (directing (.tdrop 0) 0 (dent 0 1)).dirEnt 0, e.asid ≠ (op0 (.tdrop 0)).asid) ∧
    (directing (.tdrop 0) 0 (dent 1 0)).dirEnt 0 = some (dent 1 0) ∧ (dent 1 0).st = .resident ∧
    (∀ m ∈ (directing (.tdrop 0) 0 (dent 0 0)).co.moves, m.src ≠ 0) ∧
    (⟨7, 0, 1, 6, none, true⟩ : Move).ended = true := by decide +kernel

/-- A fibre that waits for its bank while the debugger stops it, and while it steps one instruction and more. -/
theorem witness_BankSteps (f : Fibre) (hf : f = { f0 with waitOp := some 8 }) :
    ({ f with debugger := ⟨true, 0, false⟩ } : Fibre).debugger.stopped = true ∧
    ({ f with debugger := ⟨false, 1, true⟩ } : Fibre).debugger.steps = 1 ∧ f.debugger.steps ≠ 1 ∧
    f.debugger.stopped = false ∧ f.waitOp = some switch0.since ∧ switch0.queue = none ∧ switch0.loc = some 0 ∧
    f0.st ≠ .exiting ∧ f0.waitOp = none := by subst hf; decide +kernel

/-- A device interface over a tree of regions, an address space and a directory entry of it. -/
def iface0 : Iface := ⟨0, .configLocked, false, []⟩
def locked0 : State := { tree0 with io := { tree0.io with ifaces := [iface0] }, co := (listing 0 (dent 0 0)).co }
theorem witness_Locked :
    iface0 ∈ locked0.io.ifaces ∧ (locked0.rcb 1).isSome = true ∧ locked0.inSubtree iface0.region 1 = true ∧
    regionBad 1 = false ∧ field (1 : Dword) 0 4 ≠ 0 ∧ regionBad 0 = false ∧ field (0 : Dword) 0 4 = 0 ∧
    locked0.enteredAt (physNat locked0 0 8) = none ∧ locked0.enteredAt 256 = some 0 ∧
    locked0.inSubtree iface0.region 0 = true ∧ (locked0.fibre 0).map (·.region) = some 0 ∧
    (locked0.rcb iface0.region).map (·.asid) = some 0 ∧ tlbinvBad (BitVec.ofNat 64 (4 * 2 ^ 16)) = false ∧
    field (BitVec.ofNat 64 (4 * 2 ^ 16)) 16 3 = 4 ∧ (0, dent 0 0) ∈ locked0.co.dirs ∧ (dent 0 0).asid = 0 ∧
    itemOk 0 0 = true := by decide +kernel

/-- Frames as a sweep meets them: of each state, referred to, awaited, with their accessed bit, and none. -/
def sweeping (f : Frame) : State := pooled [(8, f)]
def awaiting (f : Frame) : State :=
  { sweeping f with eng := { (sweeping f).eng with recs := [(0, { record0 false with grans := [4] })] } }
theorem witness_Sweep :
    Sparse.find (sweeping (fr .clean 0)).mem.frames 9 = none ∧ (sweeping (fr .clean 0)).eng.recs = [] ∧
    (sweeping (fr .clean 0)).sched.saves = [] ∧ (sweeping (fr .clean 0)).awaited (fr .clean 0) = false ∧
    awaitsGran (awaiting (fr .clean 0)).eng.ops (awaiting (fr .clean 0)).eng.recs 4 = true ∧ (fr .clean 0).refs = 0 ∧
    ({ fr .dirty 1 with refs := 1 } : Frame).refs ≠ 0 ∧ ({ fr .clean 0 with accessed := true } : Frame).accessed = true ∧
    (fr .cleaning 1).accessed = false ∧ (sweeping (fr .pinned 0)).frameState 8 = some .pinned ∧ (3 : Nat) < 4 := by
  decide +kernel

theorem witness_ManyDirty (s : State) (hs : s.mem.frames = List.replicate dieFrames (0, fr .dirty 1)) :
    dieFrames < (s.mem.frames.filter fun e => e.1 % 4 = 0 ∧ e.2.st = .dirty).length * 4 := by
  have h : dieFrames < dieFrames * 4 := by decide
  rw [hs, List.filter_replicate]
  simpa [fr] using h

/-- A frame whose block 0 is modified, with its line in no cache; a host that holds a block, exclusively and not; the
device's own write that waits for it. -/
def modified0 : Frame := { fr .dirty 1 with hs := true, coh := [(0, .m)] }
def hosted (excl : Bool) : State :=
  { mapped f0 with mem := { (mapped f0).mem with hostBlocks := [(0, excl)], hostSnoops := [⟨3, 0⟩], hostWrites := [(5, 7)] } }
theorem witness_ModifiedSnoop (s : State) (hs : s = pooled [(8, modified0)]) :
    frameOf s.mem.frames ((16384 : Dword).toNat / 4096) = some (8, modified0) ∧ modified0.st ≠ .filling ∧
    Sparse.find modified0.coh ((16384 : Dword).toNat / 64 % 64) = some .m ∧ s.clr.owns = [] ∧
    Sparse.find ((s.mem.closeMergeLine ((8 * 64 + 0) / 2)).recallLine ((8 * 64 + 0) / 2)).frames 8 = some modified0 ∧
    modified0.dirty.getLsbD 0 = true ∧ poolFabric s.reg (modified0.gran * 4096 + 0 * 64) = some 16384 ∧
    poolTagAddr s.reg (modified0.gran * 4096 + 0 * 64) = some (2 ^ 30 + 512) ∧ 16384 + 64 ≤ 2 ^ 30 + 512 ∧
    Sparse.find (hosted true).mem.hostBlocks 0 = some true ∧ Sparse.find (hosted false).mem.hostBlocks 0 ≠ some true ∧
    (hosted true).frameState 0 = some .pinned ∧ (hosted true).mem.l1 = [] ∧ (hosted true).mem.partials = [] ∧
    ((hosted true).mem.hostWrites.filter fun e => e.1 / 64 = 0) = [(5, 7)] := by subst hs; decide +kernel

/-- A device without regions whose one frame is dirty. -/
def idleDevice : State := { State.reset with reg := (pooled []).reg, mem := (pooled [(8, fr .dirty 1)]).mem }
theorem witness_FunctionReset :
    idleDevice.allRegions = [] ∧ idleDevice.mem.l1 = [] ∧ idleDevice.mem.ccache = [] ∧ idleDevice.mem.ranges = [] ∧
    idleDevice.mem.frames = [(8, fr .dirty 1)] ∧ (fr .dirty 1).st ≠ .pinned ∧ (fr .dirty 1).dirty.getLsbD 0 = true ∧
    (∀ m ∈ idleDevice.mem.marks, m.1 / 32 ≠ 8) ∧ (Sparse.find copying.sched.rcbs f0.region).isSome = true ∧
    State.reset.io.pending = [] ∧ (∀ t ∈ w0.sched.tellIn, t.core ≠ 1) ∧ w0.mem.copies = [] := by decide +kernel

/-- A dirty line of the home cache; captured bytes that have changed. -/
theorem witness_ErrorPlaces (s : State) (hs : s = { idleDevice with mem := { idleDevice.mem with homec := [(256, true)] } })
    (x : Iface) (hx : x = ⟨0, .run, false, [(64, [1])]⟩) :
    Sparse.find s.mem.homec (32768 / 128) = some true ∧ Sparse.find s.mem.frames (32768 / 4096) = some (fr .dirty 1) ∧
    Sparse.find s.mem.l1 (l1Key 0 256) = none ∧ (∃ e ∈ x.seen, physRead s e.1 e.2.length ≠ e.2) ∧ s.barActive = true ∧
    s.reg.portcfg.getLsbD 1 = false := by subst hs hx; decide +kernel

/-- A record of a region's overflow ring, at a place that can be read. -/
def overflowing : State :=
  { mapped f0 with
    co := { (mapped f0).co with overflow := [⟨0, 0, 0, .nothing, 1, 0x20000⟩] }
    sched := { (mapped f0).sched with rcbs := [(0, { Rcb.start with covbase := 64, covtail := 1 })] } }
theorem witness_OverflowReturn :
    overflowing.rcb 0 = some { Rcb.start with covbase := 64, covtail := 1 } ∧ overflowing.tellerHolds 0 < 4096 ∧
    overflowing.physTrouble (64 + 64 * (0 % 2 ^ 0)) = none ∧ physHeld overflowing 64 64 = [] ∧
    overflowing.mem.hostBlocks = [] ∧ (∀ x ∈ overflowing.co.overflow, x.region ≠ 1) := by decide +kernel

/-- A page table in the pinned frame: entry 0 points to the table itself, entry 1 is a leaf with A and D, entry 2 one
without, entry 3 is empty, entry 4 has a reserved bit, entry 5 a leaf of a wrong size. -/
def ctx0 : CtxSlot := ⟨0, BitVec.ofNat 64 (1 + 2 * 2 ^ 4), 0, true⟩
def walking : State :=
  { onF f0 with
    xl := { (onF f0).xl with tlb := [], ctxs := [ctx0] }
    mem := { (onF f0).mem with
      frames := [(0, frame0)]
      vault := [(0, 1), (6, 0x20), (8, 0xE3), (9, 0x0F), (14, 0x20), (16, 0xE3), (22, 0x20), (32, 1), (39, 0x80), (40, 0xFF),
        (46, 0x20)] }
    reg := { (onF f0).reg with ctxbase := 1 } }
def walkEnd (va : Nat) (level : Nat) : Option Nat :=
  match (walkLevels walking 0 ctx0 0 va false level 2 0).1 with
  | .ok e => some e.pte.toNat
  | .refuse c _ => some c
  | _ => none
theorem witness_PageWalk :
    (onF f0).reg.ctxbase.getLsbD 0 = false ∧ walking.reg.ctxbase.getLsbD 0 = true ∧ findCtx walking.xl 0 = some ctx0 ∧
    ctx0.ok = true ∧ (∀ e ∈ walking.xl.tlb, e.serves 0 0 4096 = false) ∧ rootBad walking ctx0 = false ∧
    walkEnd 4096 4 = some 0x20000000000FE3 ∧ walkEnd 8192 0 = some 0x200000000004E3 ∧ walkEnd (3 * 4096) 4 = some 0x02 ∧
    walkEnd (4 * 4096) 0 = some 0x03 ∧ walkEnd (5 * 4096) 0 = some 0x04 ∧ walkEnd 0 0 = some 0x04 ∧
    (withOp walking 7 (op0 load0)).recorded 7 = false ∧ (op0 load0).finished = false ∧ coreOf (op0 load0).loc = 0 ∧
    canonical 4096 = true ∧ canonical (2 ^ 56) = false := by decide +kernel

/-- A leaf that a fibre's access goes through, one that it may not use, and one whose frame is no longer pinned. -/
theorem witness_CheckPage (s : State) (hs : s = mapped f0) :
    (s.xl.tlb.find? fun e => e.serves 0 0 64 && !(AKind.write.writes && !e.pte.getLsbD 11)) = some leaf0 ∧
    (findCtx s.xl 0).map (·.ok) = some true ∧ pinnedGone s leaf0 64 = false ∧
    pinnedGone { s with mem := { s.mem with frames := [] } } leaf0 64 = true ∧
    permission (s.who 0 f0) .read leaf0 = none ∧
    permission (s.who 0 f0) .read { leaf0 with pte := BitVec.ofNat 64 (2 * 2 ^ 52 + 0xFC0 + 1) } = some 0x0A ∧
    leaf0.host = none ∧ (s.who 0 f0).priv = true ∧ privHalf 64 = false := by subst hs; decide +kernel

/-! ### Single steps against results calculated by hand -/

/-- The state after an instruction. -/
def after (i : Instr) (s : State) : State :=
  match exec i s with
  | .next t => t
  | _ => s

/-- The fibre in issue after an instruction. -/
def ran (i : Instr) (f : Fibre) : Fibre := ((after i (onF f)).fibre 0).getD f

/-- R277: the sum of the largest word and 1 is 0, and the program counter moves on by 4. -/
theorem test_addWraps : (ran (.add 3 1 2) ((f0.setS 1 (-1)).setS 2 1)).s 3 = 0 ∧ (ran (.add 3 1 2) f0).pc = 0x10004 := by
  decide

/-- R277: a destination that is also a source is read before it is written: 5 − 7 = −2. -/
theorem test_subSource : (ran (.sub 1 1 2) ((f0.setS 1 5).setS 2 7)).s 1 = 0xFFFFFFFFFFFFFFFE := by decide

/-- R277: shifts go by the low six bits of the amount: 65 is 1, and an arithmetic shift copies the sign. -/
theorem test_shifts : (ran (.shl 3 1 2) ((f0.setS 1 3).setS 2 65)).s 3 = 6 ∧
    (ran (.sar 3 1 2) ((f0.setS 1 (BitVec.ofNat 64 (2 ^ 63))).setS 2 63)).s 3 = BitVec.allOnes 64 := by decide

/-- R277: high halves: 2^63 × 2 unsigned has 1 above, and −1 × 1 signed has all ones above. -/
theorem test_mulHigh : (ran (.mulhn 3 1 2) ((f0.setS 1 (BitVec.ofNat 64 (2 ^ 63))).setS 2 2)).s 3 = 1 ∧
    (ran (.mulh 3 1 2) ((f0.setS 1 (-1)).setS 2 1)).s 3 = BitVec.allOnes 64 := by decide

/-- R269: 1 against −1 is neither equal nor signed less, and unsigned less: C alone. -/
theorem test_cmpFlags : (ran (.cmp 3 1 2) ((f0.setS 1 1).setS 2 (-1))).cf = 4 ∧
    (ran (.cmp 3 1 2) ((f0.setS 1 (-1)).setS 2 1)).cf = 2 ∧ (ran (.cmp 3 1 2) f0).cf = 1 := by decide

/-- R277: a word's bits are counted from the lowest: one set bit at 4 has 59 zeros above. -/
theorem test_bitCounts : (ran (.clz 3 1) (f0.setS 1 16)).s 3 = 59 ∧
    (ran (.popc 3 1) (f0.setS 1 0xF0)).s 3 = 4 := by decide

/-- R270: an always-taken branch of −1 stands still, and one of 2 passes two words. -/
theorem test_branchTaken : (ran (.bra 0 (-1)) f0).pc = 0x10000 ∧ (ran (.bra 0 2) f0).pc = 0x1000C := by decide

/-- Group scratch: a word stored through the scratch space is there for a load, lowest byte first (R3). -/
def scr (data : Nat) : State :=
  { onF f0 with
    groups := [(0, { Group.start with scrLen := 64 })]
    eng := { (onF f0).eng with ops := [(7, { op0 (.store 4 .group (laneAddrs (onF (f0.setS 1 8)) (f0.setS 1 8) 1 0x7F 4 .group)
      (List.replicate 32 data) false) with lmask := f0.active })] } }
def scrBytes (s : State) (a : Nat) : Option (List Byte) := (Sparse.find s.groups 0).map fun g => readBytes g.scratch a 4
theorem test_scratchStore : scrBytes (after (.lsuComplete 7) (scr 0x0A0B0C0D)) 8 = some [0x0D, 0x0C, 0x0B, 0x0A] := by
  decide +kernel

/-- R11: a lane past the allocation performs nothing of its access: with 64 bytes, lane 14 of 32 starts at 64. -/
theorem test_scratchEdge : scrBytes (after (.lsuComplete 7) (scr 0x3F800000)) 60 = some [0, 0, 0x80, 0x3F] ∧
    scrBytes (after (.lsuComplete 7) (scr 0x3F800000)) 64 = some [0, 0, 0, 0] := by decide +kernel

/-- R120, R289: 1 + 1 = 2 in F32 in the active lanes; an inactive lane keeps its value. -/
theorem test_vfadd : (let s := (onF { typed 2 with exec := 1 }).setV 0 1 ones
    let t := after (.vfadd 0 3 1 1 0) s
    let v := t.v 0 ((t.fibre 0).getD f0) 3
    (lane v 0, lane v 1)) = (0x40000000, 0) := by decide +kernel

/-- R287: S8 elements saturate under SAT: 0x7F + 1 stays 0x7F, and the next element wraps nothing into it. -/
theorem test_vaddSat : (let f := { typed 0x10 with mode := (typed 0x10).mode ||| 0x2000 }
    writeInt .s8 (modeSAT f.mode) (127 + 1)) = 127 ∧ writeInt .s8 false (127 + 1) = 128 := by decide

/-- R288: a NaN compares unequal, and raises invalid under LT but not, when quiet, under EQ. -/
theorem test_compareNaN : cmpLane .eq .f32 false 0x7FC00000 0 = (false, 0) ∧
    cmpLane .lt .f32 false 0x7FC00000 0 = (false, flagInvalid) := by decide

/-- R109: scale code 0x1FC is 1.0, and 0x1FD is 1.25. -/
theorem test_scaleCode : scaleValue 0x1FC = (4, -2) ∧ scaleValue 0x1FD = (5, -2) := by decide

/-- R393: with only its own fibre in the mask, a barrier's phase advances with its arrival. -/
theorem test_fbarAlone : (after (.fbar 0) (onF f0)).fbarPhase 0 = some 1 ∧ (ran (.fbar 0) f0).pc = 0x10004 := by decide

/-- R261: EXIT leaves the fibre EXITING with an empty stack. -/
theorem test_exit : (ran .exit { f0 with stack := [⟨.ifEnt, 1, 0, 0⟩] }).st = .exiting ∧
    (ran .exit { f0 with stack := [⟨.ifEnt, 1, 0, 0⟩] }).stack = [] := by decide

/-- R428: an unhandled TRAP of an IGNORE region goes on behind it. -/
theorem test_trapIgnored : (ran (.trap 9) f0).pc = 0x10004 := by decide +kernel

/-- R403: TREG's first entry of core 0 has identifier 0, which s5 receives, and its key. -/
def registering (i : Instr) : State := after i (withOp (onF (f0.setS 5 9)) 7 (op0 (.treg (.s 0 5) 77 0)))
theorem test_treg : (((registering (.lsuComplete 7)).fibre 0).getD f0).s 5 = 0 ∧
    (((registering (.lsuComplete 7)).dirEnt 0).map fun e => e.key) = some 77 := by decide +kernel

/-- R449: a command of an unknown code completes as malformed, with its tag, in the ring at 4096. -/
theorem test_malformed : readBytes (after (.malformedCommand 0 5)
    { onF f0 with io := { (onF f0).io with queues := [(0, queue0)] } }).mem.host 4096 6 = [5, 0, 0, 0, 1, 0] := by decide +kernel

/-- R459: LIMIT is held within its bounds. -/
theorem test_powerLimit : field (after (.registerWrite 0x5000 8 3000) State.reset).reg.modpwr 0 12 = 2600 ∧
    field (after (.registerWrite 0x5000 8 5) State.reset).reg.modpwr 0 12 = 1200 := by decide +kernel

/-- R448, R456: a register reads back by its place and width alone; with FWFAIL set a write is ignored. -/
theorem test_registers : (after (.registerWrite 0x110 8 0x600001) State.reset).readReg 0x110 8 = 0x600001 ∧
    (after (.registerWrite 0x110 8 0x600001) State.reset).readReg 0x110 4 = 0 ∧
    (after (.registerWrite 0x110 8 0x600001) (after (.coldReset (some 2)) State.reset)).readReg 0x110 8 = 0 := by
  decide +kernel

theorem witness_DeviceRegisters : Unlocked State.reset ∧ State.reset.barActive = true ∧
    State.reset.reg.ctxbase.getLsbD 0 = false ∧ placing.reg.ctxbase.getLsbD 0 = true ∧ placing.barActive = true ∧
    State.reset.io.frqWait = [] ∧ State.reset.co.leaves = [] ∧ (256 : Dword).getLsbD 8 = true ∧
    (after (.coldReset (some 2)) State.reset).barActive = false ∧ (15 : Nat) < 16 ∧ (47 : Nat) < 48 := by
  refine ⟨rfl, ?_⟩
  decide +kernel

/-- R235: a refill adds the allowance and stops at twice its value: 0x20000 stays. -/
theorem test_refill : purseBal ((after (.purseRefill 3) State.reset).purse 3) = 0x20000 := by decide +kernel

end Sys2Proof.Tests
end

section
/-! SUPPORT. Writing a run of bytes byte by byte: what each byte reads as afterwards, at its home and as each core
sees it, and what the write leaves alone. -/

namespace Sys2Proof.Machine

/-- The byte at `x` once the bytes `b` have been written from `a` up over `old`. -/
def byteAfter (a x : Nat) (b : List Byte) (old : Byte) : Byte :=
  if a ≤ x ∧ x < a + b.length then b.getD (x - a) 0 else old

@[simp] theorem byteAfter_nil (a x : Nat) (old : Byte) : byteAfter a x [] old = old :=
  if_neg (by simp only [List.length_nil]; omega)

/-- Writing bytes is writing the first one and then the others behind it. -/
theorem byteAfter_cons (a x : Nat) (h : Byte) (t : List Byte) (old : Byte) :
    byteAfter a x (h :: t) old = byteAfter (a + 1) x t (if x = a then h else old) := by
  simp only [byteAfter, List.length_cons]
  by_cases hx : x = a
  · subst hx
    rw [if_pos (by omega), if_neg (by omega), if_pos rfl, Nat.sub_self]; rfl
  · by_cases hr : a + 1 ≤ x ∧ x < a + 1 + t.length
    · rw [if_pos hr, if_pos (by omega), show x - a = (x - (a + 1)) + 1 by omega]; rfl
    · rw [if_neg hr, if_neg (by omega), if_neg hx]

section Runs
variable {σ β : Type} {write : σ → Nat → List Byte → σ} {one : σ → Nat → Byte → σ}

/-- A write that goes byte by byte, each step of which changes the byte observed at `x` only where it writes it,
changes it as `byteAfter` says. -/
theorem byte_of_run {obs : σ → Byte} {x : Nat} (hnil : ∀ m a, write m a [] = m)
    (hcons : ∀ m a h t, write m a (h :: t) = write (one m a h) (a + 1) t)
    (hone : ∀ m a h, obs (one m a h) = if x = a then h else obs m) (b : List Byte) :
    ∀ m a, obs (write m a b) = byteAfter a x b (obs m) := by
  induction b with
  | nil => intro m a; rw [hnil, byteAfter_nil]
  | cons h t ih => intro m a; rw [hcons, ih, hone, byteAfter_cons]

/-- A write that goes byte by byte, no step of which changes an observation, does not change it. -/
theorem frame_of_run {obs : σ → β} (hnil : ∀ m a, write m a [] = m)
    (hcons : ∀ m a h t, write m a (h :: t) = write (one m a h) (a + 1) t)
    (hone : ∀ m a h, obs (one m a h) = obs m) (b : List Byte) : ∀ m a, obs (write m a b) = obs m := by
  induction b with
  | nil => intro m a; rw [hnil]
  | cons h t ih => intro m a; rw [hcons, ih, hone]

end Runs

/-! ### Stores through a core's L1 (R76, R308) -/

theorem storeAt_nil (m : Mem) (core : Nat) (p : PLoc) : m.storeAt core p [] = m := by cases p <;> rfl

theorem storeAt_vault_cons (m : Mem) (core a : Nat) (h : Byte) (t : List Byte) :
    m.storeAt core (.vault a) (h :: t) = ((m.l1Write core a h).wroteAt a).storeAt core (.vault (a + 1)) t := rfl

/-- The storing core sees the bytes of its store (R76). -/
theorem byteFor_storeAt (m : Mem) (core a x : Nat) (b : List Byte) :
    (m.storeAt core (.vault a) b).byteFor core x = byteAfter a x b (m.byteFor core x) :=
  byte_of_run (write := fun m a b => m.storeAt core (.vault a) b) (obs := fun m => m.byteFor core x)
    (fun m a => storeAt_nil m core (.vault a)) (fun m a => storeAt_vault_cons m core a)
    (fun m a h => (byteFor_wroteAt _ core a x).trans (byteFor_l1Write m core a x h)) b m a

/-- A store into an L1 leaves the home's bytes (R76). -/
theorem vault_storeAt_vault (m : Mem) (core a : Nat) (b : List Byte) :
    (m.storeAt core (.vault a) b).vault = m.vault :=
  frame_of_run (write := fun m a b => m.storeAt core (.vault a) b) (obs := Mem.vault)
    (one := fun m a h => (m.l1Write core a h).wroteAt a) (fun m a => storeAt_nil m core (.vault a))
    (fun m a => storeAt_vault_cons m core a) (fun _ _ _ => rfl) b m a

/-- Another core sees nothing of a store into an L1. -/
theorem byteFor_storeAt_other {core c x : Nat} (hc : c ≠ core) (hx : x < 2 ^ 39) (b : List Byte) :
    ∀ (m : Mem) (a : Nat), a + b.length ≤ 2 ^ 39 →
      (m.storeAt core (.vault a) b).byteFor c x = m.byteFor c x := by
  induction b with
  | nil => intro m a _; rw [storeAt_nil]
  | cons h t ih =>
    intro m a ha
    rw [List.length_cons] at ha
    rw [storeAt_vault_cons, ih _ _ (by omega), byteFor_wroteAt, byteFor_l1Write_other h hc (by omega) hx]

/-- A core reads back the bytes that it has stored. -/
theorem readAt_storeAt (m : Mem) (core a : Nat) (b : List Byte) :
    (m.storeAt core (.vault a) b).readAt core (.vault a) b.length = b := by
  apply List.ext_getElem
  · simp [Mem.readAt]
  · intro i _ hi
    have hin : a ≤ a + i ∧ a + i < a + b.length := by omega
    simp only [Mem.readAt, List.getElem_map, List.getElem_range, byteFor_storeAt, byteAfter]
    rw [if_pos hin, Nat.add_sub_cancel_left, List.getD_eq_getElem?_getD, List.getElem?_eq_getElem hi, Option.getD_some]

/-! ### Stores to host and peer memory, which go to their homes (R308) -/

theorem storeAt_host_cons (m : Mem) (core a : Nat) (h : Byte) (t : List Byte) :
    m.storeAt core (.host a) (h :: t) = (m.homeByte none (.host a) h).storeAt core (.host (a + 1)) t := rfl

theorem storeAt_peer_cons (m : Mem) (core a : Nat) (h : Byte) (t : List Byte) :
    m.storeAt core (.peer a) (h :: t) = (m.homeByte none (.peer a) h).storeAt core (.peer (a + 1)) t := rfl

theorem host_storeAt_host (m : Mem) (core a x : Nat) (b : List Byte) :
    Sparse.getZ (m.storeAt core (.host a) b).host x = byteAfter a x b (Sparse.getZ m.host x) :=
  byte_of_run (write := fun m a b => m.storeAt core (.host a) b) (obs := fun m => Sparse.getZ m.host x)
    (fun m a => storeAt_nil m core (.host a)) (fun m a => storeAt_host_cons m core a)
    (fun m a h => Sparse.get_set 0 m.host a x h) b m a

theorem fabric_storeAt_peer (m : Mem) (core a x : Nat) (b : List Byte) :
    Sparse.getZ (m.storeAt core (.peer a) b).fabric x = byteAfter a x b (Sparse.getZ m.fabric x) :=
  byte_of_run (write := fun m a b => m.storeAt core (.peer a) b) (obs := fun m => Sparse.getZ m.fabric x)
    (fun m a => storeAt_nil m core (.peer a)) (fun m a => storeAt_peer_cons m core a)
    (fun m a h => Sparse.get_set 0 m.fabric a x h) b m a

/-- A store to host memory leaves the vault and the L1s. -/
theorem vault_l1_storeAt_host (m : Mem) (core a : Nat) (b : List Byte) :
    ((m.storeAt core (.host a) b).vault, (m.storeAt core (.host a) b).l1) = (m.vault, m.l1) :=
  frame_of_run (write := fun m a b => m.storeAt core (.host a) b) (obs := fun m : Mem => (m.vault, m.l1))
    (one := fun m a h => m.homeByte none (.host a) h) (fun m a => storeAt_nil m core (.host a))
    (fun m a => storeAt_host_cons m core a) (fun _ _ _ => rfl) b m a

/-! ### Writes through to the home (R143) -/

theorem homeWrite_vault_cons (m : Mem) (who : Option Nat) (a : Nat) (h : Byte) (t : List Byte) :
    m.homeWrite who (.vault a) (h :: t) = (m.homeByte who (.vault a) h).homeWrite who (.vault (a + 1)) t := rfl

theorem byteFor_homeWrite (m : Mem) (core a x : Nat) (b : List Byte) :
    (m.homeWrite (some core) (.vault a) b).byteFor core x = byteAfter a x b (m.byteFor core x) :=
  byte_of_run (write := fun m a b => m.homeWrite (some core) (.vault a) b) (obs := fun m => m.byteFor core x)
    (fun _ _ => rfl) (fun m a => homeWrite_vault_cons m (some core) a)
    (fun m a h => byteFor_homeByte m core a x h) b m a

theorem vault_homeWrite (m : Mem) (core a x : Nat) (b : List Byte) :
    Sparse.getZ (m.homeWrite (some core) (.vault a) b).vault x = byteAfter a x b (Sparse.getZ m.vault x) :=
  byte_of_run (write := fun m a b => m.homeWrite (some core) (.vault a) b) (obs := fun m => Sparse.getZ m.vault x)
    (fun _ _ => rfl) (fun m a => homeWrite_vault_cons m (some core) a)
    (fun m a h => Sparse.get_set 0 m.vault a x h) b m a

/-! ### The worst of the lanes' outcomes (R166) -/

/-- `u` is of a lower kind than `t`, or of its kind with a cause that is no lower. -/
def Trouble.Within (u t : Trouble) : Prop := u.kind < t.kind ∨ (u.kind = t.kind ∧ t.cause ≤ u.cause)

/-- `u` is of a lower kind than `t`, or of its kind with a higher cause. -/
def Trouble.Below (u t : Trouble) : Prop := u.kind < t.kind ∨ (u.kind = t.kind ∧ t.cause < u.cause)

theorem Trouble.Below.within {u t : Trouble} (h : u.Below t) : u.Within t := by
  unfold Trouble.Below at h; unfold Trouble.Within; omega

theorem Trouble.Within.trans {u v t : Trouble} (h : u.Within v) (h' : v.Within t) : u.Within t := by
  unfold Trouble.Within at *; omega

/-- Of two outcomes the one is below the other or has the other within it. -/
theorem Trouble.below_or_within (u t : Trouble) : u.Below t ∨ t.Within u := by
  unfold Trouble.Below Trouble.Within; omega

/-- The first lane's outcome gives way to the worst of the others when it is below it, and stands otherwise. -/
theorem worst_cons {l : List Trouble} {u : Trouble} (t : Trouble) (hu : worst l = some u) :
    (t.Below u ∧ worst (t :: l) = some u) ∨ (u.Within t ∧ worst (t :: l) = some t) := by
  simp only [worst, hu, Trouble.Below, Trouble.Within]
  split
  · exact .inl ⟨by omega, rfl⟩
  · split
    · exact .inr ⟨by omega, rfl⟩
    · split
      · exact .inl ⟨by omega, rfl⟩
      · exact .inr ⟨by omega, rfl⟩

theorem worst_eq_none {l : List Trouble} (h : worst l = none) : l = [] := by
  cases l with
  | nil => rfl
  | cons t rest =>
    cases hr : worst rest with
    | none => simp [worst, hr] at h
    | some u => rcases worst_cons t hr with ⟨_, hw⟩ | ⟨_, hw⟩ <;> rw [hw] at h <;> cases h

/-- Every outcome before the worst one is below it, and every outcome behind it is within it. -/
theorem worst_split {l : List Trouble} : ∀ {t : Trouble}, worst l = some t →
    ∃ before after, l = before ++ t :: after ∧ (∀ u ∈ before, u.Below t) ∧ ∀ u ∈ after, u.Within t := by
  induction l with
  | nil => intro t h; cases h
  | cons x rest ih =>
    intro t h
    cases hr : worst rest with
    | none =>
      obtain rfl := worst_eq_none hr
      obtain rfl : x = t := Option.some.inj h
      exact ⟨[], [], rfl, by simp, by simp⟩
    | some u =>
      obtain ⟨before, after, rfl, hb, ha⟩ := ih hr
      rcases worst_cons x hr with ⟨hx, hw⟩ | ⟨hu, hw⟩
      · obtain rfl : u = t := Option.some.inj (hw.symm.trans h)
        exact ⟨x :: before, after, rfl, List.forall_mem_cons.2 ⟨hx, hb⟩, ha⟩
      · obtain rfl : x = t := Option.some.inj (hw.symm.trans h)
        refine ⟨[], _, rfl, by simp, fun v hv => ?_⟩
        rcases List.mem_append.1 hv with hv | hv
        · exact (hb v hv).within.trans hu
        · rcases List.mem_cons.1 hv with rfl | hv
          · exact hu
          · exact (ha v hv).trans hu

end Sys2Proof.Machine

open Sys2Proof Sys2Proof.Machine

/-- Settles O25: each write goes byte by byte, and the worst outcome is found by induction on the lanes. -/
theorem bytesWritten : Obligations.BytesWritten := by
  unfold Obligations.BytesWritten
  refine ⟨?_, fun l t h => ⟨worst_split h, rfl⟩⟩
  intro m core c a x b p after
  obtain ⟨hvault, hl1⟩ := Prod.mk.inj (vault_l1_storeAt_host m core a b)
  exact ⟨getZ_write p b a x, byteFor_storeAt m core a x b, vault_storeAt_vault m core a b,
    fun hc hx hab => byteFor_storeAt_other hc hx b m a hab, byteFor_homeWrite m core a x b,
    vault_homeWrite m core a x b, host_storeAt_host m core a x b, fabric_storeAt_peer m core a x b, hvault, hl1,
    readAt_storeAt m core a b⟩

end

section
/-! SUPPORT. Accesses of the load/store unit to a group's scratch: they meet no mapping, fold, mark or race record, so
that only the scratch itself is read or changed (R7, R11, R307, R313). -/

namespace Sys2Proof.Machine

/-! ### What stands in the way of an access -/

/-- An access that ends inside the group's allocation is placed there (R11). -/
theorem locate_group {s : State} {grp n a : Nat} {g : Group} (hg : Sparse.find s.groups grp = some g)
    (hn : a + n ≤ g.scrLen) (w : Who) (k : AKind) :
    s.locate w grp k .group a n = (.ok [.gscr grp a n], s) := by
  have hlen : s.scrLen grp = g.scrLen := by simp only [State.scrLen, hg]
  exact if_neg (by rw [hlen]; omega)

/-- No partial of a commutative range lies in a group's scratch (R158). -/
theorem foldSpots_gscr (s : State) (err : Bool) (grp a n : Nat) : s.foldSpots err [.gscr grp a n] = (none, s) := by
  have hno : s.mem.heldIn [] = [] := by
    rw [Mem.heldIn, List.filter_eq_nil_iff.2 fun _ _ => by rw [List.any_nil]; exact Bool.false_ne_true, heads]
  simp only [State.foldSpots, List.flatMap_cons, List.flatMap_nil, Spot.physLines, List.append_nil, hno, foldBlocks]

/-- A read that touches no line at a home collects nothing (R144). -/
theorem collect_nil (s : State) (loc : Nat) : s.collect loc [] = (true, s) := by
  unfold State.collect
  cases s.fibre loc <;> rfl

/-- The race detector does not see a group's scratch (R162). -/
theorem raceOf_gscr (s : State) (o : Op) (write : Bool) (va : Dword) (grp a n : Nat) :
    s.raceOf o write va [.gscr grp a n] = s := by
  unfold State.raceOf
  cases s.fibre o.loc with
  | none => rfl
  | some f => simp only [State.raceCheck, ite_self]

/-- An access to a group's scratch is performed at once. -/
theorem withSpots_group {s : State} {o : Op} {g : Group} {n : Nat} {va : Dword}
    (hg : Sparse.find s.groups o.group = some g) (hn : va.toNat + n ≤ g.scrLen) (zero : List Nat) (k : AKind)
    (perform : List Spot → State → List Nat × State) :
    withSpots s o zero k .group va n perform =
      (.done (perform [.gscr o.group va.toNat n] s).1 [], (perform [.gscr o.group va.toNat n] s).2) := by
  simp only [withSpots, locate_group hg hn, foldSpots_gscr]
  cases k <;> simp [linesOf, Spot.lines, Spot.frames, collect_nil]

/-! ### The bytes themselves -/

theorem readSpots_gscr {s : State} {grp : Nat} {g : Group} (hg : Sparse.find s.groups grp = some g) (w : Who)
    (joins : Bool) (a n : Nat) : s.readSpots w joins [.gscr grp a n] = (readBytes g.scratch a n, s) := by
  simp only [State.readSpots, State.readSpot, hg, List.append_nil]

theorem writeSpots_gscr {s : State} {grp : Nat} {g : Group} (hg : Sparse.find s.groups grp = some g) (core : Nat)
    (md : WMode) (a : Nat) (b : List Byte) : s.writeSpots core md b [.gscr grp a b.length] =
      withGroupAs s grp { g with scratch := writeBytes g.scratch a b } := by
  simp only [State.writeSpots, State.writeSpot, Spot.size, List.take_length, Sparse.adjust, hg, withGroupAs]

/-! ### Loads and stores (R307) -/

section Part
variable {s : State} {o : Op} {g : Group} {i nb : Nat} {va : Dword}

/-- The bytes that a part moves lie among those of its lane's access (R126). -/
theorem partRun_within (hi : i < 64) : (partRun nb i).1 + (partRun nb i).2 ≤ nb := by
  unfold partRun
  split <;> omega

/-- The addresses of a part's bytes: the offset does not leave the scratch's 32 address bits. -/
theorem partAddr_toNat (hi : i < 64) (hva : va < 2 ^ 32) :
    (va + BitVec.ofNat 64 (partRun nb i).1).toNat = va.toNat + (partRun nb i).1 := by
  have hoff : (partRun nb i).1 ≤ 8 := by unfold partRun; split <;> omega
  have hlow : va.toNat < 2 ^ 32 := hva
  rw [BitVec.toNat_add, BitVec.toNat_ofNat]
  omega

/-- A part of a lane's access inside the group's allocation is performed at once. -/
theorem withPart_group (hg : Sparse.find s.groups o.group = some g) (hi : i < 64) (hn : va.toNat + nb ≤ g.scrLen)
    (hva : va < 2 ^ 32) (zero : List Nat) (k : AKind) (perform : List Spot → State → List Nat × State) :
    withPart s o zero k .group va nb i perform =
      (.done (perform [.gscr o.group (va.toNat + (partRun nb i).1) (partRun nb i).2] s).1 [],
        (perform [.gscr o.group (va.toNat + (partRun nb i).1) (partRun nb i).2] s).2) := by
  have hwhole : wholeRefused s o k .group va nb = none := by simp only [wholeRefused, locate_group hg hn]
  have hin := partRun_within (nb := nb) hi
  have haddr := partAddr_toNat (nb := nb) hi hva
  simp only [withPart, hwhole]
  rw [withSpots_group hg (by omega), haddr]

/-- A load returns the bytes of its part, lowest first, and changes nothing. -/
theorem loadPart_group {addr : List Dword} (hg : Sparse.find s.groups o.group = some g) (hi : i < 64)
    (ha : va = addr.getD (i % 32) 0) (hn : va.toNat + nb ≤ g.scrLen) (hva : va < 2 ^ 32) (sync : Bool) :
    loadPart s o i nb .group addr sync =
      (.done [leNat (readBytes g.scratch (va.toNat + (partRun nb i).1) (partRun nb i).2)] [], s) := by
  subst ha
  simp only [loadPart, withPart_group hg hi hn hva, raceOf_gscr, ite_self, State.readOf, readSpots_gscr hg]

/-- In scratch a byte is met by a store's bytes at its own address only (R127). -/
theorem meetsByte_group (here : List Spot) (a : Dword) :
    s.meetsByte o .group va here a nb = decide ((va - a).toNat < nb) := by
  unfold State.meetsByte
  by_cases h : (va - a).toNat < nb
  · rw [if_pos h, decide_eq_true h]
  · rw [if_neg h, decide_eq_false h]; rfl

/-- A lane writes those of its bytes that reach into no higher active lane's (R127). -/
theorem lastWriter_group {addr : List Dword} {l : List Spot} {off j : Nat}
    (h : ∀ k ∈ lanesOf o.lmask, i < k →
      nb ≤ (addr.getD i 0 + BitVec.ofNat 64 (off + j) - addr.getD k 0).toNat) :
    lastWriter s o .group addr l off nb i j = true := by
  simp only [lastWriter, meetsByte_group, List.all_eq_true, Bool.or_eq_true, decide_eq_true_eq]
  intro k hk
  rcases Nat.lt_or_ge i k with hik | hki
  · exact .inr (by simpa using h k hk hik)
  · exact .inl hki

/-- A store of whose bytes each is this lane's to write writes them all. -/
theorem writeChosen_all {mine : Nat → Bool} {n : Nat} (h : ∀ j, j < n → mine j = true) (core : Nat) (md : WMode)
    (l : List Spot) (b : List Byte) : writeChosen s core md l b mine n = s.writeSpots core md b l :=
  if_pos (List.all_eq_true.2 fun j hj => h j (List.mem_range.1 hj))

/-- A store whose bytes no higher active lane writes puts the bytes of its part there, and changes nothing else. -/
theorem storePart_group {addr : List Dword} (hg : Sparse.find s.groups o.group = some g) (hi : i < 64)
    (ha : va = addr.getD (i % 32) 0) (hn : va.toNat + nb ≤ g.scrLen) (hva : va < 2 ^ 32)
    (hlast : ∀ k ∈ lanesOf o.lmask, i % 32 < k → ∀ j, j < (partRun nb i).2 →
      nb ≤ (BitVec.ofNat 64 (va.toNat + (partRun nb i).1 + j) - addr.getD k 0).toNat)
    (data : List Nat) (sync : Bool) :
    storePart s o i nb .group addr data sync =
      (.done [] [], withGroupAs s o.group { g with
        scratch := writeBytes g.scratch (va.toNat + (partRun nb i).1)
          (leBytes (partRun nb i).2 (data.getD (i % 32) 0 / 2 ^ (8 * (partRun nb i).1))) }) := by
  subst ha
  have hmine : ∀ l j, j < (partRun nb i).2 →
      lastWriter s o .group addr l (partRun nb i).1 nb (i % 32) j = true := fun l j hj => by
    refine lastWriter_group fun k hk hik => ?_
    have hbyte := hlast k hk hik j hj
    rwa [Nat.add_assoc, BitVec.ofNat_add, BitVec.ofNat_toNat, BitVec.setWidth_eq] at hbyte
  have hwrite := writeSpots_gscr hg o.who.core o.wmode ((addr.getD (i % 32) 0).toNat + (partRun nb i).1)
    (leBytes (partRun nb i).2 (data.getD (i % 32) 0 / 2 ^ (8 * (partRun nb i).1)))
  rw [length_leBytes] at hwrite
  simp only [storePart, withPart_group hg hi hn hva, raceOf_gscr, ite_self, writeChosen_all (hmine _), hwrite]

end Part

/-! ### Atomics (R313, R314) -/

/-- The selector 0xFE000000 names the group's scratch (R313). -/
theorem atomSpace_group {va : Dword} (h : field va 32 32 = 0xFE000000) :
    atomSpace va = some (.group, BitVec.ofNat 64 (va.toNat % 2 ^ 32)) := by
  have hsel : field va 56 8 = 0xFE := by unfold field at *; omega
  have hzero : field va 32 24 = 0 := by unfold field at *; omega
  have hlow : field va 0 32 = va.toNat % 2 ^ 32 := by rw [field, Nat.pow_zero, Nat.div_one]
  simp only [atomSpace, hsel, hzero, hlow, if_true]

/-- An atomic in a group's scratch reads the old bytes and writes the new ones, whatever its scope. -/
theorem atomPerform_gscr {s : State} {o : Op} {grp : Nat} {g : Group} (hg : Sparse.find s.groups grp = some g)
    (op nb scope b c a : Nat) : atomPerform s o op nb scope b c [.gscr grp a nb] =
      ([leNat (readBytes g.scratch a nb)], withGroupAs s grp { g with
        scratch := writeBytes g.scratch a
          (leBytes nb (atomNew op nb (leNat (readBytes g.scratch a nb)) b c)) }) := by
  have hown : (if decide (2 ≤ scope) = true then
      (s.settleAll o.who.core [.gscr grp a nb]).noteOwners o.who.core [.gscr grp a nb] else s) = s := by
    split <;> rfl
  have hwrite := fun md x => writeSpots_gscr hg o.who.core md a (leBytes nb x)
  simp only [length_leBytes] at hwrite
  simp only [atomPerform, hown, readSpots_gscr hg, hwrite]

/-- An atomic lane inside the group's allocation returns the old value and writes the new one. -/
theorem atomPart_group {s : State} {o : Op} {g : Group} {i nb a : Nat} {va : Dword} {addr : List Dword}
    (hg : Sparse.find s.groups o.group = some g) (ha : va = addr.getD i 0) (hsel : field va 32 32 = 0xFE000000)
    (hlow : a = va.toNat % 2 ^ 32) (hn : a + nb ≤ g.scrLen) (op scope : Nat) (b c : List Nat) :
    atomPart s o i op nb scope false addr b c =
      (.done [leNat (readBytes g.scratch a nb)] [], withGroupAs s o.group { g with
        scratch := writeBytes g.scratch a
          (leBytes nb (atomNew op nb (leNat (readBytes g.scratch a nb)) (b.getD i 0) (c.getD i 0))) }) := by
  subst ha
  have haddr : (BitVec.ofNat 64 a).toNat = a := by rw [BitVec.toNat_ofNat]; omega
  simp only [atomPart, Bool.false_eq_true, if_false, atomSpace_group hsel, ← hlow]
  rw [withSpots_group hg (by omega), haddr, atomPerform_gscr hg]

/-- What an atomic leaves after a subtraction is the number that the operand, added to it, makes the old value. -/
theorem atomNew_sub_add {nb old b : Nat} (hold : old < 2 ^ (8 * nb)) (hb : b < 2 ^ (8 * nb)) (c : Nat) :
    (atomNew 1 nb old b c + b) % 2 ^ (8 * nb) = old := by
  simp only [atomNew]
  rw [Nat.mod_eq_of_lt hb, Nat.mod_add_mod, show old + (2 ^ (8 * nb) - b) + b = old + 2 ^ (8 * nb) by omega,
    Nat.add_mod_right, Nat.mod_eq_of_lt hold]

/-- The signed minimum (R314). -/
theorem signedOf_atomNew_min (nb old b c : Nat) : signedOf (8 * nb) (atomNew 2 nb old b c) =
    min (signedOf (8 * nb) old) (signedOf (8 * nb) b) := 
  (apply_ite (signedOf (8 * nb)) ..).trans (Int.min_def ..).symm

/-- The signed maximum (R314). -/
theorem signedOf_atomNew_max (nb old b c : Nat) : signedOf (8 * nb) (atomNew 3 nb old b c) =
    max (signedOf (8 * nb) old) (signedOf (8 * nb) b) := 
  (apply_ite (signedOf (8 * nb)) ..).trans (Int.max_def ..).symm

end Sys2Proof.Machine

open Sys2Proof Sys2Proof.Machine

/-- Settles O24: an access inside the allocation meets nothing that could hold it back, and moves its bytes only. -/
theorem scratchAccess : Obligations.ScratchAccess := by
  unfold Obligations.ScratchAccess
  refine ⟨?_, ?_⟩
  · intro s o g i nb off n op scope addr data c sync put va hg _ _ hput
    subst hput
    refine ⟨fun hi hrun ha hn hva => ?_, fun a old ha hsel hlow hn hold => ?_⟩
    · obtain ⟨rfl, rfl⟩ : off = (partRun nb i).1 ∧ n = (partRun nb i).2 := Prod.mk.inj hrun
      exact ⟨loadPart_group hg hi ha hn hva sync, fun hlast => storePart_group hg hi ha hn hva hlast data sync⟩
    · subst hold
      exact atomPart_group hg ha hsel hlow hn op scope data c
  · intro nb old b c hold hb
    exact ⟨rfl, atomNew_sub_add hold hb c, signedOf_atomNew_min nb old b c, signedOf_atomNew_max nb old b c,
      Nat.min_def.symm, Nat.max_def.symm, rfl, rfl, rfl, rfl, rfl⟩

end

section
/-! SUPPORT. Addresses: how each lane's address is formed, the canonical form and the privileged half, and the bounds of
a group's scratch (R8, R9, R11). -/

namespace Sys2Proof.Machine

/-! ### Lane addresses (R8) -/

/-- In a scratch space an address is the low 32 bits of its sum. -/
theorem address_scratch {sp : Space} (h : sp ≠ .global) (a : Dword) : sp.address a = (a.setWidth 32).setWidth 64 := by
  have hlow : BitVec.ofNat 64 (a.toNat % 2 ^ 32) = (a.setWidth 32).setWidth 64 := by
    apply BitVec.eq_of_toNat_eq
    simp only [BitVec.toNat_ofNat, BitVec.toNat_setWidth]
  cases sp
  case global => exact absurd rfl h
  case cluster => exact hlow
  case group => exact hlow

theorem laneAddrs_getElem? (s : State) (f : Fibre) (a : BitVec 6) (i : BitVec 7) (nb : Nat) (sp : Space) {k : Nat}
    (hk : k < 32) : (laneAddrs s f a i nb sp)[k]? = some (sp.address (f.s a.toNat + if i = 127 then
      BitVec.ofNat 64 (k * nb) else (lane (s.v s.cur f i.toNat) k).signExtend 64)) := by
  simp only [laneAddrs, List.getElem?_map, List.getElem?_range hk, Option.map_some]

/-! ### Canonical addresses and the privileged half (R9) -/

/-- Bit `i` of a word, in the model's spelling and in the library's. -/
theorem bitOf_eq_getLsbD {w : Nat} (x : BitVec w) (i : Nat) : bitOf x i = x.getLsbD i := by
  rw [BitVec.getLsbD, Nat.testBit_eq_decide_div_mod_eq]
  rfl

/-- Bit 56 of an address is the privileged half's. -/
theorem privHalf_eq_getLsbD (va : Dword) : privHalf va.toNat = va.getLsbD 56 := bitOf_eq_getLsbD va 56

/-- Bits 56 to 63 of an address are its top byte. -/
theorem getLsbD_topByte (va : Dword) (j : Nat) : va.getLsbD (56 + j) = (va.toNat / 2 ^ 56).testBit j := by
  rw [BitVec.getLsbD, Nat.testBit_div_two_pow, Nat.add_comm]

/-- A number of `w` bits is 0 or all ones exactly when its bits all equal its lowest. -/
theorem uniform_iff {w n : Nat} (hn : n < 2 ^ w) :
    (n = 0 ∨ n = 2 ^ w - 1) ↔ ∀ j, j < w → n.testBit j = n.testBit 0 := by
  constructor
  · rintro (rfl | rfl) j hj
    · rw [Nat.zero_testBit, Nat.zero_testBit]
    · simp only [Nat.testBit_two_pow_sub_one, hj, Nat.zero_lt_of_lt hj]
  · intro h
    have hbit : ∀ j, n.testBit j = (decide (j < w) && n.testBit 0) := fun j => by
      by_cases hj : j < w
      · rw [h j hj, decide_eq_true hj, Bool.true_and]
      · have hhigh : n < 2 ^ j := Nat.lt_of_lt_of_le hn (Nat.pow_le_pow_right (by omega) (by omega))
        rw [Nat.testBit_lt_two_pow hhigh, decide_eq_false hj, Bool.false_and]
    cases hlow : n.testBit 0
    case false =>
      refine .inl (Nat.eq_of_testBit_eq fun j => ?_)
      rw [hbit, hlow, Bool.and_false, Nat.zero_testBit]
    case true =>
      refine .inr (Nat.eq_of_testBit_eq fun j => ?_)
      rw [hbit, hlow, Bool.and_true, Nat.testBit_two_pow_sub_one]

/-- An address is canonical when bits [63:57] all equal bit 56. -/
theorem canonical_iff (va : Dword) :
    canonical va.toNat = true ↔ ∀ i, 57 ≤ i → i < 64 → va.getLsbD i = va.getLsbD 56 := by
  have htop : va.toNat / 2 ^ 56 < 2 ^ 8 := by omega
  rw [canonical, Bool.or_eq_true, beq_iff_eq, beq_iff_eq]
  refine (uniform_iff htop).trans ?_
  simp only [← getLsbD_topByte]
  constructor
  · intro h i hlo hhi
    obtain ⟨j, rfl⟩ := Nat.exists_eq_add_of_le (show 56 ≤ i by omega)
    exact h j (by omega)
  · intro h j hj
    rcases Nat.eq_zero_or_pos j with rfl | hpos
    · rfl
    · exact h (56 + j) (by omega) (by omega)

/-- A fibre is privileged when its region's control block says so (R209). -/
theorem privOf_iff (s : State) (rgn : Nat) : s.privOf rgn = true ↔ ∃ r, s.rcb rgn = some r ∧ r.priv = true := by
  unfold State.privOf
  cases s.rcb rgn with
  | none => simp
  | some r => simp

/-- The first piece of an access starts at its address. -/
theorem pieces_cons (va : Dword) (n : Nat) : ∃ m rest, pieces va.toNat n = (va.toNat, m) :: rest := by
  have hva : va.toNat % 2 ^ 64 = va.toNat := Nat.mod_eq_of_lt va.isLt
  simp only [pieces, hva]
  split
  · exact ⟨_, _, rfl⟩
  · exact ⟨_, _, rfl⟩

/-- An access whose first page is refused is refused, and nothing else is looked at (R28, R306). -/
theorem resolve_refused {s t : State} {w : Who} {k : AKind} {va : Dword} {c z : Nat}
    (h : checkPage s w k va.toNat = (.refuse c z, t)) (n : Nat) : resolve s w k va.toNat n = (.refuse c z, t) := by
  obtain ⟨m, rest, hp⟩ := pieces_cons va n
  simp only [resolve, hp, resolveAll, checkAll, h, Acc.cast, Option.getD_some]

theorem checkPage_noncanon {va : Nat} (h : canonical va = false) (s : State) (w : Who) (k : AKind) :
    checkPage s w k va = (.refuse causeNoncanon 0, s) := by
  simp only [checkPage, h, Bool.not_false, if_true]

theorem checkPage_privHalf {va : Nat} {w : Who} (hc : canonical va = true) (hp : privHalf va = true)
    (hw : w.priv = false) (s : State) (k : AKind) : checkPage s w k va = (.refuse causePrivhalf 0, s) := by
  simp only [checkPage, hc, hp, hw, Bool.not_true, Bool.not_false, Bool.and_true, Bool.false_eq_true, if_false, if_true]

/-! ### Bounds of a group's scratch (R11) -/

section Bounds
variable {s : State} {o : Op} {nb : Nat}

theorem locate_group_beyond {grp a n : Nat} (h : s.scrLen grp < a + n) (w : Who) (k : AKind) :
    s.locate w grp k .group a n = (.refuse causeScrrange 0, s) := if_pos h

theorem locate_group_within {grp a n : Nat} (h : a + n ≤ s.scrLen grp) (w : Who) (k : AKind) :
    s.locate w grp k .group a n = (.ok [.gscr grp a n], s) := if_neg (by omega)

/-- A lane's access that reaches beyond the allocation is refused before any part of it is performed. -/
theorem withPart_group_beyond {a : Dword} (h : s.scrLen o.group < a.toNat + nb) (herr : o.err = false)
    (zero : List Nat) (k : AKind) (i : Nat) (perform : List Spot → State → List Nat × State) :
    withPart s o zero k .group a nb i perform = (.trouble (.refuse a causeScrrange 0), s) := by
  simp only [withPart, wholeRefused, locate_group_beyond h, partFail, herr, Bool.false_and, Bool.false_eq_true, if_false]

end Bounds

end Sys2Proof.Machine

open Sys2Proof Sys2Proof.Machine

/-- Settles O20: each lane's address is its sum, as the space reads it. -/
theorem laneAddresses : Obligations.LaneAddresses := by
  unfold Obligations.LaneAddresses
  intro s f a i nb sp k sum hk hsum
  subst hsum
  refine ⟨laneAddrs_getElem? s f a i nb .global hk, fun hsp => ?_⟩
  rw [laneAddrs_getElem? s f a i nb sp hk, address_scratch hsp]

/-- Settles O21: the top byte of an address decides, before any translation. -/
theorem addressHalves : Obligations.AddressHalves := by
  unfold Obligations.AddressHalves
  refine ⟨canonical_iff, privHalf_eq_getLsbD, fun s f => privOf_iff s f.region, fun s w k va n => ⟨?_, ?_⟩⟩
  · intro hc
    exact resolve_refused (checkPage_noncanon hc s w k) n
  · intro hc hp hw
    exact resolve_refused (checkPage_privHalf hc hp hw s k) n

/-- Settles O22: the whole of a lane's access is checked against the allocation before any part of it is performed. -/
theorem scratchBounds : Obligations.ScratchBounds := by
  unfold Obligations.ScratchBounds
  intro s w k o i nb a addr data sync
  refine ⟨fun h => locate_group_beyond h w k, fun h => locate_group_within h w k, fun h herr => ⟨?_, ?_⟩⟩
  · exact withPart_group_beyond h herr ..
  · exact withPart_group_beyond h herr ..

end

section
/-! SUPPORT. Privileged instructions, and what an invalidation of translations removes (R38 to R41, R251). -/

namespace Sys2Proof.Machine

/-! ### Check 5 of R251 -/

/-- A privileged instruction of a fibre that is not raises ILL under check 5, whatever its operands (R251). -/
theorem privileged_denied {s : State} {f : Fibre} (h : Issues s f) (hp : s.privOf f.region = false) (regs : List Nat)
    (body : Fibre → Act) : privileged s regs body = .next (s.takeTrap (illTrap 5)) := by
  simp only [privileged, runFibre_of _ h, hp, Bool.not_false, if_true, Act.finish]

/-- A privileged instruction of a privileged fibre whose registers are settled runs. -/
theorem privileged_of {s : State} {f : Fibre} {regs : List Nat} (h : Issues s f) (hp : s.privOf f.region = true)
    (hs : Settled s (resS s.cur regs)) (body : Fibre → Act) : privileged s regs body = .next ((body f).finish s) := by
  simp only [privileged, runFibre_of _ h, hp, Bool.not_true, Bool.false_eq_true, if_false, guardBusy_of _ hs]

/-! ### TLBINV (R38) -/

theorem tlbinvBad_iff (c : Dword) : tlbinvBad c = true ↔ 2 ^ 19 ≤ c ∨ 5 ≤ field c 16 3 := by
  have hword : field c 19 45 ≠ 0 ↔ 2 ^ 19 ≤ c := by
    rw [field, BitVec.le_def, show (2 ^ 19 : Dword).toNat = 2 ^ 19 from rfl]
    omega
  rw [tlbinvBad, Bool.or_eq_true, bne_iff_ne, decide_eq_true_eq, hword]

section Tlbinv
variable {s : State} {f : Fibre} {a b : BitVec 6}

theorem execTlbinv_bad (h : Issues s f) (hp : s.privOf f.region = true)
    (hs : Settled s (resS s.cur [a.toNat, b.toNat])) (hb : tlbinvBad (f.s b.toNat) = true) :
    execTlbinv a b s = .next (s.takeTrap (illTrap 6)) := by
  simp only [execTlbinv, privileged_of h hp hs, hb, if_true, Act.finish]

/-- TLBINV waits while an access of its fibre is under way, and then releases and invalidates (R38). -/
theorem execTlbinv_good (h : Issues s f) (hp : s.privOf f.region = true)
    (hs : Settled s (resS s.cur [a.toNat, b.toNat])) (hb : tlbinvBad (f.s b.toNat) = false) :
    execTlbinv a b s = .next (if s.lsuBusy s.cur (fun _ => true) then s.stall
      else ((s.release s.cur 4 true false).invalidate (f.s a.toNat) (f.s b.toNat)).retire) := by
  simp only [execTlbinv, privileged_of h hp hs, hb, Bool.false_eq_true, if_false]
  split
  · rfl
  · rfl

end Tlbinv

/-! ### What an operation removes (R38 to R41) -/

section Invalidate
variable (x : Xlate) (va : Nat) (asid : BitVec 16) (e : TlbEnt) (w : WalkEnt) (c : CtxSlot)

/-- PAGE takes the leaves that cover the page, of the address space and global ones. -/
theorem mem_tlb_invalidate_page : e ∈ (x.invalidate va 0 asid).tlb ↔
    e ∈ x.tlb ∧ ¬((e.asid = asid ∨ bitOf e.pte 9 = true) ∧ e.covers va = true) := by
  rw [Xlate.invalidate, List.mem_filter, Bool.not_eq_true', ← Bool.not_eq_true, Bool.and_eq_true, Bool.or_eq_true,
    beq_iff_eq]

/-- ASID keeps the leaves of other address spaces and the global ones. -/
theorem mem_tlb_invalidate_asid : e ∈ (x.invalidate va 1 asid).tlb ↔
    e ∈ x.tlb ∧ (e.asid ≠ asid ∨ bitOf e.pte 9 = true) := by
  rw [Xlate.invalidate, List.mem_filter, decide_eq_true_eq]

theorem mem_wcache_invalidate_asid : w ∈ (x.invalidate va 1 asid).wcache ↔ w ∈ x.wcache ∧ w.asid ≠ asid := by
  rw [Xlate.invalidate, List.mem_filter, decide_eq_true_eq]

/-- ALLNG keeps the global leaves. -/
theorem mem_tlb_invalidate_nonglobal : e ∈ (x.invalidate va 2 asid).tlb ↔ e ∈ x.tlb ∧ bitOf e.pte 9 = true := by
  rw [Xlate.invalidate, List.mem_filter]

/-- CTX takes the context with the leaves of its address space. -/
theorem mem_ctxs_invalidate_ctx : c ∈ (x.invalidate va 4 asid).ctxs ↔ c ∈ x.ctxs ∧ c.asid ≠ asid :=
  List.mem_filter.trans (and_congr_right' decide_eq_true_iff)

end Invalidate

end Sys2Proof.Machine

open Sys2Proof Sys2Proof.Machine

/-- Settles O45: the check of privilege precedes every other, and each operation filters the caches. -/
theorem privilege : Obligations.Privilege := by
  unfold Obligations.Privilege
  refine ⟨fun d a b s f h hp i hi => ?_, ⟨fun a b s f h hp hs => ?_, ?_⟩⟩
  · simp only [List.mem_cons, List.not_mem_nil, or_false] at hi
    rcases hi with rfl | rfl | rfl | rfl | rfl <;> exact privileged_denied h hp ..
  · exact ⟨execTlbinv_bad h hp hs, execTlbinv_good h hp hs, tlbinvBad_iff (f.s b.toNat)⟩
  · intro x va asid e w c
    exact ⟨mem_tlb_invalidate_page x va asid e, mem_tlb_invalidate_asid x va asid e,
      mem_wcache_invalidate_asid x va asid w, mem_tlb_invalidate_nonglobal x va asid e, rfl, rfl, rfl, rfl, rfl,
      Iff.rfl, mem_ctxs_invalidate_ctx x va asid c⟩

end

section
/-! SUPPORT. Killing work leaves the device's registers and its host side as they are (R185, R187, R188, R211): neither a
fibre, an operation, a record nor a range that goes is listed there. -/

namespace Sys2Proof.Machine

/-- The registers of the device and its host side: queues, logs, interfaces and answers. -/
def State.outside (s : State) : DevRegs × HostSide := (s.reg, s.io)

/-- A fold whose steps keep an observation keeps it. -/
theorem foldl_keeps {σ α β : Type} {obs : σ → β} {step : σ → α → σ} (h : ∀ s a, obs (step s a) = obs s) (l : List α) :
    ∀ s, obs (l.foldl step s) = obs s := by
  induction l with
  | nil => exact fun s => rfl
  | cons a l ih => exact fun s => (ih (step s a)).trans (h s a)

variable (s : State)

/-! ### Control blocks, fibres and operations -/

@[simp] theorem outside_modRcb (rgn : Nat) (g : Rcb → Rcb) : (s.modRcb rgn g).outside = s.outside := by
  unfold State.modRcb
  split
  · rfl
  · rfl

@[simp] theorem outside_modFibre (l : Nat) (g : Fibre → Fibre) : (s.modFibre l g).outside = s.outside := rfl

@[simp] theorem outside_modLaunch (id : Nat) (g : Launch → Launch) : (s.modLaunch id g).outside = s.outside := rfl

@[simp] theorem outside_dropCensuses : s.dropCensuses.outside = s.outside := rfl

@[simp] theorem outside_removeOp (id : Nat) : (s.removeOp id).outside = s.outside := by
  unfold State.removeOp
  split
  · rfl
  · rfl

@[simp] theorem outside_removeOps (p : Op → Bool) : (s.removeOps p).outside = s.outside :=
  foldl_keeps outside_removeOp _ s

@[simp] theorem outside_dropGroup (id : Nat) : (s.dropGroup id).outside = s.outside := by
  unfold State.dropGroup
  split
  · rfl
  · simp only [outside_dropCensuses, outside_removeOps, outside_modLaunch, outside_modRcb]
    rfl

/-! ### What lanes and records owe (R388, R412) -/

@[simp] theorem outside_settleOwed (o : Owed) (noreply lost : Bool) :
    (s.settleOwed o noreply lost).outside = s.outside := by
  cases o with
  | nothing => rfl
  | reply c e => rfl
  | test id => rfl

@[simp] theorem outside_endLanes (loc : Nat) (lanes : List Nat) : (s.endLanes loc lanes).outside = s.outside := by
  unfold State.endLanes
  split
  · rfl
  · rw [outside_modFibre]
    refine foldl_keeps (fun acc i => ?_) lanes s
    split <;> split <;> simp only [outside_settleOwed]

@[simp] theorem outside_recordDown (rgn entry : Nat) (group : Bool) :
    (s.recordDown rgn entry group).outside = s.outside := rfl

@[simp] theorem outside_settleLocs (locs : List Nat) : (s.settleLocs locs).outside = s.outside := by
  unfold State.settleLocs
  extract_lets s1 vals s2
  have h1 : s1.outside = s.outside := foldl_keeps (fun acc l => outside_endLanes acc l _) locs s
  have h2 : s2.outside = s1.outside := foldl_keeps (fun acc v => outside_settleOwed acc _ _ _) vals s1
  refine (foldl_keeps (fun acc e => ?_) s2.eng.ops s2).trans (h2.trans h1)
  split
  · split
    · exact outside_recordDown ..
    · rfl
  · split
    · rfl
    · rfl
  · rfl

/-! ### Fibre positions (R187, R243) -/

@[simp] theorem outside_startSwitch (bank : Nat) : (s.startSwitch bank).outside = s.outside := by
  unfold State.startSwitch
  split
  · rfl
  · rfl

@[simp] theorem outside_dropSwitches (gone : BankSwitch → Bool) : (s.dropSwitches gone).outside = s.outside :=
  foldl_keeps (step := fun (acc : State) (w : BankSwitch) => acc.startSwitch w.bank)
    (fun acc w => outside_startSwitch acc w.bank) _ _

@[simp] theorem outside_dropWaits : s.dropWaits.outside = s.outside := outside_dropSwitches _ _

@[simp] theorem outside_emptyLocs (locs : List Nat) : (s.emptyLocs locs).outside = s.outside := by
  unfold State.emptyLocs
  extract_lets s1 gone s2 s3
  have h3 : s3.outside = s.outside := (outside_removeOps _ _).trans (outside_settleLocs s locs)
  rw [outside_dropWaits]
  refine (foldl_keeps (fun acc g => ?_) gone s3).trans h3
  split
  · rfl
  · exact outside_dropGroup acc g

@[simp] theorem outside_killLocs (locs : List Nat) : (s.killLocs locs).outside = s.outside := outside_emptyLocs s _

/-! ### Records and save areas (R204, R211, R226) -/

@[simp] theorem outside_physWrite (p : Nat) (b : List Byte) : (physWrite s p b).outside = s.outside := by
  obtain ⟨m, hm⟩ := physWrite_mem p b s
  rw [hm]
  rfl

@[simp] theorem outside_returnRecord (core rgn queue : Nat) (bytes : List Byte) :
    (s.returnRecord core rgn queue bytes).outside = s.outside := by
  unfold State.returnRecord
  split
  · rfl
  · extract_lets d tail at0 s1
    have h1 : s1.outside = s.outside := (outside_physWrite _ _ _).trans (outside_physWrite s _ _)
    split
    · exact h1
    · exact h1

@[simp] theorem outside_dropReceipt (r : Receipt) : (s.dropReceipt r).outside = s.outside := by
  unfold State.dropReceipt
  dsimp only
  split
  · exact outside_returnRecord ..
  · exact outside_modRcb ..

@[simp] theorem outside_loseRecords (rgn : Nat) : (s.loseRecords rgn).outside = s.outside := by
  unfold State.loseRecords
  extract_lets recs marks s1 s2
  have h1 : s1.outside = s.outside := foldl_keeps (fun acc o => outside_settleOwed acc o false true) _ s
  rw [outside_modRcb]
  exact h1

@[simp] theorem outside_killSaved (rgn : Nat) : (s.killSaved rgn).outside = s.outside := by
  unfold State.killSaved
  extract_lets gone owed s1 recs s2 s3 keep lost s4
  have h1 : s1.outside = s.outside := foldl_keeps (fun acc o => outside_settleOwed acc o true false) owed s
  have h2 : s2.outside = s1.outside := foldl_keeps (fun acc r => outside_settleOwed acc r.owed false true) recs s1
  have h3 : s3.outside = s2.outside := foldl_keeps outside_dropReceipt _ s2
  have h4 : s4.outside = s3.outside :=
    foldl_keeps (fun acc e => (outside_modLaunch _ _ _).trans (outside_modRcb acc _ _)) lost s3
  rw [outside_dropCensuses, outside_modRcb]
  exact h4.trans (h3.trans (h2.trans h1))

/-! ### Ranges that close (R321, R322) -/

@[simp] theorem outside_requestGranule (clusters : List Nat) (asid : BitVec 16) (gran : Nat) (hs : Bool) (want : Nat) :
    (s.requestGranule clusters asid gran hs want).outside = s.outside := by
  unfold State.requestGranule
  split
  · rfl
  · dsimp only
    split
    · rfl
    · rfl

@[simp] theorem outside_requestFor (clusters : List Nat) (asid : BitVec 16) (m : Missing) :
    (s.requestFor clusters asid m).outside = s.outside := by
  cases m with
  | granule g hs want => exact outside_requestGranule s clusters asid g hs want
  | block b excl => exact (apply_ite State.outside ..).trans (ite_self _)

theorem outside_placePhys (p : Phys) (hs : Bool) : (s.placePhys p hs).2.outside = s.outside := by
  unfold State.placePhys
  repeat' split
  all_goals rfl

theorem outside_foldBlock (err : Bool) (q : Partial) : (foldBlock s err q).2.outside = s.outside := by
  have hp := outside_placePhys s q.phys q.hs
  unfold foldBlock
  generalize s.placePhys q.phys q.hs = r at hp ⊢
  obtain ⟨a, s1⟩ := r
  cases a with
  | ok place => exact hp
  | miss m => exact hp
  | refuse c z => cases err <;> exact hp
  | poison => cases err <;> exact hp
  | wait => exact hp

@[simp] theorem outside_settleRange (r : CRange) : (s.settleRange r).outside = s.outside := by
  unfold State.settleRange
  extract_lets s1
  have h1 : s1.outside = s.outside := by
    refine foldl_keeps (fun acc q => ?_) _ s
    have hq := outside_foldBlock acc true q
    split
    · next heq => rw [outside_requestFor]; rwa [heq] at hq
    · next heq => rwa [heq] at hq
  split
  · exact h1
  · exact h1

@[simp] theorem outside_settleRanges : s.settleRanges.outside = s.outside := foldl_keeps outside_settleRange _ s

/-! ### Regions (R185) -/

theorem outside_killOne (rgn : Nat) : (s.killOne rgn).outside = s.outside := by
  unfold State.killOne
  extract_lets s1 s2 s3 s4
  have h1 : s1.outside = s.outside := outside_killLocs s _
  have h2 : s2.outside = s1.outside := foldl_keeps outside_dropReceipt _ s1
  have h3 : s3.outside = s2.outside := (outside_killSaved _ rgn).trans (outside_loseRecords s2 rgn)
  clear_value s3
  rw [outside_modRcb, outside_settleRanges]
  exact h3.trans (h2.trans h1)

theorem outside_killRegion (top : Nat) : (s.killRegion top).outside = s.outside := foldl_keeps outside_killOne _ s

end Sys2Proof.Machine
end

section
/-! SUPPORT. Errors of the device: counting and logging, what the structures' rows do to memories, and the vault's
own (R66, R96, R457). -/

namespace Sys2Proof.Machine

/-! ### Single bits of a register -/

theorem getLsbD_setBit {w : Nat} (x : BitVec w) {i j : Nat} (hj : j < w) :
    (setBit x i).getLsbD j = (x.getLsbD j || decide (i = j)) := by
  rw [setBit, BitVec.getLsbD_or, BitVec.getLsbD_ofNat, Nat.testBit_two_pow, decide_eq_true hj, Bool.true_and]

theorem getLsbD_clearBit {w : Nat} (x : BitVec w) (i : Nat) : (clearBit x i).getLsbD i = false := by
  rw [clearBit, BitVec.getLsbD_and, BitVec.getLsbD_not, BitVec.getLsbD_ofNat, Nat.testBit_two_pow_self, Bool.and_true]
  cases decide (i < w)
  · exact Bool.and_false _
  · exact Bool.and_false _

/-! ### Counting and logging (R96, R457) -/

/-- An error counter goes up by one and stays at its highest value. -/
theorem errcnt_countError (s : State) (part : ErrPart) (u : Bool) (i : Nat) :
    Sparse.getZ (s.countError part u).reg.errcnt i =
      if i = 2 * errIndex part + (if u then 1 else 0) ∧ Sparse.getZ s.reg.errcnt i ≠ BitVec.allOnes 64
      then Sparse.getZ s.reg.errcnt i + 1 else Sparse.getZ s.reg.errcnt i := by
  simp only [State.countError]
  generalize 2 * errIndex part + (if u then 1 else 0) = j
  refine (Sparse.get_set 0 s.reg.errcnt j i _).trans ?_
  by_cases hi : i = j
  · subst hi
    by_cases hmax : Sparse.getZ s.reg.errcnt i = BitVec.allOnes 64
    · rw [if_pos rfl, if_pos hmax, if_neg fun h => h.2 hmax]
    · rw [if_pos rfl, if_neg hmax, if_pos ⟨rfl, hmax⟩]
  · rw [if_neg hi, if_neg fun h => hi h.1]

/-- A vector touches the interrupt state of the host side only. -/
theorem signal_io (s : State) (v : Nat) (b : Bool) : ∃ io : HostSide, s.signal v b = { s with io := io } ∧
    io.devLog = s.io.devLog ∧ io.ifaces = s.io.ifaces := by
  unfold State.signal
  split
  · exact ⟨s.io, rfl, rfl, rfl⟩
  · split
    · exact ⟨_, rfl, rfl, rfl⟩
    · split
      · exact ⟨_, rfl, rfl, rfl⟩
      · exact ⟨s.io, rfl, rfl, rfl⟩

/-- What logging an uncorrectable error does: an entry, its counter, ERR of DEVSTAT, and nothing to fibres, memories,
interfaces or ports. -/
structure Logged (part : ErrPart) (place addr : Nat) (s t : State) : Prop where
  entry : ∃ clk, t.io.devLog = s.io.devLog ++ [⟨errIndex part, place, addr, clk⟩]
  count : t.reg.errcnt = (s.countError part true).reg.errcnt
  err : t.reg.devstat.getLsbD 1 = true
  mem : t.mem = s.mem
  fibres : t.fibres = s.fibres
  ifaces : t.io.ifaces = s.io.ifaces
  portcfg : t.reg.portcfg = s.reg.portcfg

/-- ERR of DEVSTAT stands while the log holds an entry. -/
theorem devstat_refreshErr {s : State} (h : s.io.devLog ≠ []) : s.refreshErr.reg.devstat.getLsbD 1 = true := by
  have hne : s.io.devLog.isEmpty = false := by rwa [List.isEmpty_eq_false_iff]
  simp only [State.refreshErr, hne, Bool.false_eq_true, if_false]
  rw [getLsbD_setBit _ (by decide), decide_eq_true rfl, Bool.or_true]

theorem logged_logError (s : State) (part : ErrPart) (place addr : Nat) (core : Option Nat) :
    Logged part place addr s (s.logError part place addr core) := by
  unfold State.logError
  cases core
  all_goals
    dsimp only
    generalize hs3 : State.mk .. = s3
    obtain ⟨io, hsig, hlog, hif⟩ := signal_io s3 errorVector true
    subst hs3
    rw [hsig]
    refine ⟨⟨_, hlog⟩, rfl, devstat_refreshErr ?_, rfl, rfl, hif, rfl⟩
    rw [hlog]
    exact List.append_ne_nil_of_right_ne_nil _ (List.cons_ne_nil _ _)

/-! ### Lines that reach their homes -/

theorem l1_ccache_putHome (m : Mem) (line : Nat) (l : L1Line) :
    ((m.putHome line l).l1, (m.putHome line l).ccache) = (m.l1, m.ccache) := by
  unfold Mem.putHome
  extract_lets m1 m2 m3
  have h2 : (m2.l1, m2.ccache) = (m1.l1, m1.ccache) :=
    foldl_keeps (obs := fun m : Mem => (m.l1, m.ccache))
      (step := fun acc (e : Nat × Byte) => acc.wroteAt (line * 128 + e.1)) (fun _ _ => rfl) l.bytes m1
  have h3 : (m3.l1, m3.ccache) = (m2.l1, m2.ccache) :=
    foldl_keeps (obs := fun m : Mem => (m.l1, m.ccache))
      (step := fun acc (e : Nat × BitVec 16) => acc.wroteAt (line * 128 + e.1 * 64)) (fun _ _ => rfl) l.tags m2
  split
  · exact h3.trans h2
  · exact h3.trans h2

/-- A line that leaves a cluster's cache is not there any more. -/
theorem find_ccache_ccOut (m : Mem) (cluster line : Nat) :
    Sparse.find (m.ccOut cluster line).ccache (l1Key cluster line) = none := by
  unfold Mem.ccOut
  dsimp only
  split
  · assumption
  · next e _ =>
    have herase : Sparse.find (Sparse.erase m.ccache (l1Key cluster line)) (l1Key cluster line) = none := by
      rw [Sparse.find_erase, if_pos rfl]
    split
    · exact herase
    · have hput := congrArg Prod.snd (l1_ccache_putHome { m with
        ccache := Sparse.erase m.ccache (l1Key cluster line), ccUse := m.ccUse.erase (l1Key cluster line) } line e.line)
      exact (congrArg (Sparse.find · (l1Key cluster line)) hput).trans herase

theorem l1_ccOut (m : Mem) (cluster line : Nat) : (m.ccOut cluster line).l1 = m.l1 := by
  unfold Mem.ccOut
  dsimp only
  split
  · rfl
  · next e _ =>
    split
    · rfl
    · exact congrArg Prod.fst (l1_ccache_putHome _ line e.line)

/-! ### The rows of R96 -/

/-- What an uncorrectable error of a structure other than the vault does to memories (R96). -/
def errorMem (m : Mem) (place addr : Nat) : ErrPart → Mem
  | .coreL1 =>
    let poisoned := Sparse.adjust m.l1 (l1Key place (addr / 128)) fun l => { l with poison := true }
    let m1 := m.dropCopy place (addr / 128)
    if (Sparse.find m1.l1 (l1Key place (addr / 128))).isSome then
      { m1 with l1 := poisoned }.writeBack place (addr / 128)
    else m1
  | .samplerCache => { m with smp := m.smp.filter fun l => l.core ≠ place ∨ l.place.addr / 128 ≠ addr / 128 }
  | .clusterCache =>
    { m with ccache := Sparse.adjust m.ccache (l1Key place (addr / 128)) fun e =>
        { e with line := { e.line with poison := e.line.poison || !e.line.clean } } }.ccOut place (addr / 128)
  | .clusterScratch => m.bankError place addr
  | .homeCache =>
    (if Sparse.find m.homec (addr / 128) = some true then m.poisonLine (addr / 128) else m).homeOut (addr / 128)
  | .snoopFilter => m.recallLine (addr / 128)
  | .registers | .groupScratch | .vault | .port _ | .ide | .firmware => m

/-- An error that strikes no fibre and no group is logged and does what the row of its structure says. -/
theorem exec_uncorrectableError_logged {s : State} {what : ErrPart} {place addr : Nat} (hv : what ≠ .vault)
    (hr : what = .registers → s.fibre (place * 128 + addr % 128) = none)
    (hg : what = .groupScratch → s.scratchOwner place addr = none) :
    ∃ t, Logged what place addr s t ∧
      exec (.uncorrectableError what place addr) s = .next { t with mem := errorMem s.mem place addr what } := by
  have key : ∀ core, exec (.uncorrectableError what place addr) s =
        .next { s.logError what place addr core with
          mem := errorMem (s.logError what place addr core).mem place addr what } →
      ∃ t, Logged what place addr s t ∧
        exec (.uncorrectableError what place addr) s = .next { t with mem := errorMem s.mem place addr what } := by
    intro core h
    have hl := logged_logError s what place addr core
    exact ⟨_, hl, by rw [h, hl.mem]⟩
  cases what with
  | registers => exact key (some place) (by simp only [exec_uncorrectableError, execUncorrectableError, hr rfl]; rfl)
  | groupScratch => exact key (some place) (by simp only [exec_uncorrectableError, execUncorrectableError, hg rfl]; rfl)
  | vault => exact absurd rfl hv
  | coreL1 => exact key (some place) rfl
  | samplerCache => exact key (some place) rfl
  | clusterCache => exact key none rfl
  | clusterScratch => exact key none rfl
  | homeCache => exact key none rfl
  | snoopFilter => exact key none rfl
  | port n => exact key none rfl
  | ide => exact key none rfl
  | firmware => exact key none rfl

section Rows
variable (m : Mem) (place addr : Nat)

/-- The struck line leaves its sampler cache. -/
theorem mem_smp_errorMem (l : SampLine) : l ∈ (errorMem m place addr .samplerCache).smp ↔
    l ∈ m.smp ∧ (l.core ≠ place ∨ l.place.addr / 128 ≠ addr / 128) := by
  rw [errorMem, List.mem_filter, decide_eq_true_eq]

/-- A clean line of an L1 is dropped, and nothing else happens. -/
theorem errorMem_coreL1_clean (h : Sparse.find m.l1 (l1Key place (addr / 128)) = none) :
    errorMem m place addr .coreL1 = m.dropCopy place (addr / 128) := by
  refine if_neg ?_
  rw [show (m.dropCopy place (addr / 128)).l1 = m.l1 from rfl, h]
  exact Bool.false_ne_true

/-- The two blocks of a poisoned line are poisoned in its frame (R96). -/
theorem frame_poisonLine {line : Nat} {f : Frame} (h : Sparse.find m.frames (line / 32) = some f) :
    ∃ g, Sparse.find (m.poisonLine line).frames (line / 32) = some g ∧ ({ g with poison := f.poison } : Frame) = f ∧
      ∀ b, b < 64 → g.poison.getLsbD b = (f.poison.getLsbD b || decide (b / 2 = line % 32)) := by
  refine ⟨{ f with poison := setBit (setBit f.poison (line % 32 * 2)) (line % 32 * 2 + 1) }, ?_, rfl, fun b hb => ?_⟩
  · rw [Mem.poisonLine, Sparse.find_adjust, if_pos rfl, h, Option.map_some]
  rw [getLsbD_setBit _ hb, getLsbD_setBit _ hb, Bool.or_assoc, ← Bool.decide_or]
  congr 2
  exact propext (by omega)

/-- A home cache's error poisons the line's blocks when it was dirty there, and leaves them as they were otherwise. -/
theorem frame_errorMem_homeCache {f : Frame} (h : Sparse.find m.frames (addr / 4096) = some f) :
    ∃ g, Sparse.find (errorMem m place addr .homeCache).frames (addr / 4096) = some g ∧
      ({ g with poison := f.poison } : Frame) = f ∧ ∀ b, b < 64 → g.poison.getLsbD b = (f.poison.getLsbD b ||
        (decide (Sparse.find m.homec (addr / 128) = some true) && decide (b / 2 = addr / 128 % 32))) := by
  have hline : addr / 4096 = addr / 128 / 32 := by omega
  rw [hline] at h ⊢
  by_cases hd : Sparse.find m.homec (addr / 128) = some true
  · simp only [errorMem, if_pos hd, decide_eq_true hd, Bool.true_and]
    exact frame_poisonLine m h
  · simp only [errorMem, if_neg hd, decide_eq_false hd, Bool.false_and, Bool.or_false]
    exact ⟨f, h, rfl, fun _ _ => rfl⟩

end Rows

/-! ### Errors of the vault (R66) -/

/-- A recall finds nothing to write home while no line is held dirty. -/
theorem recallLine_clean {m : Mem} (h1 : m.l1 = []) (h2 : m.ccache = []) (line : Nat) :
    m.recallLine line = m.untrack line := by
  simp only [Mem.recallLine, h1, h2, List.filterMap_nil, List.foldl_nil]

theorem drain_clean {m : Mem} (h1 : m.l1 = []) (h2 : m.ccache = []) (k : Mark) : m.drain k = m := by
  simp only [Mem.drain, Mem.dirtyLines, Mem.ccFlush, Mem.ccLines, h1, h2, List.filterMap_nil, List.foldl_nil]

/-- What a recall can change of a memory that holds no dirty line is not its frames. -/
theorem frames_recallFrame_clean {m : Mem} (h1 : m.l1 = []) (h2 : m.ccache = []) (k : Nat) :
    (m.recallFrame k).frames = m.frames := by
  have hdrain : ∀ l : List Mark, l.foldl (fun acc k => acc.drain k) m = m := by
    intro l
    induction l with
    | nil => rfl
    | cons a l ih => rw [List.foldl_cons, drain_clean h1 h2, ih]
  have hlines : ∀ l : List Nat, ∀ m' : Mem, m'.l1 = [] → m'.ccache = [] →
      (l.foldl (fun acc i => acc.recallLine (k * 32 + i)) m').frames = m'.frames := by
    intro l
    induction l with
    | nil => exact fun _ _ _ => rfl
    | cons a l ih =>
      intro m' h1 h2
      rw [List.foldl_cons, recallLine_clean h1 h2]
      exact ih (m'.untrack (k * 32 + a)) h1 h2
  unfold Mem.recallFrame
  dsimp only
  rw [hdrain]
  exact hlines _ m h1 h2

@[simp] theorem io_modFrame (s : State) (k : Nat) (g : Frame → Frame) : (s.modFrame k g).io = s.io := rfl

@[simp] theorem io_evict (s : State) (k : Nat) : (s.evict k).io = s.io := by
  unfold State.evict
  split
  · rw [io_modFrame]
  · rw [io_modFrame]
  · rw [io_modFrame]
  · rw [io_modFrame]
  · rfl

theorem find_modFrame {s : State} {k : Nat} {f : Frame} (h : Sparse.find s.mem.frames k = some f) (g : Frame → Frame) :
    Sparse.find (s.modFrame k g).mem.frames k = some (g f) := by
  rw [State.modFrame, Sparse.find_adjust, if_pos rfl, h]
  rfl

theorem frames_dropSamples (m : Mem) (gran : Nat) : (m.dropSamples gran).frames = m.frames := rfl

/-- A CLEAN frame of which nothing is held dirty is EVICTING after it has been told to go. -/
theorem find_evict_clean {s : State} {k : Nat} {f : Frame} (hf : Sparse.find s.mem.frames k = some f)
    (hst : f.st = .clean) (h1 : s.mem.l1 = []) (h2 : s.mem.ccache = []) :
    Sparse.find (s.evict k).mem.frames k = some { f with st := .evicting, evictNext := false } := by
  have hfs : s.frameState k = some .clean := by rw [State.frameState, hf, Option.map_some, hst]
  simp only [State.evict, hfs]
  refine find_modFrame (f := f) ?_ _
  rw [frames_dropSamples, frames_recallFrame_clean h1 h2, hf]

section Vault
variable {s : State} {addr : Nat} {f : Frame}

/-- An error of the vault is logged as one, whatever its frame. -/
theorem vaultError_logged (s : State) (addr : Nat) :
    ∃ e, (s.vaultError addr).io.devLog = s.io.devLog ++ [e] ∧ e.part = 8 := by
  have hlog : ∀ (t : State) (a : Nat), t.io = s.io → ∃ e,
      (t.logError .vault (addr / 4096 % 4) a none).io.devLog = s.io.devLog ++ [e] ∧ e.part = 8 := by
    intro t a ht
    obtain ⟨clk, hclk⟩ := (logged_logError t .vault (addr / 4096 % 4) a none).entry
    exact ⟨_, by rw [hclk, ht], rfl⟩
  unfold State.vaultError
  dsimp only
  split
  · exact hlog s _ rfl
  · next f _ =>
    split
    · exact hlog _ _ rfl
    · exact hlog s _ rfl
    all_goals
      simp only [apply_ite State.io, io_modFrame, io_evict, ite_self]
      exact hlog s _ rfl

/-- A block of a PINNED frame is poisoned. -/
theorem frame_vaultError_pinned (h : Sparse.find s.mem.frames (addr / 4096) = some f) (hst : f.st = .pinned) :
    Sparse.find (s.vaultError addr).mem.frames (addr / 4096) =
      some { f with poison := setBit f.poison (addr / 64 % 64) } := by
  have heq : s.vaultError addr = (s.modFrame (addr / 4096) fun f => { f with
      poison := setBit f.poison (addr / 64 % 64) }).logError .vault (addr / 4096 % 4) addr none := by
    simp only [State.vaultError, h, hst]
  rw [heq, (logged_logError _ _ _ _ _).mem]
  exact find_modFrame h _

/-- A dirty block is poisoned. -/
theorem frame_vaultError_dirty (h : Sparse.find s.mem.frames (addr / 4096) = some f) (hst : f.st = .dirty)
    (hd : f.dirty.getLsbD (addr / 64 % 64) = true) :
    Sparse.find (s.vaultError addr).mem.frames (addr / 4096) =
      some { f with poison := setBit f.poison (addr / 64 % 64) } := by
  have heq : s.vaultError addr = (s.logError .vault (addr / 4096 % 4) (f.gran * 4096 + addr % 4096) none).modFrame
      (addr / 4096) fun f => { f with poison := setBit f.poison (addr / 64 % 64) } := by
    simp only [State.vaultError, h, hst, bitOf_eq_getLsbD, hd, if_true]
  rw [heq]
  refine find_modFrame (f := f) ?_ _
  rw [(logged_logError _ _ _ _ _).mem, h]

/-- A clean block's granule is evicted, to be filled again. -/
theorem frame_vaultError_clean (h : Sparse.find s.mem.frames (addr / 4096) = some f) (hst : f.st = .clean)
    (hd : f.dirty = 0) (h1 : s.mem.l1 = []) (h2 : s.mem.ccache = []) :
    Sparse.find (s.vaultError addr).mem.frames (addr / 4096) =
      some { f with st := .evicting, evictNext := false, refill := true } := by
  have hclean : bitOf f.dirty (addr / 64 % 64) = false := by rw [bitOf_eq_getLsbD, hd]; exact BitVec.getLsbD_zero
  have heq : s.vaultError addr = ((s.logError .vault (addr / 4096 % 4) (f.gran * 4096 + addr % 4096) none).evict
      (addr / 4096)).modFrame (addr / 4096) fun f => { f with refill := true } := by
    simp only [State.vaultError, h, hst, hclean, Bool.false_eq_true, if_false, reduceCtorEq]
  have hm := (logged_logError s .vault (addr / 4096 % 4) (f.gran * 4096 + addr % 4096) none).mem
  rw [heq]
  refine find_modFrame (f := { f with st := .evicting, evictNext := false }) (find_evict_clean ?_ hst ?_ ?_) _
  · rw [hm, h]
  · rw [hm, h1]
  · rw [hm, h2]

end Vault

end Sys2Proof.Machine
end

section
/-! SUPPORT. Device interfaces, ports that go down, and address translation services (R42, R44, R457, R458). -/

namespace Sys2Proof.Machine

/-! ### Interfaces that go to ERROR (R458) -/

/-- An interface that has met a test: in ERROR. -/
def Iface.failedIf (p : Iface → Bool) (i : Iface) : Iface := if i.st != .error && p i then { i with st := .error } else i

theorem Iface.failedIf_region (p : Iface → Bool) (i : Iface) : (i.failedIf p).region = i.region := by
  unfold Iface.failedIf
  split
  · rfl
  · rfl

/-- An interface that meets the test is in ERROR, whether it was before or not. -/
theorem Iface.failedIf_st {p : Iface → Bool} {i : Iface} (h : p i = true) : (i.failedIf p).st = .error := by
  unfold Iface.failedIf
  by_cases he : i.st = .error
  · rw [he]
    exact he
  · rw [h, Bool.and_true, if_pos (bne_iff_ne.2 he)]

/-- Interfaces that fail have their subtrees killed; registers and the rest of the host side stay. -/
theorem outside_ifaceError (s : State) (p : Iface → Bool) :
    (s.ifaceError p).outside = (s.reg, { s.io with ifaces := s.io.ifaces.map (Iface.failedIf p) }) :=
  foldl_keeps (step := fun (acc : State) (i : Iface) => acc.killRegion i.region)
    (fun acc i => outside_killRegion acc i.region) _ _

theorem reg_ifaceError (s : State) (p : Iface → Bool) : (s.ifaceError p).reg = s.reg :=
  congrArg Prod.fst (outside_ifaceError s p)

theorem io_ifaceError (s : State) (p : Iface → Bool) :
    (s.ifaceError p).io = { s.io with ifaces := s.io.ifaces.map (Iface.failedIf p) } :=
  congrArg Prod.snd (outside_ifaceError s p)

/-- Without interfaces nothing fails. -/
theorem ifaceError_unlocked {s : State} (h : Unlocked s) (p : Iface → Bool) : s.ifaceError p = s := by
  unfold Unlocked at h
  have hio : { s.io with ifaces := [] } = s.io := by rw [← h]
  simp only [State.ifaceError, h, List.filter_nil, List.map_nil, List.foldl_nil, hio]

/-- An interface whose captured bytes have changed is in ERROR (R458). -/
theorem checkCaptured_error {s : State} {x : Iface} (hx : x ∈ s.io.ifaces)
    (h : ∃ e ∈ x.seen, physRead s e.1 e.2.length ≠ e.2) :
    ∃ y ∈ s.checkCaptured.io.ifaces, y.region = x.region ∧ y.st = .error := by
  obtain ⟨e, he, hne⟩ := h
  rw [State.checkCaptured, io_ifaceError]
  exact ⟨_, List.mem_map_of_mem hx, Iface.failedIf_region _ x,
    Iface.failedIf_st (List.any_eq_true.2 ⟨e, he, bne_iff_ne.2 hne⟩)⟩

/-! ### A port that goes down (R457) -/

/-- A port's UP bit is clear (R447). -/
def portDown (s : State) (port : Nat) : State :=
  { s with reg := { s.reg with portcfg := clearBit s.reg.portcfg (4 + port % 4) } }

/-- An IDE failure that carried no access logs itself, clears the port's UP bit and fails interfaces. -/
theorem execIdeFailure_nil (s : State) (port : Nat) : ∃ t1 p, Logged .ide port 0 s t1 ∧
    execIdeFailure port [] s = .next ((portDown t1 port).ifaceError p) ∧
    (s.reg.portcfg.getLsbD (port % 4) = false → ∀ i, p i = true) := by
  refine ⟨s.logError .ide port 0 none, _, logged_logError s .ide port 0 none, rfl, fun hb i => ?_⟩
  have hall : s.servesAll port = true := by rw [State.servesAll, bitOf_eq_getLsbD, hb]; rfl
  rw [hall, Bool.true_or]

/-- After an IDE failure the port is down; in host attach every interface is in ERROR. -/
theorem ideFailure_effect (s : State) (port : Nat) : ∃ t : State, exec (.ideFailure port []) s = .next t ∧
    t.reg.portcfg.getLsbD (4 + port % 4) = false ∧ (Unlocked s → t.fibres = s.fibres) ∧
    (∃ clk, t.io.devLog = s.io.devLog ++ [⟨13, port, 0, clk⟩]) ∧
    (s.reg.portcfg.getLsbD (port % 4) = false → ∀ x ∈ t.io.ifaces, x.st = .error) := by
  obtain ⟨t1, p, hlog, heq, hall⟩ := execIdeFailure_nil s port
  refine ⟨_, heq, ?_, fun hu => ?_, ?_, fun hb x hx => ?_⟩
  · rw [reg_ifaceError]
    exact getLsbD_clearBit _ _
  · rw [ifaceError_unlocked (s := portDown t1 port) (hlog.ifaces.trans hu)]
    exact hlog.fibres
  · rw [io_ifaceError]
    exact hlog.entry
  · rw [io_ifaceError] at hx
    obtain ⟨y, _, rfl⟩ := List.mem_map.1 hx
    exact Iface.failedIf_st (hall hb y)

/-! ### LOCK, START and STOP (R458) -/

@[simp] theorem length_physRead (s : State) (a n : Nat) : (physRead s a n).length = n := by
  rw [physRead, List.length_map, List.length_range]

/-- What LOCK captures are bytes of memory as they stand. -/
theorem captured_current {s : State} {rgn : Nat} {e : Nat × List Byte} (h : e ∈ s.captured rgn) :
    e.2 = physRead s e.1 e.2.length := by
  simp only [State.captured, List.mem_append, List.mem_map, List.mem_flatMap] at h
  rcases h with ⟨r, _, rfl⟩ | ⟨r, _, f, _, rfl⟩
  · rw [length_physRead]
  · rw [length_physRead]

/-- LOCK captures the context entry of its region's address space. -/
theorem context_captured {s : State} {rgn : Nat} {r : Rcb} (h : s.rcb rgn = some r) :
    field s.reg.ctxbase 21 31 * 2 ^ 21 + 32 * r.asid.toNat ∈ (s.captured rgn).map (·.1) := by
  simp only [State.captured, h, Option.toList_some, List.map_cons, List.map_nil, List.map_append, List.cons_append]
  exact List.mem_cons_self

theorem lockInterfaceRequest_refused {s : State} {rgn : Nat} (h : s.rcb rgn = none ∨ s.lockedRegion rgn = true) :
    exec (.lockInterfaceRequest rgn) s = .next s := by
  refine if_pos ?_
  rcases h with h | h
  · rw [h]; rfl
  · rw [h, Bool.or_true]

theorem lockInterfaceRequest_locks {s : State} {rgn : Nat} (hr : s.rcb rgn ≠ none) (hl : s.lockedRegion rgn = false) :
    ∃ t : State, exec (.lockInterfaceRequest rgn) s = .next t ∧
      (∃ seen, t.io.ifaces = s.io.ifaces ++ [⟨rgn, .configLocked, false, seen⟩] ∧
        (∀ r, t.rcb rgn = some r →
          field s.reg.ctxbase 21 31 * 2 ^ 21 + 32 * r.asid.toNat ∈ seen.map (·.1)) ∧
        ∀ e ∈ seen, e.2 = physRead t e.1 e.2.length) ∧ t.fibres = s.fibres := by
  obtain ⟨r, hr⟩ := Option.ne_none_iff_exists'.1 hr
  have hset : s.modRcb rgn (fun r => r) = s.setRcb rgn r := by rw [State.modRcb, hr]
  have heq : exec (.lockInterfaceRequest rgn) s = .next { s.setRcb rgn r with io := { s.io with
      ifaces := s.io.ifaces ++ [⟨rgn, .configLocked, false, (s.setRcb rgn r).captured rgn⟩] } } := by
    simp only [exec_lockInterfaceRequest, execLockInterfaceRequest, hr, hl, hset, Option.isNone_some, Bool.or_false,
      Bool.false_eq_true, if_false]
    rfl
  refine ⟨_, heq, ⟨_, rfl, fun r' hr' => ?_, fun e he => ?_⟩, rfl⟩
  · exact context_captured (s := s.setRcb rgn r) hr'
  · exact captured_current (s := s.setRcb rgn r) he

theorem startInterfaceRequest_effect (s : State) (rgn : Nat) : ∃ t : State,
    exec (.startInterfaceRequest rgn) s = .next t ∧ t.fibres = s.fibres ∧
    ∀ (n : Nat) (x : Iface), s.io.ifaces[n]? = some x → ∃ y : Iface, t.io.ifaces[n]? = some y ∧ y.region = x.region ∧
      y.st = if x.region = rgn ∧ x.st = .configLocked then .run else x.st := by
  refine ⟨_, rfl, rfl, fun n x hx => ⟨_, by rw [State.modIface, List.getElem?_map, hx, Option.map_some], ?_⟩⟩
  by_cases hr : x.region = rgn
  · by_cases hs : x.st = .configLocked
    · rw [if_pos hr, if_pos hs, if_pos ⟨hr, hs⟩]
      exact ⟨rfl, rfl⟩
    · rw [if_pos hr, if_neg hs, if_neg fun h => hs h.2]
      exact ⟨rfl, rfl⟩
  · rw [if_neg hr, if_neg fun h => hr h.1]
    exact ⟨rfl, rfl⟩

/-- The tree of regions rests on registers and memories, not on the host side. -/
theorem ancestors_io (s : State) (io : HostSide) (k : Nat) : ∀ rgn,
    ({ s with io := io } : State).ancestors k rgn = s.ancestors k rgn := by
  induction k with
  | zero => exact fun rgn => rfl
  | succ k ih =>
    intro rgn
    have hp : ({ s with io := io } : State).parentOf rgn = s.parentOf rgn := rfl
    simp only [State.ancestors, hp, ih]

theorem inSubtree_io (s : State) (io : HostSide) (top rgn : Nat) :
    ({ s with io := io } : State).inSubtree top rgn = s.inSubtree top rgn :=
  congrArg (·.contains top) (ancestors_io s io _ rgn)

/-- After STOP an interface of the region is left only while a fibre of its subtree is placed. -/
theorem stopInterfaceRequest_effect (s : State) (rgn : Nat) : ∃ t : State,
    exec (.stopInterfaceRequest rgn) s = .next t ∧ t.fibres = s.fibres ∧
    ∀ x ∈ t.io.ifaces, x.region = rgn → ∃ e ∈ s.fibres, s.inSubtree rgn e.2.region = true := by
  refine ⟨_, rfl, rfl, fun x hx hr => ?_⟩
  obtain ⟨hmem, hbusy⟩ := List.mem_filter.1 hx
  obtain ⟨i, _, rfl⟩ := List.mem_map.1 hmem
  have hi : i.region = rgn := Decidable.byContradiction fun hne => by
    rw [if_neg hne] at hr
    exact hne hr
  rw [if_pos hi] at hbusy
  simp only [Bool.not_true, Bool.false_or, List.any_eq_true, State.modIface, inSubtree_io, hi] at hbusy
  exact hbusy

/-! ### The security engine (R455, R457) -/

/-- Measurement blocks 1 to 5 are answered one at a time. -/
theorem getMeasurements_block {i : Byte} (h : 1 ≤ i.toNat ∧ i.toNat ≤ 5) (s : State) :
    exec (.getMeasurements i) s = .next (s.answer (.measurements [(i.toNat, s.measurement i.toNat)])) := by
  have hne : i.toNat ≠ 255 := by omega
  simp only [exec_getMeasurements, execGetMeasurements, if_neg hne, if_pos (Or.inr h), List.map_cons, List.map_nil]

/-- A key exchange for a stream that a port does not have is an error. -/
theorem keyExchange_refused {port stream : Nat} (h : 4 ≤ port ∨ 4 ≤ stream) (point : BitVec 768) (s : State) :
    exec (.keyExchange port stream point) s = .next (s.answer .error) := if_pos h

/-- After a key exchange the port's stream has its key. -/
theorem keyExchange_keyed {port stream : Nat} (hp : port < 4) (hs : stream < 4) (point : BitVec 768) (s : State) :
    ∃ (u : State) (p : BitVec 768) (sig : BitVec 768), exec (.keyExchange port stream point) s = .next u ∧
      u.io.spdm = s.io.spdm ++ [.keyExchange stream p sig] ∧ port * 4 + stream ∈ u.io.streams ∧ u.mem = s.mem := by
  refine ⟨_, _, _, if_neg (by omega), rfl, ?_, rfl⟩
  simp only [State.answer]
  split
  · next h => exact List.contains_iff_mem.1 h
  · exact List.mem_append_right _ List.mem_cons_self

/-! ### Address translation services (R42, R44) -/

theorem atsInvalidationRequest_effect {s : State} (hb : s.barActive = true) (base len : Dword) :
    ∃ t : State, exec (.atsInvalidationRequest base len) s = .next t ∧ t.mem = s.mem ∧ t.fibres = s.fibres ∧
      t.xl.invDone = s.xl.invDone ++ [(base.toNat, len.toNat)] ∧
      ∀ e, e ∈ t.xl.atc ↔ e ∈ s.xl.atc ∧ ¬ (e.host < base.toNat + len.toNat ∧ base.toNat < e.host + 2 ^ e.log2) := by
  have hact : ¬ (!s.barActive) = true := by rw [hb]; exact Bool.false_ne_true
  refine ⟨_, if_neg hact, rfl, rfl, rfl, fun e => List.mem_filter.trans (and_congr_right' ?_)⟩
  simp only [overlap, Bool.not_eq_true', ← Bool.not_eq_true, Bool.and_eq_true, decide_eq_true_eq]

section Completion
variable {s : State} {asid : BitVec 16} {page host : Dword} {log2 : Nat} {read write fail : Bool}

/-- A request for the page's translation is outstanding. -/
theorem atsReq_any_iff : (s.xl.atsReq.any fun r => r.asid == asid && r.page == page.toNat) = true ↔
    ∃ r ∈ s.xl.atsReq, r.asid = asid ∧ r.page = page.toNat := by
  simp only [List.any_eq_true, Bool.and_eq_true, beq_iff_eq]

theorem atsCompletion_unasked (h : (∀ r ∈ s.xl.atsReq, r.asid = asid → r.page ≠ page.toNat) ∨ log2 < 12) :
    exec (.atsCompletion asid page host log2 read write fail) s = .next s := by
  refine if_neg fun hc => ?_
  obtain ⟨hany, hlog⟩ := hc
  obtain ⟨r, hr, ha, hp⟩ := atsReq_any_iff.1 hany
  rcases h with h | h
  · exact h r hr ha hp
  · omega

theorem atsCompletion_asked (h : ∃ r ∈ s.xl.atsReq, r.asid = asid ∧ r.page = page.toNat) (hlog : 12 ≤ log2)
    (hsub : s.co.subs = []) : exec (.atsCompletion asid page host log2 read write fail) s =
      .next { s with xl := { s.xl with
        atsReq := s.xl.atsReq.filter fun r => !(r.asid == asid && r.page == page.toNat)
        atc := ⟨asid, page.toNat, log2, host.toNat / 2 ^ log2 * 2 ^ log2, read, write, fail⟩ ::
          s.xl.atc.take 16383 } } := by
  refine (if_pos ⟨atsReq_any_iff.2 h, hlog⟩).trans ?_
  simp only [State.retrySubs, hsub, List.foldl_nil]

end Completion

/-! ### Errors, as the statement puts them together -/

theorem uncorrectableError_effect {s : State} {what : ErrPart} {place addr : Nat} (hv : what ≠ .vault)
    (hr : what = .registers → s.fibre (place * 128 + addr % 128) = none)
    (hg : what = .groupScratch → s.scratchOwner place addr = none) :
    ∃ t : State, exec (.uncorrectableError what place addr) s = .next t ∧
      (∃ clk, t.io.devLog = s.io.devLog ++ [⟨errIndex what, place, addr, clk⟩]) ∧
      (∀ i, Sparse.getZ t.reg.errcnt i = if i = 2 * errIndex what + 1 ∧ Sparse.getZ s.reg.errcnt i ≠ BitVec.allOnes 64
        then Sparse.getZ s.reg.errcnt i + 1 else Sparse.getZ s.reg.errcnt i) ∧
      t.reg.devstat.getLsbD 1 = true ∧ t.fibres = s.fibres ∧ t.mem = errorMem s.mem place addr what := by
  obtain ⟨t, hl, heq⟩ := exec_uncorrectableError_logged hv hr hg
  exact ⟨_, heq, hl.entry, fun i => (congrArg (Sparse.getZ · i) hl.count).trans (errcnt_countError s what true i), hl.err,
    hl.fibres, rfl⟩

end Sys2Proof.Machine

open Sys2Proof Sys2Proof.Machine

/-- Settles O55: an error is logged and then does what its structure's row says; what fails has its subtree killed, which
leaves registers and the host side as they are. -/
theorem errorsAndSecurity : Obligations.ErrorsAndSecurity := by
  unfold Obligations.ErrorsAndSecurity
  refine ⟨fun s base len hb => atsInvalidationRequest_effect hb base len,
    fun s asid page host log2 read write fail => ⟨atsCompletion_unasked, atsCompletion_asked⟩,
    fun s what place addr => ⟨_, rfl, rfl, rfl, errcnt_countError s what false⟩,
    ?uncorrectable, ?vault, ideFailure_effect, ?engine, ?interfaces⟩
  case uncorrectable =>
    intro s what place addr hv hr hg
    obtain ⟨t, heq, hlog, hcount, herr, hfib, hmem⟩ := uncorrectableError_effect hv hr hg
    refine ⟨t, heq, hlog, hcount, herr, hfib, ?_⟩
    rw [hmem]
    refine ⟨?_, ?_, ?_, ?_, ?_, ?_⟩
    · rintro rfl
      exact mem_smp_errorMem s.mem place addr
    · rintro rfl f hf
      exact frame_errorMem_homeCache s.mem place addr hf
    · rintro rfl hl
      exact errorMem_coreL1_clean s.mem place addr hl
    · rintro rfl
      rfl
    · rintro rfl
      exact ⟨find_ccache_ccOut _ place (addr / 128), l1_ccOut _ place (addr / 128)⟩
    · rintro (⟨n, rfl⟩ | rfl | rfl)
      · rfl
      · rfl
      · rfl
  case vault =>
    intro s addr
    refine ⟨rfl, _, rfl, vaultError_logged s addr, fun f hf => ⟨?_, fun hst hd h1 h2 => ?_⟩⟩
    · have hbit : (setBit f.poison (addr / 64 % 64)).getLsbD (addr / 64 % 64) = true := by
        rw [getLsbD_setBit _ (Nat.mod_lt _ (by decide)), decide_eq_true rfl, Bool.or_true]
      rintro (hst | ⟨hst, hd⟩)
      · exact ⟨_, frame_vaultError_pinned hf hst, hbit, rfl⟩
      · exact ⟨_, frame_vaultError_dirty hf hst hd, hbit, rfl⟩
    · exact ⟨_, frame_vaultError_clean hf hst hd h1 h2, rfl, rfl⟩
  case engine =>
    intro s port stream point nonce ea sh o l i t ht
    subst ht
    refine ⟨rfl, ⟨_, rfl⟩, ?_, ⟨_, rfl⟩, ⟨_, rfl, ?_⟩, ⟨_, _, rfl, rfl, rfl, rfl⟩,
      fun h => ⟨_, getMeasurements_block h s⟩, fun h => keyExchange_refused h point s,
      fun hp hs => keyExchange_keyed hp hs point s⟩
    · cases ea <;> cases sh <;> rfl
    · rw [List.length_map, List.length_range]
  case interfaces =>
    intro s rgn
    exact ⟨lockInterfaceRequest_refused, lockInterfaceRequest_locks, fun x hx h => checkCaptured_error hx h,
      startInterfaceRequest_effect s rgn, stopInterfaceRequest_effect s rgn⟩

end

section
/-! SUPPORT. The machine right after reset (R460). -/

open Sys2Proof Sys2Proof.Machine

/-- Settles O58: every map of the reset state is empty, so that each register reads as its table's reset value. -/
theorem resetState : Obligations.ResetState := by
  unfold Obligations.ResetState
  have hpurse : ∀ c, State.reset.purse c = purseReset := fun _ => rfl
  have hqueue : ∀ q, State.reset.queue q = Queue.reset := fun _ => rfl
  have hallow : field purseReset 32 24 = 0x10000 := by decide
  have hbal : field purseReset 0 32 = 0x20000 := by decide
  exact ⟨rfl, rfl, rfl, rfl, rfl, rfl, rfl, rfl, fun c => by rw [hpurse]; exact ⟨hallow, hbal⟩, fun _ => rfl,
    fun _ => ⟨rfl, rfl⟩, fun q => by rw [hqueue]; exact ⟨rfl, rfl⟩, fun _ => rfl, fun _ => rfl, rfl, rfl, rfl, rfl,
    wf_reset⟩

end

section
/-! SUPPORT. Scale codes, and the additions of the integer accumulator (R109, R113). -/

namespace Sys2Proof.Machine

/-! ### Scale codes (R109) -/

theorem scaleValue_of_lt {c : Nat} (h : c < 4) : scaleValue c = (c, -128) := by
  rw [scaleValue, if_pos (Nat.div_eq_of_lt h), Nat.mod_eq_of_lt h]

theorem scaleValue_of_le {c : Nat} (h : 4 ≤ c) : scaleValue c = (4 + c % 4, ((c / 4 : Nat) - 129 : Int)) :=
  if_neg (by omega)

theorem scaledVal_zero (n : Bool) (m : Nat) (e : Int) : scaledVal 0 (.fin n m e) = Val.zero := rfl

/-- A finite element takes the code's magnitude and power of two. -/
theorem scaledVal_fin {c : Nat} (h0 : 1 ≤ c) (h1 : c ≤ 0x3FB) (n : Bool) (m : Nat) (e : Int) :
    scaledVal c (.fin n m e) = .fin n (m * (scaleValue c).1) (e + (scaleValue c).2) := by
  rw [scaledVal, if_neg (by omega), if_neg (by omega)]

theorem isNaN_scaledVal {c : Nat} (h : 0x3FC ≤ c) (v : Val) : (scaledVal c v).isNaN = true := by
  cases v with
  | fin n m e => rw [scaledVal, if_neg (by omega), if_pos h]; rfl
  | inf n => rw [scaledVal, if_pos (.inr h)]; rfl
  | nan n s f => rfl

/-- The value of a scale code in units of 2^−128, the value of code 1. -/
def scaleUnits (c : Nat) : Nat := (scaleValue c).1 * 2 ^ ((scaleValue c).2 + 128).toNat

theorem scaleUnits_of_lt {c : Nat} (h : c < 4) : scaleUnits c = c := by
  rw [scaleUnits, scaleValue_of_lt h]
  exact Nat.mul_one c

theorem scaleUnits_octave (k : Nat) {r : Nat} (h : r < 4) : scaleUnits (4 * (k + 1) + r) = (4 + r) * 2 ^ k := by
  have hmod : (4 * (k + 1) + r) % 4 = r := by omega
  have hexp : (((4 * (k + 1) + r) / 4 : Nat) - 129 + 128 : Int).toNat = k := by omega
  rw [scaleUnits, scaleValue_of_le (by omega), hmod, hexp]

/-- The next code is one quarter of its octave's power of two further, or begins the next octave. -/
theorem scaleUnits_lt_succ (c : Nat) : scaleUnits c < scaleUnits (c + 1) := by
  by_cases hc : c < 4
  · rw [scaleUnits_of_lt hc]
    rcases Nat.lt_succ_iff_lt_or_eq.1 hc with h3 | rfl
    · rw [scaleUnits_of_lt (by omega)]
      exact Nat.lt_succ_self c
    · rw [scaleUnits_octave 0 (r := 0) (by decide)]
      decide
  · obtain ⟨k, r, hr, rfl⟩ : ∃ k r, r < 4 ∧ c = 4 * (k + 1) + r := ⟨c / 4 - 1, c % 4, by omega, by omega⟩
    have hpos : 0 < 2 ^ k := Nat.two_pow_pos k
    rw [scaleUnits_octave k hr]
    rcases Nat.lt_succ_iff_lt_or_eq.1 hr with h3 | rfl
    · rw [Nat.add_assoc, scaleUnits_octave k (by omega)]
      exact Nat.mul_lt_mul_of_pos_right (by omega) hpos
    · rw [show 4 * (k + 1) + 3 + 1 = 4 * (k + 1 + 1) + 0 by omega, scaleUnits_octave (k + 1) (by decide)]
      omega

/-! ### The integer accumulator (R113) -/

/-- The two's-complement reading is the balanced remainder. -/
theorem signedOf_eq_bmod (w b : Nat) : signedOf (w + 1) b = Int.bmod b (2 ^ (w + 1)) := by
  have hpow : ((2 ^ (w + 1) : Nat) : Int) = 2 ^ (w + 1) := Int.natCast_pow 2 (w + 1)
  have hhalf : ((2 ^ (w + 1) : Nat) + 1 : Int) / 2 = (2 ^ w : Nat) := by omega
  rw [Int.bmod_def, hhalf, ← Int.natCast_emod, hpow, signedOf, Nat.add_sub_cancel]
  by_cases hb : 2 ^ w ≤ b % 2 ^ (w + 1)
  · rw [if_pos hb, if_neg (by omega)]
  · rw [if_neg hb, if_pos (by omega)]

theorem clampInt_eq_max_min {lo hi : Int} (h : lo ≤ hi) (n : Int) : clampInt lo hi n = max lo (min hi n) := by
  unfold clampInt
  split
  · omega
  · split
    · omega
    · omega

/-- What an addition stores: the sum, clamped under SAT, modulo 2^96. -/
theorem signedOf_addA96i (sat : Bool) (c : Nat) (p : Int) : signedOf 96 (addA96i sat c p) =
    Int.bmod (if sat then clampInt (-(2 ^ 95)) (2 ^ 95 - 1) (signedOf 96 c + p) else signedOf 96 c + p) (2 ^ 96) := by
  rw [signedOf_eq_bmod 95, addA96i, Int.toNat_of_nonneg (Int.emod_nonneg _ (by decide))]
  exact Int.emod_bmod _ (2 ^ 96)

theorem addA96i_lt (sat : Bool) (c : Nat) (p : Int) : addA96i sat c p < 2 ^ 96 :=
  (Int.toNat_lt (Int.emod_nonneg _ (by decide))).2 (Int.emod_lt_of_pos _ (by decide))

theorem signedOf_addA96i_wraps (c : Nat) (p : Int) :
    signedOf 96 (addA96i false c p) = Int.bmod (signedOf 96 c + p) (2 ^ 96) := signedOf_addA96i false c p

theorem signedOf_addA96i_clamps (c : Nat) (p : Int) :
    signedOf 96 (addA96i true c p) = max (-(2 ^ 95)) (min (2 ^ 95 - 1) (signedOf 96 c + p)) := by
  rw [signedOf_addA96i, if_pos rfl, clampInt_eq_max_min (by decide)]
  exact Int.bmod_eq_of_le (by omega) (by omega)

end Sys2Proof.Machine

open Sys2Proof Sys2Proof.Machine

/-- Settles O32: a code of an octave is 4, 5, 6 or 7 quarters of its power of two, so that the next one is larger. -/
theorem scaleCodes : Obligations.ScaleCodes := by
  unfold Obligations.ScaleCodes
  refine ⟨fun n m e v c => ⟨scaledVal_zero n m e, fun h1 h3 => ?_, fun h4 h => ?_, fun h => isNaN_scaledVal h v⟩,
    fun c m1 m2 e1 e2 _ _ hc hsucc => ?_, rfl, rfl⟩
  · rw [scaledVal_fin h1 (by omega), scaleValue_of_lt (by omega)]
    rfl
  · have hexp : e + ((c / 4 : Nat) - 129) = e + ((c / 4 : Nat) - 127) - 2 := by omega
    rw [scaledVal_fin (by omega) h, scaleValue_of_le h4, hexp]
  · have hlt := scaleUnits_lt_succ c
    rw [scaleUnits, scaleUnits, hc, hsucc] at hlt
    exact hlt

/-- Settles O33: the stored sum is a remainder modulo 2^96, which a clamped sum is already. -/
theorem integerAccumulator : Obligations.IntegerAccumulator := by
  unfold Obligations.IntegerAccumulator
  rintro sat c x y fl p f k a t n - rfl
  refine ⟨rfl, addA96i_lt sat c _, ?_, rfl⟩
  cases sat with
  | false => exact signedOf_addA96i_wraps c _
  | true => exact signedOf_addA96i_clamps c _

end

section
/-! SUPPORT. The matrix engine: the arithmetic of the float class (R121, R122), and how commands and batches start, end
and move (R337 to R339, R349). -/

namespace Sys2Proof.Machine

/-! ### Products and sums under A96F (R121, R122) -/

/-- A step under A96F adds the product and collects the flags of both operations. -/
theorem mxStep_float (sat : Bool) (c fl : Nat) (ab : Option Val × Option Val) : mxStep true sat (c, fl) ab =
    ((add81 c (mxProduct ab.1 ab.2).1).1, fl ||| ((mxProduct ab.1 ab.2).2 ||| (add81 c (mxProduct ab.1 ab.2).1).2)) :=
  rfl

/-- An invalid product makes the sum the canonical NaN, without a flag of its own. -/
theorem add81_invalid {c : Nat} (h : (a96f.read c).isNaN = false) : add81 c Val.invalid = (a96f.canonicalNaN, 0) := by
  unfold add81
  cases hv : a96f.read c with
  | fin n m e => rfl
  | inf n => rfl
  | nan n s f => rw [hv] at h; exact absurd h.symm Bool.false_ne_true

theorem mxStep_of_invalid (sat : Bool) {c fl f : Nat} {ab : Option Val × Option Val} (h : (a96f.read c).isNaN = false)
    (hp : mxProduct ab.1 ab.2 = (Val.invalid, f)) : mxStep true sat (c, fl) ab = (a96f.canonicalNaN, fl ||| f) := by
  rw [mxStep_float, hp, add81_invalid h, Nat.or_zero]

theorem mxProduct_isNaN {x y : Val} (h : x.isNaN = true ∨ y.isNaN = true) :
    mxProduct (some x) (some y) = (Val.invalid, 0) := if_pos (Bool.or_eq_true_iff.2 h)

/-- A bad operand, and zero times infinity. -/
theorem mxProduct_invalid (z : Bool) (x : Val) : ∀ ab ∈ [(none, some x), (some x, none), (none, none),
    (some (.inf z), some Val.zero), (some Val.zero, some (.inf z))],
    mxProduct ab.1 ab.2 = (Val.invalid, flagInvalid) := by
  simp only [List.forall_mem_cons, List.not_mem_nil, false_imp_iff, implies_true, and_true]
  exact ⟨rfl, rfl, rfl, rfl, rfl⟩

/-- A product that is not zero is exact. -/
theorem mxProduct_fin {m1 m2 : Nat} (h : m1 * m2 ≠ 0) (n1 n2 : Bool) (e1 e2 : Int) :
    mxProduct (some (.fin n1 m1 e1)) (some (.fin n2 m2 e2)) = (.fin (n1 != n2) (m1 * m2) (e1 + e2), 0) := by
  obtain ⟨k, hk⟩ := Nat.exists_eq_succ_of_ne_zero h
  have hmul : Val.mul (.fin n1 m1 e1) (.fin n2 m2 e2) = (.fin (n1 != n2) (m1 * m2) (e1 + e2), 0) := rfl
  have hz : Val.isZero (.fin (n1 != n2) (m1 * m2) (e1 + e2)) = false := by rw [hk]; rfl
  simp only [mxProduct, Val.isNaN, hmul, hz, Bool.or_self, Bool.false_eq_true, if_false]

theorem signedMag_mul_two_pow (n : Bool) (m k : Nat) : signedMag n (m * 2 ^ k) = signedMag n m * 2 ^ k := by
  have hcast : ((m * 2 ^ k : Nat) : Int) = m * 2 ^ k :=
    (Int.natCast_mul m (2 ^ k)).trans (congrArg ((m : Int) * ·) (Int.natCast_pow 2 k))
  cases n with
  | false => exact hcast
  | true => exact (congrArg Neg.neg hcast).trans (Int.neg_mul _ _).symm

/-- The exact sum stands at the lower of both exponents. -/
theorem addFin_eq (n1 n2 : Bool) (m1 m2 : Nat) (e1 e2 : Int) : addFin n1 m1 e1 n2 m2 e2 =
    (signedMag n1 m1 * 2 ^ (e1 - min e1 e2).toNat + signedMag n2 m2 * 2 ^ (e2 - min e1 e2).toNat, min e1 e2) := by
  have hone : ∀ x : Int, x * 2 ^ 0 = x := Int.mul_one
  unfold addFin alignVals
  by_cases h : e1 ≤ e2
  · have hmin : min e1 e2 = e1 := by omega
    have hzero : (e1 - e1).toNat = 0 := by omega
    rw [if_pos h, hmin, hzero, hone]
    exact congrArg (signedMag n1 m1 + ·, e1) (signedMag_mul_two_pow ..)
  · have hmin : min e1 e2 = e2 := by omega
    have hzero : (e2 - e2).toNat = 0 := by omega
    rw [if_neg h, hmin, hzero, hone]
    exact congrArg (· + signedMag n2 m2, e2) (signedMag_mul_two_pow ..)

/-- The exact sum is rounded once; an exact cancellation is +0. -/
theorem add81_fin {c : Nat} {n0 : Bool} {m0 : Nat} {e0 : Int} (hc : a96f.read c = .fin n0 m0 e0) (n : Bool) (m : Nat)
    (e : Int) {sum low : Int} (h : addFin n0 m0 e0 n m e = (sum, low)) : (add81 c (.fin n m e)).1 =
      if sum = 0 then 0 else (a96f.round false Rctx.plain (.fin (decide (sum < 0)) sum.natAbs low)).1 := by
  have hadd : Val.add Rctx.plain (.fin n0 m0 e0) (.fin n m e) = if sum = 0
      then (zeroSum Rctx.plain n0 n (m0 == 0 && m == 0), 0) else (.fin (decide (sum < 0)) sum.natAbs low, 0) := by
    simp only [Val.add, firstNaN, h]
  unfold add81
  rw [hc, hadd]
  by_cases hs : sum = 0
  · have hz : (zeroSum Rctx.plain n0 n (m0 == 0 && m == 0)).isZero = true := by
      rw [zeroSum]
      split
      · rfl
      · rfl
    rw [if_pos hs, if_pos hs]
    simp only [hz, if_true]
    decide
  · obtain ⟨k, hk⟩ := Nat.exists_eq_succ_of_ne_zero (Int.natAbs_ne_zero.2 hs)
    have hz : Val.isZero (.fin (decide (sum < 0)) sum.natAbs low) = false := by rw [hk]; rfl
    rw [if_neg hs, if_neg hs]
    simp only [hz, Bool.false_eq_true, if_false]

/-! ### Commands -/

theorem mxCmd_eq_some {s : State} {id : Nat} {o : Op} {c : MxCmd} (h : s.mxCmd id = some (o, c)) :
    Sparse.find s.eng.ops id = some o ∧ o.body = .matrix c := by
  unfold State.mxCmd at h
  split at h
  · next o' ho =>
    split at h
    · next c' hb =>
      obtain ⟨rfl, rfl⟩ := Prod.mk.inj (Option.some.inj h)
      exact ⟨ho, hb⟩
    · exact absurd h (Option.some_ne_none _).symm
  · exact absurd h (Option.some_ne_none _).symm

theorem mxCmd_modCmd {s : State} {id : Nat} {o : Op} {c : MxCmd} (h : s.mxCmd id = some (o, c)) (g : MxCmd → MxCmd) :
    (s.modCmd id g).mxCmd id = some ({ o with body := .matrix (g c) }, g c) := by
  obtain ⟨ho, hb⟩ := mxCmd_eq_some h
  have hfind : Sparse.find (s.modCmd id g).eng.ops id = some { o with body := .matrix (g c) } := by
    rw [State.modCmd, State.modOp, Sparse.find_adjust, if_pos rfl, ho, Option.map_some, hb]
  rw [State.mxCmd, hfind]

theorem cmdDone_of_mxCmd {s : State} {id : Nat} {o : Op} {c : MxCmd} (h : s.mxCmd id = some (o, c)) :
    s.cmdDone id = (c.phase == .complete) := by rw [State.cmdDone, h]

section Command
variable {s : State} {id : Nat} {o : Op} {c : MxCmd}

theorem matrixCommandStart_starts (h : s.mxCmd id = some (o, c)) (hp : c.phase = .queued ∨ c.phase = .started)
    (hr : s.recorded id = false) (hb : s.mxBlocked id o c = false) :
    exec (.matrixCommandStart id) s = .next (runMatrix s id false) := by
  rw [exec_matrixCommandStart, execMatrixCommandStart, h]
  exact if_pos ⟨hp, hr, hb⟩

theorem matrixCommandStart_idle (h : s.mxCmd id = some (o, c)) (hq : c.phase ≠ .queued) (hs : c.phase ≠ .started) :
    exec (.matrixCommandStart id) s = .next s := by
  rw [exec_matrixCommandStart, execMatrixCommandStart, h]
  exact if_neg fun hc => hc.1.elim hq hs

theorem matrixCommandComplete_idle (h : s.mxCmd id = some (o, c)) (hp : c.phase ≠ .computed) :
    exec (.matrixCommandComplete id) s = .next s := by
  rw [exec_matrixCommandComplete, execMatrixCommandComplete, h]
  exact if_neg hp

/-- A computed command is complete, and then its fibre's batches are looked at. -/
theorem matrixCommandComplete_completes {t : State} (h : s.mxCmd id = some (o, c)) (hp : c.phase = .computed)
    (ht : t = s.modCmd id (fun c => { c with phase := .complete })) :
    exec (.matrixCommandComplete id) s = .next (t.settleBatches o.loc t.co.batches.length) := by
  rw [exec_matrixCommandComplete, execMatrixCommandComplete, h, ht]
  exact if_pos hp

end Command

/-! ### Tiles -/

/-- Elements that are made zero read zero; the others stay. -/
theorem getZ_putTile_zero {l : List (Nat × Nat)} (hl : ∀ e ∈ l, e.2 = 0) (n : Nat) : ∀ m : Sparse (BitVec 96),
    Sparse.getZ (putTile m l) n = if n ∈ l.map (·.1) then 0 else Sparse.getZ m n := by
  induction l with
  | nil => exact fun m => rfl
  | cons e l ih =>
    obtain ⟨he, hl⟩ := List.forall_mem_cons.1 hl
    intro m
    have hstep : putTile m (e :: l) = putTile (Sparse.setZ m e.1 (BitVec.ofNat 96 e.2)) l := rfl
    rw [hstep, ih hl, he]
    simp only [Sparse.getZ, Sparse.setZ, Sparse.get_set, List.map_cons, List.mem_cons]
    by_cases hmem : n ∈ l.map (·.1)
    · rw [if_pos hmem, if_pos (.inr hmem)]
    · simp only [hmem, if_false, or_false]
      rfl

/-- What MZERO writes: the 1024 elements of its tile. -/
theorem getZ_putTile_tile (m : Sparse (BitVec 96)) (tile n : Nat) :
    Sparse.getZ (putTile m ((List.range 1024).map fun k => (tile * 1024 + k, 0))) n =
      if n / 1024 = tile then 0 else Sparse.getZ m n := by
  have hzero : ∀ e ∈ (List.range 1024).map fun k => (tile * 1024 + k, 0), e.2 = 0 := by
    intro e he
    obtain ⟨k, -, rfl⟩ := List.mem_map.1 he
    rfl
  have hmem : n ∈ ((List.range 1024).map fun k => (tile * 1024 + k, 0)).map (·.1) ↔ n / 1024 = tile := by
    simp only [List.map_map, List.mem_map, List.mem_range, Function.comp_apply]
    exact ⟨fun ⟨k, hk, hn⟩ => by omega, fun hn => ⟨n % 1024, by omega, by omega⟩⟩
  rw [getZ_putTile_zero hzero]
  by_cases hn : n / 1024 = tile
  · rw [if_pos (hmem.2 hn), if_pos hn]
  · rw [if_neg fun h => hn (hmem.1 h), if_neg hn]

/-- A change that makes elements zero does so in a slot; where there is no slot, every element reads zero before and
after it. -/
theorem getZ_tile_modSlot {g : Sparse (BitVec 96) → Sparse (BitVec 96)} {n : Nat} {p : Prop} [Decidable p]
    (hg : ∀ m, Sparse.getZ (g m) n = if p then 0 else Sparse.getZ m n) (s : State) (loc : Nat) :
    Sparse.getZ ((s.modSlot loc fun sl => { sl with tile := g sl.tile }).slot loc).tile n =
      if p then 0 else Sparse.getZ (s.slot loc).tile n := by
  simp only [State.slot, State.modSlot, Sparse.find_adjust, if_true]
  cases Sparse.find s.slots (slotOf loc) with
  | none => exact (ite_self (0 : BitVec 96)).symm
  | some sl => exact hg sl.tile

/-- A thread without an access left answers its result; of the machine only the operation's logs may change. -/
theorem runThread_ret {α : Type} {s : State} {id : Nat} {o : Op} (h : Sparse.find s.eng.ops id = some o) (key : Nat)
    (a : α) : ∃ t, runThread s id key (.ret a) = (.done a, t) ∧ t.slots = s.slots ∧ t.eng.recs = s.eng.recs := by
  unfold runThread
  rw [h]
  refine ⟨_, rfl, ?_, ?_⟩
  · split
    · rfl
    · rfl
  · split
    · rfl
    · rfl

/-- A record that is not there is not freed. -/
theorem freeRecord_of_none {s : State} {id : Nat} (h : s.recordOf id = none) : s.freeRecord id = s := by
  rw [State.freeRecord, h]

/-- MZERO makes its tile zero and leaves the other tiles of its slot (R349). -/
theorem tile_runMatrix_mzero {s : State} {id : Nat} {o : Op} {c : MxCmd} (h : s.mxCmd id = some (o, c))
    (hk : c.kind = .mzero) (hr : s.recordOf id = none) (k : Nat) :
    Sparse.getZ ((runMatrix s id false).slot o.loc).tile k =
      if k / 1024 = c.tile then 0 else Sparse.getZ (s.slot o.loc).tile k := by
  have hprog : mxProg s o c = .ret ((List.range 1024).map fun k => (c.tile * 1024 + k, 0), 0) := by rw [mxProg, hk]
  obtain ⟨t, hrun, hslots, hrecs⟩ := runThread_ret (mxCmd_eq_some h).1 0
    (((List.range 1024).map fun k => (c.tile * 1024 + k, 0), 0) : MxResult)
  have hslot : t.slot o.loc = s.slot o.loc := by rw [State.slot, hslots, State.slot]
  rw [← hslot, ← getZ_tile_modSlot fun m => getZ_putTile_tile m c.tile k]
  simp only [runMatrix, h, hprog, hrun]
  rw [freeRecord_of_none]
  · rfl
  · exact (congrArg (List.find? _) hrecs).trans hr

/-! ### Batches (R337, R339) -/

/-- A batch with a command that has not completed goes on. -/
theorem settleBatches_unfinished {s : State} {loc : Nat} {b : Batch}
    (hf : s.co.batches.find? (fun b => b.loc = loc) = some b) (h : b.ops.all s.cmdDone = false) (n : Nat) :
    s.settleBatches loc n = s := by
  cases n with
  | zero => rfl
  | succ n => simp only [State.settleBatches, hf, h, Bool.false_eq_true, if_false]

/-- The only batch there is completes with its last command. -/
theorem settleBatches_finished {s : State} {loc : Nat} {b : Batch} (hb : s.co.batches = [b]) (hl : b.loc = loc)
    (h : b.ops.all s.cmdDone = true) : s.settleBatches loc s.co.batches.length = s.endBatch b := by
  have hf : s.co.batches.find? (fun b => b.loc = loc) = some b := by
    rw [hb]
    exact List.find?_cons_of_pos (decide_eq_true hl)
  rw [hb]
  simp only [State.settleBatches, List.length_singleton, hf, h, if_true]

theorem batchMigration_moves {s : State} {id engine : Nat} {b : Batch}
    (hb : s.co.batches.find? (fun b => b.ops.contains id) = some b)
    (hfirst : s.co.batches.find? (fun x => x.engine = b.engine ∧ x.ops ≠ []) = some b)
    (hops : ∀ n ∈ b.ops, ∃ o c, s.mxCmd n = some (o, c) ∧ c.phase = .queued ∧ c.kind.migrates = true)
    (hcluster : engine / 16 = b.engine / 16) (hlt : engine < 4 * Config.cores)
    (hidle : ∀ x ∈ s.co.batches, x.engine ≠ engine) :
    exec (.batchMigration id engine) s = .next { s with co := { s.co with
      batches := s.co.batches.map fun x => if x = b then { x with engine := engine } else x } } := by
  rw [exec_batchMigration, execBatchMigration, hb]
  refine if_pos ⟨hfirst, List.all_eq_true.2 fun n hn => ?_, hcluster, hlt, List.any_eq_false.2 fun x hx => ?_⟩
  · obtain ⟨o, c, hc, hq, hm⟩ := hops n hn
    simp only [hc, hq, hm, beq_self_eq_true, Bool.and_self]
  · exact fun he => hidle x hx (beq_iff_eq.1 he)

end Sys2Proof.Machine

open Sys2Proof Sys2Proof.Machine

/-- Settles O31: a NaN, a bad operand and zero times infinity make the invalid product, whose sum is the canonical NaN,
and a finite product that is not zero enters the sum exactly; a command or batch that starts, completes or moves does so
by the model's one equation for that event. -/
theorem matrixEngine : Obligations.MatrixEngine := by
  unfold Obligations.MatrixEngine
  refine ⟨fun sat z c fl x y hc => ⟨fun h => ?nan, fun ab hab => ?invalid, ?finite⟩,
    fun s id o c t hcmd => ⟨fun hp hr hb => ⟨matrixCommandStart_starts hcmd hp hr hb,
      fun hk hrec => tile_runMatrix_mzero hcmd hk hrec⟩, matrixCommandStart_idle hcmd, matrixCommandComplete_idle hcmd,
      fun ht hp => ⟨?done, fun b hf hall => ?unfinished, fun b hbs hl hall => ?finished⟩,
      fun b engine => batchMigration_moves⟩⟩
  case nan => rw [mxStep_of_invalid sat hc (mxProduct_isNaN h), Nat.or_zero]
  case invalid =>
    rw [mxStep_of_invalid sat hc (mxProduct_invalid z x ab hab)]
    exact ⟨rfl, rfl⟩
  case finite =>
    rintro n0 n1 n2 m0 m1 m2 e0 e1 e2 e sum h0 rfl rfl hne rfl rfl
    rw [mxStep_float, mxProduct_fin hne]
    exact add81_fin h0 _ _ _ (addFin_eq ..)
  case done =>
    rw [ht, cmdDone_of_mxCmd (mxCmd_modCmd hcmd _)]
    rfl
  case unfinished => rw [matrixCommandComplete_completes hcmd hp ht, settleBatches_unfinished hf hall]
  case finished => rw [matrixCommandComplete_completes hcmd hp ht, settleBatches_finished hbs hl hall]

end

section
/-! SUPPORT. Barriers: how an arrival runs (R136, R142), what completes a phase of a fibre barrier (R393), and the named
barriers of a group (R395, R396). -/

namespace Sys2Proof.Machine

/-! ### Arrivals (R136, R142) -/

/-- A fibre without an access under way has no read to perform before it arrives. -/
theorem readFirst_of_quiet {s : State} {loc : Nat} (h : s.lsuWaits loc (fun _ => true) = false) :
    s.readFirst loc = s := by
  simp only [State.lsuWaits, List.any_eq_false, Bool.and_true] at h
  have hnone : (s.eng.ops.filter fun e => e.2.loc == loc && e.2.body.isLsu && !e.2.finished && !s.recorded e.1) = [] := by
    rw [List.filter_eq_nil_iff]
    exact fun e he hp => h e he (Bool.and_eq_true_iff.1 hp).1
  simp only [State.readFirst, hnone, List.foldl_nil]

/-- A fibre without an access under way has none of any kind. -/
theorem lsuWaits_of_quiet {s : State} {loc : Nat} (h : s.lsuWaits loc (fun _ => true) = false) (p : Op → Bool) :
    s.lsuWaits loc p = false := by
  simp only [State.lsuWaits, List.any_eq_false, Bool.and_true] at h ⊢
  exact fun e he hp => h e he (Bool.and_eq_true_iff.1 hp).1

section Arrival
variable {s : State} {arrive : State → Act} {h : Fibre}

/-- An arrival waits for the fibre's stores that have not been performed. -/
theorem arrival_waits (hw : s.lsuWaits s.cur (fun o => !o.reads) = true) : arrival s arrive = .stall := if_pos hw

/-- A read that parks the fibre takes the arrival back. -/
theorem arrival_parked (hw : s.lsuWaits s.cur (fun o => !o.reads) = false)
    (hf : (s.readFirst s.cur).fibre s.cur = some h) (hp : h.st = .parked) :
    arrival s arrive = .moved (s.readFirst s.cur) := by
  simp only [arrival, hw, hf, hp, Bool.false_eq_true, if_false, if_true]

/-- An arrival waits for the reads that cannot be performed yet. -/
theorem arrival_reading (hw : s.lsuWaits s.cur (fun o => !o.reads) = false)
    (hf : (s.readFirst s.cur).fibre s.cur = some h) (hp : h.st ≠ .parked)
    (hr : (s.readFirst s.cur).lsuWaits s.cur (fun _ => true) = true) :
    arrival s arrive = .stallWith (s.readFirst s.cur) := by
  simp only [arrival, hw, hf, hp, hr, Bool.false_eq_true, if_false, if_true]

/-- A fibre whose accesses have been performed arrives. -/
theorem arrival_made (hw : s.lsuWaits s.cur (fun o => !o.reads) = false)
    (hf : (s.readFirst s.cur).fibre s.cur = some h) (hp : h.st ≠ .parked)
    (hr : (s.readFirst s.cur).lsuWaits s.cur (fun _ => true) = false) :
    arrival s arrive = arrive (s.readFirst s.cur) := by
  simp only [arrival, hw, hf, hp, hr, Bool.false_eq_true, if_false]

/-- A fibre without an access under way arrives at once. -/
theorem arrival_quiet (hq : s.lsuWaits s.cur (fun _ => true) = false) (hf : Issues s h) (hp : h.st ≠ .parked) :
    arrival s arrive = arrive s := by
  have hu := readFirst_of_quiet hq
  rw [arrival_made (lsuWaits_of_quiet hq _) (hu.symm ▸ hf) hp (hu.symm ▸ hq), hu]

end Arrival

/-! ### Fibre barriers (R393) -/

theorem fbarPhase_of_find {s : State} {b : Nat} {x : FBar} (hx : Sparse.find (s.slot s.cur).fbar b = some x)
    (hm : bitOf x.mask (fidOf s.cur) = true) : s.fbarPhase b = some x.phase := by
  simp only [State.fbarPhase, hx, hm, if_true]

/-- A fibre outside the mask raises ILL. -/
theorem withFbar_outside {s : State} {f : Fibre} {b : Nat} (hf : Issues s f) (h : s.fbarPhase b = none)
    (body : Fibre → Nat → Act) : withFbar s b body = .next (s.takeTrap (illTrap 6)) := by
  simp only [withFbar, runFibre_of _ hf, h, Act.finish]

/-- A participant runs the instruction with the phase count. -/
theorem withFbar_inside {s : State} {f : Fibre} {b p : Nat} (hf : Issues s f) (h : s.fbarPhase b = some p)
    (body : Fibre → Nat → Act) : withFbar s b body = .next ((body f p).finish s) := by
  simp only [withFbar, runFibre_of _ hf, h]

/-- Every participant of a barrier in the slot of `loc` has arrived at its phase, is EXITING or has left (R393, R431). -/
def State.allArrived (s : State) (loc b : Nat) (x : FBar) : Prop :=
  ∀ i, i < 4 → bitOf x.mask i = true → ∀ g, s.fibre (loc / 4 * 4 + i) = some g →
    g.st = .exiting ∨ g.st ≠ .parked ∧ g.debugger.stopped = false ∧ x.phase < Sparse.getN g.fbArr b

theorem arrived_iff (s : State) (loc b phase : Nat) : s.arrived loc b phase = true ↔
    ∀ g, s.fibre loc = some g →
      g.st = .exiting ∨ g.st ≠ .parked ∧ g.debugger.stopped = false ∧ phase < Sparse.getN g.fbArr b := by
  unfold State.arrived
  cases s.fibre loc with
  | none => simp only [reduceCtorEq, false_imp_iff, implies_true]
  | some g => simp [and_assoc]

/-- Facts of the four positions of a slot. -/
theorem all_positions {p : Nat → Bool} : [0, 1, 2, 3].all p = true ↔ ∀ i, i < 4 → p i = true := by
  rw [show [0, 1, 2, 3] = List.range 4 from rfl, List.all_eq_true]
  exact forall_congr' fun i => imp_congr_left List.mem_range

theorem allArrived_iff (s : State) (loc b : Nat) (x : FBar) : s.allArrived loc b x ↔
    ([0, 1, 2, 3].all fun i => !bitOf x.mask i || s.arrived (loc / 4 * 4 + i) b x.phase) = true := by
  rw [all_positions]
  refine forall_congr' fun i => imp_congr_right fun _ => ?_
  rw [Bool.or_eq_true, Bool.not_eq_true', ← Bool.not_eq_true, ← Decidable.imp_iff_not_or, arrived_iff]

/-- Settling a barrier touches nothing but slots. -/
theorem settleFbar_slots (s : State) (loc b : Nat) : ∃ l, s.settleFbar loc b = { s with slots := l } := by
  unfold State.settleFbar
  split
  · exact ⟨s.slots, rfl⟩
  · dsimp only
    split
    · exact ⟨_, rfl⟩
    · exact ⟨s.slots, rfl⟩

/-- A slot that is listed is the one that a change meets. -/
theorem slot_modSlot {s : State} {loc : Nat} {sl : Slot} (h : Sparse.find s.slots (slotOf loc) = some sl)
    (g : Slot → Slot) : (s.modSlot loc g).slot loc = g sl := by
  simp only [State.slot, State.modSlot, Sparse.find_adjust, if_true, h, Option.map_some, Option.getD_some]

/-- A slot with a barrier is listed. -/
theorem find_slots_of_fbar {s : State} {loc b : Nat} {x : FBar} (hx : Sparse.find (s.slot loc).fbar b = some x) :
    Sparse.find s.slots (slotOf loc) = some (s.slot loc) := by
  unfold State.slot at hx ⊢
  cases h : Sparse.find s.slots (slotOf loc) with
  | none => rw [h] at hx; cases hx
  | some sl => rfl

/-- A barrier of which a participant is left goes on when all have arrived. -/
theorem find_settleFbar {s : State} {loc b : Nat} {x : FBar} {g : Fibre}
    (hx : Sparse.find (s.slot loc).fbar b = some x) (hg : s.fibre loc = some g) (hst : g.st ≠ .exiting)
    (hm : bitOf x.mask (fidOf loc) = true) : ∃ p, Sparse.find ((s.settleFbar loc b).slot loc).fbar b =
      some { x with phase := p } ∧ (s.allArrived loc b x → p = x.phase + 1) ∧
        (¬ s.allArrived loc b x → p = x.phase) := by
  have hhere : loc / 4 * 4 + loc % 4 = loc := Nat.div_add_mod' loc 4
  have hleft : ([0, 1, 2, 3].any fun i => bitOf x.mask i &&
      (s.fibre (loc / 4 * 4 + i)).any fun f => f.st != .exiting) = true := by
    rw [show [0, 1, 2, 3] = List.range 4 from rfl, List.any_eq_true]
    refine ⟨fidOf loc, List.mem_range.2 (Nat.mod_lt _ (by decide)), ?_⟩
    rw [hm, fidOf, hhere, hg, Option.any_some, Bool.true_and, bne_iff_ne]
    exact hst
  simp only [State.settleFbar, hx, hleft, Bool.true_and]
  by_cases hall : s.allArrived loc b x
  · refine ⟨x.phase + 1, ?_, fun _ => rfl, absurd hall⟩
    rw [if_pos ((allArrived_iff s loc b x).1 hall), slot_modSlot (find_slots_of_fbar hx), Sparse.find_put, if_pos rfl]
  · refine ⟨x.phase, ?_, fun h => absurd h hall, fun _ => rfl⟩
    rw [if_neg (mt (allArrived_iff s loc b x).2 hall), hx]

section FibreBarrier
variable {s : State} {f : Fibre} {b : BitVec 2} {p : Nat}

theorem farrive_above (hf : Issues s f) (hp : s.fbarPhase b.toNat = some p) (h : p < Sparse.getN f.fbArr b.toNat) :
    exec (.farrive b) s = .next s.stall := by
  rw [exec_farrive, execFarrive, withFbar_inside hf hp, if_pos h]
  rfl

theorem farrive_arrives (hf : Issues s f) (hp : s.fbarPhase b.toNat = some p) (h : ¬ p < Sparse.getN f.fbArr b.toNat) :
    exec (.farrive b) s = .next ((arrival s fun u => .done (u.arriveFbar b.toNat)).finish s) := by
  rw [exec_farrive, execFarrive, withFbar_inside hf hp, if_neg h]

theorem fwaitb_effect (hf : Issues s f) (hp : s.fbarPhase b.toNat = some p) :
    exec (.fwaitb b) s = .next (if Sparse.getN f.fbArr b.toNat ≤ p then s.retire else s.stall) := by
  rw [exec_fwaitb, execFwaitb, withFbar_inside hf hp]
  split
  · rfl
  · rfl

/-- FBAR of a fibre that has arrived in it waits as FWAITB does. -/
theorem fbar_waits (hf : Issues s f) (hp : s.fbarPhase b.toNat = some p) (hin : f.fbIn = true) :
    exec (.fbar b) s =
      if Sparse.getN f.fbArr b.toNat ≤ p then became s { f with fbIn := false } else .next s.stall := by
  rw [exec_fbar, execFbar, withFbar_inside hf hp]
  simp only [hin, if_true]
  split
  · exact done_modFibre _ hf
  · rfl

theorem fbar_above (hf : Issues s f) (hp : s.fbarPhase b.toNat = some p) (hin : f.fbIn = false)
    (h : p < Sparse.getN f.fbArr b.toNat) : exec (.fbar b) s = .next s.stall := by
  rw [exec_fbar, execFbar, withFbar_inside hf hp]
  simp only [hin, h, Bool.false_eq_true, if_false, if_true, Act.finish]

/-- What FBAR does once it may arrive: it goes on when the arrival has completed the phase, and waits otherwise. -/
def State.fbarArrives (u : State) (b p : Nat) : Act :=
  if ((u.arriveFbar b).fbarPhase b).getD 0 = p then
    .stallWith ((u.arriveFbar b).modFibre u.cur fun f => { f with fbIn := true })
  else .done (u.arriveFbar b)

theorem fbar_arrives (hf : Issues s f) (hp : s.fbarPhase b.toNat = some p) (hin : f.fbIn = false)
    (h : ¬ p < Sparse.getN f.fbArr b.toNat) :
    exec (.fbar b) s = .next ((arrival s fun u => u.fbarArrives b.toNat p).finish s) := by
  rw [exec_fbar, execFbar, withFbar_inside hf hp]
  simp only [hin, h, Bool.false_eq_true, if_false]
  rfl

end FibreBarrier

/-- The fibre with one arrival more. -/
def Fibre.counted (f : Fibre) (b : Nat) : Fibre :=
  { f with fbArr := Sparse.setN f.fbArr b (Sparse.getN f.fbArr b + 1) }

/-- An arrival raises the fibre's count and settles the barrier in its slot. -/
theorem arriveFbar_slots (s : State) (b : Nat) :
    ∃ l, s.arriveFbar b = { s.modFibre s.cur (·.counted b) with slots := l } :=
  settleFbar_slots (s.modFibre s.cur (·.counted b)) s.cur b

theorem fibre_arriveFbar {s : State} {f : Fibre} (hf : Issues s f) (b l : Nat) :
    (s.arriveFbar b).fibre l = if l = s.cur then some (f.counted b) else s.fibre l := by
  obtain ⟨slots, hs⟩ := arriveFbar_slots s b
  have hmod := fibre_modFibre s s.cur l (·.counted b)
  rw [show s.fibre s.cur = some f from hf] at hmod
  rw [hs]
  exact hmod

theorem mem_arriveFbar (s : State) (b : Nat) : (s.arriveFbar b).mem = s.mem := by
  obtain ⟨slots, hs⟩ := arriveFbar_slots s b
  rw [hs]
  rfl

/-- The phase count after an arrival: one higher when every participant has arrived (R393). -/
theorem fbarPhase_arriveFbar {s : State} {f : Fibre} {b : Nat} {x : FBar} (hf : Issues s f) (hst : f.st ≠ .exiting)
    (hx : Sparse.find (s.slot s.cur).fbar b = some x) (hm : bitOf x.mask (fidOf s.cur) = true) :
    ∃ p, (s.arriveFbar b).fbarPhase b = some p ∧ ((s.arriveFbar b).allArrived s.cur b x → p = x.phase + 1) ∧
      (¬ (s.arriveFbar b).allArrived s.cur b x → p = x.phase) := by
  have hhere : (s.modFibre s.cur (·.counted b)).fibre s.cur = some (f.counted b) := by
    rw [fibre_modFibre, if_pos rfl, show s.fibre s.cur = some f from hf, Option.map_some]
  obtain ⟨p, hfind, hp⟩ := find_settleFbar (s := s.modFibre s.cur (·.counted b)) (b := b) hx hhere hst hm
  obtain ⟨slots, hs⟩ := arriveFbar_slots s b
  have hcur : (s.arriveFbar b).cur = s.cur := by rw [hs]; rfl
  have hall : (s.arriveFbar b).allArrived s.cur b x = (s.modFibre s.cur (·.counted b)).allArrived s.cur b x := by
    rw [hs]; rfl
  rw [← hall] at hp
  rw [← hcur] at hm
  exact ⟨p, fbarPhase_of_find (x := { x with phase := p }) (by rw [hcur]; exact hfind) hm, hp⟩

/-! ### Named barriers (R395, R396) -/

/-- A change of a group that is there puts the changed group in its place. -/
theorem modGroup_of_find {s : State} {n : Nat} {g : Group} (h : Sparse.find s.groups n = some g) (c : Group → Group) :
    s.modGroup n c = withGroupAs s n (c g) := by
  simp only [State.modGroup, withGroupAs, Sparse.adjust, h]

/-- The state with a named barrier of a group replaced. -/
def withNbarAs (s : State) (k : Nat) (g : Group) (n : Nat) (b : NBar) : State :=
  withGroupAs s k { g with nbar := Sparse.put g.nbar n b }

theorem find_nbar_withNbarAs (s : State) (k : Nat) (g : Group) (n : Nat) (b : NBar) :
    ((Sparse.find (withNbarAs s k g n b).groups k).bind fun g => Sparse.find g.nbar n) = some b := by
  rw [withNbarAs, withGroupAs, Sparse.find_put, if_pos rfl, Option.bind_some, Sparse.find_put, if_pos rfl]

/-- One more arrival: below the target the tally goes up, and the arrival that reaches it ends the phase (R395). -/
theorem NBar.arrive_eq (b : NBar) : b.arrive = if b.tally + 1 < b.target
    then ⟨b.target, b.tally + 1, b.phase⟩ else ⟨b.target, 0, b.phase + 1⟩ := by
  unfold NBar.arrive
  by_cases h : b.tally + 1 < b.target
  · rw [if_pos h, if_neg (Nat.not_le.2 h)]
  · rw [if_neg h, if_pos (Nat.not_lt.1 h)]

section NamedBarrier
variable {s : State} {f : Fibre} {g : Group} {n : BitVec 8}

/-- NBINIT of a target outside 1 to 32 raises ILL. -/
theorem nbinit_bad {c : BitVec 6} (hf : Issues s f) (hg : Sparse.find s.groups f.group = some g)
    (hs : Settled s (resS s.cur [c.toNat])) (h : f.s c.toNat = 0 ∨ 32 < f.s c.toNat) :
    exec (.nbinit n c) s = .next (s.takeTrap (illTrap 6)) := by
  have hbad : (f.s c.toNat).toNat = 0 ∨ 32 < (f.s c.toNat).toNat :=
    h.imp (fun h0 => by rw [h0]; rfl) BitVec.lt_def.1
  rw [exec_nbinit, execNbinit, scalarOp_of _ hf hs]
  simp only [withGroup, hg, hbad, if_true, Act.finish]

/-- NBINIT of a target of 1 to 32: a new barrier needs one of the core's 256, and one with arrivals pending is kept. -/
theorem nbinit_good {c : BitVec 6} (hf : Issues s f) (hg : Sparse.find s.groups f.group = some g)
    (hs : Settled s (resS s.cur [c.toNat])) (h0 : f.s c.toNat ≠ 0) (h32 : f.s c.toNat ≤ 32) :
    exec (.nbinit n c) s = .next (match Sparse.find g.nbar n.toNat with
      | none => if 256 ≤ s.nbarsUsed g.core then s.stall
          else (withNbarAs s f.group g n.toNat ⟨(f.s c.toNat).toNat, 0, 0⟩).retire
      | some b => if b.tally = 0 then (withNbarAs s f.group g n.toNat ⟨(f.s c.toNat).toNat, 0, 0⟩).retire
          else s.takeTrap (illTrap 6)) := by
  have hgood : ¬ ((f.s c.toNat).toNat = 0 ∨ 32 < (f.s c.toNat).toNat) := by
    rintro (h | h)
    · exact h0 (BitVec.eq_of_toNat_eq h)
    · exact absurd (BitVec.le_def.1 h32) (Nat.not_le.2 h)
  rw [exec_nbinit, execNbinit, scalarOp_of _ hf hs]
  simp only [withGroup, hg, hgood, if_false, modGroup_of_find hg]
  cases Sparse.find g.nbar n.toNat with
  | none =>
    dsimp only
    split
    · rfl
    · rfl
  | some b =>
    dsimp only
    by_cases ht : b.tally = 0
    · rw [if_neg (Classical.not_not.2 ht), if_pos ht]
      rfl
    · rw [if_pos ht, if_neg ht]
      rfl

/-- A barrier that the group has never initialised raises ILL. -/
theorem withNbar_unset {m : Nat} (hf : Issues s f) (hg : Sparse.find s.groups f.group = some g)
    (h : Sparse.find g.nbar m = none) (body : Fibre → NBar → Act) :
    withNbar s m body = .next (s.takeTrap (illTrap 6)) := by
  simp only [withNbar, runFibre_of _ hf, hg, Option.bind_some, h, Act.finish]

theorem withNbar_set {m : Nat} {b : NBar} (hf : Issues s f) (hg : Sparse.find s.groups f.group = some g)
    (h : Sparse.find g.nbar m = some b) (body : Fibre → NBar → Act) :
    withNbar s m body = .next ((body f b).finish s) := by
  simp only [withNbar, runFibre_of _ hf, hg, Option.bind_some, h]

/-- The arrival of the fibre in issue: its group's barrier, and its own wait target. -/
theorem arriveNbar_eq {m : Nat} (hf : Issues s f) (hg : Sparse.find s.groups f.group = some g) (b : NBar) :
    s.arriveNbar f m b =
      (withNbarAs s f.group g m b.arrive).setFibre s.cur { f with nbWait := Sparse.put f.nbWait m b.phase } := by
  have hf' : (withNbarAs s f.group g m b.arrive).fibre s.cur = some f := hf
  rw [State.arriveNbar, modGroup_of_find hg]
  exact modFibre_of_fibre _ hf'

/-- A wait without an arrival takes the phase under way as its target. -/
theorem waitNbar_first {m : Nat} {b : NBar} (hf : Issues s f)
    (hb : ((Sparse.find s.groups f.group).bind fun g => Sparse.find g.nbar m) = some b)
    (h : Sparse.find f.nbWait m = none) :
    waitNbar s m = .stallWith (s.setFibre s.cur { f with nbWait := Sparse.put f.nbWait m b.phase }) := by
  have hf' : s.fibre s.cur = some f := hf
  simp only [waitNbar, hf', hb, h, modFibre_of_fibre _ hf']

/-- A wait ends with the phase of its target. -/
theorem waitNbar_target {m k : Nat} {b : NBar} (hf : Issues s f)
    (hb : ((Sparse.find s.groups f.group).bind fun g => Sparse.find g.nbar m) = some b)
    (h : Sparse.find f.nbWait m = some k) : waitNbar s m = if k < b.phase
      then .done (s.setFibre s.cur { f with nbWait := Sparse.erase f.nbWait m, nbIn := false }) else .stallWith s := by
  have hf' : s.fibre s.cur = some f := hf
  simp only [waitNbar, hf', hb, h, modFibre_of_fibre _ hf']

theorem nbarrive_arrives {b : NBar} (hf : Issues s f) (hg : Sparse.find s.groups f.group = some g)
    (hb : Sparse.find g.nbar n.toNat = some b) : exec (.nbarrive n) s =
      .next ((arrival s fun u => .done (u.arriveNbar f n.toNat b)).finish s) := withNbar_set hf hg hb _

theorem nbwait_waits {b : NBar} (hf : Issues s f) (hg : Sparse.find s.groups f.group = some g)
    (hb : Sparse.find g.nbar n.toNat = some b) : exec (.nbwait n) s = .next ((waitNbar s n.toNat).finish s) :=
  withNbar_set hf hg hb _

/-- NBSYNC of a fibre that has arrived in it waits as NBWAIT does. -/
theorem nbsync_waits {b : NBar} (hf : Issues s f) (hg : Sparse.find s.groups f.group = some g)
    (hb : Sparse.find g.nbar n.toNat = some b) (hin : f.nbIn = true) :
    exec (.nbsync n) s = .next ((waitNbar s n.toNat).finish s) := by
  rw [exec_nbsync, execNbsync, withNbar_set hf hg hb, if_pos hin]

/-- What NBSYNC does once it may arrive: it has arrived, and then it waits. -/
def State.syncNbar (u : State) (f : Fibre) (m : Nat) (b : NBar) : Act :=
  waitNbar ((u.arriveNbar f m b).modFibre u.cur fun f => { f with nbIn := true }) m

theorem nbsync_arrives {b : NBar} (hf : Issues s f) (hg : Sparse.find s.groups f.group = some g)
    (hb : Sparse.find g.nbar n.toNat = some b) (hin : f.nbIn = false) : exec (.nbsync n) s =
      .next ((arrival s fun u => u.syncNbar f n.toNat b).finish s) := by
  rw [exec_nbsync, execNbsync, withNbar_set hf hg hb, hin]
  rfl

/-- The fibre that has arrived in its NBSYNC at the phase `p`. -/
def Fibre.inSync (f : Fibre) (m p : Nat) : Fibre := { f with nbWait := Sparse.put f.nbWait m p, nbIn := true }

/-- The wait of NBSYNC behind its arrival ends at once when the arrival was the last. -/
theorem syncNbar_eq {m : Nat} {b : NBar} (hf : Issues s f) (hg : Sparse.find s.groups f.group = some g)
    (hin : f.nbIn = false) : s.syncNbar f m b = if b.phase < b.arrive.phase
      then .done ((withNbarAs s f.group g m b.arrive).setFibre s.cur
        { f with nbWait := Sparse.erase (Sparse.put f.nbWait m b.phase) m })
      else .stallWith ((withNbarAs s f.group g m b.arrive).setFibre s.cur (f.inSync m b.phase)) := by
  have hsync : s.syncNbar f m b =
      waitNbar ((withNbarAs s f.group g m b.arrive).setFibre s.cur (f.inSync m b.phase)) m := by
    rw [State.syncNbar, arriveNbar_eq hf hg, modFibre_of_fibre _ ((fibre_setFibre ..).trans (if_pos rfl)),
      setFibre_setFibre]
    rfl
  have hissues : Issues ((withNbarAs s f.group g m b.arrive).setFibre s.cur (f.inSync m b.phase))
      (f.inSync m b.phase) := (fibre_setFibre ..).trans (if_pos rfl)
  have htarget : Sparse.find (f.inSync m b.phase).nbWait m = some b.phase := (Sparse.find_put ..).trans (if_pos rfl)
  have hback : ({ f.inSync m b.phase with nbWait := Sparse.erase (f.inSync m b.phase).nbWait m, nbIn := false } : Fibre) =
      { f with nbWait := Sparse.erase (Sparse.put f.nbWait m b.phase) m } := by rw [← hin]; rfl
  rw [hsync, waitNbar_target hissues (find_nbar_withNbarAs s f.group g m b.arrive) htarget, hback]
  split
  · exact congrArg Act.done (setFibre_setFibre ..)
  · rfl

end NamedBarrier

end Sys2Proof.Machine

open Sys2Proof Sys2Proof.Machine

/-- Settles O38: an arrival waits, is taken back, or is made; a phase ends when every participant has arrived, and a named
barrier's with the arrival that reaches its target. -/
theorem barriers : Obligations.Barriers := by
  unfold Obligations.Barriers
  refine ⟨fun s f hf hq => ⟨readFirst_of_quiet hq, lsuWaits_of_quiet hq _⟩, ?fibre, ?named⟩
  case fibre =>
    rintro b s f k n here h t u hf rfl rfl rfl hu rfl rfl
    refine ⟨?outside, ?inside⟩
    case outside =>
      intro hnone i hi
      simp only [List.mem_cons, List.not_mem_nil, or_false] at hi
      rcases hi with rfl | rfl | rfl <;> exact withFbar_outside hf hnone _
    case inside =>
      intro x hx hm
      have hp := fbarPhase_of_find hx hm
      refine ⟨fwaitb_effect hf hp, ?waits, ?arrives, fbar_waits hf hp, ?effect⟩
      case waits =>
        intro hw
        by_cases hn : x.phase < Sparse.getN f.fbArr b.toNat
        · exact ⟨farrive_above hf hp hn, fun hin => fbar_above hf hp hin hn⟩
        · have hstores := hw.resolve_left hn
          refine ⟨?_, fun hin => ?_⟩
          · rw [farrive_arrives hf hp hn, arrival_waits hstores]; rfl
          · rw [fbar_arrives hf hp hin hn, arrival_waits hstores]; rfl
      case arrives =>
        intro hle hstores
        have hn := Nat.not_lt.2 hle
        refine ⟨fun hpark => ⟨?_, fun hin => ?_⟩, fun hpark hr => ⟨?_, fun hin => ?_⟩,
          fun hpark hr => ⟨?_, fun hin => ?_⟩⟩
        · rw [farrive_arrives hf hp hn, arrival_parked hstores hu hpark]; rfl
        · rw [fbar_arrives hf hp hin hn, arrival_parked hstores hu hpark]; rfl
        · rw [farrive_arrives hf hp hn, arrival_reading hstores hu hpark hr]; rfl
        · rw [fbar_arrives hf hp hin hn, arrival_reading hstores hu hpark hr]; rfl
        · rw [farrive_arrives hf hp hn, arrival_made hstores hu hpark hr]; rfl
        · rw [fbar_arrives hf hp hin hn, arrival_made hstores hu hpark hr, State.fbarArrives]
          split
          · rfl
          · rfl
      case effect =>
        intro hq hst
        rw [readFirst_of_quiet hq]
        have hfib := fibre_arriveFbar hf b.toNat
        obtain ⟨p, hphase, hall, hnot⟩ := fbarPhase_arriveFbar hf hst hx hm
        refine ⟨(hfib s.cur).trans (if_pos rfl), fun l hl => (hfib l).trans (if_neg hl), mem_arriveFbar s _, ?_⟩
        rw [hphase]
        split
        · next h => rw [hall h]
        · next h => rw [hnot h]
  case named =>
    rintro n c s f g set hf hg rfl
    refine ⟨fun hs => ⟨nbinit_bad hf hg hs, fun h0 h32 => ⟨fun hb => ?_, fun b hb => ?_⟩⟩, fun hnone i hi => ?unset,
      ?inside⟩
    · rw [nbinit_good hf hg hs h0 h32, hb]; rfl
    · rw [nbinit_good hf hg hs h0 h32, hb]; rfl
    case unset =>
      simp only [List.mem_cons, List.not_mem_nil, or_false] at hi
      rcases hi with rfl | rfl | rfl <;> exact withNbar_unset hf hg hnone _
    case inside =>
      rintro b b' hb rfl
      rw [← NBar.arrive_eq]
      have hset : ((Sparse.find s.groups f.group).bind fun g => Sparse.find g.nbar n.toNat) = some b := by
        rw [hg, Option.bind_some, hb]
      refine ⟨?quiet, ?waits, ?arrives, ?target, ?first, ?sync⟩
      case quiet =>
        intro hq hst
        rw [nbarrive_arrives hf hg hb, arrival_quiet hq hf hst, arriveNbar_eq hf hg]
        rfl
      case waits =>
        intro hstores
        refine ⟨?_, fun hin => ?_⟩
        · rw [nbarrive_arrives hf hg hb, arrival_waits hstores]; rfl
        · rw [nbsync_arrives hf hg hb hin, arrival_waits hstores]; rfl
      case arrives =>
        rintro hstores u h rfl hu
        refine ⟨fun hpark => ⟨?_, fun hin => ?_⟩, fun hpark hr => ⟨?_, fun hin => ?_⟩, fun hpark hr => ?_⟩
        · rw [nbarrive_arrives hf hg hb, arrival_parked hstores hu hpark]; rfl
        · rw [nbsync_arrives hf hg hb hin, arrival_parked hstores hu hpark]; rfl
        · rw [nbarrive_arrives hf hg hb, arrival_reading hstores hu hpark hr]; rfl
        · rw [nbsync_arrives hf hg hb hin, arrival_reading hstores hu hpark hr]; rfl
        · rw [nbarrive_arrives hf hg hb, arrival_made hstores hu hpark hr]; rfl
      case target =>
        intro k hk i hi hin
        have hrun : exec i s = .next ((waitNbar s n.toNat).finish s) := by
          simp only [List.mem_cons, List.not_mem_nil, or_false] at hi
          rcases hi with rfl | rfl
          · exact nbwait_waits hf hg hb
          · exact nbsync_waits hf hg hb (hin.resolve_left (by simp only [reduceCtorEq, not_false_eq_true]))
        rw [hrun, waitNbar_target hf hset hk]
        split
        · rfl
        · rfl
      case first =>
        intro hnone
        rw [nbwait_waits hf hg hb, waitNbar_first hf hset hnone]
        rfl
      case sync =>
        intro hin hq hst
        rw [nbsync_arrives hf hg hb hin, arrival_quiet hq hf hst, syncNbar_eq hf hg hin]
        split
        · rfl
        · rfl

end

section
/-! SUPPORT. A function-level reset of a device whose frame table is not canonical (R49, R460): a frame that the table
lists twice is dropped for its second entry, with the contents that its first entry keeps. -/

namespace Sys2Proof.Machine

/-- A device without regions, whose frame table lists one frame twice, as PINNED and behind that as CLEAN; the frame's
first byte is 5. -/
def listedTwice : State :=
  { State.reset with mem := { Mem.reset with
      vault := [(2 ^ 27, 5)]
      frames := [(2 ^ 15, Frame.pinned), (2 ^ 15, { Frame.pinned with st := .clean })] } }

/-- The byte of the vault at an address once a run has answered its next state. -/
def vaultAfter (out : Out) (a : Nat) : Option Byte :=
  match out with
  | .next t => some (Sparse.getZ t.mem.vault a)
  | _ => none

theorem vaultAfter_next (t : State) (a : Nat) : vaultAfter (.next t) a = some (Sparse.getZ t.mem.vault a) := rfl

/-- Each entry that is not PINNED frees its frame: the reset wipes the frame that is listed twice. -/
theorem functionLevelReset_wipes_listedTwice :
    vaultAfter (exec .functionLevelReset listedTwice) (2 ^ 27) = some 0 := by decide +kernel

theorem allRegions_listedTwice : listedTwice.allRegions = [] := by decide +kernel

/-- The table reads the frame as PINNED, by its first entry. -/
theorem frameState_listedTwice : listedTwice.frameState (2 ^ 27 / 4096) = some .pinned := by decide

end Sys2Proof.Machine

open Sys2Proof Sys2Proof.Machine

/-- Refutes O54: its clause on the contents of PINNED frames after a function-level reset, unlike the clause on their
states, does not ask for a canonical frame table; of a frame that the table lists as PINNED and again as CLEAN the
reset wipes the contents. -/
theorem not_resetsAndPower : ¬ Obligations.ResetsAndPower := by
  unfold Obligations.ResetsAndPower
  rintro ⟨-, hflr, -⟩
  obtain ⟨t, ht, -, -, -, -, -, -, -, -, -, -, -, -, -, -, -, -, -, -, -, -, -, -, -, -, -, hcontents⟩ := hflr listedTwice
  obtain ⟨hkeeps, -⟩ := hcontents allRegions_listedTwice rfl rfl rfl rfl
  have hafter : some (Sparse.getZ t.mem.vault (2 ^ 27)) = some 0 := by
    rw [← vaultAfter_next, ← ht]
    exact functionLevelReset_wipes_listedTwice
  rw [hkeeps (2 ^ 27) frameState_listedTwice] at hafter
  exact absurd hafter (by decide)

end

section
/-! SUPPORT. The tile directories stay as they are while work is killed, records are written and operations end: their
entries change by the steps of R404 alone. -/

namespace Sys2Proof.Machine

/-- The tile directories of all cores. -/
def State.directories (s : State) : Sparse DirEnt := s.co.dirs

/-- What keeps the coordination keeps the directories. -/
theorem directories_congr {s t : State} (h : t.co = s.co) : t.directories = s.directories := congrArg Coord.dirs h

variable (s : State)

/-! ### Killing work (R185, R187, R188, R211) -/

@[simp] theorem directories_modRcb (rgn : Nat) (g : Rcb → Rcb) : (s.modRcb rgn g).directories = s.directories := by
  unfold State.modRcb
  split
  · rfl
  · rfl

@[simp] theorem directories_modFibre (loc : Nat) (g : Fibre → Fibre) : (s.modFibre loc g).directories = s.directories := rfl

@[simp] theorem directories_modLaunch (id : Nat) (g : Launch → Launch) : (s.modLaunch id g).directories = s.directories := rfl

@[simp] theorem directories_dropCensuses : s.dropCensuses.directories = s.directories := rfl

@[simp] theorem directories_removeOp (id : Nat) : (s.removeOp id).directories = s.directories := by
  unfold State.removeOp
  split
  · rfl
  · rfl

@[simp] theorem directories_removeOps (p : Op → Bool) : (s.removeOps p).directories = s.directories :=
  foldl_keeps (obs := State.directories) directories_removeOp _ s

@[simp] theorem directories_dropGroup (id : Nat) : (s.dropGroup id).directories = s.directories := by
  unfold State.dropGroup
  split
  · rfl
  · simp only [directories_dropCensuses, directories_removeOps, directories_modLaunch, directories_modRcb]
    rfl

@[simp] theorem directories_settleOwed (o : Owed) (noreply lost : Bool) :
    (s.settleOwed o noreply lost).directories = s.directories := by
  cases o with
  | nothing => rfl
  | reply c e => rfl
  | test id => rfl

@[simp] theorem directories_endLanes (loc : Nat) (lanes : List Nat) : (s.endLanes loc lanes).directories = s.directories := by
  unfold State.endLanes
  split
  · rfl
  · rw [directories_modFibre]
    refine foldl_keeps (obs := State.directories) (fun acc i => ?_) lanes s
    split <;> split <;> simp only [directories_settleOwed]

@[simp] theorem directories_settleLocs (locs : List Nat) : (s.settleLocs locs).directories = s.directories := by
  unfold State.settleLocs
  extract_lets s1 vals s2
  have h1 : s1.directories = s.directories :=
    foldl_keeps (obs := State.directories) (fun acc l => directories_endLanes acc l _) locs s
  have h2 : s2.directories = s1.directories :=
    foldl_keeps (obs := State.directories) (fun acc v => directories_settleOwed acc _ _ _) vals s1
  refine (foldl_keeps (obs := State.directories) (fun acc e => ?_) s2.eng.ops s2).trans (h2.trans h1)
  split
  · split
    · rfl
    · rfl
  · split
    · rfl
    · rfl
  · rfl

@[simp] theorem directories_startSwitch (bank : Nat) : (s.startSwitch bank).directories = s.directories := by
  unfold State.startSwitch
  split
  · rfl
  · rfl

@[simp] theorem directories_dropSwitches (gone : BankSwitch → Bool) : (s.dropSwitches gone).directories = s.directories :=
  foldl_keeps (obs := State.directories) (step := fun (acc : State) (w : BankSwitch) => acc.startSwitch w.bank)
    (fun acc w => directories_startSwitch acc w.bank) _ _

@[simp] theorem directories_dropWaits : s.dropWaits.directories = s.directories := directories_dropSwitches _ _

@[simp] theorem directories_emptyLocs (locs : List Nat) : (s.emptyLocs locs).directories = s.directories := by
  unfold State.emptyLocs
  extract_lets s1 gone s2 s3
  have h3 : s3.directories = s.directories := (directories_removeOps _ _).trans (directories_settleLocs s locs)
  rw [directories_dropWaits]
  refine (foldl_keeps (obs := State.directories) (fun acc g => ?_) gone s3).trans h3
  split
  · rfl
  · exact directories_dropGroup acc g

theorem directories_killLocs (locs : List Nat) : (s.killLocs locs).directories = s.directories := directories_emptyLocs s _

@[simp] theorem directories_physWrite (p : Nat) (b : List Byte) : (physWrite s p b).directories = s.directories := by
  obtain ⟨m, hm⟩ := physWrite_mem p b s
  rw [hm]
  rfl

@[simp] theorem directories_returnRecord (core rgn queue : Nat) (bytes : List Byte) :
    (s.returnRecord core rgn queue bytes).directories = s.directories := by
  unfold State.returnRecord
  split
  · rfl
  · extract_lets d tail at0 s1
    have h1 : s1.directories = s.directories := (directories_physWrite _ _ _).trans (directories_physWrite s _ _)
    split
    · exact h1
    · exact h1

@[simp] theorem directories_dropReceipt (r : Receipt) : (s.dropReceipt r).directories = s.directories := by
  unfold State.dropReceipt
  dsimp only
  split
  · exact directories_returnRecord ..
  · exact directories_modRcb ..

@[simp] theorem directories_loseRecords (rgn : Nat) : (s.loseRecords rgn).directories = s.directories := by
  unfold State.loseRecords
  extract_lets recs marks s1 s2
  have h1 : s1.directories = s.directories :=
    foldl_keeps (obs := State.directories) (fun acc o => directories_settleOwed acc o false true) _ s
  rw [directories_modRcb]
  exact h1

@[simp] theorem directories_killSaved (rgn : Nat) : (s.killSaved rgn).directories = s.directories := by
  unfold State.killSaved
  extract_lets gone owed s1 recs s2 s3 keep lost s4
  have h1 : s1.directories = s.directories :=
    foldl_keeps (obs := State.directories) (fun acc o => directories_settleOwed acc o true false) owed s
  have h2 : s2.directories = s1.directories :=
    foldl_keeps (obs := State.directories) (fun acc r => directories_settleOwed acc r.owed false true) recs s1
  have h3 : s3.directories = s2.directories := foldl_keeps (obs := State.directories) directories_dropReceipt _ s2
  have h4 : s4.directories = s3.directories := foldl_keeps (obs := State.directories)
    (fun acc e => (directories_modLaunch _ _ _).trans (directories_modRcb acc _ _)) lost s3
  rw [directories_dropCensuses, directories_modRcb]
  exact h4.trans (h3.trans (h2.trans h1))

/-- A fold of a range touches memories only. -/
theorem co_placePhys (p : Phys) (hs : Bool) : (s.placePhys p hs).2.co = s.co := by
  unfold State.placePhys
  repeat' split
  all_goals rfl

theorem co_requestFor (clusters : List Nat) (asid : BitVec 16) (m : Missing) :
    (s.requestFor clusters asid m).co = s.co := by
  cases m with
  | granule g hs want =>
    simp only [State.requestFor, State.requestGranule]
    repeat' split
    all_goals rfl
  | block b excl => exact (apply_ite State.co ..).trans (ite_self _)

theorem co_foldBlock (err : Bool) (q : Partial) : (foldBlock s err q).2.co = s.co := by
  have hp := co_placePhys s q.phys q.hs
  unfold foldBlock
  generalize s.placePhys q.phys q.hs = r at hp ⊢
  obtain ⟨a, s1⟩ := r
  cases a with
  | ok place => exact hp
  | miss m => exact hp
  | refuse c z => cases err <;> exact hp
  | poison => cases err <;> exact hp
  | wait => exact hp

theorem co_settleRange (r : CRange) : (s.settleRange r).co = s.co := by
  unfold State.settleRange
  extract_lets s1
  have h1 : s1.co = s.co := by
    refine foldl_keeps (obs := State.co) (fun acc q => ?_) _ s
    have hq := co_foldBlock acc true q
    split
    · next heq => rw [co_requestFor]; rwa [heq] at hq
    · next heq => rwa [heq] at hq
  split
  · exact h1
  · exact h1

theorem co_settleRanges : s.settleRanges.co = s.co := foldl_keeps (obs := State.co) co_settleRange _ s

theorem directories_killOne (rgn : Nat) : (s.killOne rgn).directories = s.directories := by
  unfold State.killOne
  extract_lets s1 s2 s3 s4
  have h1 : s1.directories = s.directories := directories_killLocs s _
  have h2 : s2.directories = s1.directories := foldl_keeps (obs := State.directories) directories_dropReceipt _ s1
  have h3 : s3.directories = s2.directories := (directories_killSaved (s2.loseRecords rgn) rgn).trans (directories_loseRecords s2 rgn)
  clear_value s3
  rw [directories_modRcb, directories_congr (co_settleRanges _)]
  exact h3.trans (h2.trans h1)

@[simp] theorem directories_killRegion (top : Nat) : (s.killRegion top).directories = s.directories :=
  foldl_keeps (obs := State.directories) directories_killOne _ s

/-! ### Reports (R33, R183) -/

theorem co_signal (v : Nat) (b : Bool) : (s.signal v b).co = s.co := by
  obtain ⟨io, h, -⟩ := signal_io s v b
  rw [h]

theorem directories_errLog (rgn : Nat) (e : ErrEntry) : (s.errLog rgn e).directories = s.directories := by
  unfold State.errLog
  split
  · rfl
  · split
    · rfl
    · exact directories_physWrite ..

theorem co_frqPush (b : List Byte) : (s.frqPush b).co = s.co := by
  unfold State.frqPush
  split
  · exact co_signal ..
  · rfl

theorem directories_reportNow (l : LateReport) : (s.reportNow l).directories = s.directories := by
  unfold State.reportNow
  extract_lets i va s1 s2 addr b
  have h2 : s2.directories = s.directories := (directories_modRcb s1 _ _).trans (directories_errLog s _ _)
  exact (directories_congr (co_frqPush ..)).trans h2

@[simp] theorem directories_report (rgn code absorber : Nat) (answer : Bool) (i : ReportInfo) :
    (s.report rgn code absorber answer i).directories = s.directories := by
  have hclk : (s.readClk (coreOf i.loc)).2.co = s.co := rfl
  unfold State.report
  generalize s.readClk (coreOf i.loc) = r at hclk ⊢
  obtain ⟨clk, s0⟩ := r
  refine Eq.trans ?_ (directories_congr hclk)
  dsimp only
  split
  · rfl
  · exact directories_reportNow ..

/-! ### Records and the end of operations (R166, R168, R173) -/

theorem co_writeFrame (key : Nat) : (s.writeFrame key).co = s.co := by
  unfold State.writeFrame
  split
  · rfl
  · rfl

theorem co_predictGranule (asid : BitVec 16) (gran : Nat) (hs : Bool) : (s.predictGranule asid gran hs).co = s.co := by
  unfold State.predictGranule
  dsimp only
  split
  · rfl
  · rfl

theorem co_predictKids (w : Who) (kids : List Nat) : ∀ (s : State) (n : Nat), (s.predictKids w n kids).2.co = s.co := by
  induction kids with
  | nil => exact fun _ _ => rfl
  | cons p rest ih =>
    intro s n
    unfold State.predictKids
    split
    · rfl
    · split
      · exact ih s n
      · split
        · split
          · exact ih s n
          · exact (ih _ _).trans (co_predictGranule ..)
        · exact ih s n

theorem co_predict (o : Op) (r : Record) (among : NodeRef → Nat → Bool) : (s.predict o r among).co = s.co := by
  unfold State.predict
  dsimp only
  split
  · rfl
  · exact co_predictKids ..

@[simp] theorem directories_putRecord (id : Nat) (o : Op) (slotNo akind : Nat) (t : Trouble) :
    (s.putRecord id o slotNo akind t).directories = s.directories := by
  unfold State.putRecord
  extract_lets rgn base put
  have hput : ∀ (s : State) (r : Record), (put s r).co = s.co := fun s r => (co_predict ..).trans (co_writeFrame ..)
  clear_value put
  split
  · exact directories_congr (hput ..)
  · split
    next policy absorber hc =>
    extract_lets budget exhausted s1
    have h1 : s1.directories = s.directories := directories_report ..
    clear_value s1
    split
    · exact (directories_congr (hput ..)).trans h1
    · split
      · exact (directories_congr (hput ..)).trans h1
      · exact (directories_congr (hput ..)).trans h1
    · rw [directories_killRegion, h1]

theorem directories_promoteHeld (loc : Nat) : (s.promoteHeld loc).directories = s.directories := by
  unfold State.promoteHeld
  extract_lets mine
  split
  · split
    · exact directories_putRecord ..
    · rfl
  · rfl

theorem co_unpark (loc : Nat) : (s.unpark loc).co = s.co := by
  unfold State.unpark
  split
  · rfl
  · rfl

theorem directories_freeRecord (id : Nat) : (s.freeRecord id).directories = s.directories := by
  unfold State.freeRecord
  split
  · rfl
  · exact (directories_congr (co_unpark ..)).trans (directories_promoteHeld ..)

@[simp] theorem directories_endOp (id : Nat) : (s.endOp id).directories = s.directories := by
  unfold State.endOp
  split
  · rfl
  · rw [directories_removeOp, directories_freeRecord]
    split
    · rfl
    · rfl

@[simp] theorem co_putRes (loc : Nat) (r : Res) (res : List (Nat × Nat)) : (s.putRes loc r res).co = s.co := by
  cases r with
  | s fid n => rfl
  | v fid pos => rfl
  | sh k => rfl
  | tile t => rfl

/-! ### Moves (R407) -/

@[simp] theorem directories_endMove (op val : Nat) : (s.endMove op val).directories = s.directories := by
  unfold State.endMove
  extract_lets moves s1
  split
  · rfl
  · split
    · rw [directories_endOp, directories_congr (co_putRes ..)]
      rfl
    · rfl

/-- An entry that becomes free is free, and every other stays. -/
theorem dirEnt_freeEnt (e k : Nat) : (s.freeEnt e).dirEnt k = if k = e then none else s.dirEnt k := by
  have hdirs : (s.freeEnt e).directories = Sparse.erase s.directories e := by
    unfold State.freeEnt
    extract_lets s1
    split
    · exact directories_endMove ..
    · rfl
  exact (congrArg (Sparse.find · k) hdirs).trans (Sparse.find_erase ..)

end Sys2Proof.Machine
end

section
/-! SUPPORT. Tile directories: the issue of TREG, TDROP and TMOVE, their effects, and the steps of a move (R403 to R408,
R444). -/

namespace Sys2Proof.Machine

/-! ### Issue (R406, R407) -/

theorem treg_issues {s : State} {f : Fibre} {a b d : BitVec 6} (hf : Issues s f)
    (hs : Settled s (resS s.cur [a.toNat, b.toNat, d.toNat])) :
    exec (.treg a b d) s = .next ((s.newOp f 1 f.active (f.s a.toNat) (f.s b.toNat) none
      (.treg (.s (fidOf s.cur) d.toNat) (f.s a.toNat) (f.s b.toNat))).2.addPend s.cur s.fresh
      [.s (fidOf s.cur) d.toNat]).retire := by
  rw [exec_treg, execTreg, scalarOp_of _ hf hs]
  rfl

theorem tdrop_issues {s : State} {f : Fibre} {a : BitVec 6} (hf : Issues s f) (hs : Settled s (resS s.cur [a.toNat])) :
    exec (.tdrop a) s = .next (if dirIdBad (f.s a.toNat) then s.takeTrap ⟨trapILL, 6, 0, 0⟩
      else if f.ctrFull ctrSC then s.stall
      else (s.newOp f 1 f.active (f.s a.toNat) 0 (some ctrSC) (.tdrop (f.s a.toNat).toNat)).2.retire) := by
  rw [exec_tdrop, execTdrop, scalarOp_of _ hf hs]
  dsimp only
  split
  · rfl
  · split
    · rfl
    · rfl

theorem tmove_issues {s : State} {f : Fibre} {a b d : BitVec 6} (hf : Issues s f)
    (hs : Settled s (resS s.cur [a.toNat, b.toNat, b.toNat + 1, d.toNat])) :
    exec (.tmove a b d) s = .next (if 191 < (f.s b.toNat).toNat then s.takeTrap ⟨trapILL, 6, 0, 0⟩
      else if f.ctrFull ctrSC then s.stall
      else ((s.newOp f 1 f.active (f.s a.toNat) (f.s b.toNat) (some ctrSC) (.tmove (.s (fidOf s.cur) d.toNat)
        (f.s a.toNat).toNat (f.s b.toNat).toNat (f.s (b.toNat + 1)))).2.addPend s.cur s.fresh
        [.s (fidOf s.cur) d.toNat]).retire) := by
  rw [exec_tmove, execTmove, scalarOp_of _ hf hs]
  dsimp only
  split
  · rfl
  · split
    · rfl
    · rfl

/-! ### Entries (R444) -/

theorem dirEnt_putDir (s : State) (e k : Nat) (x : DirEnt) :
    (s.putDir e x).dirEnt k = if k = e then some x else s.dirEnt k := Sparse.find_put ..

/-- The lowest free index of a core. -/
theorem freeDir_eq_some_iff {s : State} {core e : Nat} : s.freeDir core = some e ↔
    e / 512 = core ∧ s.dirEnt e = none ∧ ∀ k, k / 512 = core → k < e → s.dirEnt k ≠ none := by
  have hrange : s.freeDir core = ((List.range dirSize).find? fun i => (s.dirEnt (core * dirSize + i)).isNone).map
      fun i => core * dirSize + i := List.find?_map ..
  rw [hrange]
  simp only [Option.map_eq_some_iff, List.find?_range_eq_some, Option.isNone_iff_eq_none, List.mem_range,
    Bool.not_eq_eq_eq_not, Bool.not_true, Option.isNone_eq_false_iff, Option.isSome_iff_ne_none, dirSize]
  constructor
  · rintro ⟨i, ⟨hfree, hi, hbelow⟩, rfl⟩
    refine ⟨by omega, hfree, fun k hk hlt => ?_⟩
    have hkept := hbelow (k - core * 512) (by omega)
    rwa [Nat.add_sub_cancel' (by omega)] at hkept
  · rintro ⟨hcore, hfree, hbelow⟩
    have he : core * 512 + e % 512 = e := by omega
    exact ⟨e % 512, ⟨by rwa [he], by omega, fun j hj => hbelow _ (by omega) (by omega)⟩, he⟩

/-! ### Effects (R404, R406, R407) -/

section
variable {s : State} {id : Nat} {o : Op}

/-- LSU_COMPLETE performs a change of a directory. -/
theorem lsuComplete_isDir (ho : Sparse.find s.eng.ops id = some o) (hdir : o.body.isDir = true)
    (hrec : s.recorded id = false) : exec (.lsuComplete id) s = .next (runDir s id o) := by
  have hne : ¬ s.recorded id = true := ne_true_of_eq_false hrec
  rw [exec_lsuComplete, execLsuComplete]
  simp only [ho, if_neg hne]
  revert hdir
  cases o.body with
  | treg dst key payload => exact fun _ => rfl
  | tdrop ent => exact fun _ => rfl
  | tmove dst src core payload => exact fun _ => rfl
  | _ => exact fun h => nomatch h

theorem runDir_waits (h : o.finished = true ∨ s.behindOthers id o = true) : runDir s id o = s := by
  rw [runDir, if_pos (Bool.or_eq_true_iff.mpr h)]

/-- A change of a directory behind nothing is performed. -/
theorem runDir_runs (hfin : o.finished = false) (hfirst : s.behindOthers id o = false) :
    runDir s id o = match o.body with
      | .treg dst key payload => runTreg s id o dst key payload
      | .tdrop ent => runTdrop s id o ent
      | .tmove dst src core payload => runTmove s id o dst src core payload
      | _ => s := by
  rw [runDir, hfin, hfirst]
  rfl

theorem runTreg_full {dst : Res} {key pay : Dword} (h : s.freeDir (coreOf o.loc) = none) :
    runTreg s id o dst key pay = (s.putRes o.loc dst [(0, 2 ^ 64 - 1)]).endOp id := by
  unfold runTreg
  rw [h]
  rfl

theorem runTreg_inserts {dst : Res} {key pay : Dword} {e : Nat} (h : s.freeDir (coreOf o.loc) = some e) :
    runTreg s id o dst key pay =
      ((s.putDir e ⟨key, pay, o.asid, 0, false, .resident⟩).putRes o.loc dst [(0, e)]).endOp id := by
  unfold runTreg
  rw [h]

theorem mine_iff {e : DirEnt} {asid : BitVec 16} : e.mine asid = true ↔ e.asid = asid ∧ e.st = .resident := by
  rw [DirEnt.mine, Bool.and_eq_true, beq_iff_eq, beq_iff_eq]

/-- An entry that is another's, or not RESIDENT, or no entry. -/
theorem mine_eq_false {n : Nat} (h : ∀ e, s.dirEnt n = some e → e.asid ≠ o.asid ∨ e.st ≠ .resident) {e : DirEnt}
    (he : s.dirEnt n = some e) : e.mine o.asid = false :=
  Bool.eq_false_iff.mpr fun hm => (h e he).elim (fun ha => ha (mine_iff.mp hm).1) fun hst => hst (mine_iff.mp hm).2

theorem runTdrop_other {n : Nat} (h : ∀ e, s.dirEnt n = some e → e.asid ≠ o.asid ∨ e.st ≠ .resident) :
    runTdrop s id o n = s.endOp id := by
  unfold runTdrop
  split
  · rfl
  · next e he =>
    rw [mine_eq_false h he]
    rfl

theorem runTdrop_mine {n : Nat} {e : DirEnt} (he : s.dirEnt n = some e) (hm : e.mine o.asid = true) :
    runTdrop s id o n = (if e.pins = 0 then s.freeEnt n else s.putDir n { e with remove := true }).endOp id := by
  simp only [runTdrop, he, hm, Bool.not_true, Bool.false_eq_true, if_false]

/-- An entry that no move has as its source becomes free, and nothing else changes. -/
theorem freeEnt_unmoved {n : Nat} (h : ∀ m ∈ s.co.moves, m.src ≠ n) :
    s.freeEnt n = { s with co := { s.co with dirs := Sparse.erase s.co.dirs n } } := by
  have hnone : (s.co.moves.find? fun m => m.src = n ∧ m.ended = false) = none :=
    List.find?_eq_none.mpr fun m hm hsrc => h m hm (of_decide_eq_true hsrc).1
  simp only [State.freeEnt, hnone]

theorem runTmove_other {dst : Res} {src core : Nat} {pay : Dword}
    (h : ∀ e, s.dirEnt src = some e → e.asid ≠ o.asid ∨ e.st ≠ .resident) :
    runTmove s id o dst src core pay = (s.putRes o.loc dst [(0, 2 ^ 64 - 1)]).endOp id := by
  unfold runTmove
  extract_lets fail
  split
  · rfl
  · next e he =>
    rw [mine_eq_false h he]
    rfl

/-- Step 1 of a move: the source is MOVING, the move stands among the moves, and its operation is performed. -/
theorem runTmove_mine {dst : Res} {src core : Nat} {pay : Dword} {e : DirEnt} (ho : Sparse.find s.eng.ops id = some o)
    (he : s.dirEnt src = some e) (hm : e.mine o.asid = true) : ∃ t : State, runTmove s id o dst src core pay = t ∧
      (∀ k, t.dirEnt k = if k = src then some { e with st := .moving } else s.dirEnt k) ∧
      t.co.moves = s.co.moves ++ [⟨id, src, core, pay, none, false⟩] ∧
      Sparse.find t.eng.ops id = some { o with finished := true } ∧ t.fibres = s.fibres ∧ t.mem = s.mem := by
  simp only [runTmove, he, hm, Bool.not_true, Bool.false_eq_true, if_false]
  refine ⟨_, rfl, fun k => dirEnt_putDir s src k _, rfl, ?_, rfl, rfl⟩
  exact (Sparse.find_adjust ..).trans (by rw [if_pos rfl]; exact congrArg (Option.map _) ho)

end

/-! ### The steps of a move (R404, R407, R408) -/

section
variable {s : State} {m : Move}

/-- The first move of an operation, when its target has taken no entry yet. -/
theorem find_move_waiting (hm : s.co.moves.find? (fun k => k.op = m.op) = some m) (hnew : m.new = none) :
    (s.co.moves.find? fun k => k.op = m.op ∧ k.new = none) = some m := by
  obtain ⟨hop, before, after, hsplit, hbefore⟩ := List.find?_eq_some_iff_append.mp hm
  refine List.find?_eq_some_iff_append.mpr ⟨decide_eq_true ⟨of_decide_eq_true hop, hnew⟩, before, after, hsplit, ?_⟩
  intro k hk
  have hne : ¬ k.op = m.op := by simpa only [decide_eq_false_iff_not, Bool.not_eq_true', decide_not] using hbefore k hk
  rw [decide_eq_false fun h => hne h.1]
  rfl

theorem tmoveInsert_full {e : DirEnt} (hm : s.co.moves.find? (fun k => k.op = m.op) = some m) (hnew : m.new = none)
    (he : s.dirEnt m.src = some e) (hfull : s.freeDir m.target = none) :
    exec (.tmoveInsert m.op) s = .next ((s.putDir m.src { e with st := .resident }).endMove m.op (2 ^ 64 - 1)) := by
  rw [exec_tmoveInsert, execTmoveInsert]
  simp only [find_move_waiting hm hnew, he, hfull, noEntry]

theorem tmoveInsert_inserts {e : DirEnt} {n : Nat} (hm : s.co.moves.find? (fun k => k.op = m.op) = some m)
    (hnew : m.new = none) (he : s.dirEnt m.src = some e) (hfree : s.freeDir m.target = some n) :
    ∃ t : State, exec (.tmoveInsert m.op) s = .next t ∧
      (∀ k, t.dirEnt k = if k = n then some ⟨e.key, m.payload, e.asid, 0, false, .inbound⟩ else s.dirEnt k) ∧
      t.co.root = s.co.root ++ [⟨none, some m.op, [m.src / 512 * 2, m.target * 2 + 1]⟩] ∧ t.fibres = s.fibres := by
  rw [exec_tmoveInsert, execTmoveInsert]
  simp only [find_move_waiting hm hnew, he, hfree]
  exact ⟨_, rfl, fun k => dirEnt_putDir s n k _, rfl, rfl⟩

theorem switch_other {x : RootMsg} {target : Bool} (hm : s.co.moves.find? (fun k => k.op = m.op) = some m)
    (hx : s.nextMsg (if target then m.target else m.src / 512) = some x) (hmove : x.move ≠ some m.op) :
    exec (.switch m.op target) s = .next s := by
  rw [exec_switch, execSwitch]
  simp only [hm, dirSize, hx]
  exact if_pos (Or.inl hmove)

theorem switch_target {x : RootMsg} {y : DirEnt} {n : Nat} (hm : s.co.moves.find? (fun k => k.op = m.op) = some m)
    (hnew : m.new = some n) (hx : s.nextMsg m.target = some x) (hmove : x.move = some m.op)
    (hside : x.cores.contains (m.target * 2 + 1) = true) (hy : s.dirEnt n = some y) :
    ∃ t : State, exec (.switch m.op true) s = .next t ∧
      (∀ k, t.dirEnt k = if k = n then some { y with st := .resident } else s.dirEnt k) ∧ t.fibres = s.fibres := by
  have hy' : (s.received x (m.target * 2 + 1)).dirEnt n = some y := hy
  have hgo : ¬ (x.move ≠ some m.op ∨ (!x.cores.contains (m.target * 2 + 1)) = true) := by
    rw [hside]; exact fun h => h.elim (fun h => h hmove) (fun h => nomatch h)
  rw [exec_switch, execSwitch]
  simp only [hm, if_true, hx, if_neg hgo, hnew, Option.getD_some, Bool.not_true, Bool.false_and, Bool.false_eq_true,
    if_false, hy']
  exact ⟨_, rfl, fun k => dirEnt_putDir _ n k _, rfl⟩

theorem switch_source {x : RootMsg} {y : DirEnt} (hm : s.co.moves.find? (fun k => k.op = m.op) = some m)
    (hx : s.nextMsg (m.src / 512) = some x) (hmove : x.move = some m.op)
    (hside : x.cores.contains (m.src / 512 * 2) = true) (hy : s.dirEnt m.src = some y) :
    ∃ t : State, exec (.switch m.op false) s = .next t ∧
      ∀ k, t.dirEnt k = if k = m.src ∧ m.ended = false
        then (if y.pins = 0 then none else some { y with remove := true }) else s.dirEnt k := by
  have hy' : (s.received x (m.src / 512 * 2 + 0)).dirEnt m.src = some y := hy
  have hgo : ¬ (x.move ≠ some m.op ∨ (!x.cores.contains (m.src / 512 * 2 + 0)) = true) := by
    rw [Nat.add_zero, hside]; exact fun h => h.elim (fun h => h hmove) (fun h => nomatch h)
  rw [exec_switch, execSwitch]
  simp only [hm, dirSize, Bool.false_eq_true, if_false, hx, if_neg hgo, Bool.not_false, Bool.true_and]
  cases hend : m.ended with
  | true => exact ⟨_, rfl, fun k => (if_neg fun h => nomatch h.2).symm⟩
  | false =>
    simp only [Bool.false_eq_true, if_false, hy']
    by_cases hpins : y.pins = 0
    · simp only [if_pos hpins]
      exact ⟨_, rfl, fun k => (dirEnt_freeEnt _ _ k).trans (by simp only [and_true]; rfl)⟩
    · simp only [if_neg hpins]
      exact ⟨_, rfl, fun k => (dirEnt_putDir _ _ k _).trans (by simp only [and_true]; rfl)⟩

end

end Sys2Proof.Machine

open Sys2Proof Sys2Proof.Machine

/-- Settles O42: TREG, TDROP and TMOVE issue by the lemmas of their registers; their effects and the steps of a move
change the directories at one entry. Where an entry becomes free the move that it was the source of may end, and with
it its operation, whose record another takes: none of that touches a directory (`dirEnt_freeEnt`). -/
theorem directories : Obligations.Directories := by
  unfold Obligations.Directories
  refine ⟨?issue, fun s core e => freeDir_eq_some_iff, ?perform, ?moves⟩
  case issue =>
    rintro a b d s f x dst hf hs rfl rfl
    have hregs : ∀ l ⊆ [a.toNat, b.toNat, b.toNat + 1, d.toNat], Settled s (resS s.cur l) :=
      fun l hl => settled_sub hs (List.map_subset _ hl)
    refine ⟨treg_issues hf (hregs _ (by simp)), fun hbad => ?_, fun hok => ?_, fun hcore => ?_, fun hcore => ?_⟩
    · rw [tdrop_issues hf (hregs _ (by simp)), if_pos hbad]
    · rw [tdrop_issues hf (hregs _ (by simp)), if_neg (ne_true_of_eq_false hok)]
    · rw [tmove_issues hf hs, if_pos (by bv_omega)]
    · rw [tmove_issues hf hs, if_neg (by bv_omega)]
  case perform =>
    intro s id o ho hdir hrec
    rw [lsuComplete_isDir ho hdir hrec]
    refine ⟨fun h => congrArg Host.Outcome.next (runDir_waits h), fun hfin hfirst => ?_⟩
    have hrun := runDir_runs hfin hfirst
    refine ⟨fun dst key pay hbody => ?_, fun n hbody => ?_, fun dst src core pay hbody => ?_⟩
    · rw [hrun, hbody]
      exact ⟨fun hfull => congrArg Host.Outcome.next (runTreg_full hfull),
        fun e hfree => congrArg Host.Outcome.next (runTreg_inserts hfree)⟩
    · rw [hrun, hbody]
      refine ⟨fun h => congrArg Host.Outcome.next (runTdrop_other h), fun e he hasid hst => ?_⟩
      dsimp only
      rw [runTdrop_mine he (mine_iff.mpr ⟨hasid, hst⟩)]
      refine ⟨fun hpins => by rw [if_neg hpins], fun hpins hmoves => ⟨s.freeEnt n, by rw [if_pos hpins], ?_, ?_⟩⟩
      · exact dirEnt_freeEnt s n
      · rw [freeEnt_unmoved hmoves]
    · have hmove : runDir s id o = runTmove s id o dst src core pay := by rw [hrun, hbody]
      rw [hmove]
      refine ⟨fun h => congrArg Host.Outcome.next (runTmove_other h), fun e he hasid hst => ?_⟩
      obtain ⟨t, ht, hrest⟩ := runTmove_mine ho he (mine_iff.mpr ⟨hasid, hst⟩)
      exact ⟨t, congrArg Host.Outcome.next ht, hrest⟩
  case moves =>
    intro s m e hm
    refine ⟨fun hnew he => ⟨fun n => tmoveInsert_inserts hm hnew he, tmoveInsert_full hm hnew he⟩,
      fun n x y => switch_target hm, fun x y => switch_source hm, fun x target => switch_other hm⟩

end

section
/-! SUPPORT. Traps (R424 to R428): when a trap is handled, the fibre in its handler and behind it, and traps without a
handler. -/

namespace Sys2Proof.Machine

/-! ### Entry (R424, R425) -/

/-- A vector entry of the valid form whose ENABLE bit for the code is set handles the trap. -/
theorem handlerFor_enabled {s : State} {f : Fibre} {code e : Nat} (htv : bitOf s.reg.tvbase 0 = true)
    (he : e = physNat s (field s.reg.tvbase 19 33 * 2 ^ 19 + 8 * f.asid.toNat) 8) (hv : e / 2 ^ 63 % 2 = 1)
    (hz : e / 2 ^ 58 % 32 = 0) (ha : e % 4 = 0) (hen : e / 2 ^ (47 + code) % 2 = 1) (hin : f.inHandler = false) :
    s.handlerFor f code = some (BitVec.ofNat 48 e) := by
  have hentry : s.trapEntry f.asid = some e := by
    rw [State.trapEntry, if_pos htv, State.vectorAt, ← he]
    exact if_pos ⟨hv, hz, ha⟩
  have hpc : BitVec.ofNat 48 (e % 2 ^ 48) = BitVec.ofNat 48 e := by
    apply BitVec.eq_of_toNat_eq
    rw [BitVec.toNat_ofNat, BitVec.toNat_ofNat, Nat.mod_mod]
  simp only [State.handlerFor, hin, Bool.false_eq_true, if_false, hentry, hen, if_true, hpc]

/-- What a trap that is handled makes of the fibre, when no host holds its vector entry. -/
theorem takeTrap_handled {s : State} {f : Fibre} {t : Trap} {h : BitVec 48} (hf : Issues s f)
    (hheld : s.vectorHeld f = []) (hh : s.handlerFor f t.code = some h) :
    s.takeTrap t = s.setFibre s.cur (f.enterHandler s.iword h t) := by
  have hf' : s.fibre s.cur = some f := hf
  simp only [State.takeTrap, hf', hheld, hh]

theorem takeTrap_unhandled {s : State} {f : Fibre} {t : Trap} (hf : Issues s f)
    (hheld : s.vectorHeld f = []) (hh : s.handlerFor f t.code = none) :
    s.takeTrap t = s.unhandledTrap s.cur f t := by
  have hf' : s.fibre s.cur = some f := hf
  simp only [State.takeTrap, hf', hheld, hh]

theorem takeTrap_asks {s : State} {f : Fibre} {b : Nat} {l : List Nat} (t : Trap) (hf : Issues s f)
    (hheld : s.vectorHeld f = b :: l) : s.takeTrap t = (askHost s (b :: l)).stall := by
  have hf' : s.fibre s.cur = some f := hf
  simp only [State.takeTrap, hf', hheld]

/-- A trap inside a handler has no handler (R424). -/
theorem takeTrap_inHandler {s : State} {f : Fibre} (t : Trap) (hf : Issues s f) (hin : f.inHandler = true) :
    s.takeTrap t = s.unhandledTrap s.cur f t := by
  refine takeTrap_unhandled hf ?_ ?_
  · simp only [State.vectorHeld, hin, Bool.not_true, Bool.and_false, Bool.false_eq_true, if_false]
  · simp only [State.handlerFor, hin, if_true]

theorem unstall_eq (f : Fibre) :
    f.unstall = { f with st := if f.st = .stalled then .current else f.st } := by
  obtain ⟨st⟩ := f
  cases st <;> rfl

/-- A doubleword of two words, the low one first. -/
theorem ofNat_two_words (lo hi : Word) : BitVec.ofNat 64 (lo.toNat + hi.toNat * 2 ^ 32) = hi ++ lo := by
  apply BitVec.eq_of_toNat_eq
  rw [BitVec.toNat_append, ← Nat.shiftLeft_add_eq_or_of_lt lo.isLt, Nat.shiftLeft_eq, BitVec.toNat_ofNat]
  have h1 := lo.isLt
  have h2 := hi.isLt
  omega

section Entered
variable (f : Fibre) (word : Word) (pc : BitVec 48) (t : Trap)

/-- The trap frame and the scalars beside it (R425). -/
theorem s_enterHandler (n : Nat) : (f.enterHandler word pc t).s n =
    if n = 63 then BitVec.ofNat 64 (f.exec.toNat + f.cf.toNat * 2 ^ 32 + if f.cede then 2 ^ 35 else 0)
    else if n = 62 then f.mode ++ word
    else if n = 61 then BitVec.ofNat 64 (t.code + t.info * 2 ^ 8 + t.imm * 2 ^ 16 + t.lanes.toNat * 2 ^ 32)
    else if n = 60 then (if t.code = 0x09 ∨ t.code = 0x0A then f.nextPc else f.pc).setWidth 64
    else f.s n := by
  have hresume : t.resumesAfter = true ↔ t.code = 0x09 ∨ t.code = 0x0A := by
    simp only [Trap.resumesAfter, trapUSER, trapBREAK, Bool.or_eq_true, beq_iff_eq]
  simp only [Fibre.enterHandler, unstall_eq, s_setS, hresume, ofNat_two_words]
  rfl

/-- What entry does to a fibre beside its scalars (R425). -/
theorem enterHandler_rest : ({ f.enterHandler word pc t with sreg := f.sreg } : Fibre) = { f with
    st := if f.st = .stalled then .current else f.st
    hidden := ⟨f.s 60, f.s 61, f.s 62, f.s 63, f.mode, f.cf⟩
    mode := 0x27, inHandler := true, pc := pc, cede := false } := by
  simp only [Fibre.enterHandler, unstall_eq]
  rfl

end Entered

/-! ### Return (R426) -/

theorem s_leaveHandler (f : Fibre) (n : Nat) : f.leaveHandler.s n =
    if n = 63 then f.hidden.s63 else if n = 62 then f.hidden.s62
    else if n = 61 then f.hidden.s61 else if n = 60 then f.hidden.s60 else f.s n := by
  simp only [Fibre.leaveHandler, s_setS]
  rfl

theorem tret_outside {s : State} {f : Fibre} (hf : Issues s f) (hin : f.inHandler = false) :
    exec .tret s = .next (s.takeTrap ⟨trapILL, 6, 0, 0⟩) := by
  rw [exec_tret, execTret, runFibre_of _ hf, hin]
  rfl

/-- TRET in a handler, once s60 to s63 are settled. -/
theorem tret_inside {s : State} {f : Fibre} (hf : Issues s f) (hin : f.inHandler = true)
    (hs : Settled s (resS s.cur [60, 61, 62, 63])) :
    exec .tret s = if badTarget (f.s 60) then .next (s.takeTrap (plainTrap trapBADPC))
      else wentTo s f.leaveHandler ((f.s 60).setWidth 48) := by
  have hs' : s.busy s.cur (resS s.cur [60, 61, 62, 63]) = false := hs
  simp only [exec_tret, execTret, runFibre_of _ hf, hin, Bool.not_true, Bool.false_eq_true, if_false, hs']
  split
  · rfl
  · exact jump_modFibre _ _ hf

end Sys2Proof.Machine

open Sys2Proof Sys2Proof.Machine

/-- Settles O12: entry and return write the four scalars of the frame (`s_enterHandler`, `s_leaveHandler`) and leave the
rest of the fibre alone but for the fields that R425 and R426 name; a trap in a handler, as every trap without one, is
the containment policy's. -/
theorem trapEntry : Obligations.TrapEntry := by
  unfold Obligations.TrapEntry
  refine ⟨?entry, ?tret, ?unhandled, fun s f t b l hf hheld => takeTrap_asks t hf hheld⟩
  case entry =>
    intro s f t e hf htv he hv hz ha hen hcode hin hheld
    rw [show 48 + (t.code - 1) = 47 + t.code by omega] at hen
    refine ⟨_, takeTrap_handled hf hheld (handlerFor_enabled htv he hv hz ha hen hin), ?_, ?_, ?_, ?_,
      fun n hn => ?_, enterHandler_rest ..⟩
    all_goals rw [s_enterHandler]
    · rfl
    · rfl
    · rfl
    · rfl
    · rw [if_neg (by omega), if_neg (by omega), if_neg (by omega), if_neg (by omega)]
  case tret =>
    intro s f hf
    refine ⟨tret_outside hf, fun hin hs => ⟨fun halign hlow => ?_, fun hbad => ?_⟩⟩
    · have hgood : ¬ badTarget (f.s 60) = true := by rw [badTarget_iff]; omega
      refine ⟨f.leaveHandler, by rw [tret_inside hf hin hs, if_neg hgood], ?_, ?_, ?_, ?_, fun n hn => ?_, rfl⟩
      all_goals rw [s_leaveHandler]
      · rfl
      · rfl
      · rfl
      · rfl
      · rw [if_neg (by omega), if_neg (by omega), if_neg (by omega), if_neg (by omega)]
    · rw [tret_inside hf hin hs, if_pos ((badTarget_iff _).mpr hbad), takeTrap_inHandler _ hf hin]
      rfl
  case unhandled =>
    rintro s f t policy absorber r hf hheld hh hcontain rfl
    rw [takeTrap_unhandled hf hheld hh]
    simp only [State.unhandledTrap, hcontain]
    refine ⟨fun h => by rw [h]; rfl, fun h => by rw [h]; rfl, fun h => ?_⟩
    obtain ⟨k, rfl⟩ := Nat.exists_eq_add_of_le' (show 2 ≤ policy from h)
    rfl

end

section
/-! SUPPORT. Resumes, pre-emption, saves and restores (R175, R185, R230, R239 to R242, R428): what FRESUME, PREEMPT,
RESTORE, CONTEXT_SAVE, BUDGET_EXHAUSTED and TENURE_SWITCH answer, case by case. -/

namespace Sys2Proof.Machine

/-! ### FRESUME (R175, R185, R428, R451) -/

section Resume
variable {s : State} {q : Nat} {tag loc : Word} {fr : BitVec 16} {i : Instr}

/-- The three commands are one, with the host's answer. -/
theorem exec_fresume_of_mem (s : State) (hi : i ∈ [Instr.fresumeReplay q tag loc fr, .fresumeError q tag loc fr,
    .fresumeKill q tag loc fr]) : ∃ a, exec i s = fresume q tag loc fr a s := by
  simp only [List.mem_cons, List.not_mem_nil, or_false] at hi
  obtain rfl | rfl | rfl := hi
  · exact ⟨.replay, rfl⟩
  · exact ⟨.error, rfl⟩
  · exact ⟨.kill, rfl⟩

theorem fresume_malformed (a : Answer) (h : 24576 ≤ loc ∨ (4 ≤ fr ∧ fr ≠ 0xFFFF)) :
    fresume q tag loc fr a s = .next (s.complete q tag 1 0) := by
  refine if_pos (h.imp id fun ⟨h4, hne⟩ => ⟨h4, fun heq => hne ?_⟩)
  exact BitVec.eq_of_toNat_eq heq

/-- What the host's answer to a waiting record makes of the machine. -/
def State.answerRecord (s : State) (at0 : Holder) (key : Nat) (r : Record) : Answer → State
  | .replay => s.resumeRecord at0 key r false
  | .error => s.resumeRecord at0 key r true
  | .kill => s.killRegion r.absorber

/-- What the host's answer to a waiting trap makes of the machine. -/
def State.answerTrap (s : State) (at0 : Holder) (loc : Nat) (w : TrapWait) : Answer → State
  | .replay => s.resumeTrap at0 loc w true
  | .error => s.resumeTrap at0 loc w false
  | .kill => s.killRegion w.absorber

/-- A command that names a frame of a fibre goes on to the records that wait. -/
theorem fresume_frame (a : Answer) (hl : loc < 24576) (hfr : fr < 4) :
    (s.findWaiting (loc.toNat * 4 + fr.toNat) = none → fresume q tag loc fr a s = .next (s.complete q tag 2 0)) ∧
    ∀ at0 r, s.findWaiting (loc.toNat * 4 + fr.toNat) = some (at0, r) →
      fresume q tag loc fr a s = .next ((s.answerRecord at0 (loc.toNat * 4 + fr.toNat) r a).complete q tag 0 0) := by
  have hl' : loc.toNat < 24576 := hl
  have hfr' : fr.toNat < 4 := hfr
  rw [fresume, if_neg (by simp only [Config.cores]; omega), if_neg (by omega)]
  refine ⟨fun h => by rw [h]; rfl, fun at0 r h => ?_⟩
  rw [h]
  cases a <;> rfl

/-- Frame 0xFFFF is the trap of a fibre. -/
theorem fresume_trap (a : Answer) {at0 : Holder} {w : TrapWait} (hl : loc < 24576) (hfr : fr = 0xFFFF)
    (h : s.findTrapped loc.toNat = some (at0, w)) :
    fresume q tag loc fr a s = .next ((s.answerTrap at0 loc.toNat w a).complete q tag 0 0) := by
  have hl' : loc.toNat < 24576 := hl
  have hfr' : fr.toNat = 0xFFFF := congrArg BitVec.toNat hfr
  rw [fresume, if_neg (by simp only [Config.cores]; omega), if_pos hfr', h]
  cases a <;> rfl

end Resume

theorem findWaiting_chip {s : State} {key : Nat} {r : Record} (h : Sparse.find s.eng.recs key = some r)
    (hw : r.waiting = true) : s.findWaiting key = some (.chip, r) := by
  simp only [State.findWaiting, h, Option.filter, hw, if_true]

theorem findTrapped_chip {s : State} {loc : Nat} {f : Fibre} {w : TrapWait} (hf : s.fibre loc = some f)
    (hw : f.trapWait = some w) : s.findTrapped loc = some (.chip, w) := by
  simp only [State.findTrapped, hf, Option.bind_some, hw]

/-- A record on the chip ripens and its operation may take the error response; fibres and memories stay. -/
theorem resumeRecord_chip {s : State} {key : Nat} {r : Record} {o : Op} (ho : Sparse.find s.eng.ops r.op = some o)
    (err : Bool) : Sparse.find (s.resumeRecord .chip key r err).eng.ops r.op = some { o with err := o.err || err } ∧
      (∀ k, Sparse.find (s.resumeRecord .chip key r err).eng.recs k =
        if k = key then some { r with ripe := true, waiting := false } else Sparse.find s.eng.recs k) ∧
      (s.resumeRecord .chip key r err).fibres = s.fibres ∧ (s.resumeRecord .chip key r err).mem = s.mem := by
  refine ⟨?_, fun k => Sparse.find_put .., rfl, rfl⟩
  simp only [State.resumeRecord, State.modOp, Sparse.find_adjust, if_true, ho, Option.map_some]

theorem resumeTrap_chip {s : State} {loc : Nat} {f : Fibre} (w : TrapWait) (again : Bool) (hf : s.fibre loc = some f) :
    s.resumeTrap .chip loc w again =
      (s.setFibre loc { f with trapWait := none, pc := if again then f.pc else w.next }).unpark loc := by
  simp only [State.resumeTrap, modFibre_of_fibre _ hf]

/-! ### PREEMPT (R239, R242, R458) -/

section Preempt
variable {s : State} {q : Nat} {tag rgn : Word} {a : Dword}

theorem badAddr_iff (s : State) (a : Dword) : s.badAddr a.toNat 4096 = true ↔
    a.toNat % 4096 ≠ 0 ∨ 2 ^ 52 ≤ a ∨ s.namesMemory a.toNat = false := by
  have hlow : (2 ^ 52 : Dword) ≤ a ↔ 2 ^ 52 ≤ a.toNat := Iff.rfl
  simp only [State.badAddr, Bool.or_eq_true, bne_iff_ne, decide_eq_true_eq, Bool.not_eq_true', or_assoc, hlow]

theorem preemptBad_iff (s : State) (rgn : Word) (a : Dword) : s.preemptBad rgn a = true ↔
    2 ^ 24 ≤ rgn ∨ a.toNat % 4096 ≠ 0 ∨ 2 ^ 52 ≤ a ∨ s.namesMemory a.toNat = false := by
  rw [State.preemptBad, Bool.or_eq_true, badAddr_iff, decide_eq_true_eq]
  rfl

theorem lockedRegion_of_iface {j : Iface} {n : Nat} (hj : j ∈ s.io.ifaces) (hin : s.inSubtree j.region n = true) :
    s.lockedRegion n = true := by
  rw [State.lockedRegion, State.ifaceOf, List.find?_isSome]
  exact ⟨j, hj, hin⟩

theorem lockedRegion_unlocked (h : Unlocked s) (n : Nat) : s.lockedRegion n = false := by
  have h' : s.io.ifaces = [] := h
  rw [State.lockedRegion, State.ifaceOf, h']
  rfl

/-- What PREEMPT SAVE answers. -/
theorem preemptSave_eq : exec (.preemptSave q tag rgn a) s =
    if s.preemptBad rgn a then .next (s.complete q tag 1 0)
    else if s.preemptable rgn.toNat then
      .next (((s.modRcb rgn.toNat fun r => r).suspendRegion rgn.toNat).await q tag (.save rgn.toNat a.toNat))
    else .next (s.complete q tag 2 0) := by
  rw [exec_preemptSave, execPreemptSave]
  cases s.preemptBad rgn a <;> cases s.preemptable rgn.toNat <;> rfl

/-- What PREEMPT DISCARD answers, for a region that is entered. -/
theorem preemptDiscard_eq {r : Rcb} (hr : s.rcb rgn.toNat = some r) (hgood : s.preemptBad rgn a = false)
    (hfree : s.lockedRegion rgn.toNat = false) (hp : s.preemptable rgn.toNat = true) :
    exec (.preemptDiscard q tag rgn a) s = if r.idem then
      .next ((((s.setRcb rgn.toNat r).suspendRegion rgn.toNat).discardGroups rgn.toNat).await q tag
        (.save rgn.toNat a.toNat))
    else .next (s.complete q tag 2 0) := by
  simp only [exec_preemptDiscard, execPreemptDiscard, State.modRcb, hgood, hfree, hp, hr, Bool.not_true, Bool.false_or,
    Option.map_some, Option.getD_some, Bool.false_eq_true, if_false]
  cases r.idem <;> rfl

theorem preemptDiscard_malformed (hbad : s.preemptBad rgn a = true) :
    exec (.preemptDiscard q tag rgn a) s = .next (s.complete q tag 1 0) := if_pos hbad

theorem preemptDiscard_locked (hgood : s.preemptBad rgn a = false) (hl : s.lockedRegion rgn.toNat = true) :
    exec (.preemptDiscard q tag rgn a) s = .next (s.complete q tag 3 0) := by
  rw [exec_preemptDiscard, execPreemptDiscard, hgood, hl]
  rfl

/-! ### RESTORE (R241) -/

theorem restore_malformed (hbad : s.badAddr a.toNat 4096 = true) :
    exec (.restore q tag a) s = .next (s.complete q tag 1 0) := if_pos hbad

theorem restore_unsaved (hgood : s.badAddr a.toNat 4096 = false) (hv : ∀ v ∈ s.sched.saves, v.area ≠ a.toNat) :
    exec (.restore q tag a) s = .next (s.complete q tag 2 0) := by
  have hnone : s.sched.saves.find? (fun v => v.area = a.toNat) = none :=
    List.find?_eq_none.mpr fun v h => by simpa using hv v h
  rw [exec_restore, execRestore, hgood, hnone]
  rfl

/-- RESTORE of a save area whose region lives, while no other command waits. -/
theorem restore_saved {v : Save} {r : Rcb} (hgood : s.badAddr a.toNat 4096 = false)
    (hv : s.sched.saves.find? (fun v => v.area = a.toNat) = some v) (hr : s.rcb v.region = some r)
    (hst : r.st ≠ .killed) (hp : s.io.pending = []) : exec (.restore q tag a) s =
      if v.units.isEmpty then .next ((s.endRestore v q tag).getD (s.await q tag (.restore a.toNat)))
      else .next (s.await q tag (.restore a.toNat)) := by
  have hlive : (r.st == RegionState.killed) = false := beq_eq_false_iff_ne.mpr hst
  simp only [exec_restore, execRestore, hgood, hv, hr, hp, hlive, Option.map_some, Option.getD_some, List.any_nil,
    Bool.or_self, Bool.false_eq_true, if_false]

end Preempt

/-! ### The save, the budget and the tenure (R194, R230, R239, R240) -/

section Save
variable {s : State} {n q area : Nat} {tag : Word} (hp : s.io.pending = [⟨q, tag, .save n area⟩])
include hp

/-- The save waits for the subtree's operations. -/
theorem contextSave_unready (h : s.saveReady (s.gather area n) = false) : exec (.contextSave n) s = .next s := by
  simp only [exec_contextSave, execContextSave, hp, List.find?_cons, beq_self_eq_true, h]
  rfl

/-- The save of a subtree at rest, whose spilled units can all be read, ends the command that waits for it. -/
theorem contextSave_saves {spills : Sparse (List Byte)} {t : State} (h : s.saveReady (s.gather area n) = true)
    (hread : readAllSpills s (s.gather area n).fibres [] = (true, spills, t)) : exec (.contextSave n) s =
      .next ((t.putAway { s.gather area n with spills := spills }).complete q tag 0 0) := by
  simp only [exec_contextSave, execContextSave, hp, List.find?_cons, beq_self_eq_true, h, hread]
  rfl

end Save

theorem tenureSwitch_eq {s : State} {slot loc : Nat} {f : Fibre} (hh : s.holder slot = some loc)
    (hf : s.fibre loc = some f) : exec (.tenureSwitch slot) s =
      .next (if s.rotation slot = none then s else s.setFibre loc { f with st := .ready }) := by
  rw [exec_tenureSwitch, execTenureSwitch, hh]
  cases s.rotation slot with
  | none => rfl
  | some mate => exact congrArg Host.Outcome.next (modFibre_of_fibre _ hf)

end Sys2Proof.Machine

open Sys2Proof Sys2Proof.Machine

/-- Settles O49: each command answers by the first of its checks that fails (`preemptBad_iff`, `badAddr_iff`), and what
FRESUME names on the chip comes before what a save area holds. -/
theorem preemption : Obligations.Preemption := by
  unfold Obligations.Preemption
  refine ⟨?resume, ⟨?preempt, ?save, ?budget, fun s slot loc f => tenureSwitch_eq⟩⟩
  case resume =>
    rintro s q tag loc fr key rfl
    refine ⟨fun hbad i hi => ?_, fun hl hfr => ⟨fun hnone i hi => ?_, fun r o hr hw ho => ⟨?_, ?_⟩⟩, ?_⟩
    · obtain ⟨a, ha⟩ := exec_fresume_of_mem s hi
      exact ha.trans (fresume_malformed a hbad)
    · obtain ⟨a, ha⟩ := exec_fresume_of_mem s hi
      exact ha.trans ((fresume_frame a hl hfr).1 hnone)
    · have hres := fun a => (fresume_frame (q := q) (tag := tag) a hl hfr).2 _ _ (findWaiting_chip hr hw)
      intro i err hi
      simp only [List.mem_cons, List.not_mem_nil, or_false, Prod.mk.injEq] at hi
      obtain ⟨rfl, rfl⟩ | ⟨rfl, rfl⟩ := hi
      · obtain ⟨hop, hrest⟩ := resumeRecord_chip (key := loc.toNat * 4 + fr.toNat) ho false
        exact ⟨_, hres .replay, by rwa [Bool.or_false] at hop, hrest⟩
      · obtain ⟨hop, hrest⟩ := resumeRecord_chip (key := loc.toNat * 4 + fr.toNat) ho true
        exact ⟨_, hres .error, by rwa [Bool.or_true] at hop, hrest⟩
    · exact (fresume_frame .kill hl hfr).2 _ _ (findWaiting_chip hr hw)
    · intro hl hfr f w hf hw
      have hres := fun a => fresume_trap (q := q) (tag := tag) a hl hfr (findTrapped_chip hf hw)
      refine ⟨fun i pc hi => ?_, hres .kill⟩
      simp only [List.mem_cons, List.not_mem_nil, or_false, Prod.mk.injEq] at hi
      obtain ⟨rfl, rfl⟩ | ⟨rfl, rfl⟩ := hi
      · exact (hres .replay).trans (by rw [State.answerTrap, resumeTrap_chip w true hf]; rfl)
      · exact (hres .error).trans (by rw [State.answerTrap, resumeTrap_chip w false hf]; rfl)
  case preempt =>
    rintro s q tag rgn a n rfl
    have hgood : ∀ {b : Bool} {p : Prop}, (b = true ↔ p) → ¬ p → b = false :=
      fun h hp => Bool.eq_false_iff.mpr fun hb => hp (h.mp hb)
    have haddr : a.toNat % 4096 = 0 → a < 2 ^ 52 → s.namesMemory a.toNat = true → s.badAddr a.toNat 4096 = false :=
      fun h0 hlow hmem => hgood (badAddr_iff s a) (by
        rintro (h | h | h)
        · exact h h0
        · exact absurd hlow (BitVec.not_lt.mpr h)
        · exact Bool.noConfusion (hmem.symm.trans h))
    refine ⟨fun hbad => ?_, fun hrgn h0 hlow hmem => ?_, fun hbad => restore_malformed ((badAddr_iff s a).mpr hbad),
      fun h0 hlow hmem => restore_unsaved (haddr h0 hlow hmem), fun v r h0 hlow hmem hv hr hst hp => ?_⟩
    · have hbad' := (preemptBad_iff s rgn a).mpr hbad
      exact ⟨by rw [Ends, preemptSave_eq, if_pos hbad'], preemptDiscard_malformed hbad'⟩
    · have hok : s.preemptBad rgn a = false := by
        rw [State.preemptBad, haddr h0 hlow hmem, Bool.or_false, decide_eq_false_iff_not, Nat.not_le]
        exact hrgn
      refine ⟨fun j hj hin => preemptDiscard_locked hok (lockedRegion_of_iface hj hin), fun hp => ?_,
        fun r hp hr => ⟨?_, fun hu hidem => ?_, fun hu hidem => ?_⟩⟩
      · rw [Ends, preemptSave_eq, hok, hp]
        rfl
      · rw [Awaits, preemptSave_eq, hok, hp, State.modRcb, hr]
        rfl
      · rw [Ends, preemptDiscard_eq hr hok (lockedRegion_unlocked hu _) hp, hidem]
        rfl
      · rw [Awaits, preemptDiscard_eq hr hok (lockedRegion_unlocked hu _) hp, hidem]
        rfl
    · have hrun := restore_saved (q := q) (tag := tag) (haddr h0 hlow hmem) hv hr hst hp
      refine ⟨fun hne => ?_, fun hnone => ⟨fun t ht => ?_, fun ht => ?_⟩⟩
      · rw [Awaits, hrun, if_neg (by rwa [List.isEmpty_iff])]
      · rw [hrun, hnone, ht]
        rfl
      · rw [Awaits, hrun, hnone, ht]
        rfl
  case save =>
    exact fun s n q area tag hp => ⟨contextSave_unready hp, fun spills t => contextSave_saves hp⟩
  case budget =>
    intro s n r hr
    rw [exec_budgetExhausted, execBudgetExhausted, hr]

end

section
/-! SUPPORT. Work that starts and ends: the region that is served (R227, R232), placement of a grid group (R215 to R217),
task records that a core takes (R224), the table of launches (R221), and the teller's bins, overflow ring and fibres (R205
to R207, R439 to R441). -/

namespace Sys2Proof.Machine

/-! ### The region that is served (R227, R232) -/

/-- A region with placeable work, as the placer considers it. -/
abbrev Candidate := Nat × Rcb × List Work

/-- `x` goes before `y`, or neither before the other: by PRIO, then by PASS. -/
def Candidate.AtLeast (x y : Candidate) : Prop :=
  y.2.1.prio < x.2.1.prio ∨ (y.2.1.prio = x.2.1.prio ∧ x.2.1.pass ≤ y.2.1.pass)

theorem Candidate.AtLeast.refl (x : Candidate) : x.AtLeast x := Or.inr ⟨rfl, Nat.le_refl _⟩

theorem Candidate.AtLeast.trans {x y z : Candidate} (h : x.AtLeast y) (h' : y.AtLeast z) : x.AtLeast z := by
  simp only [Candidate.AtLeast] at *
  omega

/-- The better of the best so far and a further region: the earlier one of two equals. -/
def Candidate.better (acc : Option Candidate) (x : Candidate) : Option Candidate :=
  match acc with
  | none => some x
  | some a => if a.2.1.prio < x.2.1.prio ∨ (a.2.1.prio = x.2.1.prio ∧ x.2.1.pass < a.2.1.pass) then some x else acc

/-- One of the two stays, and it is at least as good as both. -/
theorem Candidate.better_some (a x : Candidate) : ∃ b, Candidate.better (some a) x = some b ∧ (b = a ∨ b = x) ∧
    b.AtLeast a ∧ b.AtLeast x := by
  simp only [Candidate.better]
  split
  · next h => exact ⟨x, rfl, Or.inr rfl, h.imp id fun ⟨h1, h2⟩ => ⟨h1, Nat.le_of_lt h2⟩, .refl x⟩
  · next h => exact ⟨a, rfl, Or.inl rfl, .refl a, by simp only [Candidate.AtLeast]; omega⟩

/-- The fold from a region on keeps the best of it and the list. -/
theorem foldl_better_some (l : List Candidate) : ∀ a, ∃ b, l.foldl Candidate.better (some a) = some b ∧
    b ∈ a :: l ∧ ∀ y ∈ a :: l, b.AtLeast y := by
  induction l with
  | nil => exact fun a => ⟨a, rfl, List.mem_singleton_self a, fun y hy => List.mem_singleton.mp hy ▸ .refl a⟩
  | cons x l ih =>
    intro a
    obtain ⟨c, hc, hmem, ha, hx⟩ := Candidate.better_some a x
    obtain ⟨b, hb, hbmem, hball⟩ := ih c
    have hbc := hball c List.mem_cons_self
    refine ⟨b, by rw [List.foldl_cons, hc, hb], ?_, fun y hy => ?_⟩
    · rcases List.mem_cons.mp hbmem with rfl | hl
      · rcases hmem with rfl | rfl
        · exact List.mem_cons_self
        · exact List.mem_cons_of_mem _ List.mem_cons_self
      · exact List.mem_cons_of_mem _ (List.mem_cons_of_mem _ hl)
    · rcases List.mem_cons.mp hy with rfl | hy
      · exact hbc.trans ha
      · rcases List.mem_cons.mp hy with rfl | hl
        · exact hbc.trans hx
        · exact hball y (List.mem_cons_of_mem _ hl)

theorem foldl_better_best {l : List Candidate} {x : Candidate} (h : l.foldl Candidate.better none = some x) :
    x ∈ l ∧ ∀ y ∈ l, x.AtLeast y := by
  cases l with
  | nil => exact nomatch h
  | cons a l =>
    obtain ⟨b, hb, hmem, hall⟩ := foldl_better_some l a
    cases hb.symm.trans h
    exact ⟨hmem, hall⟩

theorem foldl_better_eq_none {l : List Candidate} (h : l.foldl Candidate.better none = none) : l = [] := by
  cases l with
  | nil => rfl
  | cons a l =>
    obtain ⟨b, hb, -⟩ := foldl_better_some l a
    exact nomatch hb.symm.trans h

/-- The regions that R232 does not skip come first. -/
theorem bestRegion_eq (s : State) (l : List Candidate) : s.bestRegion l =
    ((l.filter fun x => !s.heldBack x.2.2).foldl Candidate.better none).or (l.foldl Candidate.better none) := by
  unfold State.bestRegion
  extract_lets best
  have hbest : ∀ m : List Candidate, best m = m.foldl Candidate.better none := fun m => rfl
  rw [hbest, hbest]
  cases (l.filter fun x => !s.heldBack x.2.2).foldl Candidate.better none with
  | none => rfl
  | some x => rfl

theorem bestRegion_best {s : State} {l : List Candidate} {x : Candidate} (h : s.bestRegion l = some x) : x ∈ l ∧
    ((∃ y ∈ l, s.heldBack y.2.2 = false) → s.heldBack x.2.2 = false) ∧
    ∀ y ∈ l, s.heldBack y.2.2 = s.heldBack x.2.2 → x.AtLeast y := by
  rw [bestRegion_eq] at h
  cases hfree : (l.filter fun x => !s.heldBack x.2.2).foldl Candidate.better none with
  | some a =>
    cases (congrArg (Option.or · _) hfree).symm.trans h
    obtain ⟨hmem, hall⟩ := foldl_better_best hfree
    obtain ⟨hl, hnot⟩ := List.mem_filter.mp hmem
    have hx : s.heldBack x.2.2 = false := by rwa [Bool.not_eq_true'] at hnot
    refine ⟨hl, fun _ => hx, fun y hy heq => hall y (List.mem_filter.mpr ⟨hy, ?_⟩)⟩
    rw [heq, hx]
    rfl
  | none =>
    rw [hfree, Option.none_or] at h
    have hall : ∀ y ∈ l, s.heldBack y.2.2 = true := fun y hy => by
      have hy' := List.filter_eq_nil_iff.mp (foldl_better_eq_none hfree) y hy
      rwa [Bool.not_eq_true', Bool.not_eq_false] at hy'
    obtain ⟨hmem, hbest⟩ := foldl_better_best h
    refine ⟨hmem, fun ⟨y, hy, hf⟩ => ?_, fun y hy _ => hbest y hy⟩
    exact absurd ((hall y hy).symm.trans hf) (by decide)

theorem bestRegion_nil (s : State) : s.bestRegion [] = none := rfl

theorem bestRegion_singleton (s : State) (x : Candidate) : s.bestRegion [x] = some x := by
  rw [bestRegion_eq, List.filter_cons]
  cases s.heldBack x.2.2
  · rfl
  · rfl

/-! ### What placing and taking leave as it was -/

section Frame
variable (s : State)

/-- A control block that changes is in the cache, and nothing else changes. -/
theorem modRcb_rcbs (rgn : Nat) (g : Rcb → Rcb) :
    ∃ rc, s.modRcb rgn g = { s with sched := { s.sched with rcbs := rc } } := by
  unfold State.modRcb
  split
  · exact ⟨_, rfl⟩
  · exact ⟨s.sched.rcbs, rfl⟩

theorem fibres_modRcb (rgn : Nat) (g : Rcb → Rcb) : (s.modRcb rgn g).fibres = s.fibres := by
  obtain ⟨rc, h⟩ := modRcb_rcbs s rgn g
  rw [h]

theorem sched_physWrite (p : Nat) (b : List Byte) : (physWrite s p b).sched = s.sched := by
  obtain ⟨m, hm⟩ := physWrite_mem p b s
  rw [hm]

theorem fibres_physWrite (p : Nat) (b : List Byte) : (physWrite s p b).fibres = s.fibres := by
  obtain ⟨m, hm⟩ := physWrite_mem p b s
  rw [hm]

theorem fibres_lineOut (core line : Nat) : (s.lineOut core line).fibres = s.fibres := by
  unfold State.lineOut
  dsimp only
  split
  · split
    · rfl
    · rfl
  · rfl

theorem fibres_convertWays (core k : Nat) : ∀ (s : State) (ways : Nat) (lines : List Nat),
    (s.convertWays core k ways lines).fibres = s.fibres := by
  induction k with
  | zero => exact fun s ways lines => rfl
  | succ k ih =>
    intro s ways lines
    rw [State.convertWays]
    split
    · exact (ih ..).trans (fibres_lineOut (s.drew 1) core _)
    · exact ih ..

theorem fibres_growCarve (core scr : Nat) : (s.growCarve core scr).fibres = s.fibres :=
  foldl_keeps (obs := State.fibres) (fun acc _ => fibres_convertWays core _ acc _ _) _ s

theorem fibres_notePass (l : List Candidate) : (s.notePass l).fibres = s.fibres := by
  unfold State.notePass
  extract_lets idle
  refine foldl_keeps (obs := State.fibres) (fun acc x => ?_) l _
  rfl

theorem fibres_putGroup (id : Nat) (g : Group) (slots : List (Nat × Slot)) (fibres : List (Nat × Fibre))
    (from0 : List Nat) : (s.putGroup id g slots fibres from0).fibres =
      fibres.foldl (fun acc e => Sparse.put acc e.1 e.2) s.fibres := by
  unfold State.putGroup
  exact fibres_modRcb ..

theorem bins_putGroup (id : Nat) (g : Group) (slots : List (Nat × Slot)) (fibres : List (Nat × Fibre))
    (from0 : List Nat) : (s.putGroup id g slots fibres from0).sched.bins = s.sched.bins := by
  unfold State.putGroup
  extract_lets s1
  obtain ⟨rc, h⟩ := modRcb_rcbs s1 g.region fun r => { r with live := r.live + 1 }
  rw [h]
  rfl

theorem sched_advance (qtab : Nat) (x : Source) : (s.advance qtab x).sched = s.sched := by
  cases x with
  | back q => exact (sched_physWrite _ _ _).trans (sched_physWrite s _ _)
  | ring q core => exact sched_physWrite s _ _

theorem fibres_advance (qtab : Nat) (x : Source) : (s.advance qtab x).fibres = s.fibres := by
  cases x with
  | back q => exact (fibres_physWrite _ _ _).trans (fibres_physWrite s _ _)
  | ring q core => exact fibres_physWrite s _ _

/-- Which launch declares an entry rests on the launches and the save areas alone. -/
theorem declaring_congr {s t : State} (h : t.sched = s.sched) (rgn entry : Nat) (group : Bool) :
    t.declaring rgn entry group = s.declaring rgn entry group := by
  simp only [State.declaring, State.allLaunches, h]

/-- Hosts that hold no block are asked for nothing. -/
theorem askQueues_of_unheld {s : State} (h : s.mem.hostBlocks = []) (cores : List Nat) : s.askQueues cores = s := by
  rw [State.askQueues, h]
  rfl

end Frame

/-- The control block of a region rests on the cache of control blocks, memories and the device's registers. -/
theorem rcb_congr {s t : State} (hc : t.sched.rcbs = s.sched.rcbs) (hm : t.mem = s.mem) (hr : t.reg = s.reg) (rgn : Nat) :
    t.rcb rgn = s.rcb rgn := by
  simp only [State.rcb, State.regionTable, physNat, physRead, devPlace, hc, hm, hr]

theorem rcb_of_find {s : State} {rgn : Nat} {c : Rcb} (h : Sparse.find s.sched.rcbs rgn = some c) :
    s.rcb rgn = some c := by
  rw [State.rcb, h]

theorem modRcb_of_rcb {s : State} {rgn : Nat} {c : Rcb} (g : Rcb → Rcb) (h : s.rcb rgn = some c) :
    s.modRcb rgn g = s.setRcb rgn (g c) := by
  rw [State.modRcb, h]

/-! ### Placement (R215 to R217, R227) -/

theorem placing_iff (s : State) : s.placing = true ↔
    s.reg.rplbase.getLsbD 0 = true ∧ s.reg.ctxbase.getLsbD 0 = true ∧ s.tripped = false := by
  simp only [State.placing, bitOf_eq_getLsbD, Bool.and_eq_true, Bool.not_eq_true', and_assoc]

theorem placement_idle {s : State} (h : s.placing = false) : exec .placement s = .next s := by
  rw [exec_placement, execPlacement, h]
  rfl

/-- The placer's decision, while no RESTORE can place anything and no host holds a block. -/
theorem placement_decides {s : State} {n : Nat} {r : Rcb} {w : Work} {rest : List Work} (hp : s.placing = true)
    (hr : s.restoring = none) (hm : s.mem.hostBlocks = [])
    (hbest : (s.notePass s.considered).bestRegion (s.notePass s.considered).considered = some (n, r, w :: rest)) :
    exec .placement s = .next ((s.notePass s.considered).placeWork n r w) := by
  have hone : s.placeOne = (s.notePass s.considered).placeWork n r w := by
    simp only [State.placeOne, hp, askQueues_of_unheld hm, if_true, Bool.not_true, Bool.false_eq_true, if_false, hbest]
  rw [exec_placement, execPlacement, hp, hr, hone]
  rfl

theorem loadScalars_nil (f : Fibre) : loadScalars f [] = f := rfl

section Grid
variable {s : State} {id lin core k n : Nat} {l : Launch} {role : Role} {r : Rcb}

/-- The one fibre of a group of one gang of one role, without arguments, at the foot of its slot (R215, R217). -/
def gridFibre (c : LaunchRec) (role : Role) (id lin k g : Nat) (asid : BitVec 16) : Fibre :=
  { roleFibre c role (4 * k) with
    exec := c.lanes lin 0, region := c.rnum, asid := asid, lid := 0, group := g, launch := id }

theorem fibres_placeGrid (hrole : l.lrec.nrole = 1) (hroles : l.lrec.roles = [role])
    (hargs : l.lrec.args = []) : (s.placeGrid id l lin core [k] r).fibres =
      Sparse.put s.fibres (4 * k) (gridFibre l.lrec role id lin k s.fresh r.asid) := by
  have hused : l.lrec.used = [role] := by rw [LaunchRec.used, hrole, hroles]; rfl
  unfold State.placeGrid
  extract_lets c g mask regs fs fresh grp sl grown s1
  have hfs : fs = [(4 * k, gridFibre l.lrec role id lin k s.fresh r.asid)] := by
    simp only [fs, c, g, hused, hrole, hargs, loadScalars_nil, List.length_singleton, List.range_one, List.flatMap_singleton,
      List.map_cons, List.map_nil, List.getD_cons_zero, Nat.zero_mul, Nat.add_zero, Nat.mul_comm k 4]
    rfl
  have h1 : s1.fibres = s.fibres := fibres_growCarve s core _
  refine (fibres_putGroup s1 g grp sl fs l.core.toList).trans ?_
  rw [hfs, h1]
  rfl

end Grid

/-! ### Task records (R224) -/

theorem taskTake_outside {s : State} {core : Nat} (h : Config.cores ≤ core ∨ s.coreRuns core = false) :
    exec (.taskTake core) s = .next s := if_pos h

/-- With one region to take for, a core takes what it finds there, or nothing. -/
theorem taskTake_nothing {s : State} {core rgn : Nat} (hm : s.mem.hostBlocks = []) (hw : s.workRegions = [rgn])
    (hf : s.findTask core rgn = none) : exec (.taskTake core) s = .next s := by
  rw [exec_taskTake, execTaskTake]
  split
  · rfl
  · simp only [askQueues_of_unheld hm, hw, List.filterMap_cons, List.filterMap_nil, hf, ite_self]
    cases s.rcb rgn with
    | none => rfl
    | some r => rfl

theorem taskTake_takes {s : State} {core rgn qtab : Nat} {r : Rcb} {x : Source} {b : List Byte}
    (hm : s.mem.hostBlocks = []) (hc : core < Config.cores) (hrun : s.coreRuns core = true) (hw : s.workRegions = [rgn])
    (hr : s.rcb rgn = some r) (hst : r.st = .active) (ht : r.tickets ≠ 0) (hf : s.findTask core rgn = some (qtab, x, b))
    (hroom : s.taskRoom core rgn b = true) : exec (.taskTake core) s = .next (s.takeTask core rgn) := by
  have hgo : ¬ (Config.cores ≤ core ∨ s.coreRuns core = false) := by
    rw [hrun]
    exact fun h => h.elim (Nat.not_le.mpr hc) (fun h => nomatch h)
  rw [exec_taskTake, execTaskTake, if_neg hgo]
  simp only [askQueues_of_unheld hm, hw, List.filterMap_cons, List.filterMap_nil, hr, Option.bind_some, hst, ht, hf, hroom,
    ne_eq, not_false_eq_true, and_self, if_true, bestRegion_singleton]

/-- A good record of a declared entry becomes a receipt. -/
theorem takeTask_receipt {s : State} {core rgn qtab : Nat} {x : Source} {b : List Byte} (hm : s.mem.hostBlocks = [])
    (hf : s.findTask core rgn = some (qtab, x, b)) (hroom : s.taskRoom core rgn b = true) (hbad : recBad b = false)
    (hg : recGroup b = true) (hd : s.declaring rgn (recEntry b) true ≠ none) :
    (s.takeTask core rgn).sched.receipts = s.sched.receipts ++ [⟨core, rgn, x.queue, b, false⟩] ∧
      (s.takeTask core rgn).fibres = s.fibres := by
  have hheld : (s.queueHeld core rgn).isEmpty = true := by
    unfold State.queueHeld
    rw [hm]
    split
    · rfl
    · rfl
  unfold State.takeTask
  simp only [hf, hroom, hheld, Bool.not_true, Bool.or_self, Bool.false_eq_true, if_false, hbad, hg, Bool.false_or]
  generalize hs1 : (s.advance qtab x).startAcquire core (s.madeBy qtab x) = s1
  have hsched : s1.sched = s.sched := by rw [← hs1]; exact sched_advance s qtab x
  have hfib : s1.fibres = s.fibres := by rw [← hs1]; exact fibres_advance s qtab x
  have hdecl : (s1.declaring rgn (recEntry b) true).isNone = false := by
    rw [declaring_congr hsched, Option.isNone_eq_false_iff, Option.isSome_iff_ne_none]
    exact hd
  rw [hdecl]
  exact ⟨by rw [if_neg Bool.false_ne_true, hsched], hfib⟩

/-! ### Launches that end (R221) -/

theorem launchEnded_iff (l : Launch) : l.ended = true ↔ l.nextLin = none ∧ l.placed = 0 ∧ l.records = 0 := by
  simp only [Launch.ended, Bool.and_eq_true, Option.isNone_iff_eq_none, beq_iff_eq, and_assoc]

theorem launchRetire_live {s : State} {id : Nat} {l : Launch} (hl : Sparse.find s.sched.launches id = some l)
    (h : l.ended = false) : exec (.launchRetire id) s = .next s := by
  rw [exec_launchRetire, execLaunchRetire, hl]
  simp only [h]
  rfl

theorem launchRetire_ended {s : State} {id : Nat} {l : Launch} (hl : Sparse.find s.sched.launches id = some l)
    (h : l.ended = true) (hdone : l.lrec.done = 0) : exec (.launchRetire id) s =
      .next { s with sched := { s.sched with launches := Sparse.erase s.sched.launches id } } := by
  rw [exec_launchRetire, execLaunchRetire, hl]
  simp only [h, hdone]
  rfl

/-! ### The teller's bins (R206, R439, R440) -/

/-- Records of one core in a list of bins. -/
def heldIn (core : Nat) (bins : List Bin) : Nat := ((bins.filter fun b => b.core = core).map fun b => b.records.length).sum

theorem tellerHolds_eq (s : State) (core : Nat) : s.tellerHolds core = heldIn core s.sched.bins := rfl

theorem heldIn_cons (core : Nat) (b : Bin) (l : List Bin) :
    heldIn core (b :: l) = (if b.core = core then b.records.length else 0) + heldIn core l := by
  by_cases h : b.core = core
  · rw [heldIn, List.filter_cons_of_pos (by rwa [decide_eq_true_eq]), List.map_cons, List.sum_cons, if_pos h]
    rfl
  · rw [heldIn, List.filter_cons_of_neg (by rwa [decide_eq_true_eq]), if_neg h, Nat.zero_add]
    rfl

theorem heldIn_append (core : Nat) (l m : List Bin) : heldIn core (l ++ m) = heldIn core l + heldIn core m := by
  rw [heldIn, List.filter_append, List.map_append, List.sum_append]
  rfl

/-- Ripening moves bins and changes none of their records. -/
theorem heldIn_ripen (core : Nat) (bins : List Bin) (p : Bin → Bool) : heldIn core (ripen bins p) = heldIn core bins := by
  unfold ripen
  extract_lets now
  rw [heldIn_append]
  induction bins with
  | nil => rfl
  | cons b l ih =>
    cases hnow : now b
    · rw [List.filter_cons_of_pos (by rw [hnow]; rfl), List.filter_cons_of_neg (by rw [hnow]; decide), heldIn_cons,
        heldIn_cons, ← ih, Nat.add_assoc]
    · rw [List.filter_cons_of_neg (by rw [hnow]; decide), List.filter_cons_of_pos hnow, List.map_cons, heldIn_cons,
        heldIn_cons, ← ih]
      dsimp only
      omega

/-- A record that joins a bin is held once more. -/
theorem heldIn_joinBin (core rgn : Nat) (r : ContRec) (bins : List Bin) :
    heldIn core (joinBin core rgn r bins) = heldIn core bins + 1 := by
  induction bins with
  | nil => simp only [joinBin, heldIn_cons, if_true, List.length_singleton, Nat.add_comm]
  | cons b l ih =>
    rw [joinBin]
    split
    · next h =>
      simp only [heldIn_cons, h.1, if_true, List.length_append, List.length_singleton]
      omega
    · rw [heldIn_cons, heldIn_cons, ih, Nat.add_assoc]

/-- A bin that a test does not name stays as it is; one that it names is ripe. -/
theorem mem_ripen {bins : List Bin} {p : Bin → Bool} {b : Bin} (h : b ∈ bins) :
    (p b = false → b ∈ ripen bins p) ∧ (p b = true → { b with ripe := true } ∈ ripen bins p) := by
  have hkeep : (!b.ripe && p b) = false → b ∈ ripen bins p := fun hn =>
    List.mem_append_left _ (List.mem_filter.mpr ⟨h, congrArg not hn⟩)
  refine ⟨fun hp => hkeep (by rw [hp, Bool.and_false]), fun hp => ?_⟩
  cases hripe : b.ripe
  · exact List.mem_append_right _ (List.mem_map.mpr ⟨b, List.mem_filter.mpr ⟨h, by rw [hripe, hp]; rfl⟩, rfl⟩)
  · have hb : ({ b with ripe := true } : Bin) = b := by rw [← hripe]
    rw [hb]
    exact hkeep (by rw [hripe]; rfl)

theorem binRipen_ripens {s : State} {core bin : Nat} {b : Bin}
    (h : (s.sched.bins.filter fun b => b.core = core)[bin]? = some b) : exec (.binRipen core bin) s =
      .next { s with sched := { s.sched with bins := ripen s.sched.bins fun x => x == b } } := by
  simp only [exec_binRipen, execBinRipen, h]

theorem binRipen_none {s : State} {core bin : Nat}
    (h : (s.sched.bins.filter fun b => b.core = core)[bin]? = none) : exec (.binRipen core bin) s = .next s := by
  simp only [exec_binRipen, execBinRipen, h]

/-- A teller takes no run while none of its core is ready and has room. -/
theorem tellerRecordArrival_none {s : State} {core : Nat} (h : ∀ t ∈ s.sched.tellIn, t.core ≠ core ∨
    (∃ id ∈ t.after, (Sparse.find s.eng.ops id).isSome = true) ∨
      (4096 < s.tellerHolds core + t.records.length ∧ s.overflowRoom t.region < t.records.length)) :
    exec (.tellerRecordArrival core) s = .next s := by
  have hready : (s.sched.tellIn.filter fun t => t.core == core && (s.fitsTeller t || s.fitsRing t) &&
      t.after.all fun id => (Sparse.find s.eng.ops id).isNone) = [] := by
    refine List.filter_eq_nil_iff.mpr fun t ht hgo => ?_
    simp only [Bool.and_eq_true, Bool.or_eq_true, beq_iff_eq, List.all_eq_true, State.fitsTeller, State.fitsRing,
      tellerSize, decide_eq_true_eq, Option.isNone_iff_eq_none] at hgo
    obtain ⟨⟨hcore, hroom⟩, hafter⟩ := hgo
    rcases h t ht with hne | ⟨id, hid, hsome⟩ | ⟨hfull, hring⟩
    · exact hne hcore
    · rw [hafter id hid] at hsome
      exact nomatch hsome
    · rw [hcore] at hroom
      exact hroom.elim (fun h => Nat.not_le.mpr hfull (of_decide_eq_true h)) (Nat.not_le.mpr hring)
  simp only [exec_tellerRecordArrival, execTellerRecordArrival, hready]
  rfl

theorem ripenBins_bins (s : State) : s.ripenBins.sched.bins =
    ripen s.sched.bins fun b => b.records.length == 32 || !s.regionOnCore b.core b.region := rfl

/-- A teller's only record is in a bin that is ripe when no fibre of its region is left on the core (R440). -/
theorem ripenBins_one {s : State} {core rgn : Nat} {r : ContRec} (h : s.sched.bins = []) :
    ((s.binRun core rgn [r]).ripenBins).sched.bins =
      [⟨core, rgn, recEntry r.bytes, recKey r.bytes, [r], !s.regionOnCore core rgn, false⟩] := by
  have hbins : (s.binRun core rgn [r]).sched.bins =
      [⟨core, rgn, recEntry r.bytes, recKey r.bytes, [r], false, false⟩] := congrArg (joinBin core rgn r) h
  have hon : (s.binRun core rgn [r]).regionOnCore core rgn = s.regionOnCore core rgn := rfl
  rw [ripenBins_bins, hbins, ripen]
  simp only [List.filter_cons, List.filter_nil, List.length_singleton, hon]
  cases s.regionOnCore core rgn
  · rfl
  · rfl

/-- The only run on its way enters the only bin, which is ripe when no fibre of its region is left on the core. -/
theorem tellerRecordArrival_one {s : State} {core rgn : Nat} {r : ContRec} {op : Option Op}
    (hin : s.sched.tellIn = [⟨core, rgn, [], [r], op⟩]) (hbins : s.sched.bins = []) : ∃ t : State,
      exec (.tellerRecordArrival core) s = .next t ∧ t.sched.tellIn = [] ∧
      t.sched.bins = [⟨core, rgn, recEntry r.bytes, recKey r.bytes, [r], !s.regionOnCore core rgn, false⟩] := by
  have hfits : ∀ d, (s.drew d).fitsTeller ⟨core, rgn, [], [r], op⟩ = true := fun d => by
    rw [State.fitsTeller, tellerHolds_eq, drew_sched, hbins]
    rfl
  have hrun : exec (.tellerRecordArrival core) s = .next ((s.drew 1).arriveRun ⟨core, rgn, [], [r], op⟩) := by
    simp only [exec_tellerRecordArrival, execTellerRecordArrival, hin, List.filter_cons, List.filter_nil,
      show s.fitsTeller ⟨core, rgn, [], [r], op⟩ = true from hfits 0, beq_self_eq_true, Bool.true_or, Bool.and_self,
      List.all_nil, if_true, Bool.not_true, Bool.false_and, Bool.not_false, List.length_singleton, Nat.mod_one]
    rfl
  refine ⟨_, hrun, ?_, ?_⟩
  · rw [State.arriveRun, if_pos (hfits 1)]
    exact (congrArg (List.erase · _) hin).trans (List.erase_cons_head ..)
  · rw [State.arriveRun, if_pos (hfits 1)]
    exact ripenBins_one hbins

/-! ### The overflow ring (R207) -/

section Overflow
variable {s : State} {rgn : Nat} {c : Rcb} {m : OverflowMark}

theorem overflowReturn_none (h : s.rcb rgn = none ∨ ∀ x ∈ s.co.overflow, x.region ≠ rgn) :
    exec (.overflowReturn rgn) s = .next s := by
  rw [exec_overflowReturn, execOverflowReturn]
  rcases h with h | h
  · rw [h]
  · have hnone : (s.co.overflow.filter fun m => m.region = rgn) = [] :=
      List.filter_eq_nil_iff.mpr fun x hx => by rw [decide_eq_true_eq]; exact h x hx
    rw [hnone]
    cases s.rcb rgn with
    | none => rfl
    | some c => rfl

/-- The only record of the ring, which can be read, returns to a teller that has room for it. -/
theorem overflowReturn_one (hc : s.rcb rgn = some c) (hm : s.co.overflow = [m]) (hr : m.region = rgn)
    (hroom : s.tellerHolds m.core < 4096) (hread : s.physTrouble (c.overflowAt m.idx) = none)
    (hheld : physHeld s (c.overflowAt m.idx) 64 = []) :
    exec (.overflowReturn rgn) s = .next (s.returnMark c m).ripenBins := by
  have hfull : ¬ tellerSize < s.tellerHolds m.core + 1 := by simp only [tellerSize]; omega
  simp only [exec_overflowReturn, execOverflowReturn, hc, hm, List.filter_cons, hr, decide_true, if_true, List.filter_nil,
    List.takeWhile_nil, List.length_singleton, hfull, if_false, List.map_cons, List.map_nil, List.findSome?_cons, hread,
    Option.filter_none, List.findSome?_nil, List.flatMap_cons, hheld, List.flatMap_nil, List.append_nil, List.foldl_cons,
    List.foldl_nil]

/-- The mark and its place in the ring are gone, and the teller holds one record more. -/
theorem returnMark_readable (hc : s.rcb m.region = some c) (hread : s.physTrouble (c.overflowAt m.idx) = none) :
    (s.returnMark c m).rcb m.region = some { c with covhead := (c.covhead + 1) % 2 ^ 32 } ∧
      (s.returnMark c m).co.overflow = s.co.overflow.erase m ∧
      (s.returnMark c m).tellerHolds m.core = s.tellerHolds m.core + 1 := by
  have hc' : ({ s with co := { s.co with overflow := s.co.overflow.erase m } } : State).rcb m.region = some c :=
    (rcb_congr rfl rfl rfl _).trans hc
  unfold State.returnMark
  extract_lets at0 co s1
  have hs1 : s1 = ({ s with co := { s.co with overflow := s.co.overflow.erase m } } : State).setRcb m.region
      { c with covhead := (c.covhead + 1) % 2 ^ 32 } := modRcb_of_rcb _ hc'
  clear_value s1 co
  subst hs1
  rw [show s.physTrouble at0 = none from hread]
  refine ⟨?_, rfl, heldIn_joinBin ..⟩
  exact rcb_of_find ((Sparse.find_put ..).trans (if_pos rfl))

end Overflow

/-! ### The teller's fibres (R205, R206, R441) -/

theorem tellerPlacement_idle {s : State} {core : Nat} (h : ∀ b ∈ s.sched.bins, b.core ≠ core ∨ b.ripe = false) :
    exec (.tellerPlacement core) s = .next s := by
  have hripe : (s.sched.bins.filter fun b => b.core = core ∧ b.ripe = true) = [] :=
    List.filter_eq_nil_iff.mpr fun b hb hr => by
      obtain ⟨hc, ht⟩ := of_decide_eq_true hr
      exact (h b hb).elim (fun hne => hne hc) (fun hf => nomatch ht.symm.trans hf)
  rw [exec_tellerPlacement, execTellerPlacement, hripe]
  rfl

/-- The only bin, ripe, of a declared entry, becomes a fibre where it finds a place. -/
theorem tellerPlacement_one {s : State} {core : Nat} {b : Bin} {x : Nat × Launch × Decl × Nat × BitVec 16}
    (hbins : s.sched.bins = [b]) (hcore : b.core = core) (hripe : b.ripe = true)
    (hdecl : s.declaring b.region b.entry false ≠ none) (hplace : s.binPlace b = some x) :
    exec (.tellerPlacement core) s = .next (s.formFibre b x.1 x.2.1 x.2.2.1 x.2.2.2.1 x.2.2.2.2) := by
  have hlive : (s.declaring b.region b.entry false).isNone = false :=
    Option.isNone_eq_false_iff.mpr (Option.isSome_iff_ne_none.mpr hdecl)
  simp only [exec_tellerPlacement, execTellerPlacement, hbins, List.filter_cons, List.filter_nil, hcore, hripe, and_self,
    decide_true, if_true, hlive, hplace, Option.isSome_some, bestBin, List.foldl_cons, List.foldl_nil, Bool.false_eq_true,
    if_false]

/-- Writing a vector register of a fibre changes nothing of the fibre but its ring. -/
theorem fibre_setVLanes {s : State} {loc : Nat} {f : Fibre} (hf : s.fibre loc = some f) (n : Nat) (lanes : List Nat)
    (g : Nat → Word) : (∃ ring, (s.setVLanes loc n lanes g).fibre loc = some { f with ring := ring }) ∧
      (s.setVLanes loc n lanes g).sched = s.sched := by
  simp only [State.setVLanes, State.setV, hf]
  split
  · exact ⟨⟨_, by rw [fibre_setFibre, if_pos rfl]⟩, rfl⟩
  · exact ⟨⟨f.ring, hf⟩, rfl⟩

theorem fibre_loadRecords {s : State} {loc : Nat} {f : Fibre} (hf : s.fibre loc = some f) (recs : List ContRec) :
    (∃ ring, (s.loadRecords loc recs).fibre loc = some { f with ring := ring }) ∧
      (s.loadRecords loc recs).sched = s.sched := by
  unfold State.loadRecords
  generalize List.range 12 = l
  induction l generalizing s f with
  | nil => exact ⟨⟨f.ring, hf⟩, rfl⟩
  | cons i l ih =>
    obtain ⟨⟨ring, h1⟩, h2⟩ := fibre_setVLanes hf i (List.range recs.length) fun k =>
      BitVec.ofNat 32 (cpField (leNat ((recs.getD k ⟨[], .nothing⟩).bytes.drop 16)) (32 * i) 32)
    obtain ⟨⟨ring', h3⟩, h4⟩ := ih h1
    exact ⟨⟨ring', h3⟩, h4.trans h2⟩

/-- Records that are no longer outstanding are counted off at their launches alone. -/
theorem recordDown_keeps (l : List ContRec) (rgn entry : Nat) : ∀ s : State,
    (l.foldl (fun (acc : State) _ => acc.recordDown rgn entry false) s).sched.bins = s.sched.bins ∧
      (l.foldl (fun (acc : State) _ => acc.recordDown rgn entry false) s).fibres = s.fibres := by
  induction l with
  | nil => exact fun s => ⟨rfl, rfl⟩
  | cons r l ih => exact fun s => ih (s.recordDown rgn entry false)

/-- A group of one fibre starts with the records of a bin, which is gone; they are no longer outstanding. -/
def State.startBin (s : State) (b : Bin) (id : Nat) (g : Group) (slots : List (Nat × Slot)) (loc : Nat) (f : Fibre)
    (from0 : List Nat) : State :=
  let s1 := (s.putGroup id g slots [(loc, f)] from0).loadRecords loc b.records
  b.records.foldl (fun acc _ => acc.recordDown b.region b.entry false)
    { s1 with sched := { s1.sched with bins := s1.sched.bins.erase b } }

theorem startBin_starts (s : State) (b : Bin) (id : Nat) (g : Group) (slots : List (Nat × Slot)) (loc : Nat) (f : Fibre)
    (from0 : List Nat) : (s.startBin b id g slots loc f from0).sched.bins = s.sched.bins.erase b ∧
      ∃ ring, (s.startBin b id g slots loc f from0).fibre loc = some { f with ring := ring } := by
  unfold State.startBin
  extract_lets s1
  have hput : (s.putGroup id g slots [(loc, f)] from0).fibre loc = some f := by
    rw [State.fibre, fibres_putGroup, List.foldl_cons, List.foldl_nil, Sparse.find_put, if_pos rfl]
  obtain ⟨⟨ring, hring⟩, hsched⟩ : (∃ ring, s1.fibre loc = some { f with ring := ring }) ∧ _ :=
    fibre_loadRecords hput b.records
  have hbins : s1.sched.bins = s.sched.bins := by rw [hsched, bins_putGroup]
  clear_value s1
  obtain ⟨hb, hf⟩ := recordDown_keeps b.records b.region b.entry
    { s1 with sched := { s1.sched with bins := s1.sched.bins.erase b } }
  exact ⟨hb.trans (congrArg (List.erase · b) hbins), ring, (congrArg (Sparse.find · loc) hf).trans hring⟩

/-- The fibre of a ripe bin, with one lane for each record. -/
theorem formFibre_forms (s : State) (b : Bin) (lid : Nat) (l : Launch) (d : Decl) (loc : Nat) (asid : BitVec 16) :
    (s.formFibre b lid l d loc asid).sched.bins = s.sched.bins.erase b ∧
    ∃ f, (s.formFibre b lid l d loc asid).fibre loc = some f ∧ f.st = .ready ∧ f.pc = BitVec.ofNat 48 b.entry ∧
      f.exec = BitVec.ofNat 32 (2 ^ b.records.length - 1) ∧ f.region = b.region ∧ f.asid = asid ∧ f.launch = lid := by
  unfold State.formFibre
  obtain ⟨owes, tests⟩ := owedLanes b.records
  obtain ⟨hbins, ring, hf⟩ := startBin_starts ..
  exact ⟨hbins, _, hf, rfl, rfl, rfl, rfl, rfl, rfl⟩

end Sys2Proof.Machine

open Sys2Proof Sys2Proof.Machine

/-- Settles O56: the region served is the best of a fold (`bestRegion_best`); what a placement, a take, a ripening bin
and the ring's return change is said once for each, and the rest of the state stays by their frames. -/
theorem workStarts : Obligations.WorkStarts := by
  unfold Obligations.WorkStarts
  refine ⟨fun s hidle => placement_idle ?_, fun s l x => bestRegion_best, ?grid, ?take, ?retire, ?bins, ?ring, ?fibres⟩
  · refine Bool.eq_false_iff.mpr fun hp => ?_
    obtain ⟨hr, hc, ht⟩ := (placing_iff s).mp hp
    rw [hr, hc, ht] at hidle
    exact absurd hidle (by decide)
  case grid =>
    rintro s u n id lin core k r w l role hr hc ht hrest hm rfl hbest hl hgang hrole hroles hargs hlin hcore hslots
    have hplaced : (s.notePass s.considered).placeWork n r (.group id) =
        ((s.notePass s.considered).placeGrid id l lin core [k] r).paid n (l.lrec.ngang * l.lrec.nrole) := by
      simp only [State.placeWork, hl, hlin, hcore, hslots]
    have hfib : (((s.notePass s.considered).placeGrid id l lin core [k] r).paid n (l.lrec.ngang * l.lrec.nrole)).fibres =
        Sparse.put s.fibres (4 * k) (gridFibre l.lrec role id lin k (s.notePass s.considered).fresh r.asid) := by
      rw [State.paid, fibres_modRcb, fibres_placeGrid hrole hroles hargs, fibres_notePass]
    have hrun := (placement_decides ((placing_iff s).mpr ⟨hr, hc, ht⟩) hrest hm hbest).trans (congrArg _ hplaced)
    refine ⟨_, gridFibre l.lrec role id lin k (s.notePass s.considered).fresh r.asid, hrun, ?_, rfl, rfl, rfl, rfl,
      rfl, rfl, rfl, fun i hi => ?_⟩
    · rw [State.fibre, hfib, Sparse.find_put, if_pos rfl]
    · rw [State.fibre, hfib, Sparse.find_put, if_neg (by omega)]
      rfl
  case take =>
    intro s core rgn r
    refine ⟨taskTake_outside, taskTake_nothing, fun qtab x b hm hc hrun hw hr hst ht hf hroom hbad hg hd => ?_⟩
    exact ⟨_, taskTake_takes hm hc hrun hw hr hst ht hf hroom, takeTask_receipt hm hf hroom hbad hg hd⟩
  case retire =>
    refine fun s id => ⟨fun h => by rw [exec_launchRetire, execLaunchRetire, h], fun l hl => ⟨fun hlive => ?_, ?_⟩⟩
    · refine launchRetire_live hl (Bool.eq_false_iff.mpr fun hend => ?_)
      obtain ⟨hlin, hplaced, hrecords⟩ := (launchEnded_iff l).mp hend
      exact hlive.elim (· hplaced) (·.elim (· hrecords) (· hlin))
    · exact fun hplaced hrecords hlin hdone _ => launchRetire_ended hl ((launchEnded_iff l).mpr ⟨hlin, hplaced, hrecords⟩) hdone
  case bins =>
    intro s core rgn bin r u op
    refine ⟨tellerRecordArrival_none, ?_, binRipen_none, fun b hb => ?_⟩
    · rintro rfl hin hbins
      exact tellerRecordArrival_one hin hbins
    · have hmem : b ∈ s.sched.bins := (List.mem_filter.mp (List.mem_of_getElem? hb)).1
      refine ⟨_, binRipen_ripens hb, (mem_ripen hmem).2 (beq_self_eq_true b), rfl, fun x hx hne => ?_⟩
      exact (mem_ripen hx).1 (beq_eq_false_iff_ne.mpr hne)
  case ring =>
    refine fun s rgn c m => ⟨overflowReturn_none, ?_⟩
    rintro at0 rfl hc hm rfl hroom hread hheld
    obtain ⟨hrcb, hover, hholds⟩ := returnMark_readable hc hread
    refine ⟨_, overflowReturn_one hc hm rfl hroom hread hheld, ?_, ?_, (heldIn_ripen ..).trans hholds⟩
    · exact (rcb_congr rfl rfl rfl _).trans hrcb
    · exact hover.trans (by rw [hm, List.erase_cons_head])
  case fibres =>
    refine fun s core => ⟨tellerPlacement_idle, fun b lid l d loc asid hbins hcore hripe hdecl hplace => ?_⟩
    obtain ⟨hgone, f, hf, hst, hpc, hexec, hrgn, hasid, hlaunch⟩ := formFibre_forms s b lid l d loc asid
    refine ⟨_, f, tellerPlacement_one hbins hcore hripe hdecl hplace, ?_, hf, hst, hpc, hexec, hrgn, hasid, hlaunch⟩
    rw [hgone, hbins, List.erase_cons_head]

end

section
/-! SUPPORT. The delivery of an HCALL record ends its operation, and the record frame that the operation leaves goes to
another one of its fibre that is held (R168, R173). Where that one was refused, its record is reported at once (R183), into
host memory too. -/

namespace Sys2Proof.Machine

/-- The HCALL whose record waits for the ring, in `heldBehindHcall`. -/
def deliveredHcall : Op :=
  { State.reset.opOf (Fibre.start 0) 1 1 0 0 none (.hcall 0) with finished := true }

/-- A load that the same fibre has issued. -/
def heldLoad : Op := State.reset.opOf (Fibre.start 0) 1 1 0 0 none (.load [.s 0 5] 8 false .global [64] false)

/-- The HCALL still has the frame of its record, from which it was replayed. -/
def hcallRecord : Record :=
  { op := 7, kind := 1, cause := 0, va := 0, sz := 0, akind := 0, ripe := true, waiting := false, absorber := 0
    running := true, grans := [], blocks := [], clk := 0 }

/-- One fibre, of a region whose policy is IGNORE, with a delivery that waits, a load that was refused (cause USER) and is
held for want of a frame, and room for two entries in both rings. The record to deliver has no bytes. -/
def heldBehindHcall : State :=
  { State.reset with
    fibres := [(0, Fibre.start 0)]
    sched := { State.reset.sched with rcbs := [(0, { parseRcb 0 [] with contain := 0 })] }
    eng := ⟨[(7, deliveredHcall), (8, heldLoad)], [(0, hcallRecord)], [⟨8, 0, .refuse 64 causeUser 0, false⟩]⟩
    reg := { State.reset.reg with frq := ⟨1, 0, 0⟩, hcr := ⟨1, 0, 0⟩ }
    io := { State.reset.io with hcWait := [⟨7, []⟩] } }

/-- Host memory once a run has answered its next state. -/
def hostAfter (out : Out) : Option (Sparse Byte) :=
  match out with
  | .next t => some t.mem.host
  | _ => none

theorem hostAfter_next (t : State) : hostAfter (.next t) = some t.mem.host := rfl

/-- The fault report of the held load (R183): its address, unit 1, cause, kind 3, lane mask, and CLK, which is a free value. -/
def heldReport (clk : Dword) : List Byte :=
  leBytes 8 64 ++ leBytes 2 0 ++ leBytes 1 1 ++ leBytes 1 0 ++ leBytes 1 causeUser ++ leBytes 1 3 ++ leBytes 1 0
    ++ leBytes 1 0 ++ leBytes 4 0 ++ leBytes 2 0 ++ leBytes 2 0 ++ leBytes 8 0 ++ leBytes 4 1 ++ leBytes 4 0
    ++ leBytes 8 clk.toNat ++ leBytes 4 0 ++ leBytes 1 0 ++ leBytes 11 0

/-- The delivery writes the report of the load beside the record, which is empty. -/
theorem hcallRingDelivery_heldBehindHcall : hostAfter (exec .hcallRingDelivery heldBehindHcall) =
    some (writeBytes [] 0 (heldReport (heldBehindHcall.readClk 0).1)) := by
  rfl

/-- The report's kind stands in its byte 13. -/
theorem getZ_heldReport (clk : Dword) : Sparse.getZ (writeBytes [] 0 (heldReport clk)) 13 = 3 := by
  have hlen : (heldReport clk).length = 64 := rfl
  rw [getZ_write, if_pos (by omega)]
  rfl

end Sys2Proof.Machine

open Sys2Proof Sys2Proof.Machine

/-- Refutes O57: its clause on HCALL_RING_DELIVERY has host memory change by the delivered record alone and, unlike the
clause on LSU_COMPLETE, asks of the state neither that no operation has a record nor that none is held. In
`heldBehindHcall` the delivery frees the frame of the HCALL's own record, the refused load of the same fibre takes it
(R168), and the fault report of that record enters its ring, in host memory, in the same turn (R183). -/
theorem not_deliveries : ¬ Obligations.Deliveries := by
  unfold Obligations.Deliveries
  rintro ⟨hrings, -⟩
  obtain ⟨-, -, -, hhcall⟩ := hrings heldBehindHcall ⟨1, 0, 0⟩ 1 (by decide)
  obtain ⟨t, ht, -, -, -, hhost⟩ := hhcall ⟨7, []⟩ [] rfl rfl (by decide) (by decide)
  have hempty : t.mem.host = [] := hhost
  have hafter := hcallRingDelivery_heldBehindHcall
  rw [ht, hostAfter_next, hempty, Option.some_inj] at hafter
  have hbyte := getZ_heldReport (heldBehindHcall.readClk 0).1
  rw [← hafter] at hbyte
  exact absurd hbyte (by decide)

end

section
/-! SUPPORT. Issue (R192, R194, R200, R244, R280): the fibre behind an instruction that issues, what issuing and stalling
leave as they were, and the scalar instructions that wait for a register. -/

namespace Sys2Proof.Machine

/-! ### An instruction that issues (R192, R244, R280) -/

/-- The fibre behind an instruction that issues and goes on at an address. -/
def Fibre.issuedTo (f : Fibre) (pc : BitVec 48) : Fibre :=
  { f with
    st := if f.st = .stalled then .current else f.st
    pc := pc, cede := false, issued := f.issued + 1 }

theorem nextPc_eq (f : Fibre) : f.nextPc = f.pc + (if f.cede then 8 else 4) := by
  unfold Fibre.nextPc Fibre.own
  cases f.cede with
  | false => rfl
  | true => exact BitVec.add_assoc f.pc 4 4

/-- Issuing changes the fibre in issue and the clocks of its regions, and nothing else. -/
theorem retireTo_eq {s : State} {f : Fibre} (h : Issues s f) (pc : BitVec 48) : ∃ rc, s.retireTo pc =
    { s.setFibre s.cur (f.issuedTo pc) with sched := { s.sched with rcbs := rc } } := by
  have h' : s.fibre s.cur = some f := h
  simp only [State.retireTo, h', unstall_eq]
  exact countClock_eq _ f.region

theorem retire_eq {s : State} {f : Fibre} (h : Issues s f) : ∃ rc, s.retire =
    { s.setFibre s.cur (f.issuedTo f.nextPc) with sched := { s.sched with rcbs := rc } } := by
  have h' : s.fibre s.cur = some f := h
  simp only [State.retire, h']
  exact retireTo_eq h f.nextPc

theorem issues_setFibre (s : State) (g : Fibre) : Issues (s.setFibre s.cur g) g := by
  simp only [Issues, setFibre_cur, fibre_setFibre, if_true]

/-- As `became` has it: the fibre `g` behind its instruction. -/
theorem became_eq (s : State) (g : Fibre) : ∃ rc, became s g =
    .next { s.setFibre s.cur (g.issuedTo g.nextPc) with sched := { s.sched with rcbs := rc } } := by
  obtain ⟨rc, h⟩ := retire_eq (issues_setFibre s g)
  refine ⟨rc, congrArg Host.Outcome.next ?_⟩
  rw [h, setFibre_cur, setFibre_setFibre, setFibre_sched]

/-! ### An instruction that cannot issue (R192, R194) -/

theorem fibre_stall {s : State} {f : Fibre} (h : Issues s f) (hst : f.st = .current ∨ f.st = .stalled) :
    s.stall.fibre s.cur = some { f with st := if f.cede then .ready else .stalled, cede := false } := by
  have h' : s.fibre s.cur = some f := h
  rw [State.stall, fibre_modFibre, if_pos rfl, h', Option.map_some]
  cases hc : f.cede with
  | true => rcases hst with hst | hst <;> simp only [hst, if_true]
  | false => rcases hst with hst | hst <;> simp only [hst, Bool.false_eq_true, if_false]

theorem fibre_stall_other {s : State} {l : Nat} (h : l ≠ s.cur) : s.stall.fibre l = s.fibre l := by
  rw [State.stall, fibre_modFibre, if_neg h]

/-- A scalar instruction waits for its registers (R200). -/
theorem waits_of_scalarOp {i : Instr} {regs : List Nat} {body : State → Fibre → Act}
    (h : ∀ s, exec i s = scalarOp s regs (body s)) : Waits i regs := by
  intro s f hf hb
  rw [h, scalarOp_stall _ hf hb]

end Sys2Proof.Machine

open Sys2Proof Sys2Proof.Machine

/-- Settles O5: what an instruction that issues changes is `became_eq`, what a stall changes is the fibre in issue alone,
and every scalar instruction runs through `scalarOp`, which waits for its registers. -/
theorem issueFrame : Obligations.IssueFrame := by
  unfold Obligations.IssueFrame
  refine ⟨fun s g => ?issues, fun s f hf hst => ⟨fibre_stall hf hst, fun l => fibre_stall_other, rfl⟩,
    fun d a b i h k n p => ?waits⟩
  case issues =>
    obtain ⟨rc, heq⟩ := became_eq s g
    refine ⟨_, heq, ?_, fun l hl => ?_, rfl, rfl, rfl, rfl, rfl, rfl, rfl, rfl, rfl, rfl, rfl, rfl, rfl, rfl⟩
    · refine (fibre_setFibre s s.cur s.cur _).trans ?_
      rw [if_pos rfl, nextPc_eq]
      rfl
    · exact (fibre_setFibre s s.cur l _).trans (if_neg hl)
  case waits =>
    simp only [List.forall_mem_cons, List.not_mem_nil, false_imp_iff, implies_true, and_true]
    and_intros
    all_goals exact waits_of_scalarOp fun _ => rfl

end

section
/-! SUPPORT. Special registers and predicate instructions (R202, R253, R280, R281). -/

namespace Sys2Proof.Machine

/-! ### SRD (R280) -/

section Reads
variable {s : State} {f : Fibre}

theorem srd_of {d : BitVec 6} {n : BitVec 4} (hf : Issues s f) (hs : Settled s (resS s.cur [d.toNat])) (hn : n ≠ 9) :
    exec (.srd d n) s = became s (f.setS d.toNat (specialReg s f n.toNat)) := by
  rw [exec_srd, execSrd, scalarOp_of _ hf hs, if_neg hn]
  exact done_modFibre (fun g => g.setS d.toNat (specialReg s f n.toNat)) hf

theorem srd_clk {d : BitVec 6} (hf : Issues s f) (hs : Settled s (resS s.cur [d.toNat])) : exec (.srd d 9) s =
    became (s.readClk (coreOf s.cur)).2 (f.setS d.toNat (s.readClk (coreOf s.cur)).1) := by
  have hf' : Issues (s.readClk (coreOf s.cur)).2 f := hf
  rw [exec_srd, execSrd, scalarOp_of _ hf hs, if_pos rfl]
  exact done_modFibre (fun g => g.setS d.toNat (s.readClk (coreOf s.cur)).1) hf'

/-- GID is that of a grid group, and zero in any other. -/
theorem specialReg_gid {g : Group} (hg : Sparse.find s.groups f.group = some g) :
    specialReg s f 6 = if g.kind = .grid then g.gid else 0 := by
  simp only [specialReg, hg, Option.map_some, Option.getD_some, decide_eq_true_eq]

/-- The quadrant of a locator's slot, from the locator itself. -/
theorem slotOf_quadrant (loc : Nat) : slotOf loc / 8 % 4 = loc / 32 % 4 := by
  rw [slotOf, Nat.div_div_eq_div_mul]

theorem clusterOf_coreOf (loc : Nat) : clusterOf (coreOf loc) = loc / 512 := by
  rw [clusterOf, coreOf, Nat.div_div_eq_div_mul]

end Reads

/-! ### SWR (R280) -/

/-- A link value keeps bits [63:52] zero. -/
theorem linkBits_eq_zero_iff (x : Dword) : field x 52 12 = 0 ↔ x < 2 ^ 52 := by
  have hx := x.isLt
  rw [BitVec.lt_def, show (2 ^ 52 : Dword).toNat = 2 ^ 52 from rfl, field]
  omega

section Writes
variable {s : State} {f : Fibre} {a : BitVec 6}

theorem swr_exec (hf : Issues s f) (hs : Settled s (resS s.cur [a.toNat])) :
    exec (.swr a 10) s = became s { f with exec := f.exec &&& (f.s a.toNat).setWidth 32 } := by
  rw [exec_swr, execSwr, if_pos rfl, scalarOp_of _ hf hs]
  exact done_modFibre (fun g => { g with exec := g.exec &&& (f.s a.toNat).setWidth 32 }) hf

theorem swr_link (hf : Issues s f) (hs : Settled s (resS s.cur [a.toNat])) : exec (.swr a 11) s =
    if f.s a.toNat < 2 ^ 52 then became s { f with lr := f.s a.toNat }
    else .next (s.takeTrap ⟨trapILL, 6, 0, 0⟩) := by
  rw [exec_swr, execSwr, if_neg (by decide), if_pos rfl, scalarOp_of _ hf hs]
  by_cases hlow : f.s a.toNat < 2 ^ 52
  · rw [if_pos hlow, if_neg fun h => h ((linkBits_eq_zero_iff _).2 hlow)]
    exact done_modFibre (fun g => { g with lr := f.s a.toNat }) hf
  · rw [if_neg hlow, if_pos (mt (linkBits_eq_zero_iff _).1 hlow)]
    rfl

theorem swr_other {n : BitVec 4} (hf : Issues s f) (h10 : n ≠ 10) (h11 : n ≠ 11) :
    exec (.swr a n) s = .next (s.takeTrap ⟨trapILL, 3, 0, 0⟩) := by
  rw [exec_swr, execSwr, if_neg h10, if_neg h11, runFibre_of _ hf]
  rfl

end Writes

/-! ### Predicates (R281) -/

theorem setsP_of_predOp {i : Instr} {d : BitVec 3} {g : Fibre → Word} (h : ∀ s, exec i s = predOp d g s) :
    SetsP i [] d.toNat g := by
  intro s f hf _
  rw [h, predOp, runFibre_of _ hf, BitVec.or_comm (f.p d.toNat &&& ~~~f.active)]
  exact done_modFibre (fun k => k.setP d.toNat ((g f &&& f.active) ||| (f.p d.toNat &&& ~~~f.active))) hf

theorem setsP_pmovs (d : BitVec 3) (x : BitVec 6) :
    SetsP (.pmovs d x) [x.toNat] d.toNat fun f => (f.s x.toNat).setWidth 32 := by
  intro s f hf hs
  rw [exec_pmovs, execPmovs, scalarOp_of _ hf hs, BitVec.or_comm (f.p d.toNat &&& ~~~f.active)]
  exact done_modFibre (fun k => k.setP d.toNat
    (((f.s x.toNat).setWidth 32 &&& f.active) ||| (f.p d.toNat &&& ~~~f.active))) hf

theorem turns_smovp (y : BitVec 6) (a : BitVec 3) : Turns (.smovp y a) [y.toNat] fun f =>
    if f.active = 0 then f else f.setS y.toNat ((f.p a.toNat &&& f.active).setWidth 64) := by
  intro s f hf hs
  rw [exec_smovp, execSmovp, scalarOp_of _ hf hs]
  dsimp only
  split
  · exact done_self hf
  · exact done_modFibre (fun g => g.setS y.toNat ((f.p a.toNat &&& f.active).setWidth 64)) hf

end Sys2Proof.Machine

open Sys2Proof Sys2Proof.Machine

/-- Settles O9: SRD runs through `srd_of` and `srd_clk`, register by register, SWR through the three cases of its number,
and PRED through `setsP_of_predOp`. -/
theorem specialRegisters : Obligations.SpecialRegisters := by
  unfold Obligations.SpecialRegisters
  refine ⟨fun d a n s f hf hs => ?scalars, fun d a b x y => ⟨?_, ?_, ?_, ?_, ?_, ?_, ?_, setsP_pmovs d x,
    turns_smovp y a⟩⟩
  case scalars =>
    obtain ⟨hd, ha⟩ := settled_cons.1 hs
    refine ⟨fun k v hkv => ?listed, fun g hg => ?gid, ⟨_, _, rfl, srd_clk hf hd⟩, swr_exec hf ha,
      fun h => by rw [swr_link hf ha, if_pos h], fun h => by rw [swr_link hf ha, if_neg (BitVec.not_lt.2 h)],
      swr_other hf⟩
    case gid => rw [srd_of hf hd (by decide), ← specialReg_gid hg]; rfl
    case listed =>
      simp only [List.mem_cons, Prod.mk.injEq, List.not_mem_nil, or_false] at hkv
      obtain ⟨hk, hv⟩ : k ≠ 9 ∧ specialReg s f k.toNat = v := by
        rcases hkv with ⟨rfl, rfl⟩ | ⟨rfl, rfl⟩ | ⟨rfl, rfl⟩ | ⟨rfl, rfl⟩ | ⟨rfl, rfl⟩ | ⟨rfl, rfl⟩ | ⟨rfl, rfl⟩ |
          ⟨rfl, rfl⟩ | ⟨rfl, rfl⟩ | ⟨rfl, rfl⟩ | ⟨rfl, rfl⟩ | ⟨rfl, rfl⟩ | ⟨rfl, rfl⟩ | ⟨rfl, rfl⟩
        case inr.inr.inl => exact ⟨by decide, congrArg (BitVec.ofNat 64) (slotOf_quadrant s.cur)⟩
        case inr.inr.inr.inr.inl => exact ⟨by decide, congrArg (BitVec.ofNat 64) (clusterOf_coreOf s.cur)⟩
        all_goals exact ⟨by decide, rfl⟩
      rw [srd_of hf hd hk, hv]
  all_goals exact setsP_of_predOp fun _ => rfl

end

section
/-! SUPPORT. A slot's turn (R193, R234, R244, R252): the fetch of its fibre's word, through the instruction cache or past
it (R69, R245), and the instruction that the word decodes to. -/

namespace Sys2Proof.Machine

/-! ### The turn (R193, R234) -/

/-- A step whose script names a slot is that slot's turn. -/
theorem step_slot {s : State} {slot : Nat} {rest : List Turn} (ht : s.turns = .slot slot :: rest) :
    step s = slotTurned { s with turns := rest } slot (stepSlot { s with turns := rest } slot) := by
  simp only [step, ht, runTurn, quadTurn, slotTurned]
  cases State.issues { s with turns := rest } slot (stepSlot { s with turns := rest } slot) with
  | true => rfl
  | false => rfl

section Turn
variable {u : State} {slot loc : Nat} {f : Fibre} {w : Word} {s2 : State}

/-- A slot without a CURRENT fibre spends its turn on the switch. -/
theorem stepSlot_switches (hh : u.holder slot = none) (hc : u.chosen slot = some loc) :
    stepSlot u slot = .next (u.select loc) := by
  simp only [stepSlot, hc, hh, Option.isNone_none, if_true]

/-- A slot's fibre executes the word that it fetches. -/
theorem stepSlot_fetched (hc : u.chosen slot = some loc) (hh : u.holder slot = some loc)
    (hf : (u.select loc).fibre loc = some f) (hb : (u.select loc).breaksAt f = false)
    (hw : (u.select loc).fetch f f.pc = .word w s2) : stepSlot u slot = settle f loc (issueWord s2 f w) := by
  simp only [stepSlot, hc, hh, hf, hb, hw, Option.isNone_some, Bool.false_eq_true, if_false]

end Turn

/-! ### The word (R244, R251, R252) -/

theorem issueInstr_room {i : Instr} {s : State} (h : s.unitFull i = false) : issueInstr i s = exec i s := by
  rw [issueInstr, h, if_neg Bool.false_ne_true]

theorem issueInstr_full {i : Instr} {s : State} (h : s.unitFull i = true) : issueInstr i s = .next s.stall := by
  rw [issueInstr, h, if_pos rfl]

section Word
variable {s s3 : State} {f : Fibre} {w w1 : Word} {i : Instr} {c : IllCheck}

theorem issueWord_bad (hw : decode w = .error c) :
    issueWord s f w = .next (({ s with iword := w } : State).takeTrap ⟨trapILL, c.number, 0, 0⟩) := by
  simp only [issueWord, hw, illWord, illTrap]

theorem issueWord_single (hw : decode w = .ok i) (hi : i ≠ .cede) :
    issueWord s f w = issueInstr i { s with iword := w } := by
  simp only [issueWord, hw, if_neg hi]

/-- The state in which the word behind CEDE executes. -/
def State.ceded (s : State) (w1 : Word) : State :=
  ({ s with iword := w1 } : State).modFibre s.cur fun g => { g with cede := true }

variable (hw : decode w = .ok .cede) (hfetch : ({ s with iword := w } : State).fetch f (f.pc + 4) = .word w1 s3)
include hw hfetch

theorem issueWord_pair (h1 : decode w1 = .ok i) (hi : i ≠ .cede) : issueWord s f w = issueInstr i (s3.ceded w1) := by
  simp only [issueWord, hw, if_true, hfetch, h1, if_neg hi, State.ceded]

theorem issueWord_pair_bad (h1 : decode w1 = .error c) :
    issueWord s f w = .next ((s3.ceded w1).takeTrap ⟨trapILL, c.number, 0, 0⟩) := by
  simp only [issueWord, hw, if_true, hfetch, h1, illWord, illTrap, State.ceded]

/-- CEDE behind CEDE fails check 4. -/
theorem issueWord_pair_cede (h1 : decode w1 = .ok .cede) :
    issueWord s f w = .next ((s3.ceded w1).takeTrap ⟨trapILL, 4, 0, 0⟩) := by
  simp only [issueWord, hw, if_true, hfetch, h1, illWord, illTrap, State.ceded]

end Word

/-! ### The fetch (R69, R245) -/

section Fetch
variable {s : State} {f : Fibre} {va : BitVec 48}

theorem fetch_cached {w : Word} (hnew : f.fetched ≠ some va)
    (hc : s.cached (coreOf s.cur) f.asid (s.privOf f.region) va = some w) : s.fetch f va = .word w s := by
  simp only [State.fetch, if_neg hnew, hc]

/-- A word that no cache holds is read where an EXEC access to it is performed; the instruction cache then holds it, but
for one of a peer's window. -/
theorem fetch_uncached {p : PLoc} {s1 : State} (hnew : f.fetched ≠ some va)
    (hc : s.cached (coreOf s.cur) f.asid (s.privOf f.region) va = none)
    (hr : resolve s (s.who s.cur f) .exec va.toNat 4 = (.ok [(p, 4)], s1)) : s.fetch f va =
      .word (BitVec.ofNat 32 (leNat (s1.mem.readAt (coreOf s.cur) p 4)))
        (if p.isPeer then s1
        else { s1 with mem := { s1.mem with icache :=
          ⟨coreOf s.cur, f.asid, va.toNat, BitVec.ofNat 32 (leNat (s1.mem.readAt (coreOf s.cur) p 4)),
            s1.leafUser (s.who s.cur f) va.toNat⟩ :: s1.mem.icache } }) := by
  simp only [State.fetch, if_neg hnew, hc, hr, List.map_cons, List.map_nil, List.flatten_cons, List.flatten_nil,
    List.append_nil, List.any_cons, List.any_nil, Bool.or_false]

end Fetch

end Sys2Proof.Machine

open Sys2Proof Sys2Proof.Machine

/-- Settles O3: a slot's turn is `stepSlot` in its quadrant (`step_slot`), which executes the word that its fibre fetches
(`stepSlot_fetched`); the words it may meet are the cases of `issueWord`, and the fetch those of `fetch_cached` and
`fetch_uncached`. -/
theorem stepRunsDecoded : Obligations.StepRunsDecoded := by
  unfold Obligations.StepRunsDecoded
  refine ⟨?decoded, ?refused, ?switches,
    fun s f va hnew => ⟨fun w => fetch_cached hnew, fun p s1 => fetch_uncached hnew⟩⟩
  case decoded =>
    rintro s u slot loc rest f w s2 i ht rfl hc hh hf hb hw hi
    rw [step_slot ht, stepSlot_fetched hc hh hf hb hw]
    refine ⟨?single, ?pair⟩
    case single =>
      rintro x hne rfl
      rw [issueWord_single hi hne]
      exact ⟨fun h => by rw [issueInstr_room h], fun h => by rw [issueInstr_full h]⟩
    case pair =>
      rintro w1 s3 x rfl hfetch rfl
      refine ⟨fun j hj hne h => ?_, fun j hj hne h => ?_, fun c hj => ?_, fun hj => ?_⟩
      · rw [issueWord_pair hi hfetch hj hne]
        exact congrArg _ (congrArg _ (issueInstr_room h))
      · rw [issueWord_pair hi hfetch hj hne]
        exact congrArg _ (congrArg _ (issueInstr_full h))
      · rw [issueWord_pair_bad hi hfetch hj]
        rfl
      · rw [issueWord_pair_cede hi hfetch hj]
        rfl
  case refused =>
    rintro s u slot loc rest f w s2 c ht rfl hc hh hf hb hw hbad
    rw [step_slot ht, stepSlot_fetched hc hh hf hb hw, issueWord_bad hbad]
  case switches =>
    rintro s u slot loc rest ht rfl hh hc
    rw [step_slot ht, stepSlot_switches hh hc]

end

section
/-! SUPPORT. Control flow: branches (R270, R272), calls and returns with the window's moves (R198, R199, R271, R272), and
the reconvergence stack (R203, R275). -/

namespace Sys2Proof.Machine

/-! ### Branches (R270, R272) -/

section Branches
variable {s : State} {f : Fibre}

theorem bra_of (hf : Issues s f) (c : BitVec 4) (o : BitVec 22) : exec (.bra c o) s =
    if braTaken f c.toNat then wentTo s f (f.nextPc + o.signExtend 48 * 4) else became s f := by
  rw [exec_bra, execBra, runFibre_of _ hf]
  split
  · exact jump_self _ hf
  · exact done_self hf

theorem brx_of {a : BitVec 6} (hf : Issues s f) (hs : Settled s (resS s.cur [a.toNat])) : exec (.brx a) s =
    if badTarget (f.s a.toNat) then .next (s.takeTrap ⟨0x05, 0, 0, 0⟩) else wentTo s f ((f.s a.toNat).setWidth 48) := by
  rw [exec_brx, execBrx, scalarOp_of _ hf hs]
  split
  · rfl
  · exact jump_self _ hf

end Branches

/-! ### Moves of the window (R198, R199) -/

theorem spillUnits_eq_nil {w : Dword} {c : Nat} (h : winB w + 8 * c + winF w ≤ winLo w + winQ w) :
    spillUnits w c = [] := by
  rw [spillUnits, Nat.sub_eq_zero_of_le h]
  rfl

theorem fillUnits_eq_nil {w : Dword} {c : Nat} (h : winLo w ≤ winB w - 8 * c) : fillUnits w c = [] := by
  rw [fillUnits, Nat.sub_eq_zero_of_le h]
  rfl

theorem spillOverflow_of_nil {f : Fibre} {c : Nat} (h : spillUnits f.wdesc c = []) : spillOverflow f c = false := by
  rw [spillOverflow, h]
  rfl

/-- The units that a call or a return moves. -/
def windowUnits (w : Dword) (isRet : Bool) (c : Nat) : List Nat := if isRet then fillUnits w c else spillUnits w c

/-- The ring positions that a call or a return reads or writes. -/
def windowPos (w : Dword) (isRet : Bool) (c : Nat) : List Nat :=
  (windowUnits w isRet c).flatMap (unitPos w) ++ if isRet then [] else newPos w c

/-- A call or return whose registers are settled, whose units move behind every earlier access, and whose units all
move, changes the window. -/
theorem startMove_moves {s s1 : State} {f : Fibre} {isRet : Bool} {c n : Nat}
    (hs : Settled s ((windowPos f.wdesc isRet c).map fun p => .v (fidOf s.cur) p))
    (hq : windowUnits f.wdesc isRet c = [] ∨ s.lsuWaits s.cur (fun _ => true) = false)
    (hm : moveUnits s s.cur isRet false (windowUnits f.wdesc isRet c) = (none, n, s1)) (target : BitVec 48)
    (opa : Dword) : startMove s f isRet c target opa = .moved (finishMove s1 isRet c target) := by
  have hfree : (!(windowUnits f.wdesc isRet c).isEmpty && s.lsuWaits s.cur fun _ => true) = false := by
    rcases hq with hq | hq
    · rw [hq]; rfl
    · rw [hq, Bool.and_false]
  unfold windowPos windowUnits at *
  simp only [Settled] at hs
  simp only [startMove, hs, hfree, hm, Bool.or_self, Bool.false_eq_true, if_false]

section Moves
variable {s : State} {f : Fibre} {c : Nat}

/-- Ring positions that are zeroed. -/
theorem getZ_foldl_erase {w : Nat} (l : List Nat) (p : Nat) : ∀ m : Sparse (BitVec w),
    Sparse.getZ (l.foldl (fun r p => Sparse.erase r p) m) p = if p ∈ l then 0 else Sparse.getZ m p := by
  induction l with
  | nil => intro m; rw [List.foldl_nil, if_neg List.not_mem_nil]
  | cons a l ih =>
    intro m
    rw [List.foldl_cons, ih, Sparse.getZ, Sparse.get_erase]
    by_cases ha : p = a
    · simp only [ha, if_true, List.mem_cons, true_or, ite_self]
    · simp only [ha, if_false, List.mem_cons, false_or]

/-- The fibre as a call leaves it when no unit moves. -/
def calledFibre (f : Fibre) (c : Nat) : Fibre :=
  { f with
    wdesc := movedWindow f.wdesc false c
    ring := (newPos f.wdesc c).foldl (fun r p => Sparse.erase r p) f.ring
    lr := BitVec.ofNat 64 (f.nextPc.toNat + c * 2 ^ 48) }

theorem called_calledFibre (h : spillUnits f.wdesc c = []) : Called f c (calledFibre f c) := by
  unfold Called calledFibre
  refine ⟨?_, rfl, fun p => getZ_foldl_erase _ p f.ring, rfl⟩
  simp only [movedWindow, h, Bool.false_eq_true, if_false, List.length_nil, Nat.add_zero]

/-- A call whose frame fits the ring. -/
theorem startMove_call (hf : Issues s f) (hfit : spillUnits f.wdesc c = [])
    (hs : Settled s ((newPos f.wdesc c).map fun p => .v (fidOf s.cur) p)) (target : BitVec 48) (opa : Dword) :
    (.next ((startMove s f false c target opa).finish s) : Out) = wentTo s (calledFibre f c) target := by
  have hnone : windowUnits f.wdesc false c = [] := hfit
  have hpos : windowPos f.wdesc false c = newPos f.wdesc c := by rw [windowPos, hnone]; rfl
  rw [startMove_moves (s1 := s) (n := 0) (by rwa [hpos]) (.inl hnone) (by rw [hnone]; rfl), Act.finish, finishMove,
    modFibre_of_fibre _ hf]
  rfl

/-- A return to a frame that the ring holds. -/
theorem startMove_ret (hf : Issues s f) (hfit : fillUnits f.wdesc c = []) (target : BitVec 48) (opa : Dword) :
    (.next ((startMove s f true c target opa).finish s) : Out) = wentTo s { f with
      wdesc := mkWdesc (wSpill f.wdesc) (wDepth f.wdesc - c) (wRing f.wdesc) (wShbase f.wdesc) (wFsz f.wdesc) }
      target := by
  have hnone : windowUnits f.wdesc true c = [] := hfit
  have hpos : windowPos f.wdesc true c = [] := by rw [windowPos, hnone]; rfl
  rw [startMove_moves (s1 := s) (n := 0) (by rw [hpos]; rfl) (.inl hnone) (by rw [hnone]; rfl), Act.finish, finishMove,
    modFibre_of_fibre _ hf]
  simp only [if_true, movedWindow, hfit, List.length_nil, Nat.sub_zero]
  rfl

end Moves

/-! ### CALL, CALLX and RET (R271, R272) -/

/-- A link value is no address to return to (R272). -/
theorem badLink_iff (x : Dword) : field x 52 12 ≠ 0 ∨ field x 0 2 ≠ 0 ↔ x.toNat % 4 ≠ 0 ∨ 2 ^ 52 ≤ x.toNat := by
  have hx := x.isLt
  simp only [field, Nat.pow_zero, Nat.div_one]
  omega

section Calls
variable {s : State} {f : Fibre} {c : BitVec 4} {a : BitVec 6}

theorem call_of (hf : Issues s f) (o : BitVec 22) (hroom : spillOverflow f c.toNat = false) : exec (.call c o) s =
    .next ((startMove s f false c.toNat (f.nextPc + o.signExtend 48 * 4) 0).finish s) := by
  rw [exec_call, execCall, runFibre_of _ hf, hroom, if_neg Bool.false_ne_true]
  rfl

theorem call_overflows (hf : Issues s f) (o : BitVec 22) (hover : spillOverflow f c.toNat = true) :
    exec (.call c o) s = .next (s.takeTrap ⟨0x02, 0, 0, 0⟩) := by
  rw [exec_call, execCall, runFibre_of _ hf, if_pos hover]
  rfl

variable (hf : Issues s f) (hs : Settled s (resS s.cur [a.toNat]))
include hf hs

theorem callx_bad (hbad : badTarget (f.s a.toNat) = true) :
    exec (.callx c a) s = .next (s.takeTrap ⟨0x05, 0, 0, 0⟩) := by
  rw [exec_callx, execCallx, scalarOp_of _ hf hs, if_pos hbad]
  rfl

theorem callx_overflows (hgood : ¬ badTarget (f.s a.toNat) = true) (hover : spillOverflow f c.toNat = true) :
    exec (.callx c a) s = .next (s.takeTrap ⟨0x02, 0, 0, 0⟩) := by
  rw [exec_callx, execCallx, scalarOp_of _ hf hs, if_neg hgood, if_pos hover]
  rfl

theorem callx_of (hgood : ¬ badTarget (f.s a.toNat) = true) (hroom : spillOverflow f c.toNat = false) :
    exec (.callx c a) s =
      .next ((startMove s f false c.toNat ((f.s a.toNat).setWidth 48) (f.s a.toNat)).finish s) := by
  rw [exec_callx, execCallx, scalarOp_of _ hf hs, if_neg hgood, hroom, if_neg Bool.false_ne_true]

theorem ret_bad (hbad : (f.s a.toNat).toNat % 4 ≠ 0 ∨ 2 ^ 52 ≤ (f.s a.toNat).toNat) :
    exec (.ret a) s = .next (s.takeTrap ⟨0x05, 0, 0, 0⟩) := by
  rw [exec_ret, execRet, scalarOp_of _ hf hs]
  dsimp only
  rw [if_pos ((badLink_iff _).2 hbad)]
  rfl

variable (halign : (f.s a.toNat).toNat % 4 = 0) (hc : (f.s a.toNat).toNat / 2 ^ 48 = c.toNat)
include halign hc

/-- RET by a link value that names `c` units. -/
theorem ret_of : exec (.ret a) s = .next ((if wDepth f.wdesc < c.toNat then .trap (plainTrap trapWINOVF)
    else startMove s f true c.toNat ((f.s a.toNat).setWidth 48) (f.s a.toNat) : Act).finish s) := by
  have hlt := c.isLt
  have hgood : ¬ (field (f.s a.toNat) 52 12 ≠ 0 ∨ field (f.s a.toNat) 0 2 ≠ 0) := by rw [badLink_iff]; omega
  have hunits : field (f.s a.toNat) 48 4 = c.toNat := by rw [field, hc]; exact Nat.mod_eq_of_lt hlt
  rw [exec_ret, execRet, scalarOp_of _ hf hs]
  dsimp only
  rw [if_neg hgood, hunits]

theorem ret_underflows (hd : wDepth f.wdesc < c.toNat) : exec (.ret a) s = .next (s.takeTrap ⟨0x02, 0, 0, 0⟩) := by
  rw [ret_of hf hs halign hc, if_pos hd]
  rfl

theorem ret_moves (hd : c.toNat ≤ wDepth f.wdesc) : exec (.ret a) s =
    .next ((startMove s f true c.toNat ((f.s a.toNat).setWidth 48) (f.s a.toNat)).finish s) := by
  rw [ret_of hf hs halign hc, if_neg (Nat.not_lt.2 hd)]

end Calls

/-! ### The reconvergence stack (R203, R275) -/

section Paths
variable {s : State} {f : Fibre} {p : BitVec 3} {n : BitVec 1} {o : BitVec 19}

/-- An instruction that does not fit the stack traps without effect. -/
theorem ifOp_deep (hf : Issues s f) (h : 32 ≤ f.stack.length) :
    exec (.ifOp p n o) s = .next (s.takeTrap ⟨0x03, 0, 0, 0⟩) := by
  rw [exec_ifOp, execIfOp, runFibre_of _ hf]
  dsimp only
  rw [if_pos h]
  rfl

theorem ifOp_of (hf : Issues s f) (h : ¬ 32 ≤ f.stack.length) : exec (.ifOp p n o) s =
    follows s { f with
      exec := f.exec &&& ctrlPred f p n
      stack := ⟨.ifEnt, f.exec, f.exec &&& ~~~ctrlPred f p n, f.target (off48 o)⟩ :: f.stack }
      (f.target (off48 o)) := by
  rw [exec_ifOp, execIfOp, runFibre_of _ hf]
  dsimp only
  rw [if_neg h]
  exact follows_of hf _ _ _

theorem loop_deep (hf : Issues s f) (h : 32 ≤ f.stack.length) :
    exec (.loop o) s = .next (s.takeTrap ⟨0x03, 0, 0, 0⟩) := by
  rw [exec_loop, execLoop, runFibre_of _ hf, if_pos h]
  rfl

theorem loop_of (hf : Issues s f) (h : ¬ 32 ≤ f.stack.length) :
    exec (.loop o) s = became s { f with stack := ⟨.loopEnt, f.exec, 0, f.target (off48 o)⟩ :: f.stack } := by
  rw [exec_loop, execLoop, runFibre_of _ hf, if_neg h]
  exact done_modFibre (fun g => { g with
    exec := f.exec, stack := ⟨.loopEnt, f.exec, 0, f.target (off48 o)⟩ :: f.stack }) hf

section Top
variable {e : StackEnt} {rest : List StackEnt}

theorem elseOp_of (hf : Issues s f) (hst : f.stack = e :: rest) (hk : e.kind = .ifEnt) : exec (.elseOp o) s =
    follows s { f with exec := e.pend, stack := ⟨.elseEnt, e.ent, 0, f.target (off48 o)⟩ :: rest }
      (f.target (off48 o)) := by
  rw [exec_elseOp, execElseOp, runFibre_of _ hf]
  simp only [hst, hk, if_true]
  exact follows_of hf _ _ _

/-- ELSE fits an IF entry on top alone. -/
theorem elseOp_misfit (hf : Issues s f) (h : ∀ e rest, f.stack = e :: rest → e.kind ≠ .ifEnt) :
    exec (.elseOp o) s = .next (s.takeTrap ⟨0x04, 0, 0, 0⟩) := by
  rw [exec_elseOp, execElseOp, runFibre_of _ hf]
  dsimp only
  split
  next e rest hst => rw [if_neg (h e rest hst)]; rfl
  next => rfl

theorem endif_of (hf : Issues s f) (hst : f.stack = e :: rest) (hk : e.kind ≠ .loopEnt) :
    exec .endif s = became s { f with exec := e.ent, stack := rest } := by
  rw [exec_endif, execEndif, runFibre_of _ hf]
  simp only [hst, if_neg hk]
  exact done_modFibre (fun g => { g with exec := e.ent, stack := rest }) hf

/-- ENDIF fits an IF or ELSE entry on top alone. -/
theorem endif_misfit (hf : Issues s f) (h : ∀ e rest, f.stack = e :: rest → e.kind = .loopEnt) :
    exec .endif s = .next (s.takeTrap ⟨0x04, 0, 0, 0⟩) := by
  rw [exec_endif, execEndif, runFibre_of _ hf]
  split
  next e rest hst => rw [if_pos (h e rest hst)]; rfl
  next => rfl

theorem endloop_of (hf : Issues s f) (hst : f.stack = e :: rest) (hk : e.kind = .loopEnt) :
    exec (.endloop p n o) s =
      if (f.exec ||| e.pend) &&& ctrlPred f p n = 0 then became s { f with exec := e.ent, stack := rest }
      else wentTo s { f with
        exec := (f.exec ||| e.pend) &&& ctrlPred f p n, stack := ⟨e.kind, e.ent, 0, e.addr⟩ :: rest }
        (f.target (off48 o)) := by
  rw [exec_endloop, execEndloop, runFibre_of _ hf]
  simp only [hst, hk, if_true]
  split
  · exact done_modFibre (fun g => { g with exec := e.ent, stack := rest }) hf
  · exact jump_modFibre (fun g => { g with
      exec := (f.exec ||| e.pend) &&& ctrlPred f p n, stack := ⟨.loopEnt, e.ent, 0, e.addr⟩ :: rest }) _ hf

/-- ENDLOOP fits a LOOP entry on top alone. -/
theorem endloop_misfit (hf : Issues s f) (h : ∀ e rest, f.stack = e :: rest → e.kind ≠ .loopEnt) :
    exec (.endloop p n o) s = .next (s.takeTrap ⟨0x04, 0, 0, 0⟩) := by
  rw [exec_endloop, execEndloop, runFibre_of _ hf]
  dsimp only
  split
  next e rest hst => rw [if_neg (h e rest hst)]; rfl
  next => rfl

end Top

/-- A stack without a LOOP entry fits neither BREAK nor LCONT. -/
theorem leavePath_misfit (hf : Issues s f) (h : ∀ e ∈ f.stack, e.kind ≠ .loopEnt) (keep : Bool) :
    leavePath p n keep s = .next (s.takeTrap ⟨0x04, 0, 0, 0⟩) := by
  have hall : (f.stack.all fun e => e.kind ≠ .loopEnt) = true := by
    rw [List.all_eq_true]
    exact fun e he => decide_eq_true (h e he)
  rw [leavePath, runFibre_of _ hf]
  dsimp only
  split
  · rfl
  · rw [if_pos hall]; rfl

/-- BREAK and LCONT take their lanes out of the path and of every entry above the nearest LOOP; those of LCONT wait
there. -/
theorem leavePath_of {above below : List StackEnt} {l top : StackEnt} (hf : Issues s f)
    (hst : f.stack = above ++ l :: below) (ha : ∀ e ∈ above, e.kind ≠ .loopEnt) (hl : l.kind = .loopEnt)
    (htop : f.stack.head? = some top) (keep : Bool) : leavePath p n keep s = follows s { f with
      exec := f.exec &&& ~~~(f.exec &&& ctrlPred f p n)
      stack := above.map (fun e => ⟨e.kind, e.ent &&& ~~~(f.exec &&& ctrlPred f p n),
          e.pend &&& ~~~(f.exec &&& ctrlPred f p n), e.addr⟩) ++
        ⟨l.kind, l.ent, l.pend ||| (if keep then f.exec &&& ctrlPred f p n else 0), l.addr⟩ :: below } top.addr := by
  have hloop : ¬ (f.stack.all fun e => e.kind ≠ .loopEnt) = true := by
    rw [List.all_eq_true]
    exact fun h => of_decide_eq_true (h l (hst ▸ List.mem_append_right _ List.mem_cons_self)) hl
  obtain ⟨tail, hcons⟩ := List.head?_eq_some_iff.1 htop
  rw [leavePath, runFibre_of _ hf]
  dsimp only
  split
  next hnil => rw [hnil] at hcons; exact absurd hcons (List.cons_ne_nil _ _).symm
  next top' tail' hcons' =>
    obtain ⟨rfl, -⟩ := List.cons.inj (hcons'.symm.trans hcons)
    rw [if_neg hloop, hst, leaveLoop_eq _ _ _ _ _ ha hl]
    exact follows_of hf _ _ _

end Paths

end Sys2Proof.Machine

open Sys2Proof Sys2Proof.Machine

/-- Settles O13: a call or return without units to move is `startMove_call` and `startMove_ret`, one whose units have
moved `startMove_moves`; the path instructions have a lemma for the stack that they fit and one for every other. -/
theorem controlFlow : Obligations.ControlFlow := by
  unfold Obligations.ControlFlow
  refine ⟨?branches, ?calls, ?paths⟩
  case branches =>
    rintro c o a s f g hf rfl
    refine ⟨fun b hb => ?_, fun hs => ⟨fun halign hlow => ?_, fun hbad => ?_⟩⟩
    · have htaken : braTaken f c.toNat = b := by
        simp only [List.mem_cons, Prod.mk.injEq, List.not_mem_nil, or_false, ← bitOf_eq_getLsbD] at hb
        rcases hb with ⟨rfl, rfl⟩ | ⟨rfl, rfl⟩ | ⟨rfl, rfl⟩ | ⟨rfl, rfl⟩ | ⟨rfl, rfl⟩ | ⟨rfl, rfl⟩ | ⟨rfl, rfl⟩ |
          ⟨rfl, rfl⟩ | ⟨rfl, rfl⟩ | ⟨rfl, rfl⟩
        all_goals rfl
      rw [bra_of hf, htaken]
    · have hgood : ¬ badTarget (f.s a.toNat) = true := by rw [badTarget_iff]; omega
      rw [brx_of hf hs, if_neg hgood]
    · rw [brx_of hf hs, if_pos ((badTarget_iff _).2 hbad)]
  case calls =>
    intro c o a s f hf hs link
    have hgood (h4 : link.toNat % 4 = 0) (h48 : link.toNat < 2 ^ 48) : ¬ badTarget link = true := by
      rw [badTarget_iff]; omega
    refine ⟨fun hfit hnew => ?fits, fun n s1 hroom hq hset hm => ?spills, fun hover => ?overflows, fun hbad => ?_,
      ret_bad hf hs, fun h4 hc => ⟨ret_underflows hf hs h4 hc, fun hd hres => ?returns, fun n s1 hd hq hset hm => ?fills⟩⟩
    case fits =>
      have hnone := spillUnits_eq_nil hfit
      have hroom := spillOverflow_of_nil hnone
      exact ⟨⟨_, by rw [call_of hf o hroom, startMove_call hf hnone hnew], called_calledFibre hnone⟩, fun h4 h48 =>
        ⟨_, by rw [callx_of hf hs (hgood h4 h48) hroom, startMove_call hf hnone hnew], called_calledFibre hnone⟩⟩
    case spills =>
      exact ⟨by rw [call_of hf o hroom, startMove_moves hset (.inr hq) hm]; rfl, fun h4 h48 => by
        rw [callx_of hf hs (hgood h4 h48) hroom, startMove_moves hset (.inr hq) hm]; rfl⟩
    case overflows =>
      exact ⟨call_overflows hf o hover, fun h4 h48 => callx_overflows hf hs (hgood h4 h48) hover⟩
    · exact callx_bad hf hs ((badTarget_iff _).2 hbad)
    case returns => rw [ret_moves hf hs h4 hc hd, startMove_ret hf (fillUnits_eq_nil hres)]
    case fills =>
      have hset' : Settled s ((windowPos f.wdesc true c.toNat).map fun p => .v (fidOf s.cur) p) := by
        rw [windowPos, if_pos rfl, List.append_nil]
        exact hset
      rw [ret_moves hf hs h4 hc hd, startMove_moves hset' (.inr hq) hm]
      rfl
  case paths =>
    rintro p n o s f q dst hf rfl rfl
    refine ⟨fun h => ⟨ifOp_of hf (Nat.not_le.2 h), loop_of hf (Nat.not_le.2 h)⟩, fun h => ⟨ifOp_deep hf h, loop_deep hf h⟩,
      fun e rest hst => ?top, fun above l below top hst ha hl htop => ⟨?_, leavePath_of hf hst ha hl htop true⟩,
      fun h => ⟨leavePath_misfit hf h false, leavePath_misfit hf h true⟩, fun hnil => ?empty⟩
    case top =>
      have htop {P : StackEnt → Prop} (hP : P e) : ∀ e' rest', f.stack = e' :: rest' → P e' := by
        intro e' rest' h
        obtain ⟨rfl, -⟩ := List.cons.inj (hst.symm.trans h)
        exact hP
      exact ⟨elseOp_of hf hst, fun hk => ⟨endif_of hf hst hk, endloop_misfit hf (htop hk)⟩,
        fun hk => elseOp_misfit hf (htop hk), fun hk => ⟨endif_misfit hf (htop hk), endloop_of hf hst hk⟩⟩
    · refine (leavePath_of hf hst ha hl htop false).trans ?_
      rw [if_neg Bool.false_ne_true, show l.pend ||| 0 = l.pend from BitVec.or_zero]
      rfl
    case empty =>
      have hnot {P : StackEnt → Prop} : ∀ e rest, f.stack = e :: rest → P e := by
        intro e rest h
        rw [hnil] at h
        exact absurd h (List.cons_ne_nil _ _).symm
      exact ⟨elseOp_misfit hf hnot, endif_misfit hf hnot, endloop_misfit hf hnot⟩

end

section
/-! SUPPORT. CONT and RETIRE (R399, R400): the lanes that end, and the bytes of the records that CONT emits (R204). -/

namespace Sys2Proof.Machine

/-! ### Lanes that retire (R399) -/

/-- The state in which the active lanes of the fibre in issue have retired and others go on behind the instruction. -/
def State.retireLanes (u : State) (f : Fibre) : State :=
  ((u.endLanes u.cur (lanesOf f.active)).modFibre u.cur fun g => { g with
    exec := g.exec &&& ~~~f.active, stack := g.stack.map fun e => e.without f.active }).retire

theorem retireNow_some {u : State} {f : Fibre} (s : State) (h : f.emptyWithout f.active = false) :
    (retireNow u f).finish s = u.retireLanes f := by
  rw [retireNow, h, if_neg Bool.false_ne_true]
  rfl

theorem retireNow_all {u : State} {f : Fibre} (s : State) (h : f.emptyWithout f.active = true) :
    (retireNow u f).finish s = u.exitFibre := by
  rw [retireNow, if_pos h]
  rfl

/-- Without an open batch to close the lanes retire at once. -/
theorem beforeEnd_now {s : State} {f : Fibre} (h : f.emptyWithout f.active = false ∨ f.openBatch = [])
    (go : State → Act) : beforeEnd s f go = go s := by
  rw [beforeEnd, if_neg]
  rcases h with h | h
  · simp only [h, Bool.false_and, Bool.false_eq_true, not_false_eq_true]
  · simp only [h, List.isEmpty_nil, Bool.not_true, Bool.and_false, Bool.false_eq_true, not_false_eq_true]

theorem exit_of {s : State} {f : Fibre} (hf : Issues s f) (hb : f.openBatch = []) :
    exec .exit s = .next s.exitFibre := by
  rw [exec_exit, execExit, runFibre_of _ hf, endFibre, hb, List.isEmpty_nil, if_pos rfl]
  rfl

theorem retire_of {s : State} {f : Fibre} (hf : Issues s f)
    (h : f.emptyWithout f.active = false ∨ f.openBatch = []) :
    exec .retire s = .next ((retireNow s f).finish s) := by
  rw [exec_retire, execRetire, runFibre_of _ hf, beforeEnd_now h]

/-! ### CONT (R399, R400) -/

theorem cur_discard (s : State) (rgn : Nat) (r : ContRec) : (s.discard rgn r).cur = s.cur := by
  have hlost : (s.loseRecord rgn).cur = s.cur := by
    obtain ⟨rc, h⟩ := modRcb_rcbs s rgn fun r => { r with loss := r.loss + 1 }
    rw [State.loseRecord, h]
  refine Eq.trans ?_ hlost
  unfold State.discard
  cases r.owed with
  | nothing => rfl
  | reply c e => rfl
  | test id => rfl

theorem cur_emit (s : State) (core rgn : Nat) (after : List Nat) (op : Option Op) (recs : List ContRec) :
    (s.emit core rgn after op recs).cur = s.cur := by
  unfold State.emit
  extract_lets ok kept s1 s2
  have h1 : s1.cur = s.cur := foldl_keeps (obs := State.cur) (fun acc r => cur_discard acc rgn r) _ s
  have h2 : s2.cur = s1.cur := foldl_keeps (obs := State.cur)
    (step := fun acc r => acc.recordUp rgn (recEntry r.bytes) false) (fun acc r => rfl) kept s1
  split
  · exact h2.trans h1
  · exact h2.trans h1

section Cont
variable {s : State} {f : Fibre} {a : BitVec 6} {x : BitVec 7}

/-- The records of the active lanes. -/
def contRecords (s : State) (f : Fibre) (a : BitVec 6) (x : BitVec 7) : List ContRec :=
  (lanesOf f.active).map (contRecord s f a.toNat x.toNat)

/-- The state in which the records of a CONT are on their way to the teller. -/
def contEmitted (s : State) (f : Fibre) (a : BitVec 6) (x : BitVec 7) : State :=
  s.emit (coreOf s.cur) f.region (s.lsuOps s.cur) (some (s.opOf f 8 f.active (f.s a.toNat) (f.s (a.toNat + 1)) none
    (.tell (coreOf s.cur) f.region (contRecords s f a x)))) (contRecords s f a x)

variable (hf : Issues s f) (hs : Settled s (resS s.cur [a.toNat, a.toNat + 1]))
  (hv : Settled s (resVs s.cur f (regRun x.toNat 12))) (hact : f.active ≠ 0)
include hf hs hv hact

theorem cont_malformed (hbad : contBad (f.s a.toNat) (f.s (a.toNat + 1)) = true) :
    exec (.cont a x) s = .next (s.takeTrap ⟨trapILL, 6, 0, 0⟩) := by
  rw [exec_cont, execCont, runFibre_of _ hf, guardBusy_of _ (settled_append.2 ⟨hs, hv⟩)]
  dsimp only
  rw [if_neg hact, if_pos hbad]
  rfl

variable (hgood : contBad (f.s a.toNat) (f.s (a.toNat + 1)) = false)
include hgood

theorem cont_full
    (hroom : s.tellerRoom (coreOf s.cur) f.region (field (f.s a.toNat) 0 48) (lanesOf f.active).length = false) :
    exec (.cont a x) s = .next s.stall := by
  rw [exec_cont, execCont, runFibre_of _ hf, guardBusy_of _ (settled_append.2 ⟨hs, hv⟩)]
  dsimp only
  rw [if_neg hact, hgood, hroom, if_neg Bool.false_ne_true, Bool.not_false, if_pos rfl]
  rfl

theorem cont_emits
    (hroom : s.tellerRoom (coreOf s.cur) f.region (field (f.s a.toNat) 0 48) (lanesOf f.active).length = true)
    (hend : f.emptyWithout f.active = false ∨ f.openBatch = []) :
    exec (.cont a x) s = .next ((retireNow (contEmitted s f a x) f).finish s) := by
  rw [exec_cont, execCont, runFibre_of _ hf, guardBusy_of _ (settled_append.2 ⟨hs, hv⟩)]
  dsimp only
  rw [if_neg hact, hgood, hroom, if_neg Bool.false_ne_true, Bool.not_true, if_neg Bool.false_ne_true,
    beforeEnd_now hend]
  rfl

end Cont

/-! ### The bytes of a record (R3, R204) -/

theorem leNat_leBytes (n : Nat) : ∀ x, leNat (leBytes n x) = x % 256 ^ n := by
  induction n with
  | zero => intro x; rw [Nat.pow_zero, Nat.mod_one]; rfl
  | succ n ih =>
    intro x
    rw [leBytes, leNat, ih, BitVec.toNat_ofNat, show 256 ^ (n + 1) = 256 * 256 ^ n from Nat.pow_succ']
    exact (Nat.mod_mul ..).symm

/-- The low bytes of a number. -/
theorem take_leBytes {k n : Nat} (h : k ≤ n) (x : Nat) : (leBytes n x).take k = leBytes k x := by
  induction n generalizing k x with
  | zero => rw [Nat.le_zero.1 h]; rfl
  | succ n ih =>
    cases k with
    | zero => rfl
    | succ k => rw [leBytes, List.take_succ_cons, ih (Nat.le_of_succ_le_succ h), leBytes]

section Parts
variable {α : Type} {g : α → List Byte} {n : Nat} (hg : ∀ a, (g a).length = n)
include hg

theorem length_flatMap_of_length (l : List α) : (l.flatMap g).length = n * l.length := by
  induction l with
  | nil => rfl
  | cons a l ih => rw [List.flatMap_cons, List.length_append, hg, ih, List.length_cons, Nat.mul_succ, Nat.add_comm]

/-- Of parts of one length, the part at a place. -/
theorem take_drop_flatMap (l : List α) : ∀ k (h : k < l.length), ((l.flatMap g).drop (n * k)).take n = g l[k] := by
  induction l with
  | nil => intro k h; exact absurd h (Nat.not_lt_zero k)
  | cons a l ih =>
    intro k h
    rw [List.flatMap_cons]
    cases k with
    | zero => rw [Nat.mul_zero, List.drop_zero, List.take_left' (hg a), List.getElem_cons_zero]
    | succ k =>
      rw [Nat.mul_succ, Nat.add_comm, ← List.drop_drop, List.drop_left' (hg a), ih k (Nat.lt_of_succ_lt_succ h),
        List.getElem_cons_succ]

end Parts

section Bytes
variable (s : State) (f : Fibre) (a x i : Nat)

/-- The twelve words of a lane, as the record holds them. -/
def contWords : List Byte := (regRun x 12).flatMap fun n => leBytes 4 (lane (s.v s.cur f n) i).toNat

theorem length_contWords : (contWords s f x i).length = 48 :=
  length_flatMap_of_length (fun _ => length_leBytes 4 _) _

theorem contRecord_bytes : (contRecord s f a x i).bytes = leBytes 8 (f.s a).toNat ++
    (leBytes 4 (field (f.s (a + 1)) 0 32) ++ (leBytes 1 0 ++ (leBytes 3 f.region ++ contWords s f x i))) := by
  simp only [contRecord, contWords, List.append_assoc]

theorem length_contRecord : (contRecord s f a x i).bytes.length = 64 := by
  simp only [contRecord_bytes, List.length_append, length_leBytes, length_contWords]

theorem recEntry_contRecord : recEntry (contRecord s f a x i).bytes = field (f.s a) 0 48 := by
  rw [recEntry, contRecord_bytes, List.take_append_of_le_length (by rw [length_leBytes]; decide),
    take_leBytes (by decide), leNat_leBytes]
  exact congrArg (· % 2 ^ 48) (Nat.div_one _).symm

theorem recKey_contRecord : recKey (contRecord s f a x i).bytes = field (f.s (a + 1)) 0 32 := by
  rw [recKey, contRecord_bytes, List.drop_left' (length_leBytes 8 _), List.take_left' (length_leBytes 4 _),
    leNat_leBytes]
  exact Nat.mod_mod _ (2 ^ 32)

/-- Bytes 13 to 15 hold the region. -/
theorem region_contRecord (h : f.region < 2 ^ 24) :
    leNat (((contRecord s f a x i).bytes.drop 13).take 3) = f.region := by
  rw [contRecord_bytes, show 13 = 8 + (4 + 1) from rfl, ← List.drop_drop, List.drop_left' (length_leBytes 8 _),
    ← List.drop_drop, List.drop_left' (length_leBytes 4 _), List.drop_left' (length_leBytes 1 _),
    List.take_left' (length_leBytes 3 _), leNat_leBytes]
  exact Nat.mod_eq_of_lt h

/-- The words of the record are those of the lane. -/
theorem word_contRecord {k : Nat} (hk : k < 12) :
    leNat (((contRecord s f a x i).bytes.drop (16 + 4 * k)).take 4) = (lane (s.v s.cur f (x + k)) i).toNat := by
  have hlen : k < (regRun x 12).length := by rw [regRun, List.length_map, List.length_range]; exact hk
  have hreg : (regRun x 12)[k] = x + k := by simp only [regRun, List.getElem_map, List.getElem_range]
  rw [contRecord_bytes, ← List.drop_drop, show 16 = 8 + (4 + (1 + 3)) from rfl, ← List.drop_drop,
    List.drop_left' (length_leBytes 8 _), ← List.drop_drop, List.drop_left' (length_leBytes 4 _), ← List.drop_drop,
    List.drop_left' (length_leBytes 1 _), List.drop_left' (length_leBytes 3 _), contWords,
    take_drop_flatMap (fun _ => length_leBytes 4 _) _ k hlen, hreg, leNat_leBytes]
  exact Nat.mod_eq_of_lt (lane (s.v s.cur f (x + k)) i).isLt

end Bytes

end Sys2Proof.Machine

open Sys2Proof Sys2Proof.Machine

/-- Settles O40: RETIRE and CONT end through `retireNow`, whose two ends are `retireNow_some` and `retireNow_all`, CONT
after it has emitted its records (`cont_emits`); the records' bytes are those of `contRecord_bytes`, part by part. -/
theorem contAndRetire : Obligations.ContAndRetire := by
  unfold Obligations.ContAndRetire
  rintro a x s t f recs last hf hs hv rfl rfl rfl
  refine ⟨fun hsome => ?_, fun hall hb => ⟨?_, ?_⟩, fun hact hbad => ?_, fun hact hgood => ⟨fun hroom => ?_,
    fun hroom => ⟨fun hsome => ?_, fun hall hb => ?_⟩⟩, ?bytes⟩
  · rw [retire_of hf (.inl hsome), retireNow_some s hsome]
    rfl
  · rw [retire_of hf (.inr hb), retireNow_all s hall, exit_of hf hb]
  · rw [retire_of hf (.inr hb), retireNow_all s hall]
  · exact cont_malformed hf hs hv hact hbad
  · exact cont_full hf hs hv hact hgood hroom
  · rw [cont_emits hf hs hv hact hgood hroom (.inl hsome), retireNow_some s hsome, State.retireLanes, contEmitted,
      cur_emit]
    rfl
  · rw [cont_emits hf hs hv hact hgood hroom (.inr hb), retireNow_all s hall]
    rfl
  case bytes =>
    rintro i k b hk hr rfl
    exact ⟨length_contRecord .., recEntry_contRecord .., recKey_contRecord .., region_contRecord _ _ _ _ _ hr,
      word_contRecord _ _ _ _ _ hk⟩

end

section
/-! SUPPORT. The fibres on the chip stay as they are while an access of the device is placed, folded and performed (R28,
R158, R205): it changes memories, translations, requests and logs only. -/

namespace Sys2Proof.Machine

/-- What keeps the fibres keeps them in the state that it answers. -/
theorem fibres_of_eq {α : Type} {r : α × State} {a : α} {s s1 : State} (h : r.2.fibres = s.fibres) (e : r = (a, s1)) :
    s1.fibres = s.fibres := by
  subst e
  exact h

/-! ### The walk (R16, R19, R21) -/

theorem fibres_tablePlace (s : State) (kind a : Nat) (write : Bool) : (tablePlace s kind a write).2.fibres = s.fibres := by
  unfold tablePlace
  repeat' split
  all_goals rfl

theorem fibres_walkLevels (cluster : Nat) (ctx : CtxSlot) (asid : BitVec 16) (va : Nat) (setD : Bool) (level : Nat) :
    ∀ (s : State) (kind table : Nat), (walkLevels s cluster ctx asid va setD level kind table).2.fibres = s.fibres := by
  induction level using Nat.strongRecOn with
  | _ level ih =>
    intro s kind table
    unfold walkLevels
    extract_lets ea
    have hread := fibres_tablePlace s kind ea false
    split
    next place s1 hp =>
      have h1 := fibres_of_eq hread hp
      extract_lets pte
      split
      · exact h1
      · split
        · split
          · exact h1
          · have hwrite := fibres_tablePlace s1 kind ea true
            split
            next hq => exact (fibres_of_eq hwrite hq).trans h1
            next hq => exact (fibres_of_eq hwrite hq).trans h1
        · split
          · exact h1
          · exact (ih _ (Nat.lt_succ_self _) _ _ _).trans h1
    next hp => exact fibres_of_eq hread hp

section Places
variable (s : State)

theorem fibres_walk (cluster : Nat) (ctx : CtxSlot) (va : Nat) (setD : Bool) :
    (walk s cluster ctx va setD).2.fibres = s.fibres := by
  unfold walk
  split
  · rfl
  · split
    · exact fibres_walkLevels ..
    · exact fibres_walkLevels ..

/-! ### Leaves (R15, R34, R42) -/

theorem fibres_makeCtxRoom : (makeCtxRoom s).fibres = s.fibres := by
  unfold makeCtxRoom
  repeat' split
  all_goals rfl

theorem fibres_getCtx (asid : BitVec 16) : (getCtx s asid).2.fibres = s.fibres := by
  unfold getCtx
  split
  · rfl
  · extract_lets c s1
    have h1 : s1.fibres = s.fibres := fibres_makeCtxRoom s
    dsimp only
    split
    · exact h1
    · exact h1

theorem fibres_ctxFor (asid : BitVec 16) : (ctxFor s asid).2.fibres = s.fibres := by
  unfold ctxFor
  split
  · rfl
  · split
    · exact fibres_getCtx s asid
    · rfl

theorem fibres_hostLeaf (ctx : CtxSlot) (e : TlbEnt) (va : Nat) : (hostLeaf s ctx e va).2.fibres = s.fibres := by
  unfold hostLeaf
  dsimp only
  repeat' split
  all_goals rfl

theorem fibres_walkLeaf (cluster : Nat) (ctx : CtxSlot) (va : Nat) (setD : Bool) :
    (walkLeaf s cluster ctx va setD).2.fibres = s.fibres := by
  have hwalk := fibres_walk s cluster ctx va setD
  unfold walkLeaf
  split
  next e s1 hw =>
    have h1 := fibres_of_eq hwalk hw
    split
    · have hleaf := fibres_hostLeaf s1 ctx e va
      split
      next hl => exact (fibres_of_eq hleaf hl).trans h1
      next => exact hleaf.trans h1
    · exact h1
  next => exact hwalk

theorem fibres_leafFor (w : Who) (va : Nat) (writes : Bool) : (leafFor s w va writes).2.fibres = s.fibres := by
  have hctx := fibres_ctxFor s w.asid
  unfold leafFor
  dsimp only
  split
  next ctx s1 hc =>
    have h1 := fibres_of_eq hctx hc
    split
    · exact h1
    · exact (fibres_walkLeaf ..).trans h1
  next hc => exact fibres_of_eq hctx hc

theorem fibres_markDirty (w : Who) (va : Nat) (e : TlbEnt) : (markDirty s w va e).2.fibres = s.fibres := by
  have hctx := fibres_ctxFor s w.asid
  unfold markDirty
  split
  · rfl
  · split
    next ctx s1 hc => exact (fibres_walkLeaf ..).trans (fibres_of_eq hctx hc)
    next hc => exact fibres_of_eq hctx hc

/-! ### Pages and pieces (R28, R306) -/

theorem fibres_placeOf (k : AKind) (e : TlbEnt) (va n : Nat) : (placeOf s k e va n).2.fibres = s.fibres := by
  unfold placeOf
  dsimp only
  repeat' split
  all_goals rfl

theorem fibres_checkPage (w : Who) (k : AKind) (va : Nat) : (checkPage s w k va).2.fibres = s.fibres := by
  have hleaf := fibres_leafFor s w va k.writes
  unfold checkPage
  split
  · rfl
  · split
    · rfl
    · split
      next e s1 hl =>
        have h1 := fibres_of_eq hleaf hl
        split
        · exact h1
        · split
          · exact h1
          · exact h1
      next => exact hleaf

theorem fibres_enterPage (w : Who) (k : AKind) (va n : Nat) (e : TlbEnt) :
    (enterPage s w k va n e).2.fibres = s.fibres := by
  have hmark : (if k.writes then markDirty s w va e else (.ok e, s)).2.fibres = s.fibres := by
    split
    · exact fibres_markDirty s w va e
    · rfl
  unfold enterPage
  split
  next e1 s1 hm =>
    have h1 := fibres_of_eq hmark hm
    have hplace := fibres_placeOf s1 k e1 va n
    split
    next hp => exact (fibres_of_eq hplace hp).trans h1
    next hp => exact (fibres_of_eq hplace hp).trans h1
  next hm => exact fibres_of_eq hmark hm

end Places

theorem fibres_checkAll (w : Who) (k : AKind) (l : List (Nat × Nat)) : ∀ s : State,
    (checkAll s w k l).2.fibres = s.fibres := by
  induction l with
  | nil => exact fun s => rfl
  | cons x l ih =>
    intro s
    obtain ⟨va, n⟩ := x
    have hpage := fibres_checkPage s w k va
    unfold checkAll
    split
    next e s1 hp =>
      have h1 := fibres_of_eq hpage hp
      split
      next hl => exact (fibres_of_eq (ih s1) hl).trans h1
      next => exact (ih s1).trans h1
    next hp => exact fibres_of_eq hpage hp

theorem fibres_enterAll (w : Who) (k : AKind) (l : List (Nat × Nat × TlbEnt)) : ∀ s : State,
    (enterAll s w k l).2.fibres = s.fibres := by
  induction l with
  | nil => exact fun s => rfl
  | cons x l ih =>
    intro s
    obtain ⟨va, n, e⟩ := x
    have hpage := fibres_enterPage s w k va n e
    unfold enterAll
    split
    next p s1 hp =>
      have h1 := fibres_of_eq hpage hp
      split
      next hl => exact (fibres_of_eq (ih s1) hl).trans h1
      next => exact (ih s1).trans h1
    next hp => exact fibres_of_eq hpage hp

section Accesses
variable (s : State)

theorem fibres_resolve (w : Who) (k : AKind) (va n : Nat) : (resolve s w k va n).2.fibres = s.fibres := by
  have hcheck := fibres_checkAll w k (pieces va n) s
  unfold resolve resolveAll
  split
  next es s1 hc => exact (fibres_enterAll w k es s1).trans (fibres_of_eq hcheck hc)
  next hc => exact fibres_of_eq hcheck hc

theorem fibres_locate_global (w : Who) (grp : Nat) (k : AKind) (a n : Nat) :
    (s.locate w grp k .global a n).2.fibres = s.fibres := by
  have hres := fibres_resolve s w k a n
  unfold State.locate
  dsimp only
  split
  all_goals next hr => exact fibres_of_eq hres hr

/-! ### Folds and requests (R51, R158) -/

theorem fibres_requestFor (clusters : List Nat) (asid : BitVec 16) (m : Missing) :
    (s.requestFor clusters asid m).fibres = s.fibres := by
  cases m with
  | granule g hs want =>
    simp only [State.requestFor, State.requestGranule]
    split
    · rfl
    · split
      · rfl
      · rfl
  | block b excl => exact (apply_ite State.fibres ..).trans (ite_self _)

theorem fibres_placePhys (p : Phys) (hs : Bool) : (s.placePhys p hs).2.fibres = s.fibres := by
  unfold State.placePhys
  repeat' split
  all_goals rfl

theorem fibres_foldBlock (err : Bool) (q : Partial) : (foldBlock s err q).2.fibres = s.fibres := by
  have hplace := fibres_placePhys s q.phys q.hs
  unfold foldBlock
  split
  next hp => have h1 := fibres_of_eq hplace hp; exact h1
  next hp => have h1 := fibres_of_eq hplace hp; cases err <;> exact h1
  next hp => have h1 := fibres_of_eq hplace hp; cases err <;> exact h1
  next hp => exact fibres_of_eq hplace hp
  next hp => exact fibres_of_eq hplace hp

end Accesses

theorem fibres_foldBlocks (err : Bool) (l : List Partial) : ∀ s : State, (foldBlocks s err l).2.fibres = s.fibres := by
  induction l with
  | nil => exact fun s => rfl
  | cons q l ih =>
    intro s
    have hfold := fibres_foldBlock s err q
    unfold foldBlocks
    split
    next s1 hq => exact (ih s1).trans (fibres_of_eq hfold hq)
    next => exact hfold

/-! ### Writes and logs (R33, R308) -/

theorem fibres_writeSpots (core : Nat) (md : WMode) (l : List Spot) : ∀ (s : State) (b : List Byte),
    (s.writeSpots core md b l).fibres = s.fibres := by
  induction l with
  | nil => exact fun s b => rfl
  | cons x l ih =>
    intro s b
    refine (ih _ _).trans ?_
    cases x with
    | mem p n => rfl
    | cscr a n => rfl
    | gscr g o n => rfl

theorem fibres_homeBytes (s : State) (core : Nat) (l : List Spot) : (homeBytes s core l).2.fibres = s.fibres := rfl

theorem fibres_putHomeBytes (s : State) (core : Nat) (b : List Byte) (l : List Spot) :
    (putHomeBytes s core b l).fibres = s.fibres := by
  rw [putHomeBytes, fibres_writeSpots]
  rfl

theorem fibres_errLog (s : State) (rgn : Nat) (e : ErrEntry) : (s.errLog rgn e).fibres = s.fibres := by
  unfold State.errLog
  split
  · rfl
  · split
    · rfl
    · extract_lets b
      rw [setRcb_fibres, fibres_physWrite]

/-! ### Subtractions by the device (R205, R221) -/

theorem fibres_devSub (s : State) (d : DevSub) (cores : List Nat) : (devSub s d cores).2.fibres = s.fibres := by
  have hloc := fibres_locate_global s ⟨d.core, d.asid, d.priv⟩ 0 .atomic d.addr.toNat 8
  unfold devSub
  split
  next l s0 hl =>
    have h0 := fibres_of_eq hloc hl
    have hfold := fibres_foldBlocks true (s0.mem.heldIn (l.flatMap (Spot.physLines s0.mem))) s0
    split
    next hf => exact (fibres_requestFor ..).trans ((fibres_of_eq hfold hf).trans h0)
    next hf => exact (fibres_of_eq hfold hf).trans h0
    next s1 hf =>
      have h1 := (fibres_of_eq hfold hf).trans h0
      extract_lets m
      have hread := fibres_homeBytes { s1 with mem := m } d.core l
      split
      next b s2 hb =>
        have h2 := fibres_of_eq hread hb
        extract_lets s3
        have h3 : s3.fibres = s2.fibres := fibres_putHomeBytes s2 d.core _ l
        exact h3.trans (h2.trans h1)
  next hl => exact (fibres_requestFor ..).trans (fibres_of_eq hloc hl)
  next hl => exact fibres_of_eq hloc hl
  next hl => have h1 := fibres_of_eq hloc hl; exact (fibres_errLog ..).trans h1
  next hl => have h1 := fibres_of_eq hloc hl; exact (fibres_errLog ..).trans h1

theorem fibres_retrySubs (s : State) : s.retrySubs.fibres = s.fibres := by
  unfold State.retrySubs
  refine foldl_keeps (obs := State.fibres) (fun acc d => ?_) s.co.subs s
  have hsub := fibres_devSub acc d [d.core]
  split
  next hd => have h1 := fibres_of_eq hsub hd; exact h1
  next hd => exact fibres_of_eq hsub hd

theorem fibres_owesSub (s : State) (id : Nat) (g : Group) : (s.owesSub id g).fibres = s.fibres := by
  unfold State.owesSub
  split
  · rfl
  · split
    · rfl
    · exact fibres_retrySubs _

/-! ### Positions that are emptied (R187, R243) -/

section Emptied
variable (s : State)

theorem fibres_removeOp (id : Nat) : (s.removeOp id).fibres = s.fibres := by
  unfold State.removeOp
  split
  · rfl
  · rfl

theorem fibres_dropGroup (id : Nat) : (s.dropGroup id).fibres = s.fibres := by
  unfold State.dropGroup
  split
  · rfl
  · extract_lets s1 s2 s3
    have h2 : s2.fibres = s.fibres := fibres_modRcb s1 _ _
    exact (foldl_keeps (obs := State.fibres) fibres_removeOp _ s3).trans h2

theorem fibres_dropWaits : s.dropWaits.fibres = s.fibres := by
  refine foldl_keeps (obs := State.fibres) (step := fun (acc : State) (w : BankSwitch) => acc.startSwitch w.bank)
    (fun acc w => ?_) _ _
  unfold State.startSwitch
  split
  · rfl
  · rfl

/-- No fibre is left in a position that is emptied. -/
theorem fibre_emptyLocs {locs : List Nat} {loc : Nat} (h : loc ∈ locs) : (s.emptyLocs locs).fibre loc = none := by
  unfold State.emptyLocs State.fibre
  extract_lets s1 gone s2 s3
  have hdrop : (gone.foldl (fun acc g => if acc.groupAlive g then acc else acc.dropGroup g) s3).fibres = s3.fibres := by
    refine foldl_keeps (obs := State.fibres) (fun acc g => ?_) gone s3
    split
    · rfl
    · exact fibres_dropGroup acc g
  rw [fibres_dropWaits, hdrop, Option.eq_none_iff_forall_ne_some]
  intro f hf
  have hmem : (loc, f) ∈ s1.fibres.filter fun e => !locs.contains e.1 := Sparse.mem_of_find hf
  have hout := (List.mem_filter.1 hmem).2
  rw [List.contains_iff_mem.2 h] at hout
  exact absurd hout Bool.false_ne_true

end Emptied

end Sys2Proof.Machine
end

section
/-! SUPPORT. WINDOW (R196, R394), and the end of a fibre (R192, R261, R393): EXIT, and the position that an EXITING fibre
leaves. -/

namespace Sys2Proof.Machine

/-! ### WINDOW (R394) -/

section Window
variable {s : State} {f : Fibre} {a : BitVec 6}

theorem window_bad (hf : Issues s f) (hs : Settled s (resS s.cur [a.toNat]))
    (hbad : windowBad f.wdesc (f.s a.toNat) (s.slot s.cur).h = true) :
    exec (.window a) s = .next (s.takeTrap ⟨trapILL, 6, 0, 0⟩) := by
  rw [exec_window, execWindow, scalarOp_of _ hf hs]
  dsimp only
  rw [if_pos hbad]
  rfl

theorem append_map_subset_flatMap {α β : Type} (g h : α → β) (l : List α) :
    l.map g ++ l.map h ⊆ l.flatMap fun n => [g n, h n] := by
  intro r hr
  rcases List.mem_append.1 hr with hr | hr
  · obtain ⟨n, hn, rfl⟩ := List.mem_map.1 hr
    exact List.mem_flatMap.2 ⟨n, hn, List.mem_cons_self⟩
  · obtain ⟨n, hn, rfl⟩ := List.mem_map.1 hr
    exact List.mem_flatMap.2 ⟨n, hn, List.mem_cons_of_mem _ List.mem_cons_self⟩

/-- Once no register of either window is pending, WINDOW changes the window. -/
theorem window_of {w : Dword} (hf : Issues s f) (hs : Settled s (resS s.cur [a.toNat]))
    (hgood : windowBad f.wdesc (f.s a.toNat) (s.slot s.cur).h = false)
    (hw : w = mkWdesc (wSpill f.wdesc) (wDepth f.wdesc) (wRing f.wdesc) (field (f.s a.toNat) 12 10)
      (field (f.s a.toNat) 0 5))
    (hv : Settled s ((List.range 128).flatMap fun n => [resV (fidOf s.cur) f.wdesc n, resV (fidOf s.cur) w n])) :
    exec (.window a) s = became s { f with wdesc := w } := by
  have hfree : s.busy s.cur ((List.range 128).map (resV (fidOf s.cur) f.wdesc) ++
      (List.range 128).map (resV (fidOf s.cur) w)) = false := settled_sub hv (append_map_subset_flatMap ..)
  rw [exec_window, execWindow, scalarOp_of _ hf hs]
  dsimp only
  rw [hgood, if_neg Bool.false_ne_true, ← hw, hfree, if_neg Bool.false_ne_true]
  exact done_modFibre (fun g => { g with wdesc := w }) hf

/-- A frame that WINDOW takes fits the ring and has 1 to 16 units (R196). -/
theorem frame_of_windowBad {w x : Dword} {h : Nat} (hgood : windowBad w x h = false) :
    field x 0 5 * 8 ≤ wRing w * 8 ∧ 1 ≤ field x 0 5 ∧ field x 0 5 ≤ 16 := by
  simp only [windowBad, Bool.or_eq_false_iff, beq_eq_false_iff_ne, decide_eq_false_iff_not] at hgood
  omega

end Window

/-! ### EXIT (R261, R393) -/

theorem foldl_erase_nil {α : Type} (l : List Nat) : l.foldl Sparse.erase ([] : Sparse α) = [] := by
  induction l with
  | nil => rfl
  | cons n l ih => exact ih

/-- Lanes that owe nothing end without a trace. -/
theorem endLanes_of_owing_nothing {s : State} {f : Fibre} (hf : Issues s f) (ho : f.owes = []) (ht : f.tests = [])
    (lanes : List Nat) : s.endLanes s.cur lanes = s.setFibre s.cur f := by
  have hf' : s.fibre s.cur = some f := hf
  have hsame : lanes.foldl (fun acc _ => acc) s = s := foldl_keeps (obs := id) (fun _ _ => rfl) lanes s
  simp only [State.endLanes, hf', ho, ht, Sparse.find, hsame]
  rw [modFibre_of_fibre _ hf']
  simp only [ho, ht, foldl_erase_nil]
  rw [← ho, ← ht]

/-- Settling the barriers of a slot touches nothing but slots. -/
theorem settleFbars_slots (s : State) (loc : Nat) : ∃ l, s.settleFbars loc = { s with slots := l } := by
  obtain ⟨l0, h0⟩ := settleFbar_slots s loc 0
  obtain ⟨l1, h1⟩ := settleFbar_slots { s with slots := l0 } loc 1
  obtain ⟨l2, h2⟩ := settleFbar_slots { s with slots := l1 } loc 2
  obtain ⟨l3, h3⟩ := settleFbar_slots { s with slots := l2 } loc 3
  refine ⟨l3, ?_⟩
  simp only [State.settleFbars, List.foldl_cons, List.foldl_nil]
  rw [h0, h1, h2, h3]

/-- The fibre as EXIT leaves it. -/
def Fibre.exited (f : Fibre) : Fibre :=
  { f.issuedTo f.nextPc with st := .exiting, stack := [], fbIn := false, nbIn := false }

/-- EXIT of a fibre that owes nothing changes that fibre, its slot, and the clocks of its regions. -/
theorem exitFibre_eq {s : State} {f : Fibre} (hf : Issues s f) (ho : f.owes = []) (ht : f.tests = []) :
    ∃ slots rc, s.exitFibre =
      { s.setFibre s.cur f.exited with slots := slots, sched := { s.sched with rcbs := rc } } := by
  obtain ⟨rc, hret⟩ := retire_eq (issues_setFibre s f)
  obtain ⟨slots, hset⟩ := settleFbars_slots
    ((s.setFibre s.cur f).retire.modFibre s.cur fun f => { f with st := .exiting, stack := [], fbIn := false, nbIn := false })
    s.cur
  refine ⟨slots, rc, ?_⟩
  rw [State.exitFibre, endLanes_of_owing_nothing hf ho ht, hset]
  rw [hret, modFibre_of_fibre (f := f.issuedTo f.nextPc)]
  · simp only [State.setFibre, Sparse.put_put]
    rfl
  · simp only [State.fibre, State.setFibre, Sparse.find_put, if_true]

/-! ### FIBRE_EMPTY (R192) -/

theorem fibre_ripenBins (s : State) (loc : Nat) : s.ripenBins.fibre loc = s.fibre loc := rfl

theorem fibre_owesSub (s : State) (id : Nat) (g : Group) (loc : Nat) : (s.owesSub id g).fibre loc = s.fibre loc := by
  rw [State.fibre, fibres_owesSub, State.fibre]

section Empty
variable {s : State} {loc : Nat} {f : Fibre}

theorem fibreEmpty_stays (hf : s.fibre loc = some f) (h : s.mayEmpty loc f = false) :
    exec (.fibreEmpty loc) s = .next s := by
  simp only [exec_fibreEmpty, execFibreEmpty, hf, h, Bool.not_false, if_true]

theorem fibreEmpty_leaves (hf : s.fibre loc = some f) (h : s.mayEmpty loc f = true) :
    ∃ t : State, exec (.fibreEmpty loc) s = .next t ∧ t.fibre loc = none := by
  simp only [exec_fibreEmpty, execFibreEmpty, hf, h, Bool.not_true, Bool.false_eq_true, if_false]
  refine ⟨_, rfl, ?_⟩
  have hempty := fibre_emptyLocs s (List.mem_singleton_self loc)
  rw [fibre_ripenBins]
  split
  · rw [fibre_owesSub, hempty]
  · exact hempty

/-- A fibre that may leave is EXITING, with no counter raised and no record. -/
theorem of_mayEmpty (h : s.mayEmpty loc f = true) : f.st = .exiting ∧ (∀ c, c < 8 → f.counter c = 0) ∧
    ∀ k, k < 4 → Sparse.find s.eng.recs (loc * 4 + k) = none := by
  simp only [State.mayEmpty, Bool.and_eq_true, beq_iff_eq, Bool.not_eq_true'] at h
  obtain ⟨⟨⟨⟨⟨hst, hidle⟩, hrec⟩, -⟩, -⟩, -⟩ := h
  refine ⟨hst, fun c hc => ?_, fun k hk => Option.eq_none_iff_forall_ne_some.2 fun r hr => ?_⟩
  · exact beq_iff_eq.1 (List.all_eq_true.1 hidle c (List.mem_range.2 hc))
  · have hnot := List.any_eq_false.1 hrec _ (Sparse.mem_of_find hr)
    rw [beq_iff_eq] at hnot
    omega

end Empty

end Sys2Proof.Machine

open Sys2Proof Sys2Proof.Machine

/-- Settles O39: WINDOW by `window_bad` and `window_of`, EXIT by `exitFibre_eq`, and the position of an EXITING fibre by
`fibre_emptyLocs`, which the subtractions behind it do not fill again (`fibres_owesSub`). -/
theorem windowAndExit : Obligations.WindowAndExit := by
  unfold Obligations.WindowAndExit
  refine ⟨?window, fun s f hf hb ho ht => ?exit, fun s loc f hf => ⟨fibreEmpty_stays hf, fun h =>
    ⟨fibreEmpty_leaves hf h, of_mayEmpty h⟩⟩⟩
  case window =>
    rintro a s f x w hf hs rfl hw
    exact ⟨window_bad hf hs, fun hgood => window_of hf hs hgood hw, frame_of_windowBad⟩
  case exit =>
    obtain ⟨slots, rc, heq⟩ := exitFibre_eq hf ho ht
    refine ⟨_, exit_of hf hb, ?_, fun l hl => ?_, ?_, ?_, ?_⟩
    all_goals rw [heq]
    · refine (fibre_setFibre s s.cur s.cur _).trans ?_
      rw [if_pos rfl, Fibre.exited, nextPc_eq]
      rfl
    · exact (fibre_setFibre s s.cur l _).trans (if_neg hl)
    · rfl
    · rfl
    · rfl

end

section
/-! SUPPORT. Purses and leave (R235, R237, R419): what a purse reads after it was written, what a lone request does to its
purse's queue, and what an instruction that needs leave goes on with. -/

namespace Sys2Proof.Machine

/-! ### Purses (R235) -/

/-- The state with other purses. -/
def State.withPurses (s : State) (purses : Sparse Dword) : State := { s with reg := { s.reg with purse := purses } }

@[simp] theorem withPurses_cur (s : State) (m : Sparse Dword) : (s.withPurses m).cur = s.cur := rfl
@[simp] theorem withPurses_fibres (s : State) (m : Sparse Dword) : (s.withPurses m).fibres = s.fibres := rfl
@[simp] theorem withPurses_fibre (s : State) (m : Sparse Dword) (l : Nat) : (s.withPurses m).fibre l = s.fibre l := rfl
@[simp] theorem withPurses_co (s : State) (m : Sparse Dword) : (s.withPurses m).co = s.co := rfl
@[simp] theorem withPurses_mem (s : State) (m : Sparse Dword) : (s.withPurses m).mem = s.mem := rfl

/-- Writing a purse changes the purses and nothing else. -/
theorem setPurse_eq (s : State) (k allow : Nat) (bal : Int) : ∃ m, s.setPurse k allow bal = s.withPurses m := ⟨_, rfl⟩

@[simp] theorem setPurse_cur (s : State) (k allow : Nat) (bal : Int) : (s.setPurse k allow bal).cur = s.cur := by
  obtain ⟨m, hm⟩ := setPurse_eq s k allow bal
  rw [hm, withPurses_cur]

@[simp] theorem setPurse_fibre (s : State) (k allow : Nat) (bal : Int) (l : Nat) :
    (s.setPurse k allow bal).fibre l = s.fibre l := by
  obtain ⟨m, hm⟩ := setPurse_eq s k allow bal
  rw [hm, withPurses_fibre]

@[simp] theorem setPurse_co (s : State) (k allow : Nat) (bal : Int) : (s.setPurse k allow bal).co = s.co := by
  obtain ⟨m, hm⟩ := setPurse_eq s k allow bal
  rw [hm, withPurses_co]

@[simp] theorem purse_setFibre (s : State) (l : Nat) (f : Fibre) (k : Nat) : (s.setFibre l f).purse k = s.purse k := rfl

/-- A purse reads as it was written, whatever the state it was written in held. -/
theorem purse_setPurse (s t : State) (k allow : Nat) (bal : Int) :
    (s.setPurse k allow bal).purse k = (t.setPurse k allow bal).purse k := by
  simp only [State.purse, State.setPurse, Sparse.get_set, if_true]

theorem purse_setPurse_other {s : State} {j k : Nat} (h : j ≠ k) (allow : Nat) (bal : Int) :
    (s.setPurse k allow bal).purse j = s.purse j := by
  simp only [State.purse, State.setPurse, Sparse.get_set, if_neg h]

theorem toNat_purseAllow (p : Dword) : (purseAllow p).toNat = field p 32 24 := rfl

theorem giveLeave_fibre (s : State) (loc : Nat) (bal : Word) :
    s.giveLeave (.fibre loc) bal = s.modFibre loc fun f => { f with leave := some bal } := rfl

/-! ### The queue of a purse (R237) -/

/-- The purse can grant a request: BAL covers its cost, or half the allowance. -/
def Covers (s : State) (k cost : Nat) : Prop :=
  (cost : Int) ≤ purseBal (s.purse k) ∨ purseAllow (s.purse k) ≤ 2 * purseBal (s.purse k)

/-- The state with one request in its purses' queues. -/
def State.asking (s : State) (r : LeaveReq) : State := { s with co := { s.co with leaves := [r] } }

/-- BAL after the grant of a cost. -/
def State.balAfter (s : State) (k cost : Nat) : Int := purseBal (s.purse k) - cost

/-- The purse's balance has paid a cost. -/
def State.pay (s : State) (k cost : Nat) : State := s.setPurse k (field (s.purse k) 32 24) (s.balAfter k cost)

@[simp] theorem pay_cur (s : State) (k cost : Nat) : (s.pay k cost).cur = s.cur := setPurse_cur ..
@[simp] theorem pay_fibre (s : State) (k cost l : Nat) : (s.pay k cost).fibre l = s.fibre l := setPurse_fibre ..
@[simp] theorem pay_co (s : State) (k cost : Nat) : (s.pay k cost).co = s.co := setPurse_co ..

theorem serveLeave_none {s : State} (h : s.co.leaves = []) (k : Nat) : s.serveLeave k = s := by
  rw [State.serveLeave, h]
  rfl

section Request
variable {s : State} {r : LeaveReq}

theorem headLeave_asking : (s.asking r).headLeave r.cluster = some r := by
  have hown : [r].filter (fun x => x.cluster = r.cluster) = [r] := List.filter_cons_of_pos (decide_eq_true rfl)
  rw [State.headLeave, State.asking, hown]
  rfl

variable (h : s.co.leaves = [])
include h

theorem requestLeave_asks : s.requestLeave r = (s.asking r).grantLeaves r.cluster 1 := by
  rw [State.requestLeave, h]
  rfl

/-- With its request out of the queue the state is as it was. -/
theorem asking_taken :
    { s.asking r with co := { (s.asking r).co with leaves := (s.asking r).co.leaves.erase r } } = s := by
  have hgone : (s.asking r).co.leaves.erase r = s.co.leaves := by rw [h]; exact List.erase_cons_head r []
  rw [hgone]
  rfl

variable (hoff : s.leaveOff = false)
include hoff

/-- A lone request is granted at once where its purse can grant it, and BAL falls by the cost. -/
theorem requestLeave_granted (hc : Covers s r.cluster r.cost) : s.requestLeave r =
    (s.pay r.cluster r.cost).giveLeave r.who (BitVec.ofInt 32 (s.balAfter r.cluster r.cost)) := by
  have hoff' : (s.asking r).leaveOff = false := hoff
  have hpurse : (s.asking r).purse r.cluster = s.purse r.cluster := rfl
  rw [requestLeave_asks h, State.grantLeaves]
  simp only [headLeave_asking, hoff', Bool.false_eq_true, if_false, hpurse, asking_taken h]
  exact if_pos hc

/-- Where its purse cannot grant it, a lone request waits in the queue. -/
theorem requestLeave_waits (hc : ¬ Covers s r.cluster r.cost) : s.requestLeave r = s.asking r := by
  have hoff' : (s.asking r).leaveOff = false := hoff
  rw [requestLeave_asks h, State.grantLeaves]
  simp only [headLeave_asking, hoff', Bool.false_eq_true, if_false]
  exact if_neg hc

end Request

/-! ### An instruction that needs leave (R237) -/

/-- The purse of the fibre in issue. -/
def State.ownPurse (s : State) : Nat := clusterOf (coreOf s.cur)

section Need
variable {s : State} {f : Fibre} {cost : Nat} {go : Word → State → Act}

theorem needLeave_given {bal : Word} (hf : Issues s f) (hl : f.leave = some bal) :
    needLeave s f cost go = go bal (s.setFibre s.cur { f with leave := none }) := by
  simp only [needLeave, hl, modFibre_of_fibre _ hf]

theorem needLeave_asked (hl : f.leave = none) (h : ∃ r ∈ s.co.leaves, r.who = .fibre s.cur) :
    needLeave s f cost go = .stall := by
  have hany : (s.co.leaves.any fun r => r.who == .fibre s.cur) = true := by
    simpa only [List.any_eq_true, beq_iff_eq] using h
  simp only [needLeave, hl, hany, if_true]

variable (hl : f.leave = none) (h : s.co.leaves = [])
include hl h

/-- The first request of an instruction, and what follows it. -/
theorem needLeave_asks {t : State} (hreq : s.requestLeave ⟨s.ownPurse, f.region, cost, .fibre s.cur⟩ = t) :
    (∀ g, t.fibre s.cur = some g → g.leave = none → needLeave s f cost go = .stallWith t) ∧
    (∀ g bal, t.fibre s.cur = some g → g.leave = some bal →
      needLeave s f cost go = go bal (t.modFibre t.cur fun f => { f with leave := none })) := by
  rw [State.ownPurse] at hreq
  simp only [needLeave, hl, h, List.any_nil, Bool.false_eq_true, if_false, hreq]
  refine ⟨fun g hg hn => ?_, fun g bal hg hb => ?_⟩
  · simp only [hg, hn]
  · simp only [hg, hb]

variable (hf : Issues s f) (hoff : s.leaveOff = false)
include hf hoff

theorem needLeave_granted (hc : Covers s s.ownPurse cost) : needLeave s f cost go =
    go (BitVec.ofInt 32 (s.balAfter s.ownPurse cost)) ((s.pay s.ownPurse cost).setFibre s.cur f) := by
  have hreq := requestLeave_granted (r := ⟨s.ownPurse, f.region, cost, .fibre s.cur⟩) h hoff hc
  have hcur : (s.pay s.ownPurse cost).cur = s.cur := pay_cur ..
  have hpaid : (s.pay s.ownPurse cost).fibre s.cur = some f := (pay_fibre ..).trans hf
  have hback : ({ f with leave := none } : Fibre) = f := by rw [← hl]
  generalize s.pay s.ownPurse cost = u at *
  generalize BitVec.ofInt 32 (s.balAfter s.ownPurse cost) = bal at *
  rw [giveLeave_fibre, modFibre_of_fibre _ hpaid] at hreq
  have hgiven := (fibre_setFibre u s.cur s.cur { f with leave := some bal }).trans (if_pos rfl)
  rw [(needLeave_asks hl h hreq).2 _ bal hgiven rfl, setFibre_cur, hcur, modFibre_of_fibre _ hgiven,
    setFibre_setFibre, hback]

theorem needLeave_waits (hc : ¬ Covers s s.ownPurse cost) :
    needLeave s f cost go = .stallWith (s.asking ⟨s.ownPurse, f.region, cost, .fibre s.cur⟩) :=
  (needLeave_asks hl h (requestLeave_waits h hoff hc)).1 f hf hl

end Need

/-! ### LEAVE (R419) -/

section Leave
variable {d a : BitVec 6} {s : State} {f : Fibre} {x : Dword} (hf : Issues s f) (hp : s.privOf f.region = true)
  (hs : Settled s (resS s.cur [d.toNat, a.toNat])) (hx : x = f.s a.toNat)
include hf hp hs hx

theorem leave_bad (hbad : field x 0 2 = 0 ∨ field x 2 30 ≠ 0) :
    exec (.leave d a) s = .next (s.takeTrap ⟨trapILL, 6, 0, 0⟩) := by
  subst hx
  rw [exec_leave, execLeave, privileged_of hf hp hs]
  simp only [if_pos hbad, Act.finish, illTrap]

variable (hclass : field x 0 2 ≠ 0) (hrest : field x 2 30 = 0)
include hclass hrest

/-- LEAVE of a class needs leave of its cost, and gives BAL. -/
theorem leave_needs : exec (.leave d a) s = .next ((needLeave s f (field x 32 32) fun bal t =>
    .done (t.putS d.toNat (bal.signExtend 64))).finish s) := by
  subst hx
  have hgood : ¬(field (f.s a.toNat) 0 2 = 0 ∨ field (f.s a.toNat) 2 30 ≠ 0) :=
    not_or.2 ⟨hclass, not_not_intro hrest⟩
  rw [exec_leave, execLeave, privileged_of hf hp hs]
  simp only [if_neg hgood]

theorem leave_given {bal : Word} (hl : f.leave = some bal) :
    exec (.leave d a) s = became s (Fibre.setS { f with leave := none } d.toNat (bal.signExtend 64)) := by
  rw [leave_needs hf hp hs hx hclass hrest, needLeave_given hf hl]
  have hnow := issues_setFibre s { f with leave := none }
  exact (done_modFibre (s := s.setFibre s.cur _) _ hnow).trans (by simp only [became, setFibre_cur, setFibre_setFibre])

theorem leave_asked (hl : f.leave = none) (h : ∃ r ∈ s.co.leaves, r.who = .fibre s.cur) :
    exec (.leave d a) s = .next s.stall := by
  rw [leave_needs hf hp hs hx hclass hrest, needLeave_asked hl h, Act.finish]

variable (hl : f.leave = none) (h : s.co.leaves = []) (hoff : s.leaveOff = false)
include hl h hoff

theorem leave_granted (hc : Covers s s.ownPurse (field x 32 32)) : exec (.leave d a) s =
    .next ((s.pay s.ownPurse (field x 32 32)).setFibre s.cur
      (f.setS d.toNat ((BitVec.ofInt 32 (s.balAfter s.ownPurse (field x 32 32))).signExtend 64))).retire := by
  rw [leave_needs hf hp hs hx hclass hrest, needLeave_granted hl h hf hoff hc, Act.finish, State.putS,
    setFibre_cur, pay_cur, modFibre_of_fibre _ ((fibre_setFibre _ _ _ _).trans (if_pos rfl)), setFibre_setFibre]

theorem leave_waits (hc : ¬ Covers s s.ownPurse (field x 32 32)) : exec (.leave d a) s =
    .next (s.asking ⟨s.ownPurse, f.region, field x 32 32, .fibre s.cur⟩).stall := by
  rw [leave_needs hf hp hs hx hclass hrest, needLeave_waits hl h hf hoff hc, Act.finish]

end Leave

/-! ### The allowances (R235, R459) -/

theorem setAllow_beyond {s : State} {n : Nat} (hn : Config.clusters ≤ n) (allow : List (BitVec 24)) :
    s.setAllow n allow = s := by
  cases allow with
  | nil => rfl
  | cons a rest => rw [State.setAllow, if_pos hn]

/-- DEVSTAT.THROT as the controller writes it. -/
theorem getLsbD_throt (x : Word) (thr : Bool) : (if thr then setBit x 2 else clearBit x 2).getLsbD 2 = thr := by
  cases thr with
  | true => rw [if_pos rfl, getLsbD_setBit _ (by decide), decide_eq_true rfl, Bool.or_true]
  | false => rw [if_neg Bool.false_ne_true, getLsbD_clearBit]

/-- ALLOWANCE_SET of a device that is active sets the purses, MODPWR and DEVSTAT. -/
theorem allowanceSet_of {s : State} {allow : List (BitVec 24)} {temp draw : BitVec 16} {thr : Bool}
    (hact : s.barActive = true) :
    ∃ modpwr, exec (.allowanceSet allow temp draw thr) s = .next { s.setAllow 0 allow with
      reg := { (s.setAllow 0 allow).reg with
        modpwr := modpwr
        devstat := if thr then setBit (s.setAllow 0 allow).reg.devstat 2
          else clearBit (s.setAllow 0 allow).reg.devstat 2 } } := by
  simp only [exec_allowanceSet, execAllowanceSet, hact, Bool.not_true, Bool.false_eq_true, if_false]
  exact ⟨_, rfl⟩

section Allowances
variable {s : State} (h : s.co.leaves = [])
include h

theorem purseRefill_of {k : Nat} (hk : k < Config.clusters) : exec (.purseRefill k) s =
    .next (s.setPurse k (field (s.purse k) 32 24)
      (min (purseBal (s.purse k) + purseAllow (s.purse k)) (2 * purseAllow (s.purse k)))) := by
  have hserve : ∀ allow bal, (s.setPurse k allow bal).serveLeave k = s.setPurse k allow bal :=
    fun _ _ => serveLeave_none (by rw [setPurse_co, h]) k
  simp only [exec_purseRefill, execPurseRefill, if_neg (Nat.not_le.2 hk), hserve, toNat_purseAllow]

/-- With no request in the queues, setting an allowance only writes its purse. -/
theorem setAllow_cons {n : Nat} (hn : n < Config.clusters) (a : BitVec 24) (rest : List (BitVec 24)) :
    s.setAllow n (a :: rest) = (s.setPurse n a.toNat (purseBal (s.purse n))).setAllow (n + 1) rest := by
  rw [State.setAllow, if_neg (Nat.not_le.2 hn), serveLeave_none (by rw [setPurse_co, h])]

/-- Setting allowances writes purses and nothing else. -/
theorem setAllow_eq (allow : List (BitVec 24)) (n : Nat) : ∃ m, s.setAllow n allow = s.withPurses m := by
  induction allow generalizing s n with
  | nil => exact ⟨s.reg.purse, rfl⟩
  | cons a rest ih =>
    by_cases hn : n < Config.clusters
    · obtain ⟨m, hm⟩ := setPurse_eq s n a.toNat (purseBal (s.purse n))
      obtain ⟨m', hm'⟩ := ih (s := s.withPurses m) h (n + 1)
      exact ⟨m', by rw [setAllow_cons h hn, hm, hm']; rfl⟩
    · exact ⟨s.reg.purse, setAllow_beyond (Nat.not_lt.1 hn) _⟩

theorem purse_setAllow_below (allow : List (BitVec 24)) {n j : Nat} (hj : j < n) :
    (s.setAllow n allow).purse j = s.purse j := by
  induction allow generalizing s n with
  | nil => rfl
  | cons a rest ih =>
    by_cases hn : n < Config.clusters
    · rw [setAllow_cons h hn, ih (by rw [setPurse_co, h]) (Nat.lt_succ_of_lt hj), purse_setPurse_other (Nat.ne_of_lt hj)]
    · rw [setAllow_beyond (Nat.not_lt.1 hn)]

/-- Each purse of the list has its new ALLOW and keeps BAL. -/
theorem purse_setAllow {allow : List (BitVec 24)} {n i : Nat} {a : BitVec 24} (hi : allow[i]? = some a)
    (hn : n + i < Config.clusters) : (s.setAllow n allow).purse (n + i) =
      (s.setPurse (n + i) a.toNat (purseBal (s.purse (n + i)))).purse (n + i) := by
  induction allow generalizing s n i with
  | nil => simp only [List.getElem?_nil, reduceCtorEq] at hi
  | cons b rest ih =>
    rw [setAllow_cons h (Nat.lt_of_le_of_lt (Nat.le_add_right n i) hn)]
    have hnext : (s.setPurse n b.toNat (purseBal (s.purse n))).co.leaves = [] := by rw [setPurse_co, h]
    cases i with
    | zero =>
      obtain rfl : b = a := Option.some.inj hi
      exact purse_setAllow_below hnext rest (Nat.lt_succ_self n)
    | succ i =>
      have hadd : n + (i + 1) = n + 1 + i := by omega
      have hother : n + 1 + i ≠ n := by omega
      rw [List.getElem?_cons_succ] at hi
      rw [hadd] at hn ⊢
      rw [ih hnext hi hn, purse_setPurse_other hother]
      exact purse_setPurse ..

end Allowances

end Sys2Proof.Machine

open Sys2Proof Sys2Proof.Machine

/-- Settles O47: LEAVE goes by what its request finds (`leave_given`, `leave_asked`, `leave_granted`, `leave_waits`), a
refill by `purseRefill_of`, and the allowances by `purse_setAllow`. -/
theorem leave : Obligations.Leave := by
  unfold Obligations.Leave
  refine ⟨?leave, ?allowances⟩
  case leave =>
    rintro d a s f x p k hf hp hs hx rfl rfl
    refine ⟨leave_bad hf hp hs hx, fun hclass hrest => ⟨fun bal => leave_given hf hp hs hx hclass hrest,
      leave_asked hf hp hs hx hclass hrest, fun hl h hoff => ⟨fun hc => ?granted, fun hcost hhalf => ?waits⟩⟩⟩
    case granted =>
      refine ⟨_, leave_granted hf hp hs hx hclass hrest hl h hoff hc, purse_setFibre .., ?_,
        (fibre_setFibre ..).trans (if_pos rfl)⟩
      rw [setFibre_co, pay_co, h]
    case waits =>
      have hnot : ¬ Covers s s.ownPurse (field x 32 32) := not_or.2 ⟨Int.not_le.2 hcost, Int.not_le.2 hhalf⟩
      exact ⟨_, leave_waits hf hp hs hx hclass hrest hl h hoff hnot, rfl, hf⟩
  case allowances =>
    refine fun s k h => ⟨purseRefill_of h, fun allow temp draw thr hact => ?_⟩
    obtain ⟨modpwr, hexec⟩ := allowanceSet_of (allow := allow) (temp := temp) (draw := draw) (thr := thr) hact
    obtain ⟨m, hframe⟩ := setAllow_eq h allow 0
    refine ⟨_, hexec, ?fibres, ?mem, fun n a hn ha => ?purses, getLsbD_throt ..⟩
    case fibres =>
      change (s.setAllow 0 allow).fibres = s.fibres
      rw [hframe, withPurses_fibres]
    case mem =>
      change (s.setAllow 0 allow).mem = s.mem
      rw [hframe, withPurses_mem]
    case purses =>
      rw [← Nat.zero_add n] at hn ⊢
      exact purse_setAllow h ha hn

end

section
/-! SUPPORT. The choice of a quadrant among its slots (R234): their places in the rotation, what decides between two of
them, and what a choice leaves behind. -/

namespace Sys2Proof.Machine

/-! ### The rotation -/

/-- The place of a slot in the rotation that begins behind the slot `last` of its quadrant. -/
def rotation (last x : Nat) : Nat := (x % 8 + 7 - last) % 8

section Rotation
variable {last : Nat} (hl : last < 8)
include hl

theorem mod_eq_iff_rotation {x i : Nat} (hi : i < 8) : x % 8 = (last + 1 + i) % 8 ↔ i = rotation last x := by
  unfold rotation
  omega

/-- Two slots of a quadrant have different places. -/
theorem rotation_ne {k n : Nat} (hq : k / 8 = n / 8) (hne : k ≠ n) : rotation last k ≠ rotation last n := by
  unfold rotation
  omega

theorem rotation_lt_iff {k n : Nat} : rotation last k < rotation last n ↔
    ∃ i j, i < j ∧ j < 8 ∧ k % 8 = (last + 1 + i) % 8 ∧ n % 8 = (last + 1 + j) % 8 := by
  constructor
  · intro h
    have hn : rotation last n < 8 := Nat.mod_lt _ (by decide)
    have hk : rotation last k < 8 := Nat.lt_trans h hn
    exact ⟨_, _, h, hn, (mod_eq_iff_rotation hl hk).2 rfl, (mod_eq_iff_rotation hl hn).2 rfl⟩
  · rintro ⟨i, j, hij, hj, hk, hn⟩
    rwa [← (mod_eq_iff_rotation hl (Nat.lt_trans hij hj)).1 hk, ← (mod_eq_iff_rotation hl hj).1 hn]

end Rotation

/-! ### The preference -/

/-- On every 16th clock, and between slots of equal PRIO, the rotation decides. -/
theorem prefers_of_rotation {s : State} {k n : Nat}
    (h : (s.quad (n / 8)).count = 15 ∨ s.slotPrio n = s.slotPrio k) :
    s.prefers k n = decide (rotation (s.quad (n / 8)).last k < rotation (s.quad (n / 8)).last n) := by
  unfold State.prefers
  by_cases hc : (s.quad (n / 8)).count = 15
  · exact if_pos hc
  · have hp : s.slotPrio n = s.slotPrio k := h.resolve_left hc
    simp only [if_neg hc, hp, Nat.lt_irrefl, decide_false, Bool.false_or, beq_self_eq_true, Bool.true_and]
    rfl

/-- On the other clocks a difference of PRIO decides. -/
theorem prefers_of_prio {s : State} {k n : Nat} (hc : (s.quad (n / 8)).count ≠ 15) (hp : s.slotPrio n ≠ s.slotPrio k) :
    s.prefers k n = decide (s.slotPrio n < s.slotPrio k) := by
  simp only [State.prefers, if_neg hc, beq_false_of_ne hp, Bool.false_and, Bool.or_false]

/-- Of two slots of a quadrant it prefers exactly one: neither their places nor, where it decides, their PRIO agree. -/
theorem prefers_eq_not {s : State} {k n : Nat} (hl : (s.quad (n / 8)).last < 8) (hq : k / 8 = n / 8) (hne : k ≠ n) :
    s.prefers k n = !s.prefers n k := by
  by_cases h : (s.quad (n / 8)).count = 15 ∨ s.slotPrio n = s.slotPrio k
  · have hback : (s.quad (k / 8)).count = 15 ∨ s.slotPrio k = s.slotPrio n := by rw [hq]; exact h.imp_right Eq.symm
    have hplace := rotation_ne hl hq hne
    rw [prefers_of_rotation h, prefers_of_rotation hback, hq, ← decide_not, decide_eq_decide]
    omega
  · obtain ⟨hc, hp⟩ := not_or.1 h
    rw [prefers_of_prio hc hp, prefers_of_prio (hq ▸ hc) (Ne.symm hp), ← decide_not, decide_eq_decide]
    omega

/-! ### Who takes the clock -/

theorem mem_quadrant {n x : Nat} : x ∈ (List.range 8).map (fun i => n / 8 * 8 + i) ↔ x / 8 = n / 8 := by
  rw [List.mem_map]
  constructor
  · rintro ⟨i, hi, rfl⟩
    rw [List.mem_range] at hi
    omega
  · intro h
    exact ⟨x % 8, List.mem_range.2 (Nat.mod_lt _ (by decide)), by omega⟩

theorem outranked_iff {s : State} {n : Nat} : s.outranked n = true ↔
    ∃ x, x / 8 = n / 8 ∧ x ≠ n ∧ s.prefers x n = true ∧ s.candidate x = true := by
  simp only [State.outranked, List.any_eq_true, mem_quadrant, Bool.and_eq_true, bne_iff_ne, and_assoc]

theorem quad_choseSlot (s : State) (n m : Nat) : (s.choseSlot n).quad m =
    if m = n / 8 then ⟨n % 8, ((s.quad (n / 8)).count + 1) % 16⟩ else s.quad m :=
  Sparse.get_set Quad.reset s.quads (n / 8) m _

end Sys2Proof.Machine

open Sys2Proof Sys2Proof.Machine

/-- Settles O59: PRIO decides by `prefers_of_prio`, the rotation by `prefers_of_rotation`, and no two slots of a quadrant
share a place in it (`rotation_ne`). -/
theorem quadrantChoice : Obligations.QuadrantChoice := by
  unfold Obligations.QuadrantChoice
  rintro s n k m q hq hne rfl hl
  refine ⟨prefers_eq_not hl hq hne, fun hc hp => ?prio, fun h => ?rotation, outranked_iff, ?chosen, fun hm => ?others⟩
  case prio => rw [prefers_of_prio hc (Nat.ne_of_lt hp), decide_eq_true hp]
  case rotation => rw [prefers_of_rotation h, decide_eq_true_iff, rotation_lt_iff hl]
  case chosen => rw [quad_choseSlot, if_pos rfl]
  case others => rw [quad_choseSlot, if_neg hm]

end

section
/-! SUPPORT. Scalar instructions (R277 to R279) as their shared operations run: two operands under another name of the
function, compares with their flags, and plain writes; and the bound on the bits of a number that CLZ counts by. -/

namespace Sys2Proof.Machine

/-- `combines_of`, with the function under the name that a statement gives it. -/
theorem combines_of_eq {i : Instr} {d a b : BitVec 6} {alu g : Dword → Dword → Dword}
    (h : ∀ s, exec i s = salu d a b alu s) (heq : ∀ x y, alu x y = g x y) : Combines i d a b g := by
  obtain rfl : alu = g := funext₂ heq
  exact combines_of h

/-- An instruction that writes s[d] with a function of its fibre. -/
theorem setsS_of {i : Instr} {regs : List Nat} {d : Nat} {g : Fibre → Dword}
    (h : ∀ s, exec i s = scalarOp s regs fun f => .done (s.putS d (g f))) : SetsS i regs d g := by
  intro s f hf hs
  rw [h, scalarOp_of _ hf hs]
  exact done_modFibre (fun k => k.setS d (g f)) hf

/-! ### Compares -/

/-- The fibre behind a compare of `x` with `y`: s[d] holds the code of the order `less`, and the flags are of both
orders. -/
def Fibre.compared (f : Fibre) (d : Nat) (less : Dword → Dword → Bool) (x y : Dword) : Fibre :=
  { f.setS d (orderCode (less x y) (x == y)) with cf := orderFlags x y }

theorem putCmp_eq {alu : Dword → Dword → Dword} {less : Dword → Dword → Bool}
    (hcode : ∀ x y, alu x y = orderCode (less x y) (x == y)) (s : State) (d : Nat) (x y : Dword) :
    s.putCmp d (alu x y) x y = s.modFibre s.cur fun f => f.compared d less x y := by
  rw [State.putCmp, hcode, compareFlags_eq]
  rfl

section Compares
variable {s : State} {f : Fibre} {d a b : BitVec 6} {i : BitVec 14}

theorem cmp_of (hf : Issues s f) (hs : Settled s (resS s.cur [d.toNat, a.toNat, b.toNat])) :
    exec (.cmp d a b) s = became s (f.compared d.toNat BitVec.slt (f.s a.toNat) (f.s b.toNat)) := by
  rw [exec_cmp, execCmp, scalarOp_of _ hf hs, putCmp_eq aluCmp_eq, done_modFibre _ hf]

theorem cmpn_of (hf : Issues s f) (hs : Settled s (resS s.cur [d.toNat, a.toNat, b.toNat])) :
    exec (.cmpn d a b) s = became s (f.compared d.toNat BitVec.ult (f.s a.toNat) (f.s b.toNat)) := by
  rw [exec_cmpn, execCmpn, scalarOp_of _ hf hs, putCmp_eq aluCmpn_eq, done_modFibre _ hf]

theorem cmpi_of (hf : Issues s f) (hs : Settled s (resS s.cur [d.toNat, a.toNat])) :
    exec (.cmpi d a i) s = became s (f.compared d.toNat BitVec.slt (f.s a.toNat) (i.signExtend 64)) := by
  rw [exec_cmpi, execCmpi, scalarOp_of _ hf hs, putCmp_eq aluCmp_eq, done_modFibre _ hf, imm14]

end Compares

/-! ### Counting bits -/

theorem bitLen_le {n k : Nat} : bitLen n ≤ k ↔ n < 2 ^ k := by
  unfold bitLen
  split
  next h => simp [h]
  next h => rw [Nat.succ_le_iff, Nat.log2_lt h]

theorem aluPopc_eq (x : Dword) :
    aluPopc x = BitVec.ofNat 64 ((List.range 64).countP fun i => x.getLsbD i) :=
  congrArg (BitVec.ofNat 64) (popCount_eq 64 x.toNat)

/-- The leading zeros of a word: the word lies below the power of two that they leave, and its top bit comes next. -/
theorem leadingZeros_bounds (x : Dword) :
    x.toNat < 2 ^ (64 - (64 - bitLen x.toNat)) ∧
      (64 - bitLen x.toNat < 64 → 2 ^ (63 - (64 - bitLen x.toNat)) ≤ x.toNat) := by
  have hwidth : bitLen x.toNat ≤ 64 := bitLen_le.2 x.isLt
  refine ⟨bitLen_le.1 (by omega), fun h => Nat.not_lt.1 fun hlow => ?_⟩
  have := bitLen_le.2 hlow
  omega

end Sys2Proof.Machine

open Sys2Proof Sys2Proof.Machine

/-- Settles O6: the model's function of each row of R277 is the statement's, for MIN to MAXN by `aluMin_eq` to
`aluMaxn_eq`; the compares are `cmp_of`, `cmpn_of`
and `cmpi_of`. -/
theorem scalarArithmetic : Obligations.ScalarArithmetic := by
  unfold Obligations.ScalarArithmetic
  refine ⟨fun d a b => ?table, fun d a b i =>
    ⟨fun s f => cmp_of, fun s f => cmpn_of, fun s f => cmpi_of⟩⟩
  case table =>
    exact ⟨combines_of (exec_add d a b), combines_of (exec_sub d a b), combines_of (exec_mul d a b),
      combines_of (exec_mulh d a b), combines_of (exec_mulhn d a b), combines_of (exec_div d a b),
      combines_of (exec_divn d a b), combines_of (exec_rem d a b), combines_of (exec_and d a b),
      combines_of (exec_or d a b), combines_of (exec_xor d a b), combines_of (exec_andn d a b),
      combines_of (exec_shl d a b), combines_of (exec_shr d a b), combines_of (exec_sar d a b),
      combines_of_eq (exec_min d a b) aluMin_eq, combines_of_eq (exec_max d a b) aluMax_eq,
      combines_of_eq (exec_minn d a b) aluMinn_eq, combines_of_eq (exec_maxn d a b) aluMaxn_eq⟩

/-- Settles O7: CLZ counts by the length of the number (`leadingZeros_bounds`), POPC bit by bit (`aluPopc_eq`), and MOVK
replaces a field (`putField_half`). -/
theorem scalarMoves : Obligations.ScalarMoves := by
  unfold Obligations.ScalarMoves
  refine ⟨fun d a s f hf hs => ⟨?clz, ?popc, turns_of_one (exec_mov d a) s f hf hs⟩,
    fun d h i => ⟨setsS_of (exec_movz d h i), ?movk, setsS_of (exec_movs d h i)⟩⟩
  case clz =>
    exact ⟨_, turns_of_one (exec_clz d a) s f hf hs, Nat.sub_le .., leadingZeros_bounds (f.s a.toNat)⟩
  case popc =>
    rw [← aluPopc_eq]
    exact turns_of_one (exec_popc d a) s f hf hs
  case movk =>
    refine setsS_of fun s => (exec_movk d h i s).trans ?_
    simp only [← putField_half, execMovk]

/-- Settles O8: ADDI, ANDI and ORI are one-operand instructions (`turns_of_one`), and CMPI and CMP come to one fibre
(`cmpi_of`, `cmp_of`) where s[SB] is the immediate. -/
theorem immediates : Obligations.Immediates := by
  unfold Obligations.Immediates
  refine fun d a i => ⟨turns_of_one (exec_addi d a i), turns_of_one (exec_andi d a i), turns_of_one (exec_ori d a i),
    fun b s f hf hb hs => ?cmpi, by decide⟩
  case cmpi =>
    have hfewer : Settled s (resS s.cur [d.toNat, a.toNat]) :=
      settled_sub hs (List.map_subset _ (List.subset_append_left [d.toNat, a.toNat] [b.toNat]))
    rw [cmpi_of hf hfewer, cmp_of hf hs, hb]

end

section
/-! SUPPORT. Vector instructions (R283 to R304) as their shared operations run once their type is known, their fields
name registers and no register of theirs is pending: the integer, the untyped, the mixed and the float class. -/

namespace Sys2Proof.Machine

section Lanes
variable {s : State} {f : Fibre} {d a b : BitVec 7} {bs : BitVec 1}

/-- A vector operation whose lanes raise no flag. -/
theorem vecOp_quiet {pair : Bool} {d : Nat} {srcs : List Nat} {b : Option (BitVec 7 × BitVec 1)} {lanes : List Nat}
    {g : Nat → Nat × Nat} (h : LanesReady s f pair (d :: srcs) b) (hg : ∀ l, (g l).2 = 0) :
    (.next ((vecOp s f pair d srcs b lanes g).finish s) : Out) = lanesBecame s pair d lanes g :=
  vecOp_of lanes g h (untrapped_of_zero lanes hg)

/-! ### The integer class (R287) -/

theorem intOp_of {t : Fmt} (g : Fmt → Bool → Nat → Nat → Nat) (ht : intType (modeType f.mode) = some t)
    (h : LanesReady s f (decide (t.width = 64)) [d.toNat, a.toNat] (some (b, bs))) : intOp d a b bs g s =
    lanesBecame s (decide (t.width = 64)) d.toNat (lanesOf f.active) (intLanes s f t a b bs (g t (modeSAT f.mode))) := by
  rw [intOp, runFibre_of _ h.1, ht]
  exact vecOp_quiet h fun l => perElem_zero t _ fun _ => rfl

/-! ### The untyped class (R287, R292, R294, R299) -/

theorem logicOp_of {pair : Bool} (g : Nat → Nat → Nat → Nat) (ht : untypedPair (modeType f.mode) = some pair)
    (h : LanesReady s f pair [d.toNat, a.toNat] (some (b, bs))) : logicOp d a b bs g s =
    lanesBecame s pair d.toNat (lanesOf f.active) fun l =>
      (g (if pair then 2 ^ 64 - 1 else 2 ^ 32 - 1) (vGet s s.cur f a.toNat pair l) (bGet s s.cur f b bs pair l), 0) := by
  rw [logicOp, runFibre_of _ h.1, ht]
  exact vecOp_quiet h fun _ => rfl

theorem shuffleOp_of {pair : Bool} (src : Nat → Nat → Nat) (ht : untypedPair (modeType f.mode) = some pair)
    (h : LanesReady s f pair [d.toNat, a.toNat] (some (b, bs))) : shuffleOp d a b bs src s =
    lanesBecame s pair d.toNat (lanesOf f.active) fun l =>
      (vGet s s.cur f a.toNat pair (src l (bGet s s.cur f b bs pair l % 2 ^ 32)), 0) := by
  rw [shuffleOp, runFibre_of _ h.1, ht]
  exact vecOp_quiet h fun _ => rfl

theorem vsel_of {pair : Bool} (ht : untypedPair (modeType f.mode) = some pair)
    (h : LanesReady s f pair [d.toNat, a.toNat] (some (b, bs))) : exec (.vsel d a b bs) s =
    lanesBecame s pair d.toNat (lanesOf f.exec) fun l =>
      (if bitOf f.guard l then vGet s s.cur f a.toNat pair l else bGet s s.cur f b bs pair l, 0) := by
  rw [exec_vsel, execVsel, runFibre_of _ h.1, ht]
  exact vecOp_quiet h fun _ => rfl

theorem vbcast_of {pair : Bool} {c : BitVec 6} (ht : untypedPair (modeType f.mode) = some pair)
    (h : LanesReady s f pair [d.toNat, a.toNat] (some (c.setWidth 7, 1))) : exec (.vbcast d a c) s =
    lanesBecame s pair d.toNat (lanesOf f.active) fun _ =>
      (vGet s s.cur f a.toNat pair ((f.s c.toNat).toNat % 32), 0) := by
  rw [exec_vbcast, execVbcast, runFibre_of _ h.1, ht]
  exact vecOp_quiet h fun _ => rfl

theorem bitsOne_of {pair : Bool} (g : Nat → Nat → Nat) (ht : untypedPair (modeType f.mode) = some pair)
    (h : LanesReady s f pair [d.toNat, a.toNat] none) : bitsOne d a g s =
    lanesBecame s pair d.toNat (lanesOf f.active) fun l =>
      (g (if pair then 2 ^ 64 - 1 else 2 ^ 32 - 1) (vGet s s.cur f a.toNat pair l), 0) := by
  rw [bitsOne, runFibre_of _ h.1, ht]
  exact vecOp_quiet h fun _ => rfl

end Lanes

end Sys2Proof.Machine

open Sys2Proof Sys2Proof.Machine

/-- Settles O15: each row is its class's shared operation with the function that the statement names (`intOp_of`,
`logicOp_of`, `shuffleOp_of`, `bitsOne_of`). -/
theorem vectorIntegers : Obligations.VectorIntegers := by
  unfold Obligations.VectorIntegers
  refine ⟨?typed, ?untyped⟩
  case typed =>
    intro d a b bs s f t i g ht h hrow
    obtain ⟨k, hexec, rfl⟩ : ∃ k, exec i s = intOp d a b bs k s ∧ k t (modeSAT f.mode) = g := by
      simp only [List.mem_cons, Prod.mk.injEq, List.not_mem_nil, or_false] at hrow
      rcases hrow with ⟨rfl, rfl⟩ | ⟨rfl, rfl⟩ | ⟨rfl, rfl⟩ | ⟨rfl, rfl⟩ | ⟨rfl, rfl⟩ | ⟨rfl, rfl⟩ | ⟨rfl, rfl⟩ |
        ⟨rfl, rfl⟩ | ⟨rfl, rfl⟩ | ⟨rfl, rfl⟩ | ⟨rfl, rfl⟩ | ⟨rfl, rfl⟩
      · exact ⟨elAdd, exec_vadd .., rfl⟩
      · exact ⟨elSub, exec_vsub .., rfl⟩
      · exact ⟨elMul, exec_vmul .., rfl⟩
      · exact ⟨elMulh, exec_vmulh .., rfl⟩
      · exact ⟨elShl, exec_vshl .., rfl⟩
      · exact ⟨elShr, exec_vshr .., rfl⟩
      · exact ⟨elSar, exec_vsar .., rfl⟩
      · exact ⟨elRot, exec_vrot .., rfl⟩
      · exact ⟨elMin, exec_vmin .., rfl⟩
      · exact ⟨elMax, exec_vmax .., rfl⟩
      · exact ⟨elAbsd, exec_vabsd .., rfl⟩
      · exact ⟨elAvg, exec_vavg .., rfl⟩
    rw [hexec, intOp_of k ht h]
  case untyped =>
    intro d a b c bs s f pair m x y ht hm hx hy
    subst hm hx hy
    refine ⟨fun h => ⟨fun i g hrow => ?rows, vsel_of ht h⟩, vbcast_of ht,
      fun h => ⟨(exec_vmov d a s).trans (bitsOne_of _ ht h), (exec_vnot d a s).trans (bitsOne_of _ ht h)⟩⟩
    simp only [List.mem_cons, Prod.mk.injEq, List.not_mem_nil, or_false] at hrow
    rcases hrow with ⟨rfl, rfl⟩ | ⟨rfl, rfl⟩ | ⟨rfl, rfl⟩ | ⟨rfl, rfl⟩ | ⟨rfl, rfl⟩ | ⟨rfl, rfl⟩ | ⟨rfl, rfl⟩ | ⟨rfl, rfl⟩
    · exact (exec_vand ..).trans (logicOp_of _ ht h)
    · exact (exec_vor ..).trans (logicOp_of _ ht h)
    · exact (exec_vxor ..).trans (logicOp_of _ ht h)
    · exact (exec_vandn ..).trans (logicOp_of _ ht h)
    · exact (exec_vshfl ..).trans (shuffleOp_of _ ht h)
    · exact (exec_vshflx ..).trans (shuffleOp_of _ ht h)
    · exact (exec_vshflup ..).trans (shuffleOp_of _ ht h)
    · exact (exec_vshfldn ..).trans (shuffleOp_of _ ht h)

end

section
/-! SUPPORT. Masks of lanes, and the vector compares (R288). -/

namespace Sys2Proof.Machine

/-! ### Masks and lanes (R202) -/

theorem getLsbD_foldl_setBit {w j : Nat} (hj : j < w) (l : List Nat) : ∀ x : BitVec w,
    (l.foldl setBit x).getLsbD j = (x.getLsbD j || decide (j ∈ l)) := by
  induction l with
  | nil => simp
  | cons i l ih =>
    intro x
    rw [List.foldl_cons, ih, getLsbD_setBit x hj, Bool.or_assoc, ← Bool.decide_or]
    simp only [List.mem_cons, eq_comm]

theorem getLsbD_maskOf {j : Nat} (hj : j < 32) (l : List Nat) : (maskOf l).getLsbD j = decide (j ∈ l) := by
  rw [maskOf, getLsbD_foldl_setBit hj, show (0 : Word).getLsbD j = false from BitVec.getLsbD_zero, Bool.false_or]

theorem mem_lanesOf {m : Word} {i : Nat} : i ∈ lanesOf m ↔ i < 32 ∧ m.getLsbD i = true := by
  rw [lanesOf, List.mem_filter, List.mem_range, bitOf_eq_getLsbD]

/-! ### Compares -/

/-- Results that raise no enabled flag are written, and their flags are ored into FSTAT (R120, R285). -/
theorem vecFinish_of {s : State} {f : Fibre} {lanes : List Nat} {g : Nat → Nat × Nat} (hu : Untrapped f lanes g)
    (write : State → State) : vecFinish s f (laneResults lanes g) write =
      .done (((write s).modFibre s.cur fun h => h.addFlags (laneFlags (laneResults lanes g))).drew 256) :=
  if_neg (not_not_intro hu)

/-- What a compare gives its lanes: the outcome as a number, and the flags. -/
def outcomes (g : Nat → Bool × Nat) (l : Nat) : Nat × Nat := (if (g l).1 then 1 else 0, (g l).2)

/-- The predicate behind a compare: the outcomes of the active lanes, the old bits of the others. -/
def comparedBits (f : Fibre) (d : BitVec 3) (g : Nat → Bool × Nat) : Word :=
  (f.p d.toNat &&& ~~~f.active) |||
    (maskOf (((laneResults (lanesOf f.active) (outcomes g)).filter fun e => e.2.1 == 1).map (·.1)) &&& f.active)

theorem mem_trueLanes {lanes : List Nat} {g : Nat → Bool × Nat} {l : Nat} :
    l ∈ ((laneResults lanes (outcomes g)).filter fun e => e.2.1 == 1).map (·.1) ↔ l ∈ lanes ∧ (g l).1 = true := by
  simp only [laneResults, outcomes, List.filter_map, List.map_map, Function.comp_def, List.map_id', List.mem_filter]
  cases (g l).1 <;> simp

theorem getLsbD_comparedBits (f : Fibre) (d : BitVec 3) (g : Nat → Bool × Nat) {l : Nat} (hl : l < 32) :
    (comparedBits f d g).getLsbD l = if f.active.getLsbD l then (g l).1 else (f.p d.toNat).getLsbD l := by
  rw [comparedBits, BitVec.getLsbD_or, BitVec.getLsbD_and, BitVec.getLsbD_and, BitVec.getLsbD_not, getLsbD_maskOf hl,
    decide_eq_true hl]
  simp only [mem_trueLanes, mem_lanesOf]
  cases f.active.getLsbD l <;> simp [hl]

/-- Changing a fibre just replaced replaces it by the changed one. -/
theorem modFibre_setFibre (s : State) (l : Nat) (f : Fibre) (g : Fibre → Fibre) :
    (s.setFibre l f).modFibre l g = s.setFibre l (g f) := by
  rw [modFibre_of_fibre g (by rw [fibre_setFibre, if_pos rfl]), setFibre_setFibre]

section Compare
variable {s : State} {f : Fibre} {d : BitVec 3} {a b : BitVec 7} {bs : BitVec 1} {t : Fmt} {c : Cmp}

theorem cmpOp_narrow (hf : Issues s f) (ht : mixedType (modeType f.mode) = some t) (hw : t.width < 32) :
    cmpOp d a b bs c s = .next (s.takeTrap ⟨trapILL, 6, 0, 0⟩) := by
  rw [cmpOp, runFibre_of _ hf, ht]
  simp only [withType, hw, if_true]
  rfl

theorem cmpOp_of {g : Nat → Bool × Nat} (ht : mixedType (modeType f.mode) = some t) (hw : 32 ≤ t.width)
    (h : LanesReady s f (decide (t.width = 64)) [a.toNat] (some (b, bs)))
    (hg : g = fun l => cmpLane c t (modeFTZ f.mode) (vGet s s.cur f a.toNat (decide (t.width = 64)) l)
      (bGet s s.cur f b bs (decide (t.width = 64)) l))
    (hu : Untrapped f (lanesOf f.active) (outcomes g)) : cmpOp d a b bs c s =
    .next ((s.setFibre s.cur ((f.setP d.toNat (comparedBits f d g)).addFlags
      (laneFlags (laneResults (lanesOf f.active) (outcomes g))))).drew 256).retire := by
  subst hg
  obtain ⟨hf, hp, hs⟩ := h
  rw [cmpOp, runFibre_of _ hf, ht]
  simp only [withType, if_neg (Nat.not_lt.2 hw), hp, Bool.false_eq_true, if_false]
  rw [if_neg (by rw [hs]; exact Bool.false_ne_true)]
  refine (congrArg (fun a => Host.Outcome.next (Act.finish s a)) (vecFinish_of hu _)).trans ?_
  rw [modFibre_of_fibre _ hf, modFibre_setFibre]
  rfl

end Compare

theorem cmpLane_int {t : Fmt} (h : t.isFloat = false) (c : Cmp) (ftz : Bool) (x y : Nat) :
    cmpLane c t ftz x y = (c.int (readInt t x) (readInt t y), 0) := by
  rw [cmpLane, h]; rfl

theorem cmpLane_float {t : Fmt} (h : t.isFloat = true) (c : Cmp) (ftz : Bool) (x y : Nat) :
    cmpLane c t ftz x y = c.float (t.readFtz ftz x).1 (t.readFtz ftz y).1 := by
  rw [cmpLane, h]; rfl

theorem Cmp.float_nan {u v : Val} (h : u.isNaN = true ∨ v.isNaN = true) (c : Cmp) : c.float u v = match c with
    | .eq => (false, if u.isSignalling || v.isSignalling then flagInvalid else 0)
    | .ne => (true, if u.isSignalling || v.isSignalling then flagInvalid else 0)
    | _ => (false, flagInvalid) := by
  have hnan : (u.isNaN || v.isNaN) = true := by simpa using h
  cases c <;> simp only [Cmp.float, hnan, if_true]

theorem Cmp.float_numbers {u v : Val} (hu : u.isNaN = false) (hv : v.isNaN = false) (c : Cmp) : c.float u v = match c with
    | .eq => (Val.cmp u v == .eq, 0)
    | .ne => (Val.cmp u v != .eq, 0)
    | .lt => (Val.cmp u v == .lt, 0)
    | .le => (Val.cmp u v != .gt, 0) := by
  cases c <;> simp only [Cmp.float, hu, hv, Bool.or_false, Bool.false_eq_true, if_false]

end Sys2Proof.Machine

open Sys2Proof Sys2Proof.Machine

/-- Settles O16: the compares are `cmpOp` with one code each (`cmpOp_narrow`, `cmpOp_of`); their outcomes are those of
`Cmp.int` and `Cmp.float`. -/
theorem vectorCompares : Obligations.VectorCompares := by
  unfold Obligations.VectorCompares
  refine ⟨?predicate, ?outcome⟩
  case predicate =>
    intro d a b bs s f t i c g ht hf hrow hg
    have hexec : exec i s = cmpOp d a b bs c s := by
      simp only [List.mem_cons, Prod.mk.injEq, List.not_mem_nil, or_false] at hrow
      rcases hrow with ⟨rfl, rfl⟩ | ⟨rfl, rfl⟩ | ⟨rfl, rfl⟩ | ⟨rfl, rfl⟩
      · exact exec_vcmpeq ..
      · exact exec_vcmpne ..
      · exact exec_vcmplt ..
      · exact exec_vcmple ..
    rw [hexec]
    exact ⟨cmpOp_narrow hf ht, fun hw h hu => ⟨_, cmpOp_of ht hw h hg hu, fun l hl => getLsbD_comparedBits f d g hl⟩⟩
  case outcome =>
    rintro t ftz x y u v rfl rfl
    refine ⟨fun h => ?int, fun h hnan => ?nan, fun h hu hv => ?numbers⟩
    case int =>
      simp only [cmpLane_int h, Cmp.int, bne, beq_eq_decide, decide_not, and_self]
    case nan => simp only [cmpLane_float h, Cmp.float_nan hnan, and_self]
    case numbers => simp only [cmpLane_float h, Cmp.float_numbers hu hv, and_self]
end

section
/-! SUPPORT. Float arithmetic, dot products and the one-operand vector instructions (R289 to R297, R304), as their shared
operations run when no enabled flag is raised. -/

namespace Sys2Proof.Machine

section Lanes
variable {s : State} {f : Fibre} {d a b : BitVec 7} {bs : BitVec 1} {t : Fmt}

theorem floatOp_of {ro : BitVec 2} (g : Rctx → Val → Val → Val × Nat) (ht : floatType (modeType f.mode) = some t)
    (h : LanesReady s f (decide (t.width = 64)) [d.toNat, a.toNat] (some (b, bs)))
    (hu : Untrapped f (lanesOf f.active) (floatLanes s f t ro a b bs g)) : floatOp ro d a b bs g s =
    lanesBecame s (decide (t.width = 64)) d.toNat (lanesOf f.active) (floatLanes s f t ro a b bs g) := by
  rw [floatOp, runFibre_of _ h.1, ht]
  exact vecOp_of _ _ h hu

/-- The lanes of VFMIN and its like (R291). -/
def selectLanes (s : State) (f : Fibre) (t : Fmt) (a b : BitVec 7) (bs : BitVec 1) (wantMax num : Bool) (l : Nat) :
    Nat × Nat :=
  perElem t fun e => selectFloat t (vecCtx s f.mode 0 l e) wantMax num
    (elem t.width (vGet s s.cur f a.toNat (decide (t.width = 64)) l) e)
    (elem t.width (bGet s s.cur f b bs (decide (t.width = 64)) l) e)

theorem floatSel_of {wantMax num : Bool} (ht : floatType (modeType f.mode) = some t)
    (h : LanesReady s f (decide (t.width = 64)) [d.toNat, a.toNat] (some (b, bs)))
    (hu : Untrapped f (lanesOf f.active) (selectLanes s f t a b bs wantMax num)) : floatSel d a b bs wantMax num s =
    lanesBecame s (decide (t.width = 64)) d.toNat (lanesOf f.active) (selectLanes s f t a b bs wantMax num) := by
  rw [floatSel, runFibre_of _ h.1, ht]
  exact vecOp_of _ _ h hu

/-- The lanes of VFMA, with `rd` reading an element of an operand (R304). -/
def fmaLanes (s : State) (f : Fibre) (t : Fmt) (rd : BitVec 7 → Nat → Nat → Val) (a b c : BitVec 7) (l : Nat) : Nat × Nat :=
  perElem t fun e => floatLane t (vecCtx s f.mode 0 l e) (Val.fma (vecCtx s f.mode 0 l e) (rd a l e) (rd b l e) (rd c l e))

theorem vfma_of {c : BitVec 7} {rd : BitVec 7 → Nat → Nat → Val} (ht : floatType (modeType f.mode) = some t)
    (h : LanesReady s f (decide (t.width = 64)) [d.toNat, a.toNat, b.toNat, c.toNat] none)
    (hrd : rd = fun n l e =>
      (t.readFtz (modeFTZ f.mode) (elem t.width (vGet s s.cur f n.toNat (decide (t.width = 64)) l) e)).1)
    (hu : Untrapped f (lanesOf f.active) (fmaLanes s f t rd a b c)) : exec (.vfma d a b c) s =
    lanesBecame s (decide (t.width = 64)) d.toNat (lanesOf f.active) (fmaLanes s f t rd a b c) := by
  subst hrd
  rw [exec_vfma, execVfma, runFibre_of _ h.1, ht]
  exact vecOp_of _ _ h hu

/-- The lanes of VCLAMP and VCSIGN, which read D too (R292). -/
def mixedLanes (s : State) (f : Fibre) (t : Fmt) (d a b : BitVec 7) (bs : BitVec 1)
    (g : Fmt → Rctx → Nat → Nat → Nat → Nat × Nat) (l : Nat) : Nat × Nat :=
  perElem t fun e => g t (vecCtx s f.mode 0 l e) (elem t.width (vGet s s.cur f d.toNat (decide (t.width = 64)) l) e)
    (elem t.width (vGet s s.cur f a.toNat (decide (t.width = 64)) l) e)
    (elem t.width (bGet s s.cur f b bs (decide (t.width = 64)) l) e)

theorem mixedOp_of {g : Fmt → Rctx → Nat → Nat → Nat → Nat × Nat} (ht : mixedType (modeType f.mode) = some t)
    (h : LanesReady s f (decide (t.width = 64)) [d.toNat, a.toNat] (some (b, bs)))
    (hu : Untrapped f (lanesOf f.active) (mixedLanes s f t d a b bs g)) : mixedOp d a b bs g s =
    lanesBecame s (decide (t.width = 64)) d.toNat (lanesOf f.active) (mixedLanes s f t d a b bs g) := by
  rw [mixedOp, runFibre_of _ h.1, ht]
  exact vecOp_of _ _ h hu

theorem unaryOp_of {ty : Fmt → Option Fmt} {ro : BitVec 2} (g : Fmt → Rctx → Nat → Nat × Nat)
    (ht : ty (modeType f.mode) = some t) (h : LanesReady s f (decide (t.width = 64)) [d.toNat, a.toNat] none)
    (hu : Untrapped f (lanesOf f.active) (oneLanes s f t ro a (g t))) : unaryOp ty ro d a g s =
    lanesBecame s (decide (t.width = 64)) d.toNat (lanesOf f.active) (oneLanes s f t ro a (g t)) := by
  rw [unaryOp, runFibre_of _ h.1, ht]
  exact vecOp_of _ _ h hu

/-- A one-operand instruction whose elements raise no flag. -/
theorem unaryOp_quiet {ty : Fmt → Option Fmt} {ro : BitVec 2} (g : Fmt → Nat → Nat)
    (ht : ty (modeType f.mode) = some t) (h : LanesReady s f (decide (t.width = 64)) [d.toNat, a.toNat] none) :
    unaryOp ty ro d a (fun t _ z => (g t z, 0)) s =
      lanesBecame s (decide (t.width = 64)) d.toNat (lanesOf f.active) (oneLanes s f t ro a fun _ z => (g t z, 0)) :=
  unaryOp_of _ ht h (untrapped_of_zero _ fun _ => perElem_zero t _ fun _ => rfl)

theorem vlaneid_of (h : LanesReady s f false [d.toNat] none) :
    exec (.vlaneid d) s = lanesBecame s false d.toNat (lanesOf f.active) fun l => (l, 0) := by
  rw [exec_vlaneid, execVlaneid, runFibre_of _ h.1]
  exact vecOp_quiet h fun _ => rfl

theorem dotOp_of {y x : BitVec 1} (w : Nat) (h : LanesReady s f false [d.toNat, a.toNat] (some (b, bs))) :
    dotOp w d a b bs y x s = lanesBecame s false d.toNat (lanesOf f.active) fun l =>
      (writeInt (if x = 1 ∨ y = 1 then .s32 else .n32) (modeSAT f.mode)
        ((List.range (32 / w)).foldl (fun acc k =>
            acc + dotElem w (decide (x = 1)) (vGet s s.cur f a.toNat false l) k *
              dotElem w (decide (y = 1)) (bGet s s.cur f b bs false l) k)
          (readInt (if x = 1 ∨ y = 1 then .s32 else .n32) (vGet s s.cur f d.toNat false l))), 0) := by
  rw [dotOp, runFibre_of _ h.1]
  simp only [← Bool.decide_or, decide_eq_true_eq]
  exact vecOp_quiet h fun _ => rfl

end Lanes

end Sys2Proof.Machine

open Sys2Proof Sys2Proof.Machine

/-- Settles O17: each row is its class's shared operation with the function that the statement names. -/
theorem vectorFloats : Obligations.VectorFloats := by
  unfold Obligations.VectorFloats
  refine ⟨fun r d a b c bs s f t ht => ⟨fun h => ⟨fun i g hrow => ?arithmetic, fun i wantMax num g hrow hg => ?select⟩,
      fun g rd h hrd hg => ?fma⟩,
    fun d a b bs y x s f t => ⟨fun ht => ⟨fun h i g k hrow hk => ?mixed, fun h i g hrow => ?sign⟩,
      fun ht h i g hrow => ?count, fun ht => (exec_vfclass d a s).symm ▸ unaryOp_quiet classMask ht, vlaneid_of,
      fun h i w hrow => ?dot⟩⟩
  case arithmetic =>
    simp only [List.mem_cons, Prod.mk.injEq, List.not_mem_nil, or_false] at hrow
    rcases hrow with ⟨rfl, rfl⟩ | ⟨rfl, rfl⟩ | ⟨rfl, rfl⟩ | ⟨rfl, rfl⟩
    · exact fun hu => (exec_vfadd ..).trans (floatOp_of _ ht h hu)
    · exact fun hu => (exec_vfsub ..).trans (floatOp_of _ ht h hu)
    · exact fun hu => (exec_vfmul ..).trans (floatOp_of _ ht h hu)
    · exact fun hu => (exec_vfdiv ..).trans (floatOp_of _ ht h hu)
  case select =>
    subst hg
    simp only [List.mem_cons, Prod.mk.injEq, List.not_mem_nil, or_false] at hrow
    rcases hrow with ⟨rfl, rfl, rfl⟩ | ⟨rfl, rfl, rfl⟩ | ⟨rfl, rfl, rfl⟩ | ⟨rfl, rfl, rfl⟩
    · exact fun hu => (exec_vfmin ..).trans (floatSel_of ht h hu)
    · exact fun hu => (exec_vfmax ..).trans (floatSel_of ht h hu)
    · exact fun hu => (exec_vfminnum ..).trans (floatSel_of ht h hu)
    · exact fun hu => (exec_vfmaxnum ..).trans (floatSel_of ht h hu)
  case fma =>
    subst hg
    exact vfma_of ht h hrd
  case mixed =>
    subst hk
    simp only [List.mem_cons, Prod.mk.injEq, List.not_mem_nil, or_false] at hrow
    rcases hrow with ⟨rfl, rfl⟩ | ⟨rfl, rfl⟩
    · exact fun hu => (exec_vclamp ..).trans (mixedOp_of ht h hu)
    · exact fun hu => (exec_vcsign ..).trans (mixedOp_of ht h hu)
  case sign =>
    simp only [List.mem_cons, Prod.mk.injEq, List.not_mem_nil, or_false] at hrow
    rcases hrow with ⟨rfl, rfl⟩ | ⟨rfl, rfl⟩
    · exact fun hu => (exec_vneg ..).trans (unaryOp_of negElem ht h hu)
    · exact fun hu => (exec_vabs ..).trans (unaryOp_of absElem ht h hu)
  case count =>
    simp only [List.mem_cons, Prod.mk.injEq, List.not_mem_nil, or_false] at hrow
    rcases hrow with ⟨rfl, rfl⟩ | ⟨rfl, rfl⟩ | ⟨rfl, rfl⟩
    · exact (exec_vclz ..).trans (unaryOp_quiet (fun t z => t.width - bitLen z) ht h)
    · exact (exec_vpopc ..).trans (unaryOp_quiet (fun t z => popCount t.width z) ht h)
    · exact (exec_vbrev ..).trans (unaryOp_quiet (fun t z => bitReverse t.width z) ht h)
  case dot =>
    simp only [List.mem_cons, Prod.mk.injEq, List.not_mem_nil, or_false] at hrow
    rcases hrow with ⟨rfl, rfl⟩ | ⟨rfl, rfl⟩
    · exact (exec_vdot4 ..).trans (dotOp_of 8 h)
    · exact (exec_vdot8 ..).trans (dotOp_of 4 h)

end

section
/-! SUPPORT. TRAP, BKPT and HALT (R427), and the words of TRAP (R250, R251). -/

namespace Sys2Proof.Machine

/-! ### Without and with a debugger -/

section Debugger
variable {s : State} {f : Fibre}

theorem trap_of (hf : Issues s f) (i : BitVec 16) : exec (.trap i) s = .next (s.takeTrap ⟨0x09, 0, i.toNat, 0⟩) := by
  rw [exec_trap, execTrap, runFibre_of _ hf]
  rfl

theorem bkpt_detached (hf : Issues s f) (h : s.attached f = false) :
    exec .bkpt s = .next (s.takeTrap ⟨0x0A, 0, 0, 0⟩) := by
  rw [exec_bkpt, execBkpt, runFibre_of _ hf, h]
  rfl

theorem halt_detached (hf : Issues s f) (h : s.attached f = false) : exec .halt s = exec .nop s := by
  rw [exec_halt, execHalt, exec_nop, execNop, runFibre_of _ hf, runFibre_of _ hf, h]
  rfl

theorem bkpt_attached (hf : Issues s f) (h : s.attached f = true) :
    exec .bkpt s = .next (s.retire.modFibre s.cur Fibre.stop) := by
  rw [exec_bkpt, execBkpt, runFibre_of _ hf, h]
  rfl

theorem halt_attached (hf : Issues s f) (h : s.attached f = true) :
    exec .halt s = .next (s.retire.modFibre s.cur Fibre.stop) := by
  rw [exec_halt, execHalt, runFibre_of _ hf, h]
  rfl

theorem attached_iff : s.attached f = true ↔ ∃ r ∈ s.io.dbgRegions, s.inSubtree r f.region = true := by
  rw [State.attached, List.any_eq_true]

end Debugger

/-! ### The words of TRAP -/

theorem select_trap {w : Nat} (h : w / 2 ^ 20 = 2) : select w = .ok ⟨.trap (fld w 0 16), [(16, 4, 0)]⟩ := by
  have hmajor : bits w 26 6 = 0 := by simp only [bits]; omega
  have hvfma : bits w 28 4 ≠ 15 := by simp only [bits]; omega
  have hsub : bits w 20 6 = 2 := by simp only [bits]; omega
  simp only [select, if_neg hvfma, hmajor, select00, hsub]

/-- A word of TRAP decodes when its bits 16 to 19 are zero; else it fails check 3. -/
theorem decode_trap {w : BitVec 32} (h : w.toNat / 2 ^ 20 = 2) : decode w =
    if bits w.toNat 16 4 = 0 then .ok (.trap (fld w.toNat 0 16)) else .error .field := by
  simp only [decode, decodeNat, select_trap h, Instr.reservedCode, Instr.badField, Instr.badRegister, fixedOk,
    Bool.and_true, Bool.or_false, Bool.false_eq_true, if_false, Bool.not_eq_true', beq_eq_false_iff_ne, ite_not]

theorem decode_trap_word (i : BitVec 16) : decode (0x0020#16 ++ i) = .ok (.trap i) := by
  have hw : (0x0020#16 ++ i).toNat = 0x0020 * 2 ^ 16 + i.toNat := by
    rw [BitVec.toNat_append, ← Nat.shiftLeft_add_eq_or_of_lt i.isLt, Nat.shiftLeft_eq]; rfl
  have hi := i.isLt
  rw [decode_trap (by omega), if_pos (by simp only [bits]; omega), fld, hw]
  congr 2
  apply BitVec.eq_of_toNat_eq
  rw [BitVec.toNat_ofNat]
  omega

theorem decode_trap_reserved {x : BitVec 4} (hx : x ≠ 0) (i : BitVec 16) :
    decode (0x002#12 ++ x ++ i) = .error .field := by
  have hx0 : x.toNat ≠ 0 := fun h => hx (BitVec.eq_of_toNat_eq h)
  have hw : (0x002#12 ++ x ++ i).toNat = (0x002 * 2 ^ 4 + x.toNat) * 2 ^ 16 + i.toNat := by
    rw [BitVec.toNat_append, ← Nat.shiftLeft_add_eq_or_of_lt i.isLt, Nat.shiftLeft_eq, BitVec.toNat_append,
      ← Nat.shiftLeft_add_eq_or_of_lt x.isLt, Nat.shiftLeft_eq]; rfl
  have hi := i.isLt
  have hlt := x.isLt
  rw [decode_trap (by omega), if_neg (by simp only [bits]; omega)]

end Sys2Proof.Machine

open Sys2Proof Sys2Proof.Machine

/-- Settles O11: the instructions by `trap_of`, `bkpt_detached` to `halt_attached`; the words by `decode_trap`. -/
theorem trapInstructions : Obligations.TrapInstructions := by
  unfold Obligations.TrapInstructions
  exact ⟨fun i s f hf => ⟨trap_of hf i, fun h => ⟨bkpt_detached hf h, halt_detached hf h⟩,
      fun h => ⟨bkpt_attached hf h, halt_attached hf h⟩⟩,
    fun s f => attached_iff, decode_trap_word, by decide, by decide, fun x i hx => decode_trap_reserved hx i⟩

end

section
/-! SUPPORT. Commutative ranges (R319 to R321): CRDECL, CRADD and CRCLOSE as they issue, wait or are refused. -/

namespace Sys2Proof.Machine

/-- The operation that a control word names (R319). -/
def rangeOpOf (c : Dword) : RangeOp :=
  match field c 48 2 with
  | 0 => .add
  | 1 => .min
  | _ => .max

theorem rangeOpOf_add {c : Dword} : rangeOpOf c = .add ↔ field c 48 2 = 0 := by
  unfold rangeOpOf; split <;> simp_all

theorem rangeOpOf_min {c : Dword} : rangeOpOf c = .min ↔ field c 48 2 = 1 := by
  unfold rangeOpOf; split <;> simp_all

/-- A well-formed control word does not hold the fourth code, so that the last operation is MAX. -/
theorem rangeOpOf_max {base c : Dword} (h : rangeBad base c = false) : rangeOpOf c = .max ↔ field c 48 2 = 2 := by
  have h3 : field c 48 2 ≠ 3 := by
    simp only [rangeBad, Bool.or_eq_false_iff, beq_eq_false_iff_ne] at h
    exact h.1.1.1.1.1.2
  have hlt : field c 48 2 < 4 := Nat.mod_lt _ (by decide)
  have hcode : field c 48 2 = 0 ∨ field c 48 2 = 1 ∨ field c 48 2 = 2 := by omega
  rcases hcode with h | h | h
  · simp [rangeOpOf, h]
  · simp [rangeOpOf, h]
  · simp [rangeOpOf, h]

/-- The range of an address space that a new one would clash with: it has its identifier, or overlaps it (R319). -/
def CRange.clashes (r : CRange) (asid : BitVec 16) (base c : Dword) : Bool :=
  r.asid = asid ∧ (r.rid = field c 50 6 ∨ (base.toNat < r.base + r.len ∧ r.base < base.toNat + field c 0 40))

/-- The range that CRDECL opens. -/
def openedRange (f : Fibre) (base c : Dword) : CRange :=
  ⟨f.asid, field c 50 6, base.toNat, field c 0 40, rangeOpOf c, field c 40 6, f.region, false⟩

theorem any_clashes (s : State) (f : Fibre) (base c : Dword) :
    ((s.mem.ranges.filter fun r => r.asid = f.asid).any fun r => r.rid = field c 50 6 ∨
      (base.toNat < r.base + r.len ∧ r.base < base.toNat + field c 0 40)) =
    s.mem.ranges.any fun r => r.clashes f.asid base c := by
  simp only [List.any_filter, CRange.clashes, Bool.decide_and]

section Ranges
variable {s : State} {f : Fibre} {a b : BitVec 6}

theorem crdecl_of (hf : Issues s f) (hs : Settled s (resS s.cur [a.toNat, b.toNat])) : exec (.crdecl a b) s =
    .next ((if rangeBad (f.s a.toNat) (f.s b.toNat) then .trap (illTrap 6)
      else if s.mem.ranges.any fun r => r.clashes f.asid (f.s a.toNat) (f.s b.toNat) then .trap (illTrap 6)
      else if 512 ≤ s.mem.ranges.length then .stall
      else .done { s with mem := { s.mem with ranges :=
        s.mem.ranges ++ [openedRange f (f.s a.toNat) (f.s b.toNat)] } } : Act).finish s) := by
  rw [exec_crdecl, execCrdecl, scalarOp_of _ hf hs]
  simp only [any_clashes]
  rfl

theorem crdecl_refused (hf : Issues s f) (hs : Settled s (resS s.cur [a.toNat, b.toNat]))
    (h : rangeBad (f.s a.toNat) (f.s b.toNat) = true ∨
      (s.mem.ranges.any fun r => r.clashes f.asid (f.s a.toNat) (f.s b.toNat)) = true) :
    exec (.crdecl a b) s = .next (s.takeTrap ⟨trapILL, 6, 0, 0⟩) := by
  rw [crdecl_of hf hs]
  by_cases hbad : rangeBad (f.s a.toNat) (f.s b.toNat) = true
  · rw [if_pos hbad]; rfl
  · rw [if_neg hbad, if_pos (h.resolve_left hbad)]; rfl

theorem crdecl_full (hf : Issues s f) (hs : Settled s (resS s.cur [a.toNat, b.toNat]))
    (hgood : rangeBad (f.s a.toNat) (f.s b.toNat) = false)
    (hfree : (s.mem.ranges.any fun r => r.clashes f.asid (f.s a.toNat) (f.s b.toNat)) = false)
    (hfull : 512 ≤ s.mem.ranges.length) : exec (.crdecl a b) s = .next s.stall := by
  rw [crdecl_of hf hs, hgood, hfree, if_pos hfull]
  rfl

theorem crdecl_opens (hf : Issues s f) (hs : Settled s (resS s.cur [a.toNat, b.toNat]))
    (hgood : rangeBad (f.s a.toNat) (f.s b.toNat) = false)
    (hfree : (s.mem.ranges.any fun r => r.clashes f.asid (f.s a.toNat) (f.s b.toNat)) = false)
    (hroom : s.mem.ranges.length < 512) : exec (.crdecl a b) s = .next ({ s with mem := { s.mem with ranges :=
      s.mem.ranges ++ [openedRange f (f.s a.toNat) (f.s b.toNat)] } } : State).retire := by
  rw [crdecl_of hf hs, hgood, hfree, if_neg (Nat.not_le.2 hroom)]
  rfl

/-- CRADD whose active lanes all name an open range issues its operation (R320). -/
theorem cradd_of {v : BitVec 7} {ls : List (Option (CRange × Dword × Nat))} {addr : List Dword} {body : OpBody}
    (hf : Issues s f) (hact : f.active ≠ 0) (hs : Settled s (resS s.cur [a.toNat]))
    (hv : Settled s (resVs s.cur f ((regRun v.toNat 3).filter fun n => decide (n < 128))))
    (hls : ls = (List.range 32).map fun i => craddLane s f (f.s a.toNat) v.toNat i)
    (haddr : addr = ls.map fun l => (l.map (·.2.1)).getD 0) (hopen : ∀ i ∈ lanesOf f.active, ls.getD i none ≠ none)
    (hbody : body = .cradd addr (ls.map fun l => (l.map (·.2.2)).getD 0) (ls.map fun l => (l.map (·.1.rid)).getD 0) s.draws)
    (hlaunch : MayLaunch (s.drew 1) f ctrST ((lanesOf f.active).map fun i =>
      ((addr.getD i 0).toNat, ((ls.getD i none).map fun l => rangeWidth l.1.fmt).getD 0)) body) :
    exec (.cradd a v) s = launched (s.drew 1) f ctrST f.active (f.s a.toNat) 0 [] body := by
  have hnamed : ¬ ((lanesOf f.active).any fun i => (ls.getD i none).isNone) = true := by
    simpa only [List.any_eq_true, not_exists, not_and, Option.isNone_iff_eq_none] using hopen
  subst hls haddr hbody
  rw [exec_cradd, execCradd, runFibre_of _ hf, guardBusy_of _ (settled_append.2 ⟨hs, hv⟩), if_neg hact, if_neg hnamed]
  exact issueLsu_of hlaunch

/-- The state with the ranges of one identifier of an address space closing. -/
def State.closingRange (s : State) (asid : BitVec 16) (rid : Nat) : State :=
  { s with mem := { s.mem with ranges := s.mem.ranges.map fun y =>
    if y.asid = asid ∧ y.rid = rid then { y with closing := true } else y } }

theorem upperBits_eq_zero {x : Dword} : field x 6 58 = 0 ↔ x < 64 := by
  have hx := x.isLt
  simp only [field, BitVec.lt_def]
  have h64 : (64 : Dword).toNat = 64 := rfl
  omega

theorem lowBits_of_lt {x : Dword} (h : x < 64) : field x 0 6 = x.toNat := by
  have : x.toNat < 64 := h
  simp only [field]
  omega

theorem crclose_closes {r : CRange} (hf : Issues s f) (hs : Settled s (resS s.cur [a.toNat])) (hlt : f.s a.toNat < 64)
    (hr : r ∈ s.mem.ranges) (hasid : r.asid = f.asid) (hrid : r.rid = (f.s a.toNat).toNat) (hopen : r.closing = false)
    (hroom : f.ctrFull ctrST = false) : exec (.crclose a) s =
      launched (s.closingRange f.asid (f.s a.toNat).toNat) f ctrST f.active (f.s a.toNat) 0 []
        (.crclose (f.s a.toNat).toNat) := by
  rw [exec_crclose, execCrclose, scalarOp_of _ hf hs]
  simp only [lowBits_of_lt hlt, upperBits_eq_zero.2 hlt, ne_eq, not_true_eq_false, if_false]
  split
  next hnone => simpa [hasid, hrid, hopen] using List.find?_eq_none.1 hnone r hr
  next =>
    rw [hroom]
    exact issueLsu_of ⟨hf, hroom, by simp⟩

theorem crclose_refused (hf : Issues s f) (hs : Settled s (resS s.cur [a.toNat]))
    (h : 64 ≤ f.s a.toNat ∨ ∀ r ∈ s.mem.ranges, r.asid = f.asid → r.rid = (f.s a.toNat).toNat → r.closing = true) :
    exec (.crclose a) s = .next (s.takeTrap ⟨trapILL, 6, 0, 0⟩) := by
  rw [exec_crclose, execCrclose, scalarOp_of _ hf hs]
  by_cases hlt : f.s a.toNat < 64
  · have hnone : (s.mem.ranges.find? fun r =>
        r.asid = f.asid ∧ r.rid = (f.s a.toNat).toNat ∧ r.closing = false) = none := by
      rw [List.find?_eq_none]
      intro r hr
      have := h.resolve_left (BitVec.not_le.2 hlt) r hr
      simp only [decide_eq_true_eq]
      rintro ⟨hasid, hrid, hopen⟩
      rw [this hasid hrid] at hopen
      cases hopen
    simp only [lowBits_of_lt hlt, upperBits_eq_zero.2 hlt, ne_eq, not_true_eq_false, if_false, hnone]
    rfl
  · rw [if_pos (mt upperBits_eq_zero.1 hlt)]
    rfl

end Ranges

end Sys2Proof.Machine

open Sys2Proof Sys2Proof.Machine

/-- Settles O27: CRDECL by its three tests in order (`crdecl_of`), CRADD where every active lane names an open range,
CRCLOSE by the search for the range. -/
theorem commutativeRanges : Obligations.CommutativeRanges := by
  unfold Obligations.CommutativeRanges
  intro a b v s f base c clash hf hbase hc hs hclash
  subst hbase hc hclash
  have ha : Settled s (resS s.cur [a.toNat]) := (settled_cons.1 hs).1
  exact ⟨crdecl_refused hf hs, crdecl_full hf hs,
    fun hgood hfree hroom => ⟨rangeOpOf (f.s b.toNat), crdecl_opens hf hs hgood hfree hroom, rangeOpOf_add, rangeOpOf_min,
      rangeOpOf_max hgood⟩,
    fun ls addr body hact hv hls haddr hopen hbody hlaunch =>
      cradd_of hf hact ha hv hls haddr hopen hbody hlaunch,
    fun r t hlt hr hasid hrid hopen hroom ht => ht ▸ crclose_closes hf ha hlt hr hasid hrid hopen hroom,
    crclose_refused hf ha⟩

end

section
/-! SUPPORT. The copy engine (R323 to R331): CPSTEP and CPISSUE, the buffer handles, and the starts and ends of
transfers. -/

namespace Sys2Proof.Machine

theorem withGroup_of_find {s : State} {f : Fibre} {g : Group} (hg : Sparse.find s.groups f.group = some g)
    (body : Group → Act) : withGroup s f body = body g := by
  rw [withGroup, hg]

/-- The state with a handle of a group set. -/
def withHandleAs (s : State) (k : Nat) (g : Group) (n : Nat) (x : Handle) : State :=
  withGroupAs s k { g with handles := Sparse.put g.handles n x }

theorem setHandle_eq {s : State} {k n : Nat} {g : Group} (hg : Sparse.find s.groups k = some g) (x : Handle) :
    s.setHandle k n x = withHandleAs s k g n x := by
  rw [State.setHandle, modGroup_of_find hg]
  rfl

theorem handle_of_find {g : Group} {n : Nat} {x : Handle} (hx : Sparse.find g.handles n = some x) : g.handle n = x := by
  rw [Group.handle, hx, Option.getD_some]

theorem handle_of_none {g : Group} {n : Nat} (hx : Sparse.find g.handles n = none) : g.handle n = ⟨.free, 0, 0⟩ := by
  rw [Group.handle, hx, Option.getD_none]

/-! ### Mapping a handle (R323) -/

theorem mapHandle_mapped {s : State} {k n : Nat} {g : Group} {x : Handle} (hx : Sparse.find g.handles n = some x) :
    s.mapHandle k g n = some s := by
  rw [State.mapHandle, hx]
  rfl

theorem mapHandle_maps {s : State} {k n : Nat} {g : Group} (hg : Sparse.find s.groups k = some g)
    (hx : Sparse.find g.handles n = none) (hroom : s.handlesUsed g.core < 64) :
    s.mapHandle k g n = some (withHandleAs s k g n ⟨.free, 0, 0⟩) := by
  rw [State.mapHandle, hx, Option.isSome_none, if_neg Bool.false_ne_true, if_pos hroom, modGroup_of_find hg]
  rfl

theorem mapHandle_full {s : State} {k n : Nat} {g : Group} (hx : Sparse.find g.handles n = none)
    (hfull : 64 ≤ s.handlesUsed g.core) : s.mapHandle k g n = none := by
  rw [State.mapHandle, hx, Option.isSome_none, if_neg Bool.false_ne_true, if_neg (Nat.not_lt.2 hfull)]

section Instructions
variable {s : State} {f : Fibre} {g : Group} {h : BitVec 6} {x : Handle}

/-! ### CPSTEP and CPISSUE -/

theorem cpstep_of (hf : Issues s f) (hg : Sparse.find s.groups f.group = some g) (n : BitVec 7) : ∃ g',
    exec (.cpstep n) s = .next (withGroupAs s f.group g').retire ∧ g'.stage = min (g.stage + n.toNat) (2 ^ 32 - 1) ∧
      { g' with stage := g.stage, steps := g.steps } = g := by
  rw [exec_cpstep, execCpstep, runFibre_of _ hf, withGroup_of_find hg]
  exact ⟨_, congrArg (fun t : State => Host.Outcome.next t.retire) (modGroup_of_find hg _), rfl, rfl⟩

/-- The 256 bits of the entry that CPISSUE reads from four scalars. -/
def issuedEntry (f : Fibre) (a : BitVec 6) : Nat :=
  (f.s a.toNat).toNat + (f.s (a.toNat + 1)).toNat * 2 ^ 64 + (f.s (a.toNat + 2)).toNat * 2 ^ 128 +
    (f.s (a.toNat + 3)).toNat * 2 ^ 192

/-- The state with the issued entry queued, and with its leave requested where it moves more than 1 MiB (R236). -/
def State.withTransfer (s : State) (f : Fibre) (a : BitVec 6) (r : Bool) : State :=
  let e := issuedEntry f a
  let big := decide (copyLeaveBytes < cpBytes e)
  let q := s.newOp f 5 f.active (f.s a.toNat) (f.s (a.toNat + 1)) (some ctrCP) (.copy e 0 false r false (!big))
  if big then q.2.requestLeave ⟨clusterOf (coreOf s.cur), f.region, copyCost (cpBytes e), .transfer q.1⟩ else q.2

section Cpissue
variable {a : BitVec 6} (hf : Issues s f) (hg : Sparse.find s.groups f.group = some g)
  (hs : Settled s (resS s.cur [a.toNat, a.toNat + 1, a.toNat + 2, a.toNat + 3]))
include hf hg hs

theorem cpissue_of : exec (.cpissue a) s = .next (Act.finish s <|
    if cpBad s.mem (clusterOf (coreOf s.cur)) (issuedEntry f a) then .trap (illTrap 6)
    else if f.ctrFull ctrCP then .stall
    else ((s.copyRoom f.group g).map fun r => Act.done (s.withTransfer f a r)).getD .stall) := by
  have hs' : Settled s (resS s.cur ((List.range 4).map fun i => a.toNat + i)) := hs
  rw [exec_cpissue, execCpissue, scalarOp_of _ hf hs', withGroup_of_find hg]
  cases s.copyRoom f.group g <;> rfl

theorem cpissue_bad (hbad : cpBad s.mem (clusterOf (coreOf s.cur)) (issuedEntry f a) = true) :
    exec (.cpissue a) s = .next (s.takeTrap ⟨trapILL, 6, 0, 0⟩) := by
  rw [cpissue_of hf hg hs, if_pos hbad]
  rfl

theorem cpissue_waits (hgood : cpBad s.mem (clusterOf (coreOf s.cur)) (issuedEntry f a) = false)
    (h : f.ctrFull ctrCP = true ∨ s.copyRoom f.group g = none) : exec (.cpissue a) s = .next s.stall := by
  rw [cpissue_of hf hg hs, hgood, if_neg Bool.false_ne_true]
  by_cases hfull : f.ctrFull ctrCP = true
  · rw [if_pos hfull]; rfl
  · rw [if_neg hfull, h.resolve_left hfull]; rfl

theorem cpissue_queues {r : Bool} (hgood : cpBad s.mem (clusterOf (coreOf s.cur)) (issuedEntry f a) = false)
    (hctr : f.ctrFull ctrCP = false) (hroom : s.copyRoom f.group g = some r)
    (hsmall : cpBytes (issuedEntry f a) ≤ 2 ^ 20) : exec (.cpissue a) s =
      .next (s.newOp f 5 f.active (f.s a.toNat) (f.s (a.toNat + 1)) (some ctrCP)
        (.copy (issuedEntry f a) 0 false r false true)).2.retire := by
  have hbig : decide (copyLeaveBytes < cpBytes (issuedEntry f a)) = false := decide_eq_false (Nat.not_lt.2 hsmall)
  rw [cpissue_of hf hg hs, hgood, hctr, hroom, if_neg Bool.false_ne_true, if_neg Bool.false_ne_true, Option.map_some,
    Option.getD_some, State.withTransfer, hbig]
  rfl

end Cpissue

/-! ### Handles (R326 to R328) -/

section Handles
variable (hf : Issues s f) (hg : Sparse.find s.groups f.group = some g)
include hf hg

theorem waitHandle_mapped (hx : Sparse.find g.handles h.toNat = some x) (st : HandleState) :
    waitHandle s h st = .next (if x.st = st then s.retire else s.stall) := by
  rw [waitHandle, runFibre_of _ hf, withGroup_of_find hg, mapHandle_mapped hx, handle_of_find hx]
  by_cases hst : x.st = st
  · simp only [hst, if_true]; rfl
  · simp only [hst, if_false]; rfl

theorem waitHandle_maps (hx : Sparse.find g.handles h.toNat = none) (hroom : s.handlesUsed g.core < 64)
    (st : HandleState) : waitHandle s h st = .next (if st = .free then (withHandleAs s f.group g h.toNat ⟨.free, 0, 0⟩).retire
      else (withHandleAs s f.group g h.toNat ⟨.free, 0, 0⟩).stall) := by
  rw [waitHandle, runFibre_of _ hf, withGroup_of_find hg, mapHandle_maps hg hx hroom, handle_of_none hx]
  cases st <;> rfl

theorem waitHandle_full (hx : Sparse.find g.handles h.toNat = none) (hfull : 64 ≤ s.handlesUsed g.core)
    (st : HandleState) : waitHandle s h st = .next s.stall := by
  rw [waitHandle, runFibre_of _ hf, withGroup_of_find hg, mapHandle_full hx hfull]
  rfl

theorem releaseHandle_waits (hbusy : s.lsuBusy s.cur Op.fenced = true) (old new : HandleState) :
    releaseHandle s h old new = .next s.stall := by
  rw [releaseHandle, runFibre_of _ hf, withGroup_of_find hg, hbusy]
  rfl

theorem releaseHandle_quiet (hquiet : s.lsuBusy s.cur Op.fenced = false) (hx : Sparse.find g.handles h.toNat = some x)
    (old new : HandleState) : releaseHandle s h old new = .next (if x.st = old
      then (withHandleAs s f.group g h.toNat ⟨new, 0, 0⟩).retire else s.takeTrap ⟨trapILL, 6, 0, 0⟩) := by
  rw [releaseHandle, runFibre_of _ hf, withGroup_of_find hg, hquiet, if_neg Bool.false_ne_true, handle_of_find hx,
    mapHandle_mapped hx]
  by_cases hst : x.st = old
  · rw [if_neg (not_not_intro hst), if_pos hst, ← setHandle_eq hg]; rfl
  · rw [if_pos hst, if_neg hst]; rfl

theorem hquery_of {a : BitVec 6} (hs : Settled s (resS s.cur [a.toNat])) (hx : Sparse.find g.handles h.toNat = some x) :
    exec (.hquery a h) s = became s (f.setS a.toNat (BitVec.ofNat 64 (x.st.code + g.stage * 2 ^ 16))) := by
  rw [exec_hquery, execHquery, scalarOp_of _ hf hs, withGroup_of_find hg, handle_of_find hx]
  exact done_modFibre _ hf

end Handles

end Instructions

/-! ### The schedule's cursor (R323, R325) -/

/-- No handle's stage is under way, so that none can end. -/
def Group.atRest (g : Group) : Bool := g.handles.all fun h => h.2.left != 0 || h.2.st == .free || h.2.st == .full

theorem settleHandles_of_atRest {s : State} {k : Nat} {g : Group} (hg : Sparse.find s.groups k = some g)
    (h : g.atRest = true) : s.settleHandles k = s := by
  rw [State.settleHandles, hg]
  exact if_pos h

/-- The group behind the entry at its cursor. -/
def Group.passed (g : Group) : Group := { g with cursor := g.cursor + 1, sched := none, schedOp := none }

theorem passEntry_of_atRest {s : State} {k : Nat} {g : Group} (hg : Sparse.find s.groups k = some g)
    (h : g.atRest = true) : s.passEntry k = withGroupAs s k g.passed := by
  rw [State.passEntry, modGroup_of_find hg]
  refine settleHandles_of_atRest (g := g.passed) ?_ h
  rw [withGroupAs, Sparse.find_put, if_pos rfl]
  rfl

section Cursor
variable {s : State} {k e count : Nat} {g : Group} {base : Dword} (hg : Sparse.find s.groups k = some g)
  (hsch : s.schedule g = (base, count)) (hsched : g.sched = some e) (hop : g.schedOp = none)
  (hact : s.regionActive g.region = true) (hbad : cpBad s.mem (clusterOf g.core) e = false) (hhv : cpHv e = false)
  (hrest : g.atRest = true)
include hg hsch hsched hop hact hbad hhv hrest

/-- The turn of a group whose entry has been read: nothing where the schedule is over or the group is leaving, else the
entry starts where its stage has come and a transfer is free, once its leave is there. -/
theorem copyEntryStart_eq : exec (.copyEntryStart k) s = .next (if count ≤ g.cursor ∨ s.leaving k = true then s
    else if g.stage < cpStage e ∨ 8 ≤ s.transfersOn g.core then s
    else match s.stageLeave k g (cpStage e) with
      | (false, t) => t
      | (true, t) => (t.addOp (t.schedOp k g (g.stepFor (cpStage e)) (.copy e g.cursor true false true true))).2.passEntry k) := by
  rw [exec_copyEntryStart, execCopyEntryStart]
  simp only [settleHandles_of_atRest hg hrest, hg, hsch, hop, hact, hsched, Option.isSome_none, Bool.false_eq_true,
    Bool.true_eq_false, false_or, State.tryEntry, State.startEntry, hbad, hhv, if_false, Bool.false_and]
  by_cases h1 : count ≤ g.cursor ∨ s.leaving k = true
  · rw [if_pos h1, if_pos h1]
  · rw [if_neg h1, if_neg h1]
    by_cases h2 : g.stage < cpStage e
    · simp only [h2, if_true, true_or]
    · simp only [h2, if_false, false_or] <;> rfl

theorem copyEntryStart_idle (h : count ≤ g.cursor ∨ g.stage < cpStage e ∨ 8 ≤ s.transfersOn g.core ∨ s.leaving k = true) :
    exec (.copyEntryStart k) s = .next s := by
  rw [copyEntryStart_eq hg hsch hsched hop hact hbad hhv hrest]
  by_cases h1 : count ≤ g.cursor ∨ s.leaving k = true
  · rw [if_pos h1]
  · have h2 : g.stage < cpStage e ∨ 8 ≤ s.transfersOn g.core := by tauto
    rw [if_neg h1, if_pos h2]

theorem copyEntryStart_starts (hleave : s.stageLeave k g (cpStage e) = (true, s)) (hcur : g.cursor < count)
    (hstage : cpStage e ≤ g.stage) (hfree : s.transfersOn g.core < 8) (hstay : s.leaving k = false) :
    exec (.copyEntryStart k) s = .next (withGroupAs
      (s.addOp (s.schedOp k g (g.stepFor (cpStage e)) (.copy e g.cursor true false true true))).2 k g.passed) := by
  rw [copyEntryStart_eq hg hsch hsched hop hact hbad hhv hrest, if_neg (by simp [hstay]; omega), if_neg (by omega), hleave]
  exact congrArg Host.Outcome.next (passEntry_of_atRest hg hrest)

end Cursor

/-! ### CPISSUE_START and TRANSFER_COMPLETE (R326, R328) -/

theorem cpissueStart_of {s : State} {id e idx : Nat} {rsv lv : Bool} {o : Op} {g : Group}
    (ho : Sparse.find s.eng.ops id = some o) (hb : o.body = .copy e idx false rsv false lv)
    (hg : Sparse.find s.groups o.group = some g) (hhv : cpHv e = false) : exec (.cpissueStart id) s =
      .next (if lv = true ∧ s.regionActive g.region = true ∧ s.transfersOn g.core < 8
        then s.modOp id fun o => { o with body := .copy e idx false rsv true lv } else s) := by
  rw [exec_cpissueStart, execCpissueStart]
  simp only [ho, hb, hg, hhv, Bool.false_and, Bool.or_false, Bool.false_eq_true, if_false, Bool.or_eq_true,
    Bool.not_eq_true', decide_eq_true_eq]
  by_cases h : lv = true ∧ s.regionActive g.region = true ∧ s.transfersOn g.core < 8
  · obtain ⟨hlv, hact, hfree⟩ := h
    rw [if_neg (by simp [hlv, hact]; omega), if_pos ⟨hlv, hact, hfree⟩]
  · rw [if_neg h, if_pos (by rw [← Nat.not_lt, ← Bool.not_eq_true, ← Bool.not_eq_true]; tauto)]

theorem transferComplete_recorded {s : State} {id : Nat} (h : s.recorded id = true) :
    exec (.transferComplete id) s = .next s := by
  rw [exec_transferComplete, execTransferComplete, if_pos h]

theorem transferComplete_done {s t : State} {id e idx : Nat} {rsv lv : Bool} {o : Op}
    (ho : Sparse.find s.eng.ops id = some o) (hb : o.body = .copy e idx false rsv true lv) (hr : s.recorded id = false)
    (hrun : runThread s id 0 (transferProg s o.who.core e) = (.done (), t)) :
    exec (.transferComplete id) s = .next (t.endTransfer id o e) := by
  rw [exec_transferComplete, execTransferComplete, hr, if_neg Bool.false_ne_true, runCopy, ho]
  have hplace : s.relocate id o false e = s := rfl
  simp only [hb, hplace, hrun]

end Sys2Proof.Machine

open Sys2Proof Sys2Proof.Machine

/-- Settles O34: the instructions by what a mapped, an unmapped and a refused handle make of them, the engine by its
turns at the cursor (`copyEntryStart_eq`) and at a transfer. -/
theorem copies : Obligations.Copies := by
  unfold Obligations.Copies
  refine ⟨fun a h n s f g set hf hg hset => ?instructions, ⟨?cursor, ?start, ?complete, ?recorded⟩⟩
  case instructions =>
    subst hset
    refine ⟨cpstep_of hf hg n, fun e hs he => ?issue, fun x hx => ?mapped, fun hx hroom => ?unmapped, fun hx hfull => ?full⟩
    case issue =>
      subst he
      exact ⟨cpissue_bad hf hg hs, cpissue_waits hf hg hs, fun r => cpissue_queues hf hg hs⟩
    case mapped =>
      exact ⟨(exec_hwaitf h s).trans (waitHandle_mapped hf hg hx _), (exec_hwaite h s).trans (waitHandle_mapped hf hg hx _),
        fun hb => ⟨(exec_hrel h s).trans (releaseHandle_waits hf hg hb _ _),
          (exec_hrelPub h s).trans (releaseHandle_waits hf hg hb _ _)⟩,
        fun hq => ⟨(exec_hrel h s).trans (releaseHandle_quiet hf hg hq hx _ _),
          (exec_hrelPub h s).trans (releaseHandle_quiet hf hg hq hx _ _)⟩,
        fun hs => hquery_of hf hg hs hx⟩
    case unmapped =>
      exact ⟨(exec_hwaitf h s).trans (waitHandle_maps hf hg hx hroom _),
        (exec_hwaite h s).trans (waitHandle_maps hf hg hx hroom _)⟩
    case full =>
      exact ⟨(exec_hwaitf h s).trans (waitHandle_full hf hg hx hfull _),
        (exec_hwaite h s).trans (waitHandle_full hf hg hx hfull _)⟩
  case cursor =>
    intro s k g base count e hg hsch hsched hop hact hbad hhv hleave hrest
    refine ⟨fun hcur hstage hfree hstay => ?_, copyEntryStart_idle hg hsch hsched hop hact hbad hhv hrest⟩
    refine ⟨_, copyEntryStart_starts hg hsch hsched hop hact hbad hhv hrest hleave hcur hstage hfree hstay,
      ⟨_, (Sparse.find_put ..).trans (if_pos rfl), rfl⟩, ⟨g.handles, (Sparse.find_put ..).trans ?_⟩, rfl, rfl⟩
    rw [if_pos rfl, Group.passed, hop]
  case start => exact fun s id e idx rsv lv o g => cpissueStart_of
  case complete => exact fun s t id e idx rsv lv o => transferComplete_done
  case recorded => exact fun s id => transferComplete_recorded

end

section
/-! SUPPORT. Matrix commands as they issue into the open batch of their fibre (R334 to R336, R341, R344 to R351). -/

namespace Sys2Proof.Machine

/-- The class of MODE.ET (R334). -/
theorem mxClass_iff (m : Word) : (mxClass m = some true ↔ modeET m = 0x3C) ∧ (mxClass m = some false ↔ modeET m = 0x3D) := by
  unfold mxClass
  split
  next h => simp [h]
  next h => simp [h]
  next h1 h2 => simpa using ⟨h1, h2⟩

section Issue
variable {s : State} {f : Fibre} {tile span : Nat}

theorem issueCmd_of {float : Bool} (hclass : mxClass f.mode = some float) (hroom : tile + span ≤ (s.slot s.cur).tiles)
    (make : Bool → Act) : issueCmd s f tile span make = make float := by
  rw [issueCmd, hclass]
  exact if_neg (Nat.not_lt.2 hroom)

theorem issueCmd_refused (h : mxClass f.mode = none ∨ (s.slot s.cur).tiles < tile + span) (make : Bool → Act) :
    issueCmd s f tile span make = .trap (illTrap 6) := by
  rw [issueCmd]
  cases hc : mxClass f.mode with
  | none => rfl
  | some float => exact if_pos (h.resolve_left (by simp [hc]))

/-- A command that the open batch has room for joins it. -/
theorem appendCmd_of (hf : Issues s f) (hopen : f.openBatch.length < 8) (opa opb : Dword) (c : MxCmd) :
    (.next ((appendCmd s f opa opb c).finish s) : Out) = staged s f opa opb c := by
  have hf' : s.fibre s.cur = some f := hf
  rw [appendCmd, if_neg (Nat.not_le.2 hopen)]
  simp only [hf']
  rfl

theorem mzero_of {t : BitVec 3} {float : Bool} (hf : Issues s f) (hopen : f.openBatch.length < 8)
    (hclass : mxClass f.mode = some float) (hroom : t.toNat < (s.slot s.cur).tiles) :
    exec (.mzero t) s = staged s f 0 0 (plainCmd f .mzero float 0 t.toNat 1) := by
  rw [exec_mzero, execMzero, runFibre_of _ hf, issueCmd_of hclass hroom]
  exact appendCmd_of hf hopen ..

theorem issueShape_of {a : Nat} {float : Bool} (hf : Issues s f) (hopen : f.openBatch.length < 8)
    (hs : Settled s (resS s.cur [a])) (hclass : mxClass f.mode = some float)
    (hroom : tile + span ≤ (s.slot s.cur).tiles) (kind : MxKind) : issueShape s a tile span kind =
    if (f.s a).toNat % 64 = 0 then staged s f (f.s a) 0 (plainCmd f kind float (f.s a) tile span)
    else .next (s.takeTrap ⟨trapILL, 6, 0, 0⟩) := by
  rw [issueShape, runFibre_of _ hf, guardBusy_of _ hs, issueCmd_of hclass hroom]
  by_cases h : (f.s a).toNat % 64 = 0
  · rw [if_neg (not_not_intro h), if_pos h]
    exact appendCmd_of hf hopen ..
  · rw [if_pos h, if_neg h]
    rfl

theorem issueShape_refused {a : Nat} (hf : Issues s f) (hs : Settled s (resS s.cur [a]))
    (h : mxClass f.mode = none ∨ (s.slot s.cur).tiles < tile + span) (kind : MxKind) :
    issueShape s a tile span kind = .next (s.takeTrap ⟨trapILL, 6, 0, 0⟩) := by
  rw [issueShape, runFibre_of _ hf, guardBusy_of _ hs, issueCmd_refused h]
  rfl

/-- The registers of an operand that has some. -/
def operandNames (r : Option (Nat × Nat)) : List Nat := (r.map fun e => regRun e.1 e.2).getD []

/-- What a multiplication captures (R345). -/
def mmaCmd (s : State) (f : Fibre) (a b tile span : Nat) (kind : MxKind) (float z : Bool) (ra rb : Option (Nat × Nat)) : MxCmd :=
  { kind := kind, float := float, a0 := f.s a, a1 := f.s (a + 1), b0 := f.s b, b1 := f.s (b + 1)
    ra := ra.map fun e => (regRun e.1 e.2).map fun n => s.v s.cur f n
    rb := rb.map fun e => (regRun e.1 e.2).map fun n => s.v s.cur f n
    tile := tile, span := span, z := z, sat := modeSAT f.mode, scope := modeSC f.mode, phase := .staged, flags := 0 }

theorem issueMma_of {a b : Nat} {float regA regB : Bool} {ra rb : Option (Nat × Nat)} {kind : MxKind} (hf : Issues s f)
    (hopen : f.openBatch.length < 8) (hs : Settled s (resS s.cur [a, a + 1, b, b + 1]))
    (hclass : mxClass f.mode = some float) (hroom : tile + span ≤ (s.slot s.cur).tiles)
    (ha : operandRegs float regA true (kind == .mmat) (mxK (f.s (a + 1))) (f.s a) (f.s (a + 1)) = some ra)
    (hb : operandRegs float regB false (kind == .mmat) (mxK (f.s (a + 1))) (f.s b) (f.s (b + 1)) = some rb)
    (hv : Settled s (resVs s.cur f (operandNames ra ++ operandNames rb))) (z : Bool) :
    issueMma s a b tile span regA regB kind z =
      staged s f (f.s a) (f.s b) (mmaCmd s f a b tile span kind float z ra rb) := by
  rw [issueMma, runFibre_of _ hf, guardBusy_of _ hs, issueCmd_of hclass hroom]
  simp only [ha, hb]
  refine (congrArg (fun act => Host.Outcome.next (Act.finish s act)) (guardBusy_of _ ?_)).trans
    (appendCmd_of hf hopen ..)
  cases ra <;> cases rb <;> exact hv

theorem issueMma_refused {a b : Nat} {regA regB : Bool} {kind : MxKind} (hf : Issues s f)
    (hs : Settled s (resS s.cur [a, a + 1, b, b + 1]))
    (h : mxClass f.mode = none ∨ (s.slot s.cur).tiles < tile + span) (z : Bool) :
    issueMma s a b tile span regA regB kind z = .next (s.takeTrap ⟨trapILL, 6, 0, 0⟩) := by
  rw [issueMma, runFibre_of _ hf, guardBusy_of _ hs, issueCmd_refused h]
  rfl

theorem mzero_refused {t : BitVec 3} (hf : Issues s f) (h : mxClass f.mode = none ∨ (s.slot s.cur).tiles < t.toNat + 1) :
    exec (.mzero t) s = .next (s.takeTrap ⟨trapILL, 6, 0, 0⟩) := by
  rw [exec_mzero, execMzero, runFibre_of _ hf, issueCmd_refused h]
  rfl

end Issue

end Sys2Proof.Machine

open Sys2Proof Sys2Proof.Machine

/-- Settles O29: a command is MZERO (`mzero_of`), names a shape record (`issueShape_of`) or multiplies (`issueMma_of`);
each is refused by the check of its class and tiles (`issueCmd_refused`). -/
theorem matrixCommands : Obligations.MatrixCommands := by
  unfold Obligations.MatrixCommands
  intro a b t x y z h p s f hf hopen hs
  have ha : Settled s (resS s.cur [a.toNat]) := (settled_cons.1 hs).1
  refine ⟨fun float hclass => ⟨mzero_of hf hopen hclass, ?shape, ?multiply⟩, ?refused, mxClass_iff f.mode⟩
  case shape =>
    intro i k n hrow hroom
    simp only [List.mem_cons, Prod.mk.injEq, List.not_mem_nil, or_false] at hrow
    rcases hrow with ⟨rfl, rfl, rfl⟩ | ⟨rfl, rfl, rfl⟩ | ⟨rfl, rfl, rfl⟩
    · exact (exec_mload ..).trans (issueShape_of hf hopen ha hclass hroom _)
    · exact (exec_mdrain ..).trans (issueShape_of hf hopen ha hclass hroom _)
    · exact (exec_mdraina ..).trans (issueShape_of hf hopen ha hclass hroom _)
  case multiply =>
    intro i k t0 n ra rb w names held hrow hroom hnames hheld ca cb hca hcb hv
    obtain rfl : names = operandNames := funext hnames
    rw [hheld, hheld]
    simp only [List.mem_cons, Prod.mk.injEq, List.not_mem_nil, or_false] at hrow
    rcases hrow with ⟨rfl, rfl, rfl, rfl, rfl, rfl, rfl⟩ | ⟨rfl, rfl, rfl, rfl, rfl, rfl, rfl⟩ |
      ⟨rfl, rfl, rfl, rfl, rfl, rfl, rfl⟩
    · exact (exec_mma ..).trans (issueMma_of hf hopen hs hclass hroom hca hcb hv _)
    · exact (exec_mmaz ..).trans (issueMma_of hf hopen hs hclass hroom hca hcb hv _)
    · exact (exec_mmat ..).trans (issueMma_of hf hopen hs hclass hroom hca hcb hv _)
  case refused =>
    intro hbad i hi
    have hover : ∀ n, 1 ≤ n → mxClass f.mode = none ∨ (s.slot s.cur).tiles < t.toNat + n :=
      fun n hn => hbad.imp_right fun htiles => by omega
    have hspan : 1 ≤ 2 ^ p.toNat := Nat.one_le_two_pow
    simp only [List.mem_cons, List.not_mem_nil, or_false] at hi
    rcases hi with rfl | rfl | rfl | rfl | rfl | rfl
    · exact mzero_refused hf (hover 1 (Nat.le_refl 1))
    · exact (exec_mload ..).trans (issueShape_refused hf ha (hover 1 (Nat.le_refl 1)) _)
    · exact (exec_mdrain ..).trans (issueShape_refused hf ha (hover _ hspan) _)
    · exact (exec_mdraina ..).trans (issueShape_refused hf ha (hover _ hspan) _)
    · exact (exec_mma ..).trans (issueMma_refused hf hs (hover 1 (Nat.le_refl 1)) _)
    · exact (exec_mmaz ..).trans (issueMma_refused hf hs (hover 1 (Nat.le_refl 1)) _)

end

section
/-! SUPPORT. Matrix rows and fences (R337, R352, R353): MREAD and MWRITE on a tile that is at rest, and how MFENCE closes
the open batch. -/

namespace Sys2Proof.Machine

/-! ### Rows (R352) -/

/-- The fields of a row's selector. -/
theorem rowSelector (x : Dword) : field x 0 3 = x.toNat % 8 ∧ field x 3 5 = x.toNat / 8 % 32 ∧
    (field x 8 56 ≠ 0 ↔ 256 ≤ x) := by
  have hx := x.isLt
  have h256 : (256 : Dword).toNat = 256 := rfl
  simp only [field, BitVec.le_def]
  omega

@[simp] theorem cur_setVLanes (s : State) (loc n : Nat) (lanes : List Nat) (g : Nat → Word) :
    (s.setVLanes loc n lanes g).cur = s.cur := by
  unfold State.setVLanes State.setV
  split
  · rfl
  · split
    · rfl
    · split
      · rfl
      · rfl

section Rows
variable {s : State} {f : Fibre} {a d tile row : Nat} {float : Bool} {go : Fibre → Nat → Nat → State → Act}

/-- A row move on a tile that the open batch does not name: the selector's check, the tile's pending commands, then the
move. -/
theorem tileRow_of (hf : Issues s f) (hclass : mxClass f.mode = some float) (htile : tile = (f.s a).toNat % 8)
    (hrow : row = (f.s a).toNat / 8 % 32) (hlt : tile < (s.slot s.cur).tiles) (hs : Settled s (resS s.cur [a]))
    (hv : Settled s (resVs s.cur f (regRun d 3))) (hopen : opensTile s f tile = false) : tileRow s a d go =
      .next ((if 256 ≤ f.s a then .trap (illTrap 6) else if s.busy s.cur [.tile tile] then .stall
        else go f tile row s : Act).finish s) := by
  obtain ⟨hfield, hfieldRow, hupper⟩ := rowSelector (f.s a)
  rw [← htile] at hfield
  rw [← hrow] at hfieldRow
  rw [tileRow, runFibre_of _ hf, guardBusy_of _ hs]
  simp only [hfield, hfieldRow, hupper, issueCmd_of (span := 1) hclass (show tile + 1 ≤ _ from hlt), guardBusy_of _ hv, hopen, Bool.false_eq_true, if_false]

end Rows

/-- The elements that a row's write puts into the tiles. -/
theorem getZ_putTile_run (m : Sparse (BitVec 96)) (base : Nat) (v : Nat → Nat) (k n : Nat) :
    Sparse.getZ (putTile m ((List.range n).map fun j => (base + j, v j))) k =
      if base ≤ k ∧ k < base + n then BitVec.ofNat 96 (v (k - base)) else Sparse.getZ m k := by
  induction n with
  | zero => rw [if_neg (by omega)]; rfl
  | succ n ih =>
    rw [List.range_succ, List.map_append, putTile, List.foldl_append, ← putTile]
    refine (Sparse.get_set 0 _ (base + n) k _).trans ?_
    by_cases hk : k = base + n
    · subst hk
      rw [if_pos rfl, if_pos (by omega), Nat.add_sub_cancel_left]
    · rw [if_neg hk]
      refine ih.trans (if_congr ?_ rfl rfl)
      omega

theorem ofNat_three_words (x y z : Word) :
    BitVec.ofNat 96 (x.toNat + y.toNat * 2 ^ 32 + z.toNat * 2 ^ 64) = z ++ y ++ x := by
  apply BitVec.eq_of_toNat_eq
  have hx := x.isLt
  have hy := y.isLt
  have hz := z.isLt
  rw [BitVec.toNat_ofNat, BitVec.toNat_append, ← Nat.shiftLeft_add_eq_or_of_lt hx, Nat.shiftLeft_eq,
    BitVec.toNat_append, ← Nat.shiftLeft_add_eq_or_of_lt hy, Nat.shiftLeft_eq]
  omega

/-- The three words of a lane, as the element of a row. -/
def laneElem (s : State) (f : Fibre) (v j : Nat) : Nat :=
  (lane (s.v s.cur f v) j).toNat + (lane (s.v s.cur f (v + 1)) j).toNat * 2 ^ 32 +
    (lane (s.v s.cur f (v + 2)) j).toNat * 2 ^ 64

/-- The tiles of a slot with one row written from the lanes. -/
def writtenTile (s : State) (f : Fibre) (v tile row : Nat) : Sparse (BitVec 96) :=
  putTile (s.slot s.cur).tile ((List.range 32).map fun j => (tile * 1024 + row * 32 + j, laneElem s f v j))

theorem getZ_writtenTile (s : State) (f : Fibre) (v tile row k : Nat) :
    Sparse.getZ (writtenTile s f v tile row) k = if k / 32 = tile * 32 + row
      then lane (s.v s.cur f (v + 2)) (k % 32) ++ lane (s.v s.cur f (v + 1)) (k % 32) ++ lane (s.v s.cur f v) (k % 32)
      else Sparse.getZ (s.slot s.cur).tile k := by
  rw [writtenTile, getZ_putTile_run]
  by_cases hk : k / 32 = tile * 32 + row
  · rw [if_pos hk, if_pos (by omega), show k - (tile * 1024 + row * 32) = k % 32 by omega, laneElem, ofNat_three_words]
  · rw [if_neg hk, if_neg (by omega)]

/-- A slot that is there is changed as it stands. -/
theorem modSlot_tile (s : State) (loc : Nat) (g : Sparse (BitVec 96) → Sparse (BitVec 96)) :
    (s.modSlot loc fun sl => { sl with tile := g sl.tile }) =
      s.modSlot loc fun sl => { sl with tile := g (s.slot loc).tile } := by
  simp only [State.modSlot, Sparse.adjust, State.slot]
  cases Sparse.find s.slots (slotOf loc) with
  | none => rfl
  | some sl => rfl

section Moves
variable {s : State} {f : Fibre} {a : BitVec 6} {d : BitVec 7} {tile row : Nat} {float : Bool}
  (hf : Issues s f) (hclass : mxClass f.mode = some float) (htile : tile = (f.s a.toNat).toNat % 8)
  (hrow : row = (f.s a.toNat).toNat / 8 % 32) (hlt : tile < (s.slot s.cur).tiles)
  (hs : Settled s (resS s.cur [a.toNat])) (hv : Settled s (resVs s.cur f (regRun d.toNat 3)))
  (hopen : opensTile s f tile = false)
include hf hclass htile hrow hlt hs hv hopen

theorem mread_reads (hsel : f.s a.toNat < 256) (hrest : Settled s [.tile tile]) {w : Nat → Nat → Word}
    (hw : ∀ k j, w k j =
      BitVec.extractLsb' (32 * k) 32 (Sparse.getZ (s.slot s.cur).tile (tile * 1024 + row * 32 + j))) :
    exec (.mread a d) s = .next (((s.setVLanes s.cur d.toNat (List.range 32) (w 0)).setVLanes s.cur (d.toNat + 1)
      (List.range 32) (w 1)).setVLanes s.cur (d.toNat + 2) (List.range 32) (w 2)).retire := by
  have hrest' : s.busy s.cur [.tile tile] = false := hrest
  obtain rfl : w = fun k j => BitVec.extractLsb' (32 * k) 32
      (Sparse.getZ (s.slot s.cur).tile (tile * 1024 + row * 32 + j)) := funext fun k => funext fun j => hw k j
  rw [exec_mread, execMread, tileRow_of hf hclass htile hrow hlt hs hv hopen, if_neg (BitVec.not_le.2 hsel), hrest']
  simp only [Bool.false_eq_true, if_false, List.foldl_cons, List.foldl_nil, cur_setVLanes]
  rfl

theorem mwrite_writes (hsel : f.s a.toNat < 256) (hrest : Settled s [.tile tile]) : exec (.mwrite a d) s =
    .next (s.modSlot s.cur fun sl => { sl with tile := writtenTile s f d.toNat tile row }).retire := by
  have hrest' : s.busy s.cur [.tile tile] = false := hrest
  rw [exec_mwrite, execMwrite, tileRow_of hf hclass htile hrow hlt hs hv hopen, if_neg (BitVec.not_le.2 hsel), hrest']
  exact congrArg (fun t : State => Host.Outcome.next t.retire)
    (modSlot_tile s s.cur fun m =>
      putTile m ((List.range 32).map fun j => (tile * 1024 + row * 32 + j, laneElem s f d.toNat j)))

theorem rowMove_waits (hsel : f.s a.toNat < 256) (hbusy : s.busy s.cur [.tile tile] = true) :
    exec (.mread a d) s = .next s.stall ∧ exec (.mwrite a d) s = .next s.stall := by
  rw [exec_mread, execMread, exec_mwrite, execMwrite, tileRow_of hf hclass htile hrow hlt hs hv hopen,
    tileRow_of hf hclass htile hrow hlt hs hv hopen, if_neg (BitVec.not_le.2 hsel), if_neg (BitVec.not_le.2 hsel), hbusy]
  exact ⟨rfl, rfl⟩

theorem rowMove_refused (hsel : 256 ≤ f.s a.toNat) : exec (.mread a d) s = .next (s.takeTrap ⟨trapILL, 6, 0, 0⟩) ∧
    exec (.mwrite a d) s = .next (s.takeTrap ⟨trapILL, 6, 0, 0⟩) := by
  rw [exec_mread, execMread, exec_mwrite, execMwrite, tileRow_of hf hclass htile hrow hlt hs hv hopen,
    tileRow_of hf hclass htile hrow hlt hs hv hopen, if_pos hsel, if_pos hsel]
  exact ⟨rfl, rfl⟩

end Moves

/-! ### Closing a batch (R337) -/

theorem closeOpen_of {s : State} {f : Fibre} (hq : s.queueUse (s.cur / 32) + f.openBatch.length ≤ 16)
    (hctr : f.ctrFull ctrMX = false) (hcost : batchCost s f = none) (go : State → Act) :
    closeOpen s f go = go (s.moveBatch s.cur f) := by
  rw [closeOpen, if_neg (Nat.not_lt.2 hq), hctr, if_neg Bool.false_ne_true, hcost]

theorem closeOpen_waits {s : State} {f : Fibre}
    (h : 16 < s.queueUse (s.cur / 32) + f.openBatch.length ∨ f.ctrFull ctrMX = true) (go : State → Act) :
    closeOpen s f go = .stall := by
  rw [closeOpen]
  by_cases hq : 16 < s.queueUse (s.cur / 32) + f.openBatch.length
  · rw [if_pos hq]
  · rw [if_neg hq, if_pos (h.resolve_left hq)]

theorem addFlags_zero (f : Fibre) : f.addFlags 0 = f :=
  congrArg (fun x : Word => ({ f with fstat := x } : Fibre)) BitVec.or_zero

/-- The first batch of a fibre that had none is the one that has joined the queue. -/
theorem find_own_batch {l : List Batch} {loc : Nat} {b : Batch} (hl : ∀ x ∈ l, x.loc ≠ loc) (hb : b.loc = loc) :
    (l ++ [b]).find? (fun x => x.loc = loc) = some b := by
  have hnone : l.find? (fun x => x.loc = loc) = none := List.find?_eq_none.2 fun x hx => by simpa using hl x hx
  rw [List.find?_append, hnone, Option.none_or]
  exact List.find?_cons_of_pos (decide_eq_true hb)

theorem settleBatches_none {s : State} {loc : Nat} (h : ∀ x ∈ s.co.batches, x.loc ≠ loc) (n : Nat) :
    s.settleBatches loc n = s := by
  have hnone : s.co.batches.find? (fun x => x.loc = loc) = none := List.find?_eq_none.2 fun x hx => by simpa using h x hx
  cases n with
  | zero => rfl
  | succ n => simp only [State.settleBatches, hnone]

/-! ### The commands of the closed batch (R336, R337) -/

theorem mxCmd_modCmd_find (s : State) (id n : Nat) (g : MxCmd → MxCmd) : (s.modCmd id g).mxCmd n =
    (s.mxCmd n).map fun p => if n = id then ({ p.1 with body := .matrix (g p.2) }, g p.2) else p := by
  by_cases h : n = id
  · subst h
    cases hc : s.mxCmd n with
    | some p => rw [mxCmd_modCmd hc, Option.map_some, if_pos rfl]
    | none =>
      simp only [State.mxCmd, State.modCmd, State.modOp, Sparse.find_adjust, if_pos, Option.map_none] at hc ⊢
      cases ho : Sparse.find s.eng.ops n with
      | none => rfl
      | some o =>
        rw [ho] at hc
        rw [Option.map_some]
        cases hb : o.body
        case matrix => simp only [hb, reduceCtorEq] at hc
        all_goals simp only [hb]
  · simp only [State.mxCmd, State.modCmd, State.modOp, Sparse.find_adjust, if_neg h]
    exact Option.map_id'.symm

/-- A command once it is queued. -/
def queuedCmd (p : Op × MxCmd) : Op × MxCmd :=
  ({ p.1 with body := .matrix { p.2 with phase := .queued } }, { p.2 with phase := .queued })

theorem mxCmd_queued (l : List Nat) (s : State) (n : Nat) :
    (l.foldl (fun acc k => acc.modCmd k fun c => { c with phase := .queued }) s).mxCmd n =
      (s.mxCmd n).map fun p => if n ∈ l then queuedCmd p else p := by
  induction l generalizing s with
  | nil => exact Option.map_id'.symm
  | cons k l ih =>
    rw [List.foldl_cons, ih, mxCmd_modCmd_find, Option.map_map]
    refine congrArg (fun g => Option.map g (s.mxCmd n)) (funext fun p => ?_)
    by_cases hk : n = k <;> by_cases hl : n ∈ l <;> simp [hk, hl, queuedCmd]

theorem mxCmd_queuedOps (s : State) (f : Fibre) (n : Nat) (c : MxCmd) :
    (∃ o, (queuedOps s f).mxCmd n = some (o, c)) ↔ ∃ o c0, s.mxCmd n = some (o, c0) ∧
      c = if n ∈ f.openBatch then { c0 with phase := .queued } else c0 := by
  rw [queuedOps, mxCmd_queued]
  constructor
  · rintro ⟨o, ho⟩
    obtain ⟨p, hp, heq⟩ := Option.map_eq_some_iff.1 ho
    refine ⟨p.1, p.2, hp, ?_⟩
    split
    · next hn => rw [if_pos hn] at heq; exact (congrArg Prod.snd heq).symm
    · next hn => rw [if_neg hn] at heq; exact (congrArg Prod.snd heq).symm
  · rintro ⟨o, c0, ho, rfl⟩
    rw [ho, Option.map_some]
    split
    · exact ⟨_, rfl⟩
    · exact ⟨_, rfl⟩

/-- Queuing the commands leaves everything but the operations. -/
theorem queuedOps_keeps {α : Type} {obs : State → α}
    (h : ∀ s n, obs (s.modCmd n fun c => { c with phase := .queued }) = obs s) (s : State) (f : Fibre) :
    obs (queuedOps s f) = obs s := foldl_keeps h f.openBatch s

/-! ### The batch moves to the queue (R337) -/

/-- The batch that the open one becomes; an empty one is not counted. -/
def joinedBatch (s : State) (f : Fibre) : Batch :=
  ⟨s.cur, f.nextBatch, s.cur / 32, f.openBatch, 0, !f.openBatch.isEmpty⟩

/-- The fibre once its batch is closed. -/
def closedFibre (f : Fibre) : Fibre :=
  if f.openBatch.isEmpty then { f with openBatch := [], nextBatch := f.nextBatch + 1 }
  else Fibre.raiseCtr { f with openBatch := [], nextBatch := f.nextBatch + 1 } ctrMX

/-- The state with the batch in the queue, before the queue is settled. -/
def joined (s : State) (f : Fibre) : State :=
  { (queuedOps s f).setFibre s.cur (closedFibre f) with
    co := { s.co with batches := s.co.batches ++ [joinedBatch s f] } }

theorem moveBatch_eq {s : State} {f : Fibre} (hf : Issues s f) :
    s.moveBatch s.cur f = (joined s f).settleBatches s.cur (s.co.batches ++ [joinedBatch s f]).length := by
  have hfib : (queuedOps s f).fibre s.cur = some f := Eq.trans (queuedOps_keeps (obs := fun t => t.fibre s.cur)
    (fun _ _ => rfl) s f) hf
  have hco : (queuedOps s f).co = s.co := queuedOps_keeps (fun _ _ => rfl) s f
  have hclosed : (if (joinedBatch s f).counted
      then Fibre.raiseCtr { f with openBatch := [], nextBatch := f.nextBatch + 1 } ctrMX
      else { f with openBatch := [], nextBatch := f.nextBatch + 1 }) = closedFibre f := by
    rw [joinedBatch, closedFibre]
    cases f.openBatch.isEmpty
    · rfl
    · rfl
  have hmod := (modFibre_of_fibre (fun g => if (joinedBatch s f).counted
    then Fibre.raiseCtr { g with openBatch := [], nextBatch := g.nextBatch + 1 } ctrMX
    else { g with openBatch := [], nextBatch := g.nextBatch + 1 }) hfib).trans
    (congrArg (State.setFibre _ s.cur) hclosed)
  rw [joined, ← hmod, ← hco]
  rfl

theorem endBatch_empty {s : State} {g : Fibre} {b : Batch} (hops : b.ops = []) (hctr : b.counted = false)
    (hg : s.fibre b.loc = some g) :
    s.endBatch b = { s with co := { s.co with batches := s.co.batches.erase b } }.setFibre b.loc g := by
  have hg' : ({ s with co := { s.co with batches := s.co.batches.erase b } } : State).fibre b.loc = some g := hg
  rw [State.endBatch, hops, hctr]
  exact (modFibre_of_fibre _ hg').trans (congrArg (State.setFibre _ b.loc) (addFlags_zero g))

section Move
variable {s : State} {f : Fibre} (hf : Issues s f) (hnone : ∀ x ∈ s.co.batches, x.loc ≠ s.cur)
include hf hnone

/-- The empty batch completes as it is closed: the number is taken, and the queue is as it was. -/
theorem moveBatch_empty (hopen : f.openBatch = []) :
    s.moveBatch s.cur f = s.setFibre s.cur { f with nextBatch := f.nextBatch + 1 } := by
  have hfind : (joined s f).co.batches.find? (fun b => b.loc = s.cur) = some (joinedBatch s f) :=
    find_own_batch hnone rfl
  have hops : (joinedBatch s f).ops = [] := hopen
  have hctr : (joinedBatch s f).counted = false := by rw [joinedBatch, hopen]; rfl
  have herase : (s.co.batches ++ [joinedBatch s f]).erase (joinedBatch s f) = s.co.batches := by
    rw [List.erase_append_right _ fun h => hnone _ h rfl, List.erase_cons_head, List.append_nil]
  have hfib : (joined s f).fibre (joinedBatch s f).loc = some (closedFibre f) :=
    (fibre_setFibre (queuedOps s f) s.cur s.cur _).trans (if_pos rfl)
  have hend : (joined s f).endBatch (joinedBatch s f) = s.setFibre s.cur { f with nextBatch := f.nextBatch + 1 } := by
    have hfib' : closedFibre f = { f with nextBatch := f.nextBatch + 1 } := by rw [closedFibre, hopen]; rfl
    have hq : queuedOps s f = s := by rw [queuedOps, hopen]; rfl
    rw [endBatch_empty hops hctr hfib, hfib']
    simp only [joined, herase, hq, hfib']
    exact setFibre_setFibre s s.cur _ _
  rw [moveBatch_eq hf, List.length_append, List.length_singleton]
  simp only [State.settleBatches, hfind, hops, List.all_nil, if_true, hend]
  exact settleBatches_none (s := s.setFibre s.cur _) hnone _

/-- A batch with commands stays in the queue, and they are queued. -/
theorem moveBatch_queues (hopen : f.openBatch ≠ []) (hcmds : ∀ n ∈ f.openBatch, (s.mxCmd n).isSome) :
    s.moveBatch s.cur f = (closed s f).setFibre s.cur
      (Fibre.raiseCtr { f with openBatch := [], nextBatch := f.nextBatch + 1 } ctrMX) := by
  have hempty : f.openBatch.isEmpty = false := by simpa using hopen
  have hfind : (joined s f).co.batches.find? (fun b => b.loc = s.cur) = some (joinedBatch s f) :=
    find_own_batch hnone rfl
  have hall : (joinedBatch s f).ops.all (joined s f).cmdDone = false := by
    obtain ⟨n, hn⟩ := List.exists_mem_of_ne_nil _ hopen
    obtain ⟨⟨o, c⟩, hc⟩ := Option.isSome_iff_exists.1 (hcmds n hn)
    have hq : (joined s f).mxCmd n = some (queuedCmd (o, c)) := by
      refine (mxCmd_queued f.openBatch s n).trans ?_
      rw [hc, Option.map_some, if_pos hn]
    refine List.all_eq_false.2 ⟨n, hn, ?_⟩
    rw [cmdDone_of_mxCmd hq]
    exact Bool.false_ne_true
  rw [moveBatch_eq hf, settleBatches_unfinished hfind hall]
  simp only [joined, closedFibre, joinedBatch, hempty, Bool.false_eq_true, if_false, Bool.not_false]
  rfl

end Move

/-! ### MFENCE and MWAIT (R337, R353) -/

section Fences
variable {a : BitVec 6} {s : State} {f : Fibre} (hf : Issues s f) (hset : Settled s (resS s.cur [a.toNat]))
include hf hset

/-- MFENCE closes the batch; then s[SA] receives the number. -/
theorem mfence_of : exec (.mfence a) s = .next ((closeOpen s f fun t =>
    .done (t.putS a.toNat (BitVec.ofNat 64 f.nextBatch))).finish s) := by
  rw [exec_mfence, execMfence, runFibre_of _ hf, guardBusy_of _ hset]

theorem mwait_of : exec (.mwait a) s = .next ((if f.nextBatch ≤ (f.s a.toNat).toNat then .trap (illTrap 6)
    else if s.co.batches.any fun b => b.loc == s.cur && decide (b.num ≤ (f.s a.toNat).toNat) then .stall
    else .done s : Act).finish s) := by
  rw [exec_mwait, execMwait, runFibre_of _ hf, guardBusy_of _ hset]

section Closes
variable (hq : s.queueUse (s.cur / 32) + f.openBatch.length ≤ 16) (hctr : f.ctrFull ctrMX = false)
  (hcost : batchCost s f = none) (hnone : ∀ x ∈ s.co.batches, x.loc ≠ s.cur)
include hq hctr hcost hnone

theorem mfence_empty (hopen : f.openBatch = []) : exec (.mfence a) s =
    became s (Fibre.setS { f with nextBatch := f.nextBatch + 1 } a.toNat (BitVec.ofNat 64 f.nextBatch)) := by
  rw [mfence_of hf hset, closeOpen_of hq hctr hcost, moveBatch_empty hf hnone hopen, State.putS, setFibre_cur,
    modFibre_setFibre]
  rfl

theorem mfence_queues (hopen : f.openBatch ≠ []) (hcmds : ∀ n ∈ f.openBatch, (s.mxCmd n).isSome) :
    exec (.mfence a) s = became (closed s f) ((Fibre.raiseCtr
      { f with openBatch := [], nextBatch := f.nextBatch + 1 } ctrMX).setS a.toNat (BitVec.ofNat 64 f.nextBatch)) := by
  have hcur : (closed s f).cur = s.cur := queuedOps_keeps (obs := State.cur) (fun _ _ => rfl) s f
  rw [mfence_of hf hset, closeOpen_of hq hctr hcost, moveBatch_queues hf hnone hopen hcmds, State.putS, setFibre_cur,
    hcur, modFibre_setFibre, became, hcur]
  rfl

end Closes

theorem mfence_waits (h : 16 < s.queueUse (s.cur / 32) + f.openBatch.length ∨ f.ctrFull ctrMX = true) :
    exec (.mfence a) s = .next s.stall := by
  rw [mfence_of hf hset, closeOpen_waits h]
  rfl

theorem mwait_refused (h : f.nextBatch ≤ (f.s a.toNat).toNat) :
    exec (.mwait a) s = .next (s.takeTrap ⟨trapILL, 6, 0, 0⟩) := by
  rw [mwait_of hf hset, if_pos h]
  rfl

theorem mwait_waits (h : (f.s a.toNat).toNat < f.nextBatch) : exec (.mwait a) s =
    .next (if ∃ b ∈ s.co.batches, b.loc = s.cur ∧ b.num ≤ (f.s a.toNat).toNat then s.stall else s.retire) := by
  rw [mwait_of hf hset, if_neg (Nat.not_le.2 h)]
  refine congrArg Host.Outcome.next ((apply_ite (Act.finish s) _ _ _).trans (if_congr ?_ rfl rfl))
  simp only [List.any_eq_true, Bool.and_eq_true, beq_iff_eq, decide_eq_true_eq]

end Fences

end Sys2Proof.Machine

open Sys2Proof Sys2Proof.Machine

/-- Settles O30: the row moves of `tileRow_of`, the element of three words of `getZ_writtenTile`, the batch that
`moveBatch_eq` puts into the queue, which an empty one leaves at once, and the wait of `mwait_waits`. -/
theorem matrixRows : Obligations.MatrixRows := by
  refine ⟨?rows, ?fences⟩
  case rows =>
    intro a d s f float tile row hf hclass htile hrow hlt hs hv hopen
    exact ⟨fun hsel hrest => ⟨fun w hw => mread_reads hf hclass htile hrow hlt hs hv hopen hsel hrest hw,
        writtenTile s f d.toNat tile row, mwrite_writes hf hclass htile hrow hlt hs hv hopen hsel hrest,
        getZ_writtenTile s f d.toNat tile row⟩,
      rowMove_waits hf hclass htile hrow hlt hs hv hopen, rowMove_refused hf hclass htile hrow hlt hs hv hopen⟩
  case fences =>
    rintro a s f num hf hset rfl
    exact ⟨fun hq hctr hcost hnone => ⟨mfence_empty hf hset hq hctr hcost hnone, fun hopen hcmds =>
        ⟨mfence_queues hf hset hq hctr hcost hnone hopen hcmds, mxCmd_queuedOps s f⟩⟩,
      mfence_waits hf hset, mwait_refused hf hset, mwait_waits hf hset⟩
end

section
/-! SUPPORT. Censuses (R405, R409 to R414): which entries match, how a sweep pins them, and how a census goes from its
broadcast to CREAD. -/

namespace Sys2Proof.Machine

/-! ### Matching (R405) -/

theorem meets_iff (x : DirEnt) (c : Census) : x.meets c = true ↔ x.asid = c.asid ∧
    (x.key ^^^ c.key) &&& c.mask = 0 ∧ x.remove = false ∧ (x.st = .resident ∨ x.st = .moving) := by
  have hst : (x.st != .inbound) = true ↔ x.st = .resident ∨ x.st = .moving := by cases x.st <;> decide
  simp only [DirEnt.meets, Bool.and_eq_true, hst, beq_iff_eq, Bool.not_eq_true', and_assoc]

theorem mem_matching (s : State) (c : Census) (core e : Nat) (x : DirEnt) : (e, x) ∈ s.matching c core ↔
    (e, x) ∈ s.co.dirs ∧ e / 512 = core ∧ x.meets c = true :=
  List.mem_filter.trans (and_congr_right fun _ => decide_eq_true_iff)

/-! ### The pins of a sweep (R404, R405, R410) -/

/-- An entry with one pin more. -/
def DirEnt.pinned (x : DirEnt) : DirEnt := { x with pins := x.pins + 1 }

/-- An entry that a list names with one content only is pinned once; one that it does not name is as it was. -/
theorem dirEnt_pin {e : Nat} {x : DirEnt} (ms : List (Nat × DirEnt)) (s : State) (h : ∀ y, (e, y) ∈ ms → y = x) :
    (ms.foldl (fun acc m => acc.putDir m.1 m.2.pinned) s).dirEnt e =
      if (e, x) ∈ ms then some x.pinned else s.dirEnt e := by
  induction ms generalizing s with
  | nil => exact (if_neg (List.not_mem_nil)).symm
  | cons m ms ih =>
    obtain ⟨k, y⟩ := m
    rw [List.foldl_cons, ih _ fun y hy => h y (List.mem_cons_of_mem _ hy), dirEnt_putDir]
    by_cases hk : e = k
    · subst hk
      obtain rfl := h y List.mem_cons_self
      simp
    · simp [hk]

theorem directories_discard (s : State) (rgn : Nat) (r : ContRec) : (s.discard rgn r).directories = s.directories :=
  (directories_settleOwed _ _ _ _).trans (directories_modRcb _ _ _)

theorem directories_emit (s : State) (core rgn : Nat) (after : List Nat) (op : Option Op) (recs : List ContRec) :
    (s.emit core rgn after op recs).directories = s.directories := by
  unfold State.emit
  extract_lets ok kept s1 s2
  have h1 : s1.directories = s.directories :=
    foldl_keeps (obs := State.directories) (fun acc r => directories_discard acc rgn r) _ s
  have h2 : s2.directories = s1.directories := foldl_keeps (obs := State.directories)
    (step := fun acc r => acc.recordUp rgn (recEntry r.bytes) false) (fun acc r => rfl) kept s1
  split
  · exact h2.trans h1
  · exact h2.trans h1

/-- A core's part of a sweep changes the directories by its pins alone. -/
theorem directories_sweepCore (s : State) (c : Census) (serial core lost : Nat) (ms : List (Nat × DirEnt)) :
    (s.sweepCore c serial core ms lost).directories =
      (ms.foldl (fun acc m => acc.putDir m.1 m.2.pinned) s).directories := by
  unfold State.sweepCore
  extract_lets s1 s2 recs
  refine (foldl_keeps (obs := State.directories) (fun acc r => directories_discard acc c.region r) _ _).trans ?_
  exact foldl_keeps (obs := State.directories) (step := fun acc r => acc.emit core c.region [] none [r])
    (fun acc r => directories_emit acc core c.region [] none [r]) _ s2

section Sweep
variable {s : State} {c : Census} {core serial : Nat} {msg : RootMsg} (hmsg : s.nextMsg core = some msg)
  (hcen : s.co.censuses.find? (fun k => k.serial = some serial) = some c)
include hmsg hcen

/-- A sweep that is the next of the root's messages, with reply slots and with room for all its records in the teller. -/
theorem censusSweep_sweeps (his : msg.census = some c.id)
    (hslots : s.replySlots core + (s.matching c core).length ≤ replyStore)
    (hteller : s.tellerHolds core + s.tellerComing core + (s.matching c core).length ≤ tellerSize)
    (hroom : s.tellerRoom core c.region (field c.ctl 0 48) (s.matching c core).length = true) :
    exec (.censusSweep serial core) s = .next (((s.received msg (core * 2)).sweepCore c serial core
      (s.matching c core) 0).modOp c.id fun o => { o with err := false }) := by
  have hspill : s.sweepSpills core (s.matching c core).length = 0 := by rw [State.sweepSpills]; omega
  have htrouble : s.sweepTrouble c core (s.matching c core).length = none := by
    rw [State.sweepTrouble, if_pos hspill]
  rw [exec_censusSweep, execCensusSweep]
  simp only [hmsg, hcen, his, hroom, htrouble, ne_eq, not_true_eq_false, Nat.not_lt.2 hslots, if_false, Bool.not_true,
    Bool.false_eq_true]

/-- A sweep waits for its place in the root's order, and for reply slots. -/
theorem censusSweep_held (h : msg.census ≠ some c.id ∨ replyStore < s.replySlots core + (s.matching c core).length) :
    exec (.censusSweep serial core) s = .next s := by
  rw [exec_censusSweep, execCensusSweep]
  simp only [hmsg, hcen]
  by_cases his : msg.census = some c.id
  · rw [if_neg (not_not.2 his), if_pos (h.resolve_left (not_not.2 his))]
  · rw [if_pos his]

end Sweep

/-- The directories behind a sweep. -/
theorem dirEnt_swept (s : State) (c : Census) (core serial e : Nat) (msg : RootMsg) {x : DirEnt}
    (h : ∀ y, (e, y) ∈ s.matching c core → y = x) :
    (((s.received msg (core * 2)).sweepCore c serial core (s.matching c core) 0).modOp c.id
      fun o => { o with err := false }).dirEnt e =
      if (e, x) ∈ s.matching c core then some x.pinned else s.dirEnt e :=
  (congrArg (fun d => Sparse.find d e) (directories_sweepCore (s.received msg (core * 2)) c serial core 0 _)).trans
    (dirEnt_pin _ _ h)

/-! ### The broadcast (R408, R409) -/

section Broadcast
variable {s : State} {id : Nat} {c : Census} (hc : s.census id = some c) (hserial : c.serial = none)
include hc hserial

theorem censusBroadcast_waits (h : ∃ o ∈ c.after, s.opLive o = true) : exec (.censusBroadcast id) s = .next s := by
  rw [exec_censusBroadcast, execCensusBroadcast, hc]
  simp only [hserial, Option.isSome_none, Bool.false_or, List.any_eq_true.2 h, if_true]

theorem censusBroadcast_sends (h : ∀ o ∈ c.after, s.opLive o = false) : ∃ t : State,
    exec (.censusBroadcast id) s = .next t ∧
    t.co.root = s.co.root ++ [⟨some id, none, (List.range Config.cores).map (· * 2)⟩] ∧
    t.co.serial = (s.co.serial + 1) % 2 ^ 32 ∧ t.fibres = s.fibres ∧ t.groups = s.groups := by
  have hany : c.after.any s.opLive = false := List.any_eq_false.2 fun o ho => by rw [h o ho]; exact Bool.false_ne_true
  rw [exec_censusBroadcast, execCensusBroadcast, hc]
  simp only [hserial, Option.isSome_none, hany, Bool.or_self, Bool.false_eq_true, if_false]
  exact ⟨_, rfl, rfl, rfl, rfl, rfl⟩

end Broadcast

/-! ### Completion (R413) -/

section Complete
variable {s : State} {serial : Nat} {c : Census}
  (hc : s.co.censuses.find? (fun k => k.serial = some serial ∧ k.value = none) = some c)
include hc

theorem censusComplete_waits (h : c.swept.length < Config.cores ∨ ∃ x ∈ c.slots, x.val = none) :
    exec (.censusComplete serial) s = .next s := by
  have hopen : (decide (c.swept.length < Config.cores) || c.slots.any fun x => x.val.isNone) = true := by
    simpa only [Bool.or_eq_true, decide_eq_true_eq, List.any_eq_true, Option.isNone_iff_eq_none] using h
  rw [exec_censusComplete, execCensusComplete, hc]
  exact if_pos hopen

theorem censusComplete_completes (hswept : Config.cores ≤ c.swept.length) (hslots : ∀ x ∈ c.slots, x.val ≠ none) {t : State}
    (ht : t = (c.slots.foldl (fun acc x => acc.unpin x.ent) s).endOp c.id) (hgroup : t.groupKnown c.group = true) :
    exec (.censusComplete serial) s =
      .next (t.modCensus c.id fun c => { c with value := some (c.combined, c.slots.length) }) := by
  have hany : (c.slots.any fun x => x.val.isNone) = false :=
    List.any_eq_false.2 fun x hx hv => hslots x hx (Option.isNone_iff_eq_none.1 hv)
  subst ht
  rw [exec_censusComplete, execCensusComplete, hc]
  simp only [decide_eq_false (Nat.not_lt.2 hswept), hany, Bool.or_self, Bool.false_eq_true, if_false, hgroup, if_true]

end Complete

/-! ### CWAIT and CREAD (R414) -/

section Reads
variable {s : State} {f : Fibre} {g : Group} {a n : BitVec 6} (hf : Issues s f) (hset : Settled s (resS s.cur [a.toNat]))
  (hg : Sparse.find s.groups f.group = some g)
include hf hset hg

/-- The instructions that read a census: the handle's state decides. -/
theorem withCensus_of (body : Group → Census → Nat → Nat → State → Act) : withCensus s a n body =
    .next ((match (Sparse.find g.cens n.toNat).bind fun id => s.census id with
      | none => .trap (illTrap 6)
      | some c =>
        match c.value with
        | none => .stall
        | some (v, k) => body g c v k (s.startAcquire (coreOf s.cur) c.cores) : Act).finish s) := by
  rw [withCensus, scalarOp_of _ hf hset, withGroup_of_find hg] <;> rfl

theorem readCensus_free (h : Sparse.find g.cens n.toNat = none) :
    ∀ i ∈ [Instr.cwait a n, .cread a n], exec i s = .next (s.takeTrap ⟨trapILL, 6, 0, 0⟩) := by
  intro i hi
  simp only [List.mem_cons, List.not_mem_nil, or_false] at hi
  rcases hi with rfl | rfl
  · rw [exec_cwait, execCwait, withCensus_of hf hset hg, h]
    rfl
  · rw [exec_cread, execCread, withCensus_of hf hset hg, h]
    rfl

section Busy
variable {id : Nat} {c : Census} (hid : Sparse.find g.cens n.toNat = some id) (hc : s.census id = some c)
include hid hc

theorem withCensus_busy (body : Group → Census → Nat → Nat → State → Act) : withCensus s a n body =
    .next ((match c.value with
      | none => .stall
      | some (v, k) => body g c v k (s.startAcquire (coreOf s.cur) c.cores) : Act).finish s) := by
  rw [withCensus_of hf hset hg, hid, Option.bind_some, hc]

theorem readCensus_waits (h : c.value = none) : ∀ i ∈ [Instr.cwait a n, .cread a n], exec i s = .next s.stall := by
  intro i hi
  simp only [List.mem_cons, List.not_mem_nil, or_false] at hi
  rcases hi with rfl | rfl
  · rw [exec_cwait, execCwait, withCensus_busy hf hset hg hid hc, h]
    rfl
  · rw [exec_cread, execCread, withCensus_busy hf hset hg hid hc, h]
    rfl

theorem cwait_counts {v k : Nat} (h : c.value = some (v, k)) : exec (.cwait a n) s =
    .next ((s.startAcquire (coreOf s.cur) c.cores).putS a.toNat (BitVec.ofNat 64
      (k + (if c.noreply then 2 ^ 32 else 0) + (if c.lost then 2 ^ 33 else 0)))).retire := by
  rw [exec_cwait, execCwait, withCensus_busy hf hset hg hid hc, h]
  rfl

/-- The state behind CREAD: the value is there, the handle FREE, and the census gone. -/
def creadDone (s : State) (a n : BitVec 6) (c : Census) (v : Nat) : State :=
  let t := ((s.startAcquire (coreOf s.cur) c.cores).putS a.toNat (BitVec.ofNat 64 v)).modGroup c.group fun g =>
    { g with cens := Sparse.erase g.cens n.toNat }
  { t with co := { t.co with censuses := t.co.censuses.filter fun x => x.id ≠ c.id } }

theorem cread_reads {v k : Nat} (h : c.value = some (v, k)) : exec (.cread a n) s = .next (creadDone s a n c v).retire := by
  rw [exec_cread, execCread, withCensus_busy hf hset hg hid hc, h]
  rfl

end Busy

omit hset hg in
theorem fibre_creadDone (c : Census) (v : Nat) :
    (creadDone s a n c v).fibre s.cur = some (f.setS a.toNat (BitVec.ofNat 64 v)) :=
  (fibre_modFibre (s.startAcquire (coreOf s.cur) c.cores) s.cur s.cur _).trans
    ((if_pos rfl).trans (congrArg (Option.map _) hf))

omit hf hset in
theorem groups_creadDone {c : Census} (h : c.group = f.group) (v : Nat) :
    Sparse.find (creadDone s a n c v).groups f.group = some { g with cens := Sparse.erase g.cens n.toNat } := by
  refine (Sparse.find_adjust s.groups c.group f.group _).trans ?_
  rw [if_pos h.symm, h, hg]
  rfl

end Reads

end Sys2Proof.Machine

open Sys2Proof Sys2Proof.Machine

/-- Settles O43: the conditions are `meets_iff`, and the sweep changes the directories by `dirEnt_pin` alone. -/
theorem censusMatch : Obligations.CensusMatch := by
  intro s c core serial
  refine ⟨fun e x => by rw [mem_matching, meets_iff], fun msg hmsg his hcen hslots hteller hroom =>
    ⟨_, censusSweep_sweeps hmsg hcen his hslots hteller hroom, fun e x hx => ?pinned, fun e hno => ?other⟩⟩
  case pinned =>
    rw [dirEnt_swept s c core serial e msg fun y => (hx y).1, if_pos ((hx x).2 rfl)]
    rfl
  case other =>
    rw [dirEnt_swept s c core serial e msg (x := ⟨0, 0, 0, 0, false, .resident⟩) fun y hy => absurd hy (hno y),
      if_neg (hno _)]

/-- Settles O44: the steps of a census in the order of their sections, and CWAIT and CREAD by `withCensus_of`. -/
theorem censuses : Obligations.Censuses := by
  refine ⟨fun s id c hc hserial => ⟨censusBroadcast_waits hc hserial, censusBroadcast_sends hc hserial⟩,
    fun s core serial msg c hmsg hcen h => censusSweep_held hmsg hcen h,
    fun s serial c hc => ⟨censusComplete_waits hc,
      fun hswept hslots t ht hgroup => censusComplete_completes hc hswept hslots ht hgroup⟩,
    fun a n s f g hf hset hg => ⟨readCensus_free hf hset hg, fun id c hid hc =>
      ⟨readCensus_waits hf hset hg hid hc, fun v k hv => ⟨cwait_counts hf hset hg hid hc hv, ?read⟩⟩⟩⟩
  case read =>
    exact ⟨creadDone s a n c v, cread_reads hf hset hg hid hc hv, fibre_creadDone hf c v, rfl,
      fun hgroup => groups_creadDone hg hgroup v⟩
end

section
/-! SUPPORT. Work requests: LAUNCH, HCALL, ENQ, REPLY and SOLICIT, each by the branches that its operands and its room
choose (R401, R402, R409, R412, R416). -/

namespace Sys2Proof.Machine

section Scalars
variable {s : State} {f : Fibre} {a b n : BitVec 6} (hf : Issues s f)
include hf

/-! ### LAUNCH and HCALL (R402, R416) -/

section Launch
variable (hset : Settled s (resS s.cur [a.toNat, b.toNat]))
include hset

theorem launch_refused (h : (f.s a.toNat).toNat % 256 ≠ 0) :
    exec (.launch a b) s = .next (s.takeTrap ⟨trapILL, 6, 0, 0⟩) := by
  rw [exec_launch, execLaunch, scalarOp_of _ hf hset, if_pos h]
  rfl

theorem launch_issues (h : (f.s a.toNat).toNat % 256 = 0) (hroom : s.sched.launches.length + s.launching < 1024) :
    exec (.launch a b) s =
      .next ((s.newOp f 1 f.active (f.s a.toNat) 0 none (.launch (f.s a.toNat) (.s (fidOf s.cur) b.toNat))).2.addPend
        s.cur s.fresh [.s (fidOf s.cur) b.toNat]).retire := by
  rw [exec_launch, execLaunch, scalarOp_of _ hf hset, if_neg (not_not.2 h)]
  exact congrArg (fun act => Host.Outcome.next (Act.finish s act)) (if_neg (Nat.not_le.2 hroom))

end Launch

section Hcall
variable (hset : Settled s (resS s.cur [a.toNat]))
include hset

theorem hcall_refused (h : (f.s a.toNat).toNat % 64 ≠ 0) :
    exec (.hcall a) s = .next (s.takeTrap ⟨trapILL, 6, 0, 0⟩) := by
  rw [exec_hcall, execHcall, scalarOp_of _ hf hset, if_pos h]
  rfl

theorem hcall_issues (h : (f.s a.toNat).toNat % 64 = 0) : exec (.hcall a) s =
    .next (if 1024 ≤ s.io.hcWait.length ∨ f.ctrFull ctrST = true then s.stall
      else (s.newOp f 1 f.active (f.s a.toNat) 0 (some ctrST) (.hcall (f.s a.toNat))).2.retire) := by
  rw [exec_hcall, execHcall, scalarOp_of _ hf hset, if_neg (not_not.2 h)]
  exact congrArg Host.Outcome.next (apply_ite (Act.finish s) _ _ _)

end Hcall

/-! ### ENQ (R222, R223, R401) -/

section Enq
variable (hset : Settled s (resS s.cur ((List.range 8).map fun i => a.toNat + i))) {r : List Byte} {queue : Nat}
  (hr : r = enqRecord f a.toNat) (hqueue : queue = leNat ((r.drop 12).take 1))
include hset hr

theorem enq_malformed (h : recGroup r = false ∨ recReserved r ≠ 0 ∨ recEntry r % 4 ≠ 0) :
    exec (.enq a) s = .next (s.takeTrap ⟨trapILL, 6, 0, 0⟩) := by
  subst hr
  rw [exec_enq, execEnq, scalarOp_of _ hf hset]
  exact congrArg (fun act => Host.Outcome.next (Act.finish s act)) (if_pos (h.imp_left fun hg => by rw [hg]; rfl))

section WellFormed
variable (hgroup : recGroup r = true) (hres : recReserved r = 0) (hent : recEntry r % 4 = 0)
include hgroup hres hent

theorem enq_unlisted (hq : s.qtabOf f.region = none) : exec (.enq a) s = .next (s.takeTrap ⟨trapTASKQ, 0, 0, 0⟩) := by
  subst hr
  rw [exec_enq, execEnq, scalarOp_of _ hf hset]
  simp only [hgroup, hres, hent, hq, Bool.not_true, Bool.false_eq_true, ne_eq, not_true_eq_false, or_self, if_false]
  rfl

section Queue
variable {qtab : Nat} {d : QDesc} (hq : s.qtabOf f.region = some qtab) (hd : d = s.qdesc (qtab + 64 * queue) (coreOf s.cur))
  (habsent : s.absent [qtab + 64 * queue] = []) (hheld : s.heldAt [(qtab + 64 * queue, 64)] = [])
include hqueue hq hd habsent hheld

theorem enq_invalid (hv : d.valid = false) : exec (.enq a) s = .next (s.takeTrap ⟨trapTASKQ, 0, 0, 0⟩) := by
  subst hr hqueue hd
  rw [exec_enq, execEnq, scalarOp_of _ hf hset]
  simp only [hgroup, hres, hent, hq, habsent, hheld, hv, Bool.not_true, Bool.not_false, Bool.false_eq_true, ne_eq,
    not_true_eq_false, or_self, if_false, if_true]
  rfl

/-- A queue whose control words are at hand takes the record, if it has room. -/
theorem enq_issues (hv : d.valid = true) (habsentCtl : s.absent [d.head, d.tail] = [])
    (hheldCtl : s.heldAt [(d.head, 16)] = []) {used : Nat}
    (hused : used = physNat s d.tail 8 - physNat s d.head 8 + s.enqueuing (coreOf s.cur) f.region queue) :
    exec (.enq a) s = .next (if d.size ≤ used ∨ f.ctrFull ctrST = true then s.stall
      else ((s.recordUp f.region (recEntry r) true).newOp f 1 f.active (f.s a.toNat) 0 (some ctrST)
        (.enq queue r)).2.retire) := by
  subst hr hqueue hd hused
  rw [exec_enq, execEnq, scalarOp_of _ hf hset]
  simp only [hgroup, hres, hent, hq, habsent, hheld, hv, habsentCtl, hheldCtl, Bool.not_true, Bool.false_eq_true, ne_eq,
    not_true_eq_false, or_self, if_false]
  exact congrArg Host.Outcome.next (apply_ite (Act.finish s) _ _ _)

end Queue
end WellFormed
end Enq

/-! ### SOLICIT (R409) -/

section Solicit
variable {g : Group} (hset : Settled s (resS s.cur ((List.range 4).map fun i => a.toNat + i)))
  (hg : Sparse.find s.groups f.group = some g)
include hset hg

theorem solicit_refused (h : solicitBad (f.s (a.toNat + 2)) = true ∨ (Sparse.find g.cens n.toNat).isSome = true) :
    exec (.solicit a n) s = .next (s.takeTrap ⟨trapILL, 6, 0, 0⟩) := by
  rw [exec_solicit, execSolicit, scalarOp_of _ hf hset, withGroup_of_find hg]
  exact congrArg (fun act => Host.Outcome.next (Act.finish s act)) (if_pos h)

section Free
variable (hbad : solicitBad (f.s (a.toNat + 2)) = false) (hfree : Sparse.find g.cens n.toNat = none)
include hbad hfree

theorem solicit_waits (h : 4096 ≤ (s.co.censuses.filter fun c => c.value.isNone).length ∨ f.ctrFull ctrSC = true) :
    exec (.solicit a n) s = .next s.stall := by
  rw [exec_solicit, execSolicit, scalarOp_of _ hf hset, withGroup_of_find hg]
  simp only [hbad, hfree, rootSize, h, Option.isSome_none, Bool.false_eq_true, or_self, if_false, if_true]
  rfl

/-- The census that a SOLICIT gives to the root. -/
def solicited (s : State) (f : Fibre) (a n : Nat) : Census :=
  ⟨s.fresh, s.cur, f.group, n, f.region, f.asid, f.s a, f.s (a + 1), f.s (a + 2), f.s (a + 3), s.lsuOps s.cur, none, [],
    [], false, false, none⟩

/-- The state behind a SOLICIT, before the fibre goes on. -/
def solicitDone (s : State) (f : Fibre) (a n : Nat) : State :=
  let t := (s.newOp f 7 f.active (f.s a) (f.s (a + 1)) (some ctrSC) (.solicit n)).2.modGroup f.group fun g =>
    { g with cens := Sparse.put g.cens n s.fresh }
  { t with co := { t.co with censuses := t.co.censuses ++ [solicited s f a n] } }

theorem solicit_issues (hroom : (s.co.censuses.filter fun c => c.value.isNone).length < 4096)
    (hctr : f.ctrFull ctrSC = false) : exec (.solicit a n) s = .next (solicitDone s f a.toNat n.toNat).retire := by
  rw [exec_solicit, execSolicit, scalarOp_of _ hf hset, withGroup_of_find hg]
  simp only [hbad, hfree, rootSize, Nat.not_le.2 hroom, hctr, Option.isSome_none, Bool.false_eq_true, or_self, if_false]
  rfl

end Free

omit hset hg in
theorem fibre_solicitDone : (solicitDone s f a.toNat n.toNat).fibre s.cur = some (f.raiseCtr ctrSC) :=
  (fibre_modFibre s s.cur s.cur _).trans ((if_pos rfl).trans (congrArg (Option.map _) hf))

omit hf hset in
theorem groups_solicitDone : Sparse.find (solicitDone s f a.toNat n.toNat).groups f.group =
    some { g with cens := Sparse.put g.cens n.toNat s.fresh } :=
  (Sparse.find_adjust s.groups f.group f.group _).trans ((if_pos rfl).trans (congrArg (Option.map _) hg))

end Solicit

end Scalars

/-! ### REPLY (R412) -/

/-- The census to which a lane owes a reply. -/
def owedBy (s : State) (f : Fibre) (i : Nat) : Option Census := (Sparse.find f.owes i).bind fun e => s.census e.1

/-- A lane owes a value of 8 bytes. -/
def wideBy (s : State) (f : Fibre) (i : Nat) : Bool := (owedBy s f i).any fun c => censusWidth c.ctl == 8

theorem active_ne_zero_of_lane {f : Fibre} {i : Nat} (hi : i ∈ lanesOf f.active) : f.active ≠ 0 := fun h0 => by
  have hbit := (mem_lanesOf.1 hi).2
  rw [h0] at hbit
  exact Bool.false_ne_true (BitVec.getLsbD_zero.symm.trans hbit)

section Reply
variable {s : State} {f : Fibre} {x : BitVec 7} (hf : Issues s f)
  (hset : Settled s (resVs s.cur f ((regRun x.toNat 2).filter fun n => decide (n < 128))))
include hf hset

theorem reply_empty (h : f.active = 0) : exec (.reply x) s = .next s.retire := by
  rw [exec_reply, execReply, runFibre_of _ hf, guardBusy_of _ hset, if_pos h]
  rfl

/-- A reply of lanes that exist: each lane owes one, and of a width that its registers can hold. -/
theorem reply_of (h : f.active ≠ 0) : exec (.reply x) s = .next ((
    if (lanesOf f.active).any fun i => (owedBy s f i).isNone || (wideBy s f i && x == 127) then .trap (illTrap 6)
    else .done ((s.newOp f 1 f.active 0 0 none (.reply ((lanesOf f.active).filterMap fun i =>
      (Sparse.find f.owes i).map fun e => (e.1, e.2, (lane (s.v s.cur f x.toNat) i).toNat +
        (if wideBy s f i then (lane (s.v s.cur f (x.toNat + 1)) i).toNat * 2 ^ 32 else 0))))).2.modFibre s.cur
        fun g => { g with owes := (lanesOf f.active).foldl Sparse.erase g.owes }) : Act).finish s) := by
  rw [exec_reply, execReply, runFibre_of _ hf, guardBusy_of _ hset, if_neg h]
  rfl

theorem reply_unowed (h : ∃ i ∈ lanesOf f.active, Sparse.find f.owes i = none) :
    exec (.reply x) s = .next (s.takeTrap ⟨trapILL, 6, 0, 0⟩) := by
  obtain ⟨i, hi, howes⟩ := h
  have hany : ((lanesOf f.active).any fun i => (owedBy s f i).isNone || (wideBy s f i && x == 127)) = true :=
    List.any_eq_true.2 ⟨i, hi, by rw [owedBy, howes]; rfl⟩
  rw [reply_of hf hset (active_ne_zero_of_lane hi), if_pos hany]
  rfl

theorem reply_issues (hactive : f.active ≠ 0) (h : ∀ i ∈ lanesOf f.active, ∃ c e k, Sparse.find f.owes i = some (c, e) ∧
      s.census c = some k ∧ censusWidth k.ctl = 4) :
    exec (.reply x) s = .next ((s.newOp f 1 f.active 0 0 none (.reply ((lanesOf f.active).filterMap fun i =>
      (Sparse.find f.owes i).map fun e => (e.1, e.2, (lane (s.v s.cur f x.toNat) i).toNat)))).2.modFibre s.cur
        fun g => { g with owes := (lanesOf f.active).foldl Sparse.erase g.owes }).retire := by
  have howed : ∀ i ∈ lanesOf f.active, (owedBy s f i).isNone = false ∧ wideBy s f i = false := by
    intro i hi
    obtain ⟨c, e, k, hfind, hk, hwidth⟩ := h i hi
    have howedBy : owedBy s f i = some k := by rw [owedBy, hfind]; exact hk
    rw [wideBy, howedBy]
    exact ⟨rfl, by rw [Option.any_some, hwidth]; rfl⟩
  have hany : ((lanesOf f.active).any fun i => (owedBy s f i).isNone || (wideBy s f i && x == 127)) = false :=
    List.any_eq_false.2 fun i hi => by rw [(howed i hi).1, (howed i hi).2]; exact Bool.false_ne_true
  rw [reply_of hf hset hactive, hany, if_neg Bool.false_ne_true]
  have hvals := List.filterMap_congr (l := lanesOf f.active) (f := fun i => (Sparse.find f.owes i).map fun e =>
      (e.1, e.2, (lane (s.v s.cur f x.toNat) i).toNat +
        (if wideBy s f i then (lane (s.v s.cur f (x.toNat + 1)) i).toNat * 2 ^ 32 else 0)))
    (g := fun i => (Sparse.find f.owes i).map fun e => (e.1, e.2, (lane (s.v s.cur f x.toNat) i).toNat))
    fun i hi => by simp only [(howed i hi).2, Bool.false_eq_true, if_false, Nat.add_zero]
  rw [hvals]
  rfl

end Reply

end Sys2Proof.Machine

open Sys2Proof Sys2Proof.Machine

/-- Settles O41: the branches of each request, by the registers that it reads. -/
theorem workRequests : Obligations.WorkRequests := by
  intro a b n x s f hf hall
  have hsub : ∀ {l : List Nat}, l ⊆ [a.toNat, b.toNat] ++ ((List.range 8).map fun i => a.toNat + i) →
      Settled s (resS s.cur l) := fun hl => settled_sub hall (List.map_subset _ hl)
  have ha : Settled s (resS s.cur [a.toNat]) := hsub (by simp)
  have hab : Settled s (resS s.cur [a.toNat, b.toNat]) := hsub (List.subset_append_left _ _)
  have hw8 : Settled s (resS s.cur ((List.range 8).map fun i => a.toNat + i)) := hsub (List.subset_append_right _ _)
  have hw4 : Settled s (resS s.cur ((List.range 4).map fun i => a.toNat + i)) := settled_sub hw8
    (List.map_subset _ (List.map_subset _ (by decide)))
  refine ⟨launch_refused hf hab, launch_issues hf hab, hcall_refused hf ha, hcall_issues hf ha, ?enq,
    fun hset => ⟨reply_empty hf hset, reply_unowed hf hset, reply_issues hf hset⟩, ?solicit⟩
  case enq =>
    intro r queue hr hqueue
    exact ⟨enq_malformed hf hw8 hr, fun hgroup hres hent => ⟨enq_unlisted hf hw8 hr hgroup hres hent,
      fun qtab d hq hd habsent hheld => ⟨enq_invalid hf hw8 hr hqueue hgroup hres hent hq hd habsent hheld,
        fun hv hac hhc used hused =>
          enq_issues hf hw8 hr hqueue hgroup hres hent hq hd habsent hheld hv hac hhc hused⟩⟩⟩
  case solicit =>
    intro g hg
    exact ⟨solicit_refused hf hw4 hg, fun hbad hfree => ⟨solicit_waits hf hw4 hg hbad hfree, fun hroom hctr =>
      ⟨solicitDone s f a.toNat n.toNat, solicit_issues hf hw4 hg hbad hfree hroom hctr, fibre_solicitDone hf,
        ⟨_, (Sparse.find_put ..).trans (if_pos rfl), rfl⟩, groups_solicitDone hg, rfl⟩⟩⟩
end

section
/-! SUPPORT. The sampler (R380 to R383): the issue of a texture instruction, its completion, and the arithmetic of
indices, channels and footprint weights. -/

namespace Sys2Proof.Machine

/-! ### Issue (R381) -/

theorem regRun_subset (x : Nat) {m n : Nat} (h : m ≤ n) : regRun x m ⊆ regRun x n :=
  List.map_subset _ (List.range_subset.2 h)

section Issue
variable {a : BitVec 6} {x : BitVec 7} {s : State} {f : Fibre} {form n chan : Nat} (hf : Issues s f)
  (hs : Settled s (resS s.cur [a.toNat])) (hv : Settled s (resVs s.cur f (regRun x.toNat 6))) (hn : n ≤ 6)
include hf hs hv hn

/-- The inputs of all lanes, as a texture instruction reads them. -/
def texInputs (s : State) (f : Fibre) (x n : Nat) : List (List Word) :=
  (List.range 32).map fun l => (regRun x n).map fun k => lane (s.v s.cur f k) l

theorem texOp_of : texOp a x form n chan s = .next ((
    if f.active = 0 then .done s
    else if (f.s a.toNat).toNat % 64 ≠ 0 then .trap (illTrap 6)
    else if f.ctrFull ctrTX then .stall
    else .done (((s.drew 32).newOp f 2 f.active (f.s a.toNat) 0 (some ctrTX) (.tex ⟨form, chan, f.s a.toNat,
      texInputs s f x.toNat n, resVs s.cur f (regRun x.toNat 4), s.draws⟩)).2.addPend s.cur s.fresh
      (resVs s.cur f (regRun x.toNat 4))) : Act).finish s) := by
  have hin : Settled s (resVs s.cur f (regRun x.toNat (max 4 n))) :=
    settled_sub hv (List.map_subset _ (regRun_subset _ (max_le (by decide) hn)))
  rw [texOp, runFibre_of _ hf, guardBusy_of _ (settled_append.2 ⟨hs, hin⟩)]
  rfl

theorem texOp_empty (h : f.active = 0) : texOp a x form n chan s = .next s.retire := by
  rw [texOp_of hf hs hv hn, if_pos h]
  rfl

section Active
variable (hactive : f.active ≠ 0)
include hactive

theorem texOp_misaligned (h : (f.s a.toNat).toNat % 64 ≠ 0) :
    texOp a x form n chan s = .next (s.takeTrap ⟨trapILL, 6, 0, 0⟩) := by
  rw [texOp_of hf hs hv hn, if_neg hactive, if_pos h]
  rfl

variable (haligned : (f.s a.toNat).toNat % 64 = 0)
include haligned

theorem texOp_waits (h : f.ctrFull ctrTX = true) : texOp a x form n chan s = .next s.stall := by
  rw [texOp_of hf hs hv hn, if_neg hactive, if_neg (not_not.2 haligned), if_pos h]
  rfl

theorem texOp_issues (h : f.ctrFull ctrTX = false) : texOp a x form n chan s =
    .next (((s.drew 32).newOp f 2 f.active (f.s a.toNat) 0 (some ctrTX) (.tex ⟨form, chan, f.s a.toNat,
      texInputs s f x.toNat n, resVs s.cur f (regRun x.toNat 4), s.draws⟩)).2.addPend s.cur s.fresh
      (resVs s.cur f (regRun x.toNat 4))).retire := by
  rw [texOp_of hf hs hv hn, if_neg hactive, if_neg (not_not.2 haligned), h]
  rfl

end Active
end Issue

/-- The five texture instructions are one operation each, of at most six inputs. -/
theorem texOp_of_row {a : BitVec 6} {x : BitVec 7} {c : BitVec 2} {i : Instr} {form n chan : Nat}
    (h : (i, form, n, chan) ∈ ([(.texs a x, 0, 3, 0), (.texd a x, 1, 6, 0), (.texc a x, 2, 5, 0), (.texl a x, 3, 3, 0),
      (.texg a c x, 4, 3, c.toNat)] : List (Instr × Nat × Nat × Nat))) :
    n ≤ 6 ∧ ∀ s, exec i s = texOp a x form n chan s := by
  simp only [List.mem_cons, Prod.mk.injEq, List.not_mem_nil, or_false] at h
  rcases h with ⟨rfl, rfl, rfl, rfl⟩ | ⟨rfl, rfl, rfl, rfl⟩ | ⟨rfl, rfl, rfl, rfl⟩ | ⟨rfl, rfl, rfl, rfl⟩ |
    ⟨rfl, rfl, rfl, rfl⟩
  · exact ⟨by decide, fun s => exec_texs ..⟩
  · exact ⟨le_rfl, fun s => exec_texd ..⟩
  · exact ⟨by decide, fun s => exec_texc ..⟩
  · exact ⟨by decide, fun s => exec_texl ..⟩
  · exact ⟨by decide, fun s => exec_texg ..⟩

/-! ### Completion (R382, R383) -/

theorem sampleComplete_recorded {s : State} {id : Nat} (h : s.recorded id = true) :
    exec (.sampleComplete id) s = .next s := by
  rw [exec_sampleComplete, execSampleComplete, if_pos h]

theorem sampleComplete_writes {s s1 s2 : State} {id v : Nat} {o : Op} {t : TexOp} (ho : Sparse.find s.eng.ops id = some o)
    (hb : o.body = .tex t) (hr : s.recorded id = false)
    (hrun : runThread s id 32 (ask (.sample t.desc 64 txBad)) = (.done v, s1))
    (hlanes : texLanes s1 id t v (lanesOf o.lmask) = ([], s2)) :
    exec (.sampleComplete id) s = .next (s2.finishTex id t) := by
  rw [exec_sampleComplete, execSampleComplete, hr, if_neg Bool.false_ne_true, runTex]
  simp only [ho, hb, hrun, hlanes]

/-- A TEXL that names no texel. -/
theorem laneProg_outside {v chan draw : Nat} {ins : List Word} (h : txLevels v ≤ (ins.getD 2 0).toNat ∨
      txW v (ins.getD 2 0).toNat ≤ (ins.getD 0 0).toNat ∨ txH v (ins.getD 2 0).toNat ≤ (ins.getD 1 0).toNat) :
    laneProg v 3 chan ins draw = .ret [0, 0, 0, 0] := by
  rw [laneProg, if_pos rfl, if_pos h]

/-! ### Indices, channels and weights (R380, R382) -/

section Index
variable {w : Nat} (hw : 0 < w) (i : Int)

include hw in
theorem txIndex_wrap : ∃ x, txIndex 0 w i = some x ∧ x < w ∧ (x : Int) % w = i % w := by
  have hpos : (0 : Int) < w := by exact_mod_cast hw
  have h0 := Int.emod_nonneg i hpos.ne'
  have hlt := Int.emod_lt_of_pos i hpos
  refine ⟨(i % w).toNat, rfl, by omega, ?_⟩
  rw [Int.toNat_of_nonneg h0, Int.emod_emod_of_dvd _ dvd_rfl]

include hw in
theorem txIndex_clamp : ∃ x, txIndex 1 w i = some x ∧ (x : Int) = max 0 (min i (w - 1)) := by
  refine ⟨(clampInt 0 (w - 1) i).toNat, rfl, ?_⟩
  unfold clampInt
  split <;> omega

include hw in
theorem txIndex_mirror : ∃ x, txIndex 2 w i = some x ∧ x < w ∧
    ((x : Int) = i % (2 * w) ∨ (x : Int) + i % (2 * w) = 2 * w - 1) := by
  have hpos : (0 : Int) < 2 * w := by omega
  have h0 := Int.emod_nonneg i hpos.ne'
  have hlt := Int.emod_lt_of_pos i hpos
  refine ⟨_, rfl, ?_⟩
  split <;> omega

theorem txIndex_border (x : Nat) : txIndex 3 w i = some x ↔ (x : Int) = i ∧ x < w := by
  change (if 0 ≤ i ∧ i < w then some i.toNat else none) = some x ↔ _
  rw [Option.ite_none_right_eq_some, Option.some.injEq]
  omega

end Index

theorem txPart_lt (x : Int) : txPart x < 256 := by
  have hpos : (0 : Int) < (2 ^ 150 : Nat) := by positivity
  have hlt := Int.emod_lt_of_pos x hpos
  rw [txPart, Nat.div_lt_iff_lt_mul (by positivity)]
  omega

end Sys2Proof.Machine

open Sys2Proof Sys2Proof.Machine

/-- Settles O36: issue by `texOp_of`, completion by `sampleComplete_writes`, and the indices, channels and weights by
their own lemmas. -/
theorem textures : Obligations.Textures := by
  refine ⟨?issue, ?complete, fun v chan draw ins h => laneProg_outside h,
    fun w i hw => ⟨txIndex_wrap hw i, txIndex_clamp hw i, txIndex_mirror hw i, txIndex_border i⟩, ?channels, ?weights⟩
  case issue =>
    rintro a x c s f i form n chan _ _ _ hf hrow hs hv rfl rfl rfl
    obtain ⟨hn, hexec⟩ := texOp_of_row hrow
    rw [hexec s]
    exact ⟨texOp_empty hf hs hv hn, texOp_misaligned hf hs hv hn, texOp_waits hf hs hv hn, texOp_issues hf hs hv hn⟩
  case complete =>
    intro s s1 s2 id v o t ho hb
    exact ⟨sampleComplete_recorded, sampleComplete_writes ho hb⟩
  case channels => exact ⟨by decide, by decide, by decide, by decide, by decide, by decide⟩
  case weights =>
    rintro v l x y u w a b rfl rfl rfl rfl
    exact ⟨txPart_lt _, txPart_lt _, rfl⟩
end

section
/-! SUPPORT. The rasteriser (R385 to R389): issue, the tests that an RTEST decides, triangles without a sample, rejected
tests, and the end of an operation and of a frame. -/

namespace Sys2Proof.Machine

/-! ### A program of one access -/

/-- A run's end, with its result mapped. -/
def Ran.map {α β : Type} (g : α → β) : Ran α → Ran β
  | .done a => .done (g a)
  | .stop k t => .stop k t

theorem run_ask_map {α : Type} (r : Req) (g : Nat → α) (o : Op) (old new : List LogVal) (half : Option (Nat × Nat))
    (s : State) : ((ask r).bind fun v => .ret (g v)).run o old new half s =
      Prod.map (Ran.map g) (fun t => t) ((ask r).run o old new half s) := by
  cases old with
  | cons v old => rfl
  | nil =>
    cases half with
    | some h =>
      obtain ⟨draw, x⟩ := h
      simp only [ask, Prog.bind, Prog.run]
      rcases r.finish s o draw x with ⟨_ | _, s1⟩
      · rfl
      · rfl
    | none =>
      simp only [ask, Prog.bind, Prog.run]
      cases o.halves s r
      · rcases r.perform s o with ⟨_ | _, s1⟩
        · rfl
        · rfl
      · rcases r.begin s o with ⟨_ | _, s1⟩
        · rfl
        · rfl

/-- What a thread does with the value of its one access changes its answer alone. -/
theorem runThread_ask_map {α : Type} (s : State) (id key : Nat) (r : Req) (g : Nat → α) :
    runThread s id key ((ask r).bind fun v => .ret (g v)) =
      Prod.map (Ran.map g) (fun t => t) (runThread s id key (ask r)) := by
  unfold runThread
  cases Sparse.find s.eng.ops id with
  | none => rfl
  | some o => simp only [run_ask_map, pastSwitches]; rfl

/-- A thread whose one access has been performed before leaves the machine as it is. -/
theorem runThread_performed {s : State} {id key : Nat} {o : Op} {v : LogVal} (ho : Sparse.find s.eng.ops id = some o)
    (hlog : Sparse.get [] o.logs key = [v]) (hhalf : o.half = []) (r : Req) : runThread s id key (ask r) = (.done v, s) := by
  have hnone : o.halfOf key = none := by rw [Op.halfOf, hhalf]; rfl
  rw [runThread, ho]
  simp only [hlog, hnone, ask, Prog.run, pastSwitches]
  rfl

/-! ### Issue (R385, R386, R389) -/

section Issue
variable {a b : BitVec 6} {x : BitVec 7} {s : State} {f : Fibre} (hf : Issues s f)
include hf

section Triangles
variable (hs : Settled s (resS s.cur [a.toNat])) (hv : Settled s (resVs s.cur f (regRun x.toNat 12)))
include hs hv

/-- The words of all lanes, as RASTT reads them. -/
def rastInputs (s : State) (f : Fibre) (x : Nat) : List (List Word) :=
  (List.range 32).map fun l => (regRun x 12).map fun k => lane (s.v s.cur f k) l

theorem rastt_of : exec (.rastt a x) s = .next ((
    if f.active = 0 then .done s
    else if (f.s a.toNat).toNat % 64 ≠ 0 then .trap (illTrap 6)
    else if (lanesOf f.active).any fun i => field (((rastInputs s f x.toNat).getD i []).getD 11 0) 1 31 != 0 then
      .trap (illTrap 6)
    else if f.ctrFull ctrRS then .stall
    else .done (s.newOp f 4 f.active (f.s a.toNat) 0 (some ctrRS)
      (.rast (.tri (f.s a.toNat) (rastInputs s f x.toNat)))).2 : Act).finish s) := by
  rw [exec_rastt, execRastt, runFibre_of _ hf, guardBusy_of _ (settled_append.2 ⟨hs, hv⟩)]
  rfl

omit hf hs hv in
/-- The flag word of a lane has a reserved bit. -/
theorem rastReserved_iff {i : Nat} (hi : i < 32) :
    (field (((rastInputs s f x.toNat).getD i []).getD 11 0) 1 31 != 0) = true ↔
      2 ≤ lane (s.v s.cur f (x.toNat + 11)) i := by
  have hword : ((rastInputs s f x.toNat).getD i []).getD 11 0 = lane (s.v s.cur f (x.toNat + 11)) i := by
    simp [rastInputs, regRun, hi]
  have hlt := (lane (s.v s.cur f (x.toNat + 11)) i).isLt
  rw [hword, bne_iff_ne, field, BitVec.le_def, show (2 : Word).toNat = 2 from rfl]
  omega

theorem rastt_empty (h : f.active = 0) : exec (.rastt a x) s = .next s.retire := by
  rw [rastt_of hf hs hv, if_pos h]
  rfl

theorem rastt_misaligned (hactive : f.active ≠ 0) (h : (f.s a.toNat).toNat % 64 ≠ 0) :
    exec (.rastt a x) s = .next (s.takeTrap ⟨trapILL, 6, 0, 0⟩) := by
  rw [rastt_of hf hs hv, if_neg hactive, if_pos h]
  rfl

theorem rastt_issues (hactive : f.active ≠ 0) (haligned : (f.s a.toNat).toNat % 64 = 0)
    (h : ∀ l ∈ lanesOf f.active, lane (s.v s.cur f (x.toNat + 11)) l < 2) : exec (.rastt a x) s =
    .next (if f.ctrFull ctrRS then s.stall else (s.newOp f 4 f.active (f.s a.toNat) 0 (some ctrRS)
      (.rast (.tri (f.s a.toNat) (rastInputs s f x.toNat)))).2.retire) := by
  have hany : ((lanesOf f.active).any fun i => field (((rastInputs s f x.toNat).getD i []).getD 11 0) 1 31 != 0) = false :=
    List.any_eq_false.2 fun i hi => fun hres =>
      BitVec.not_le.2 (h i hi) ((rastReserved_iff (mem_lanesOf.1 hi).1).1 hres)
  rw [rastt_of hf hs hv, if_neg hactive, if_neg (not_not.2 haligned), hany, if_neg Bool.false_ne_true]
  exact congrArg Host.Outcome.next (apply_ite (Act.finish s) _ _ _)

theorem rastt_reserved (hactive : f.active ≠ 0) (h : ∃ l ∈ lanesOf f.active, 2 ≤ lane (s.v s.cur f (x.toNat + 11)) l) :
    exec (.rastt a x) s = .next (s.takeTrap ⟨trapILL, 6, 0, 0⟩) := by
  obtain ⟨l, hl, hres⟩ := h
  have hany : ((lanesOf f.active).any fun i => field (((rastInputs s f x.toNat).getD i []).getD 11 0) 1 31 != 0) = true :=
    List.any_eq_true.2 ⟨l, hl, (rastReserved_iff (mem_lanesOf.1 hl).1).2 hres⟩
  rw [rastt_of hf hs hv, if_neg hactive]
  by_cases haligned : (f.s a.toNat).toNat % 64 = 0
  · rw [if_neg (not_not.2 haligned), if_pos hany]
    rfl
  · rw [if_pos haligned]
    rfl

end Triangles

section Frames
variable (hset : Settled s (resS s.cur [a.toNat, b.toNat]))
include hset

theorem frameOp_misaligned (h : (f.s a.toNat).toNat % 64 ≠ 0) :
    ∀ i ∈ [Instr.rclear a, .rframe a b], exec i s = .next (s.takeTrap ⟨trapILL, 6, 0, 0⟩) := by
  have ha : Settled s (resS s.cur [a.toNat]) := (settled_cons.1 hset).1
  intro i hi
  simp only [List.mem_cons, List.not_mem_nil, or_false] at hi
  rcases hi with rfl | rfl
  · rw [exec_rclear, execRclear, scalarOp_of _ hf ha, if_pos h]
    rfl
  · rw [exec_rframe, execRframe, scalarOp_of _ hf hset, if_pos h]
    rfl

variable (haligned : (f.s a.toNat).toNat % 64 = 0)
include haligned

theorem rclear_issues : exec (.rclear a) s = .next (if f.ctrFull ctrRS then s.stall
    else (s.newOp f 4 f.active (f.s a.toNat) 0 (some ctrRS) (.rast (.clear (f.s a.toNat)))).2.retire) := by
  have ha : Settled s (resS s.cur [a.toNat]) := (settled_cons.1 hset).1
  rw [exec_rclear, execRclear, scalarOp_of _ hf ha, if_neg (not_not.2 haligned)]
  exact congrArg Host.Outcome.next (apply_ite (Act.finish s) _ _ _)

theorem rframe_issues : exec (.rframe a b) s = .next (s.newOp f 4 f.active (f.s a.toNat) (f.s b.toNat) none
    (.frame (f.s a.toNat) (f.s b.toNat) (modeSC f.mode)
      (s.eng.ops.filterMap fun e => if e.2.rasters f.asid (f.s a.toNat) then some e.1 else none))).2.retire := by
  rw [exec_rframe, execRframe, scalarOp_of _ hf hset, if_neg (not_not.2 haligned)]
  rfl

end Frames
end Issue

/-! ### RTEST (R388) -/

theorem testFor_eq_some {s : State} {f : Fibre} {x i : Nat} {t : RTest} (h : s.testFor f x i = some t) :
    t ∈ s.co.tests ∧ t.asid = f.asid := by
  have hmatch := List.find?_some h
  simp only [Bool.and_eq_true, beq_iff_eq] at hmatch
  exact ⟨List.mem_of_find?_eq_some h, hmatch.1.1.1.1⟩

/-- What the lanes decide is undecided before and gone behind, and nothing else changes. -/
theorem decideTests_spec (f : Fibre) (x : Nat) (lanes : List Nat) (s : State) {tests : List (Nat × RTest)} {t : State}
    (h : s.decideTests f x lanes = (tests, t)) : t.co.tests ⊆ s.co.tests ∧ ({ t with co := s.co } : State) = s ∧
    ∀ e ∈ tests, e.1 ∈ lanes ∧ e.2 ∈ s.co.tests ∧ e.2 ∉ t.co.tests ∧ e.2.asid = f.asid := by
  induction lanes generalizing s tests t with
  | nil =>
    obtain ⟨rfl, rfl⟩ := Prod.mk.inj h
    exact ⟨List.Subset.refl _, rfl, fun e he => absurd he List.not_mem_nil⟩
  | cons i lanes ih =>
    rw [State.decideTests] at h
    cases hi : s.testFor f x i with
    | none =>
      rw [hi] at h
      obtain ⟨hsub, hframe, hall⟩ := ih s h
      exact ⟨hsub, hframe, fun e he => (hall e he).imp_left (List.mem_cons_of_mem _)⟩
    | some u =>
      rw [hi] at h
      obtain ⟨rfl, rfl⟩ := Prod.mk.inj h
      obtain ⟨hu, hasid⟩ := testFor_eq_some hi
      obtain ⟨hsub, hframe, hall⟩ := ih { s with co := { s.co with tests := s.co.tests.filter fun v => v.id ≠ u.id } } rfl
      refine ⟨fun v hv => List.mem_of_mem_filter (hsub hv), ?_, fun e he => ?_⟩
      · exact congrArg (fun r : State => { r with co := s.co }) hframe
      · rcases List.mem_cons.1 he with rfl | he
        · exact ⟨List.mem_cons_self, hu, fun hgone => by simpa using (List.mem_filter.1 (hsub hgone)).2, hasid⟩
        · obtain ⟨hlane, hmem, hgone, hasid⟩ := hall e he
          exact ⟨List.mem_cons_of_mem _ hlane, List.mem_of_mem_filter hmem, hgone, hasid⟩

section Tests
variable {x : BitVec 7} {s : State} {f : Fibre} (hf : Issues s f)
  (hv : Settled s (resVs s.cur f (regRun x.toNat 7)))
include hf hv

theorem rtest_empty (h : f.active = 0) (acc : Bool) : rtest acc x s = .next s.retire := by
  rw [rtest, runFibre_of _ hf, guardBusy_of _ hv, if_pos h]
  rfl

theorem rtest_decides (hactive : f.active ≠ 0) (hctr : f.ctrFull ctrRS = false) (acc : Bool) {tests : List (Nat × RTest)}
    {t : State} (h : s.decideTests f x.toNat (lanesOf f.active) = (tests, t)) :
    rtest acc x s = .next (if tests = [] then s.retire
      else (t.newOp f 4 (maskOf (tests.map (·.1))) 0 0 (some ctrRS) (.rast (.test acc tests))).2.retire) := by
  rw [rtest, runFibre_of _ hf, guardBusy_of _ hv, if_neg hactive, hctr, if_neg Bool.false_ne_true, h]
  cases tests with
  | nil => rfl
  | cons e l => rfl

end Tests

theorem exec_rtest (acc : Bool) (x : BitVec 7) (s : State) :
    exec (if acc then .rtestAcc x else .rtestRej x) s = rtest acc x s := by
  cases acc with
  | true => exact exec_rtestAcc x s
  | false => exact exec_rtestRej x s

/-! ### Triangles without a sample, rejected tests (R386, R388) -/

theorem laneTri_eq_some {v : Nat} {ins : List Word} {t : List Vtx} (h : laneTri v ins = some t) :
    (ins.take 9).all f32Finite = true ∧ triArea t ≠ 0 ∧ (rsCullb v = true → 0 < triArea t) := by
  rw [laneTri, Option.ite_none_right_eq_some] at h
  obtain ⟨hcond, hvs⟩ := h
  rw [Option.some.inj hvs] at hcond
  simp only [Bool.and_eq_true, bne_iff_ne, ne_eq, Bool.not_eq_true', Bool.and_eq_false_iff, decide_eq_false_iff_not]
    at hcond
  obtain ⟨⟨hfin, harea⟩, hcull⟩ := hcond
  refine ⟨hfin, harea, fun hb => ?_⟩
  have hnonneg := hcull.resolve_left (by rw [hb]; decide)
  omega

theorem triProg_none {v : Nat} {ins : List Word} (h : (ins.take 9).all f32Finite = false ∨ laneTri v ins = none) :
    triProg v ins = .ret [] := by
  have hnone : laneTri v ins = none := by
    rcases h with hfin | hnone
    · cases ht : laneTri v ins with
      | none => rfl
      | some t => exact absurd ((laneTri_eq_some ht).1.symm.trans hfin) (by decide)
    · exact hnone
  rw [triProg, hnone]

section Reject
variable {id i k v : Nat} {tests : List (Nat × RTest)} {t : RTest} {s s1 : State}
  (hfind : tests.find? (fun e => e.1 = i) = some (k, t))
include hfind

theorem testLane_rejects (h : runThread s id i (ask (.record t.desc 64 rsBad)) = (.done v, s1)) :
    testLane id false tests s i = (none, s1) := by
  have hrun : runThread s id i (rejectProg t) = (.done (), s1) := by
    rw [rejectProg, runThread_ask_map, h]
    rfl
  rw [testLane, hfind]
  simp only [Bool.false_eq_true, if_false, hrun]

/-- A rejection whose descriptor has been read leaves the machine as it is. -/
theorem testLane_rejected {o : Op} (ho : Sparse.find s.eng.ops id = some o) (hlog : Sparse.get [] o.logs i = [v])
    (hhalf : o.half = []) : testLane id false tests s i = (none, s) :=
  testLane_rejects hfind (runThread_performed ho hlog hhalf _)

end Reject

/-! ### The end of an operation and of a frame (R386, R389) -/

section Ends
variable {s s1 s2 : State} {id : Nat} {o : Op}

theorem raster_recorded (h : s.recorded id = true) :
    exec (.rastComplete id) s = .next s ∧ exec (.frameEvent id) s = .next s := by
  rw [exec_rastComplete, execRastComplete, exec_frameEvent, execFrameEvent, if_pos h, if_pos h]
  exact ⟨rfl, rfl⟩

variable (ho : Sparse.find s.eng.ops id = some o) (hr : s.recorded id = false)
include ho hr

theorem rastComplete_triangles {desc : Dword} {ins : List (List Word)} {v : Nat} (hb : o.body = .rast (.tri desc ins))
    (hrun : runThread s id 32 (ask (.record desc 64 rsBad)) = (.done v, s1))
    (hlanes : rastLanes s1 id (triLane id o v desc ins) (lanesOf o.lmask) = (none, s2)) :
    exec (.rastComplete id) s = .next (s2.endOp id) := by
  rw [exec_rastComplete, execRastComplete, hr, if_neg Bool.false_ne_true, runRast]
  simp only [ho, hb, hrun, hlanes]

theorem rastComplete_tests {acc : Bool} {tests : List (Nat × RTest)} (hb : o.body = .rast (.test acc tests))
    (hlanes : rastLanes s id (testLane id acc tests) (lanesOf o.lmask) = (none, s1)) :
    exec (.rastComplete id) s = .next (s1.endOp id) := by
  rw [exec_rastComplete, execRastComplete, hr, if_neg Bool.false_ne_true, runRast]
  simp only [ho, hb, hlanes]

section Frame
variable {desc num : Dword} {scope : Nat} {after : List Nat} (hb : o.body = .frame desc num scope after)
include hb

theorem frameEvent_waits (h : (∃ n ∈ after, s.opLive n = true) ∨ s.frameTests id o.asid desc = true) :
    exec (.frameEvent id) s = .next s := by
  have hwait : (after.any s.opLive || s.frameTests id o.asid desc) = true := by
    rw [Bool.or_eq_true, List.any_eq_true]
    exact h
  rw [exec_frameEvent, execFrameEvent, hr, if_neg Bool.false_ne_true, runFrame]
  simp only [ho, hb, hwait, if_true]

theorem frameEvent_writes {v : Nat} {r l : List Nat} (hover : ∀ n ∈ after, s.opLive n = false)
    (htests : s.frameTests id o.asid desc = false)
    (hrun : runThread s id 0 (ask (.record desc 64 rsBad)) = (.done v, s1)) (hv : v ≠ 0)
    (hwrite : s1.releaseWrite o scope (rsEvent v) num.toNat = (.done r l, s2)) :
    exec (.frameEvent id) s = .next (s2.endOp id) := by
  have hany : after.any s.opLive = false :=
    List.any_eq_false.2 fun n hn => by rw [hover n hn]; exact Bool.false_ne_true
  rw [exec_frameEvent, execFrameEvent, hr, if_neg Bool.false_ne_true, runFrame]
  simp only [ho, hb, hany, htests, Bool.or_self, Bool.false_eq_true, if_false, hrun, hv, hwrite]

end Frame
end Ends

end Sys2Proof.Machine

open Sys2Proof Sys2Proof.Machine

/-- Settles O37: issue by the branches of each instruction, an RTEST by `decideTests_spec`, a rejected test by
`runThread_ask_map`, and the two ends by what is left of their programs. -/
theorem raster : Obligations.Raster := by
  refine ⟨?issue, fun v ins h => triProg_none h, fun v ins t h => (laneTri_eq_some h).2,
    fun id i k v tests t s s1 o hfind => ⟨testLane_rejects hfind, testLane_rejected hfind⟩,
    fun s id o ho => ⟨raster_recorded, fun hr => ⟨fun desc ins v s1 s2 hb => rastComplete_triangles ho hr hb,
      fun acc tests s1 hb => rastComplete_tests ho hr hb, fun desc num scope after hb =>
        ⟨frameEvent_waits ho hr hb, fun v s1 r l s2 => frameEvent_writes ho hr hb⟩⟩⟩⟩
  case issue =>
    rintro a b x s f _ _ hf hset hv rfl rfl
    have ha : Settled s (resS s.cur [a.toNat]) := (settled_cons.1 hset).1
    have hv7 : Settled s (resVs s.cur f (regRun x.toNat 7)) :=
      settled_sub hv (List.map_subset _ (regRun_subset _ (by decide)))
    refine ⟨fun h i hi => ?empty, rastt_misaligned hf ha hv, rastt_issues hf ha hv, ?reserved,
      frameOp_misaligned hf hset, fun h => ⟨rclear_issues hf hset h, rframe_issues hf hset h⟩,
      fun hactive hctr acc tests t h => ?tests⟩
    case empty =>
      simp only [List.mem_cons, List.not_mem_nil, or_false] at hi
      rcases hi with rfl | rfl | rfl
      · exact rastt_empty hf ha hv h
      · exact (exec_rtestAcc x s).trans (rtest_empty hf hv7 h true)
      · exact (exec_rtestRej x s).trans (rtest_empty hf hv7 h false)
    case reserved =>
      intro l hl hres
      exact rastt_reserved hf ha hv (active_ne_zero_of_lane hl) ⟨l, hl, hres⟩
    case tests =>
      obtain ⟨-, hframe, hall⟩ := decideTests_spec f x.toNat _ s h
      exact ⟨(exec_rtest acc x s).trans (rtest_decides hf hv7 hactive hctr acc h), hall, hframe⟩
end

section
/-! SUPPORT. Commands of the host queues (R449, R451, R452, R458): what a completion writes, and how each command
ends. -/

namespace Sys2Proof.Machine

/-! ### Completions (R449) -/

theorem queue_signal (s : State) (v : Nat) (b : Bool) (n : Nat) : (s.signal v b).queue n = s.queue n := by
  unfold State.signal
  split
  · rfl
  · split
    · rfl
    · split
      · rfl
      · rfl

theorem mem_signal (s : State) (v : Nat) (b : Bool) : (s.signal v b).mem = s.mem := by
  obtain ⟨io, h, -⟩ := signal_io s v b
  rw [h]

theorem fibres_signal (s : State) (v : Nat) (b : Bool) : (s.signal v b).fibres = s.fibres := by
  obtain ⟨io, h, -⟩ := signal_io s v b
  rw [h]

theorem queue_setQueue (s : State) (q n : Nat) (x : Queue) : (s.setQueue q x).queue n =
    if n = q then x else s.queue n := by
  simp only [State.setQueue, State.queue, Sparse.set]
  by_cases hx : x = Queue.reset
  · rw [if_pos hx, Sparse.find_erase]
    split
    · exact hx.symm
    · rfl
  · rw [if_neg hx, Sparse.find_put]
    split
    · rfl
    · rfl

section Complete
variable (s : State) (q : Nat) (tag : Word) (status : Nat) (result : Dword)

/-- The queue's registers behind a completion. -/
def Queue.done (x : Queue) : Queue :=
  if ringSize x.cqBase = 0 then { x with busy := none } else { x with cqTail := x.cqTail + 1, busy := none }

theorem queue_complete (n : Nat) :
    (s.complete q tag status result).queue n = if n = q then (s.queue q).done else s.queue n := by
  unfold State.complete Queue.done
  extract_lets x io s0 s1
  split
  · exact queue_setQueue s0 q n _
  · exact (queue_signal ..).trans (queue_setQueue s1 q n _)

theorem fibres_complete : (s.complete q tag status result).fibres = s.fibres := by
  unfold State.complete
  extract_lets x io s0 s1
  split
  · rfl
  · exact fibres_signal ..

theorem host_complete (h : ringSize (s.queue q).cqBase ≠ 0) : (s.complete q tag status result).mem.host =
    writeBytes s.mem.host (ringAddr (s.queue q).cqBase (s.queue q).cqTail.toNat 16)
      (leBytes 4 tag.toNat ++ leBytes 4 status ++ leBytes 8 result.toNat) := by
  unfold State.complete
  extract_lets x io s0 s1
  exact (congrArg (fun t : State => t.mem.host) (if_neg h)).trans (congrArg Mem.host (mem_signal ..))

theorem getZ_complete (h : ringSize (s.queue q).cqBase ≠ 0) {i : Nat} (hi : i < 16) :
    Sparse.getZ (s.complete q tag status result).mem.host
      (ringAddr (s.queue q).cqBase (s.queue q).cqTail.toNat 16 + i) =
      (leBytes 4 tag.toNat ++ leBytes 4 status ++ leBytes 8 result.toNat).getD i 0 := by
  have hlen : (leBytes 4 tag.toNat ++ leBytes 4 status ++ leBytes 8 result.toNat).length = 16 := by
    simp only [List.length_append, length_leBytes]
  rw [host_complete s q tag status result h, getZ_write, hlen, if_pos (by omega), Nat.add_sub_cancel_left]

end Complete

/-! ### How the commands end (R451, R452) -/

section Commands
variable {s : State} {q : Nat} {tag rgn loc most : Word} {a b dst : Dword} {c : Byte} {fr core : BitVec 16}

theorem malformedCommand_ends : Ends (.malformedCommand q tag) s s q tag 1 0 := exec_malformedCommand q tag s

section Launch

theorem badAddr_record_iff : s.badAddr a.toNat 256 = true ↔
    a.toNat % 256 ≠ 0 ∨ 2 ^ 52 ≤ a ∨ s.namesMemory a.toNat = false := by
  have hlow : (2 ^ 52 : Dword) ≤ a ↔ 2 ^ 52 ≤ a.toNat := Iff.rfl
  simp only [State.badAddr, Bool.or_eq_true, bne_iff_ne, decide_eq_true_eq, Bool.not_eq_true', or_assoc, hlow]

theorem launchCommand_malformed (h : a.toNat % 256 ≠ 0 ∨ 2 ^ 52 ≤ a ∨ s.namesMemory a.toNat = false) :
    Ends (.launchCommand q tag a) s s q tag 1 0 :=
  (exec_launchCommand q tag a s).trans (if_pos (badAddr_record_iff.2 h))

variable (halign : a.toNat % 256 = 0) (hlow : a < 2 ^ 52) (hmem : s.namesMemory a.toNat = true)
include halign hlow hmem

theorem launchCommand_of : exec (.launchCommand q tag a) s = if s.launchWaits a.toNat then
    .next ((askHost s (s.heldAt [(a.toNat, 256)])).await q tag (.launch a))
    else .next (s.hostLaunch q tag a.toNat) := by
  have hgood : ¬ s.badAddr a.toNat 256 = true := by
    rw [badAddr_record_iff, hmem]
    exact fun h => h.elim (· halign) fun h => h.elim (BitVec.not_le.2 hlow) fun h => absurd h (by decide)
  rw [exec_launchCommand, execLaunchCommand, if_neg hgood]

theorem launchCommand_waits (h : 1024 ≤ s.sched.launches.length + s.launching ∨ s.heldAt [(a.toNat, 256)] ≠ []) :
    Awaits (.launchCommand q tag a) s (askHost s (s.heldAt [(a.toNat, 256)])) q tag (.launch a) := by
  have hwait : s.launchWaits a.toNat = true := by
    rw [State.launchWaits, Bool.or_eq_true, decide_eq_true_eq, Bool.not_eq_true', List.isEmpty_eq_false_iff]
    exact h
  exact (launchCommand_of halign hlow hmem).trans (if_pos hwait)

section Room
variable (hroom : s.sched.launches.length + s.launching < 1024) (hheld : s.heldAt [(a.toNat, 256)] = [])
include hroom hheld

theorem launchCommand_takes : exec (.launchCommand q tag a) s = .next (s.hostLaunch q tag a.toNat) := by
  have hgo : s.launchWaits a.toNat = false := by
    rw [State.launchWaits, hheld]
    exact Bool.or_eq_false_iff.2 ⟨decide_eq_false (Nat.not_le.2 hroom), rfl⟩
  rw [launchCommand_of halign hlow hmem, hgo, if_neg Bool.false_ne_true]

theorem launchCommand_refused (h : s.launchStatus (physRead s a.toNat 256) none ≠ 0) :
    Ends (.launchCommand q tag a) s s q tag 2 0 :=
  (launchCommand_takes halign hlow hmem hroom hheld).trans (congrArg Host.Outcome.next (if_neg h))

theorem launchCommand_enters (h : s.launchStatus (physRead s a.toNat 256) none = 0) :
    Ends (.launchCommand q tag a) s (s.enterLaunch (physRead s a.toNat 256) none) q tag 0 0 :=
  (launchCommand_takes halign hlow hmem hroom hheld).trans (congrArg Host.Outcome.next (if_pos h))

end Room
end Launch

section Tlbinv

theorem tlbinvCommand_malformed (h : tlbinvBad b = true) : Ends (.tlbinvCommand q tag a b) s s q tag 1 0 :=
  (exec_tlbinvCommand q tag a b s).trans (if_pos h)

variable (hgood : tlbinvBad b = false)
include hgood

theorem tlbinvCommand_of : exec (.tlbinvCommand q tag a b) s =
    if field b 16 3 = 4 ∧ s.ifaceAsid (BitVec.ofNat 16 (field b 0 16)) = true then .next (s.complete q tag 3 0)
    else .next ((s.invalidate a b).complete q tag 0 0) := by
  rw [exec_tlbinvCommand, execTlbinvCommand, hgood, if_neg Bool.false_ne_true]
  rfl

omit hgood in
theorem ifaceAsid_unlocked (h : Unlocked s) (asid : BitVec 16) : s.ifaceAsid asid = false := by
  have h' : s.io.ifaces = [] := h
  rw [State.ifaceAsid, h']
  rfl

omit hgood in
theorem ifaceAsid_of_iface {j : Iface} {r : Rcb} (hj : j ∈ s.io.ifaces) (hr : s.rcb j.region = some r) :
    s.ifaceAsid r.asid = true :=
  List.any_eq_true.2 ⟨j, hj, by rw [hr]; exact beq_self_eq_true _⟩

theorem tlbinvCommand_removes (h : Unlocked s) : Ends (.tlbinvCommand q tag a b) s (s.invalidate a b) q tag 0 0 :=
  (tlbinvCommand_of hgood).trans (if_neg fun hl => by rw [ifaceAsid_unlocked h] at hl; exact Bool.false_ne_true hl.2)

theorem tlbinvCommand_locked {j : Iface} {r : Rcb} (hj : j ∈ s.io.ifaces) (hr : s.rcb j.region = some r)
    (hop : field b 16 3 = 4) (hasid : BitVec.ofNat 16 (field b 0 16) = r.asid) :
    Ends (.tlbinvCommand q tag a b) s s q tag 3 0 :=
  (tlbinvCommand_of hgood).trans (if_pos ⟨hop, by rw [hasid]; exact ifaceAsid_of_iface hj hr⟩)

end Tlbinv

section Bankcfg

theorem bankcfgCommand_malformed (h : 48 ≤ c ∨ cfgBad a = true) : Ends (.bankcfgCommand q tag c a) s s q tag 1 0 := by
  have hbad : (decide (Config.clusters ≤ c.toNat) || cfgBad a) = true := by
    rw [Bool.or_eq_true, decide_eq_true_eq]
    exact h
  exact (exec_bankcfgCommand q tag c a s).trans (if_pos hbad)

/-- The switch that a BANKCFG of the host asks for. -/
def hostSwitch (q : Nat) (tag : Word) (c : Byte) (a : Dword) : BankSwitch :=
  ⟨0, c.toNat * 32 + field a 0 5, a, none, 0, 0, some q, tag⟩

theorem bankcfgCommand_waits (hc : c < 48) (hgood : cfgBad a = false) :
    Awaits (.bankcfgCommand q tag c a) s (s.enterTransit (hostSwitch q tag c a)) q tag
      (.bank (c.toNat * 32 + field a 0 5)) := by
  have hok : (decide (Config.clusters ≤ c.toNat) || cfgBad a) = false := by
    rw [hgood, Bool.or_false, decide_eq_false_iff_not]
    exact BitVec.not_le.2 hc
  exact (exec_bankcfgCommand q tag c a s).trans (if_neg (by rw [hok]; exact Bool.false_ne_true))

theorem inTransit_enterTransit (s : State) (w : BankSwitch) : (s.enterTransit w).mem.inTransit w.bank = true :=
  List.any_eq_true.2 ⟨_, List.mem_append_right _ (List.mem_singleton_self _), beq_self_eq_true w.bank⟩

end Bankcfg

section Rgnop

theorem rgnop_malformed (h : regionBad b = true) : Ends (.rgnop q tag a b) s s q tag 1 0 :=
  (exec_rgnop q tag a b s).trans (if_pos h)

variable (hgood : regionBad b = false)
include hgood

theorem rgnop_of : exec (.rgnop q tag a b) s =
    if ((s.regionNamed a b).map s.lockedRegion).getD false then .next (s.complete q tag 3 0)
    else .next ((s.regionOp none a b).2.complete q tag (if (s.regionOp none a b).1 = 0 then 0 else 2)
      (BitVec.ofNat 64 (s.regionOp none a b).1)) := by
  rw [exec_rgnop, execRgnop, hgood, if_neg Bool.false_ne_true]
  rfl

theorem rgnop_acts (h : Unlocked s) {code : Nat} {t : State} (hop : s.regionOp none a b = (code, t)) :
    Ends (.rgnop q tag a b) s t q tag (if code = 0 then 0 else 2) (BitVec.ofNat 64 code) := by
  have hfree : ((s.regionNamed a b).map s.lockedRegion).getD false = false := by
    cases s.regionNamed a b with
    | none => rfl
    | some n => exact lockedRegion_unlocked h n
  refine (rgnop_of hgood).trans ?_
  rw [hfree, if_neg Bool.false_ne_true, hop]

theorem rgnop_locked {j : Iface} {n : Nat} (hj : j ∈ s.io.ifaces) (hnamed : s.regionNamed a b = some n)
    (hin : s.inSubtree j.region n = true) : Ends (.rgnop q tag a b) s s q tag 3 0 :=
  (rgnop_of hgood).trans (if_pos (by rw [hnamed]; exact lockedRegion_of_iface hj hin))

omit hgood in
theorem regionNamed_target (hop : field b 0 4 ≠ 0) (ha : a < 2 ^ 24) : s.regionNamed a b = some a.toNat := by
  rw [State.regionNamed, if_neg hop]
  exact if_pos ha

omit hgood in
theorem regionNamed_create (hop : field b 0 4 = 0) : s.regionNamed a b = s.enteredAt (physNat s a.toNat 8) := if_pos hop

end Rgnop

section Rgnread

theorem region_malformed (h : 2 ^ 24 ≤ rgn) :
    Ends (.rgnread q tag rgn dst) s s q tag 1 0 ∧ Ends (.savesize q tag rgn) s s q tag 1 0 :=
  ⟨(exec_rgnread q tag rgn dst s).trans (if_pos h), (exec_savesize q tag rgn s).trans (if_pos h)⟩

variable (hrgn : rgn < 2 ^ 24)
include hrgn

theorem rgnread_of : exec (.rgnread q tag rgn dst) s = match s.rcb rgn.toNat with
    | none => .next (s.complete q tag 2 0)
    | some r => if s.lockedRegion rgn.toNat then .next (s.complete q tag 3 0)
      else .next (((s.flushRcb rgn.toNat).hostWrite dst.toNat (physRead (s.flushRcb rgn.toNat) r.addr 256)).complete
        q tag 0 0) :=
  (exec_rgnread q tag rgn dst s).trans (if_neg (BitVec.not_le.2 hrgn))

theorem savesize_of : exec (.savesize q tag rgn) s = if (s.rcb rgn.toNat).isNone then .next (s.complete q tag 2 0)
    else .next (s.complete q tag 0 (BitVec.ofNat 64 (s.saveSize rgn.toNat))) :=
  (exec_savesize q tag rgn s).trans (if_neg (BitVec.not_le.2 hrgn))

theorem region_refused (h : s.rcb rgn.toNat = none) :
    Ends (.rgnread q tag rgn dst) s s q tag 2 0 ∧ Ends (.savesize q tag rgn) s s q tag 2 0 :=
  ⟨by rw [Ends, rgnread_of hrgn, h], by rw [Ends, savesize_of hrgn, h]; rfl⟩

variable {r : Rcb} (hr : s.rcb rgn.toNat = some r)
include hr

theorem savesize_answers : Ends (.savesize q tag rgn) s s q tag 0 (BitVec.ofNat 64 (s.saveSize rgn.toNat)) := by
  rw [Ends, savesize_of hrgn, hr]
  rfl

theorem rgnread_copies (h : Unlocked s) : Ends (.rgnread q tag rgn dst) s ((s.flushRcb rgn.toNat).hostWrite dst.toNat
    (physRead (s.flushRcb rgn.toNat) r.addr 256)) q tag 0 0 := by
  rw [Ends, rgnread_of hrgn, hr]
  exact if_neg (by rw [lockedRegion_unlocked h]; exact Bool.false_ne_true)

theorem rgnread_locked {j : Iface} (hj : j ∈ s.io.ifaces) (hin : s.inSubtree j.region rgn.toNat = true) :
    Ends (.rgnread q tag rgn dst) s s q tag 3 0 := by
  rw [Ends, rgnread_of hrgn, hr]
  exact if_pos (lockedRegion_of_iface hj hin)

end Rgnread

section Rplread

theorem rplread_malformed (h : 24576 ≤ loc ∨ 4 ≤ fr) : Ends (.rplread q tag loc fr dst) s s q tag 1 0 :=
  (exec_rplread q tag loc fr dst s).trans (if_pos h)

variable (hloc : loc < 24576) (hfr : fr < 4)
include hloc hfr

theorem rplread_of : exec (.rplread q tag loc fr dst) s =
    if ((s.fibre loc.toNat).map fun f => s.lockedRegion f.region).getD false then .next (s.complete q tag 3 0)
    else match s.recordAt (loc.toNat * 4 + fr.toNat) with
      | none => .next (s.complete q tag 2 0)
      | some (o, r) => .next ((s.hostWrite dst.toNat (s.frameBytes (loc.toNat * 4 + fr.toNat) o r)).complete q tag 0
          (BitVec.ofNat 64 o.bodyLen)) :=
  (exec_rplread q tag loc fr dst s).trans (if_neg (not_or.2 ⟨BitVec.not_le.2 hloc, BitVec.not_le.2 hfr⟩))

theorem rplread_unlocked (h : Unlocked s) : exec (.rplread q tag loc fr dst) s =
    match s.recordAt (loc.toNat * 4 + fr.toNat) with
      | none => .next (s.complete q tag 2 0)
      | some (o, r) => .next ((s.hostWrite dst.toNat (s.frameBytes (loc.toNat * 4 + fr.toNat) o r)).complete q tag 0
          (BitVec.ofNat 64 o.bodyLen)) := by
  have hfree : ((s.fibre loc.toNat).map fun f => s.lockedRegion f.region).getD false = false := by
    cases s.fibre loc.toNat with
    | none => rfl
    | some f => exact lockedRegion_unlocked h f.region
  rw [rplread_of hloc hfr, hfree, if_neg Bool.false_ne_true]

theorem rplread_refused (h : Unlocked s) (hnone : s.recordAt (loc.toNat * 4 + fr.toNat) = none) :
    Ends (.rplread q tag loc fr dst) s s q tag 2 0 := by
  rw [Ends, rplread_unlocked hloc hfr h, hnone]

theorem rplread_copies (h : Unlocked s) {o : Op} {r : Record}
    (hrec : s.recordAt (loc.toNat * 4 + fr.toNat) = some (o, r)) : Ends (.rplread q tag loc fr dst) s
      (s.hostWrite dst.toNat (s.frameBytes (loc.toNat * 4 + fr.toNat) o r)) q tag 0 (BitVec.ofNat 64 o.bodyLen) := by
  rw [Ends, rplread_unlocked hloc hfr h, hrec]

theorem rplread_locked {j : Iface} {f : Fibre} (hj : j ∈ s.io.ifaces) (hf : s.fibre loc.toNat = some f)
    (hin : s.inSubtree j.region f.region = true) : Ends (.rplread q tag loc fr dst) s s q tag 3 0 := by
  rw [Ends, rplread_of hloc hfr, hf]
  exact if_pos (lockedRegion_of_iface hj hin)

end Rplread

section Dirread

theorem dirread_malformed (h : 192 ≤ core) : Ends (.dirread q tag core dst) s s q tag 1 0 :=
  (exec_dirread q tag core dst s).trans (if_pos h)

variable (hcore : core < 192)
include hcore

theorem dirread_of : exec (.dirread q tag core dst) s =
    if s.co.dirs.any fun e => e.1 / dirSize == core.toNat && s.ifaceAsid e.2.asid then .next (s.complete q tag 3 0)
    else .next ((s.hostWrite dst.toNat (s.dirBytes core.toNat)).complete q tag 0 0) :=
  (exec_dirread q tag core dst s).trans (if_neg (BitVec.not_le.2 hcore))

theorem dirread_copies (h : Unlocked s) :
    Ends (.dirread q tag core dst) s (s.hostWrite dst.toNat (s.dirBytes core.toNat)) q tag 0 0 := by
  have hany : (s.co.dirs.any fun e => e.1 / dirSize == core.toNat && s.ifaceAsid e.2.asid) = false :=
    List.any_eq_false.2 fun e _ => by rw [ifaceAsid_unlocked h, Bool.and_false]; exact Bool.false_ne_true
  rw [Ends, dirread_of hcore, hany, if_neg Bool.false_ne_true]

theorem dirread_locked {j : Iface} {r : Rcb} {e : Nat} {x : DirEnt} (hj : j ∈ s.io.ifaces)
    (hr : s.rcb j.region = some r) (hmem : (e, x) ∈ s.co.dirs) (he : e / 512 = core.toNat) (hasid : x.asid = r.asid) :
    Ends (.dirread q tag core dst) s s q tag 3 0 := by
  have hany : (s.co.dirs.any fun e => e.1 / dirSize == core.toNat && s.ifaceAsid e.2.asid) = true := by
    refine List.any_eq_true.2 ⟨(e, x), hmem, Bool.and_eq_true_iff.2 ⟨beq_iff_eq.2 he, ?_⟩⟩
    rw [hasid]
    exact ifaceAsid_of_iface hj hr
  rw [Ends, dirread_of hcore, if_pos hany]

end Dirread

theorem take_min_length {α : Type} (l : List α) (n : Nat) : l.take (min n l.length) = l.take n := by
  rw [← List.take_take, List.take_length]

theorem drop_min_length {α : Type} (l : List α) (n : Nat) : l.drop (min n l.length) = l.drop n := by
  rcases Nat.le_total n l.length with h | h
  · rw [min_eq_left h]
  · rw [min_eq_right h, List.drop_length, List.drop_eq_nil_of_le h]

/-- The state that an ERRDRAIN completes. -/
def drained (s : State) (dst : Dword) (n : Nat) : State :=
  let t := s.hostWrite dst.toNat ((s.io.devLog.take n).flatMap DevErr.bytes)
  { t with io := { t.io with devLog := t.io.devLog.drop n } }.refreshErr

theorem errdrain_ends : Ends (.errdrain q tag dst most) s (drained s dst (min most.toNat s.io.devLog.length)) q tag 0
    (BitVec.ofNat 64 (min most.toNat s.io.devLog.length)) := exec_errdrain q tag dst most s

end Commands

end Sys2Proof.Machine

open Sys2Proof Sys2Proof.Machine

/-- Settles O48: a completion by `queue_complete` and `host_complete`, and each command by the equation that gives its
branches. -/
theorem hostCommands : Obligations.HostCommands := by
  refine ⟨?completion, ?commands, ?locked⟩
  case completion =>
    rintro s q tag status result _ rfl
    have hq : (s.complete q tag status result).queue q = (s.queue q).done :=
      (queue_complete s q tag status result q).trans (if_pos rfl)
    refine ⟨?_, fun n hn => (queue_complete s q tag status result n).trans (if_neg hn), fibres_complete .., fun h =>
      ⟨?_, fun i hi => getZ_complete s q tag status result h hi⟩⟩
    · rw [hq, Queue.done]
      split
      · rfl
      · rfl
    · rw [hq, Queue.done, if_neg h]
  case commands =>
    intro s q tag rgn loc most a b dst c fr core
    refine ⟨malformedCommand_ends, launchCommand_malformed, ?launch, tlbinvCommand_malformed, tlbinvCommand_removes,
      bankcfgCommand_malformed, ?bank, rgnop_malformed, fun hgood h code t hop => rgnop_acts hgood h hop,
      region_malformed, region_refused,
      fun r hrgn hr => ⟨savesize_answers hrgn hr, rgnread_copies hrgn hr⟩, rplread_malformed,
      fun hloc hfr h => ⟨rplread_refused hloc hfr h, fun o r => rplread_copies hloc hfr h⟩, dirread_malformed,
      dirread_copies, ?drain⟩
    case launch =>
      rintro halign hlow hmem _ rfl
      exact ⟨launchCommand_waits halign hlow hmem, fun hroom hheld =>
        ⟨launchCommand_refused halign hlow hmem hroom hheld, launchCommand_enters halign hlow hmem hroom hheld⟩⟩
    case bank =>
      exact fun hc hgood => ⟨_, bankcfgCommand_waits hc hgood, inTransit_enterTransit s (hostSwitch q tag c a), rfl⟩
    case drain =>
      refine ⟨_, errdrain_ends, ?_, rfl, ?_⟩
      · exact drop_min_length s.io.devLog most.toNat
      · exact congrArg (fun l : List DevErr => writeBytes s.mem.host dst.toNat (l.flatMap DevErr.bytes))
          (take_min_length s.io.devLog most.toNat)
  case locked =>
    intro s q tag rgn loc a b dst fr core j hj
    exact ⟨fun r hrgn hr => rgnread_locked hrgn hr hj,
      fun hgood hop ha hin => rgnop_locked hgood hj (regionNamed_target hop ha) hin,
      fun n hgood hop hent hin => rgnop_locked hgood hj ((regionNamed_create hop).trans hent) hin,
      fun f hloc hfr hf hin => rplread_locked hloc hfr hj hf hin,
      fun r hr => ⟨fun hgood hop hasid => tlbinvCommand_locked hgood hj hr hop hasid,
        fun e x hcore hmem he hasid => dirread_locked hcore hj hr hmem he hasid⟩⟩
end

section
/-! SUPPORT. The ray engine (R364 to R379): exact hits, the issue of queries and of their candidates, RSTAT, beams and
node visits. -/

namespace Sys2Proof.Machine

/-! ### Hits (R364) -/

/-- A finite F32 is read as a magnitude and a power of two. -/
theorem f32Val_of_finite {w : Word} (h : f32Finite w = true) : ∃ n m e, f32Val w = .fin n m e := by
  have hexp : w.toNat / 2 ^ 23 % 2 ^ 8 ≠ 255 := by
    rw [f32Finite, bne_iff_ne, field] at h
    exact h
  simp only [f32Val, f32, FloatFmt.read, Nat.pow_zero, Nat.div_one, show 2 ^ 8 - 1 = 255 from rfl, if_neg hexp]
  split
  · exact ⟨_, _, _, rfl⟩
  · exact ⟨_, _, _, rfl⟩

theorem getD_map_fx (l : List Word) (k : Nat) : (l.map fx).getD k 0 = fx (l.getD k 0) := by
  rw [← List.getD_map l 0 fx, show fx 0 = 0 from rfl]

theorem getD_sub3 (a b : List Int) {k : Nat} (hk : k < 3) : (sub3 a b).getD k 0 = a.getD k 0 - b.getD k 0 := by
  simp [sub3, hk]

/-- Cramer's rule: the triple product times a vector, in the basis of three. -/
theorem triple_mul (a b c d : List Int) {k : Nat} (hk : k < 3) :
    dot3 a (cross3 (sub3 b a) (sub3 c a)) * d.getD k 0 = dot3 d (cross3 b c) * a.getD k 0 +
      dot3 d (cross3 c a) * b.getD k 0 + dot3 d (cross3 a b) * c.getD k 0 := by
  simp only [dot3, cross3, List.getD_cons_zero, List.getD_cons_succ, getD_sub3, Nat.zero_lt_succ, Nat.one_lt_ofNat,
    Nat.lt_add_one]
  interval_cases k
  · ring
  · ring
  · ring

theorem sign_eq_ite {n : Int} (h : n ≠ 0) : (if 0 < n then 1 else -1 : Int) = n.sign := by
  rcases lt_or_gt_of_ne h with hn | hn
  · rw [if_neg (not_lt.2 hn.le), Int.sign_eq_neg_one_of_neg hn]
  · rw [if_pos hn, Int.sign_eq_one_of_pos hn]

theorem inside_signs {x y z : Int} {side : Nat} {owns : Bool} (h : inside [x, y, z] side owns = true) :
    (0 ≤ x ∧ 0 ≤ y ∧ 0 ≤ z) ∨ (x ≤ 0 ∧ y ≤ 0 ∧ z ≤ 0) := by
  simp only [inside, Bool.and_eq_true, Bool.or_eq_true, List.all_cons, List.all_nil, decide_eq_true_eq, Bool.and_true] at h
  exact h.1

theorem inRange_bounds {n d : Int} {tmin tmax : Word} (h : inRange n d tmin tmax = true) :
    fx tmin * d ≤ n * 2 ^ 149 ∧ (f32Finite tmax = true → n * 2 ^ 149 < fx tmax * d) := by
  rw [inRange, Bool.and_eq_true, decide_eq_true_eq] at h
  obtain ⟨hmin, hmax⟩ := h
  refine ⟨hmin, fun hfin => ?_⟩
  obtain ⟨neg, m, e, hval⟩ := f32Val_of_finite hfin
  rw [hval] at hmax
  exact of_decide_eq_true hmax

/-- The edge functions of a ray and a triangle, seen from the ray's origin. -/
def edgeWeights (o d p0 p1 p2 : List Word) : List Int :=
  let a := sub3 (p0.map fx) (o.map fx)
  let b := sub3 (p1.map fx) (o.map fx)
  let c := sub3 (p2.map fx) (o.map fx)
  [dot3 (d.map fx) (cross3 b c), dot3 (d.map fx) (cross3 c a), dot3 (d.map fx) (cross3 a b)]

/-- The triple product of the triangle's vertices, seen from the ray's origin. -/
def triVolume (o p0 p1 p2 : List Word) : Int :=
  let a := sub3 (p0.map fx) (o.map fx)
  dot3 a (cross3 (sub3 (sub3 (p1.map fx) (o.map fx)) a) (sub3 (sub3 (p2.map fx) (o.map fx)) a))

theorem hit_point (o d p0 p1 p2 : List Word) {k : Nat} (hk : k < 3) : triVolume o p0 p1 p2 * fx (d.getD k 0) =
    (edgeWeights o d p0 p1 p2).getD 0 0 * (fx (p0.getD k 0) - fx (o.getD k 0)) +
      (edgeWeights o d p0 p1 p2).getD 1 0 * (fx (p1.getD k 0) - fx (o.getD k 0)) +
        (edgeWeights o d p0 p1 p2).getD 2 0 * (fx (p2.getD k 0) - fx (o.getD k 0)) := by
  have h := triple_mul (sub3 (p0.map fx) (o.map fx)) (sub3 (p1.map fx) (o.map fx)) (sub3 (p2.map fx) (o.map fx))
    (d.map fx) hk
  simp only [getD_sub3 _ _ hk, getD_map_fx] at h
  exact h

/-- The determinant of a ray and a triangle. -/
def triDet (o d p0 p1 p2 : List Word) : Int :=
  (edgeWeights o d p0 p1 p2).getD 0 0 + (edgeWeights o d p0 p1 p2).getD 1 0 + (edgeWeights o d p0 p1 p2).getD 2 0

section Hit
variable (o d p0 p1 p2 : List Word) (tmin tmax : Word) (cullb owns : Bool) (side : Nat)

theorem triHit_eq : triHit o d tmin tmax cullb p0 p1 p2 side owns =
    if !((p0 ++ p1 ++ p2).all f32Finite) then none
    else if triDet o d p0 p1 p2 = 0 ∨ (cullb = true ∧ 0 < triDet o d p0 p1 p2) ∨
        inside (edgeWeights o d p0 p1 p2) side owns = false then none
    else if inRange (triVolume o p0 p1 p2 * (if 0 < triDet o d p0 p1 p2 then 1 else -1))
        (triDet o d p0 p1 p2 * (if 0 < triDet o d p0 p1 p2 then 1 else -1)) tmin tmax then
      some (toF32 .rne (ratio (triVolume o p0 p1 p2) (triDet o d p0 p1 p2)),
        toF32 .rne (ratio ((edgeWeights o d p0 p1 p2).getD 1 0) (triDet o d p0 p1 p2)),
        toF32 .rne (ratio ((edgeWeights o d p0 p1 p2).getD 2 0) (triDet o d p0 p1 p2)))
    else none := rfl

end Hit

/-- What a hit passed: its determinant, its weights and its range. -/
theorem triHit_eq_some {o d p0 p1 p2 : List Word} {tmin tmax t u v : Word} {cullb owns : Bool} {side : Nat}
    (h : triHit o d tmin tmax cullb p0 p1 p2 side owns = some (t, u, v)) :
    triDet o d p0 p1 p2 ≠ 0 ∧ (cullb = true → triDet o d p0 p1 p2 ≤ 0) ∧
      inside (edgeWeights o d p0 p1 p2) side owns = true ∧
      inRange (triVolume o p0 p1 p2 * (triDet o d p0 p1 p2).sign)
        (triDet o d p0 p1 p2 * (triDet o d p0 p1 p2).sign) tmin tmax = true ∧
      t = toF32 .rne (ratio (triVolume o p0 p1 p2) (triDet o d p0 p1 p2)) ∧
      u = toF32 .rne (ratio ((edgeWeights o d p0 p1 p2).getD 1 0) (triDet o d p0 p1 p2)) ∧
      v = toF32 .rne (ratio ((edgeWeights o d p0 p1 p2).getD 2 0) (triDet o d p0 p1 p2)) := by
  rw [triHit_eq, Option.ite_none_left_eq_some, Option.ite_none_left_eq_some, Option.ite_none_right_eq_some] at h
  obtain ⟨-, hpass, hrange, hwords⟩ := h
  obtain ⟨hdet, hcull, hinside⟩ := by simpa only [not_or, not_and, Bool.not_eq_false, not_lt] using hpass
  rw [sign_eq_ite hdet] at hrange
  obtain ⟨rfl, rfl, rfl⟩ := by simpa only [Option.some.injEq, Prod.mk.injEq] using hwords
  exact ⟨hdet, hcull, hinside, hrange, rfl, rfl, rfl⟩

/-- A hit is a point of the ray on the triangle, in its range. -/
theorem triHit_point {o d p0 p1 p2 : List Word} {tmin tmax t u v : Word} {cullb owns : Bool} {side : Nat}
    (h : triHit o d tmin tmax cullb p0 p1 p2 side owns = some (t, u, v)) :
    ∃ n det w0 w1 w2 : Int, det = w0 + w1 + w2 ∧ det ≠ 0 ∧ (cullb = true → det < 0) ∧
      ((0 ≤ w0 ∧ 0 ≤ w1 ∧ 0 ≤ w2) ∨ (w0 ≤ 0 ∧ w1 ≤ 0 ∧ w2 ≤ 0)) ∧
      (∀ k, k < 3 → n * fx (d.getD k 0) = w0 * (fx (p0.getD k 0) - fx (o.getD k 0)) +
        w1 * (fx (p1.getD k 0) - fx (o.getD k 0)) + w2 * (fx (p2.getD k 0) - fx (o.getD k 0))) ∧
      fx tmin * (det * det.sign) ≤ n * det.sign * 2 ^ 149 ∧
      (f32Finite tmax = true → n * det.sign * 2 ^ 149 < fx tmax * (det * det.sign)) ∧
      t = toF32 .rne (ratio n det) ∧ u = toF32 .rne (ratio w1 det) ∧ v = toF32 .rne (ratio w2 det) := by
  obtain ⟨hdet, hcull, hinside, hrange, ht, hu, hv⟩ := triHit_eq_some h
  obtain ⟨hmin, hmax⟩ := inRange_bounds hrange
  exact ⟨triVolume o p0 p1 p2, triDet o d p0 p1 p2, _, _, _, rfl, hdet,
    fun hc => lt_of_le_of_ne (hcull hc) hdet, inside_signs hinside, fun k hk => hit_point o d p0 p1 p2 hk, hmin, hmax,
    ht, hu, hv⟩

/-! ### Starting a query (R367, R369, R370) -/

section Start
variable {s : State} {f : Fibre} {n : Nat} {opa : Dword} {q : RayOp}

/-- The state with a query slot's earlier operation gone. -/
def slotFreed (s : State) (f : Fibre) (n : Nat) : State :=
  match Sparse.find f.query n with
  | some x => s.removeOp x.op
  | none => s

/-- The state with the operation of a query there. -/
def queryStarted (s : State) (f : Fibre) (n : Nat) (opa : Dword) (q : RayOp) : State :=
  let t := (slotFreed s f n).newOp f 3 f.active opa 0 (some ctrRY) (.ray q)
  (t.2.addPend s.cur t.1 q.dst).modFibre s.cur fun g => { g with query := Sparse.put g.query n ⟨.running, t.1⟩ }

theorem removeOp_keeps {α : Type} {obs : State → α} (hpend : ∀ s loc op, obs (s.dropPend loc op) = obs s)
    (hrest : ∀ (s : State) m e, obs { s with mem := m, eng := e } = obs s) (s : State) (id : Nat) :
    obs (s.removeOp id) = obs s := by
  unfold State.removeOp
  split
  · rfl
  · exact (hrest ..).trans (hpend ..)

theorem slotFreed_keeps {α : Type} {obs : State → α} (hpend : ∀ s loc op, obs (s.dropPend loc op) = obs s)
    (hrest : ∀ (s : State) m e, obs { s with mem := m, eng := e } = obs s) (s : State) (f : Fibre) (n : Nat) :
    obs (slotFreed s f n) = obs s := by
  unfold slotFreed
  split
  · exact removeOp_keeps hpend hrest ..
  · rfl

theorem fresh_slotFreed : (slotFreed s f n).fresh = s.fresh :=
  slotFreed_keeps (obs := State.fresh) (fun _ _ _ => rfl) (fun _ _ _ => rfl) s f n

theorem cur_slotFreed : (slotFreed s f n).cur = s.cur :=
  slotFreed_keeps (obs := State.cur) (fun _ _ _ => rfl) (fun _ _ _ => rfl) s f n

theorem fibres_slotFreed : (slotFreed s f n).fibres = s.fibres :=
  slotFreed_keeps (obs := State.fibres) (fun _ _ _ => rfl) (fun _ _ _ => rfl) s f n

/-- A query with a lane on its way does not stop. -/
theorem stopQuery_running {id : Nat} {o : Op} (h : ∃ e ∈ q.lanes, e.2.outcome = none) : s.stopQuery id o q = s := by
  have hany : (q.lanes.any fun e => e.2.outcome.isNone) = true := by
    simpa only [List.any_eq_true, Option.isNone_iff_eq_none] using h
  rw [State.stopQuery, if_pos hany]

theorem find_queryStarted : Sparse.find (queryStarted s f n opa q).eng.ops s.fresh =
    some ((slotFreed s f n).opOf f 3 f.active opa 0 (some ctrRY) (.ray q)) :=
  (congrArg (Sparse.find (queryStarted s f n opa q).eng.ops) fresh_slotFreed.symm).trans
    ((Sparse.find_put ..).trans (if_pos rfl))

theorem fibres_queryStarted : (queryStarted s f n opa q).fibres =
    Sparse.adjust (Sparse.adjust s.fibres s.cur fun g => g.raiseCtr ctrRY) s.cur fun g =>
      { g with query := Sparse.put g.query n ⟨.running, s.fresh⟩ } := by
  rw [← fibres_slotFreed (s := s) (f := f) (n := n), ← fresh_slotFreed (s := s) (f := f) (n := n)]
  exact congrArg (fun c => Sparse.adjust (Sparse.adjust (slotFreed s f n).fibres c fun g => g.raiseCtr ctrRY) s.cur fun g =>
    { g with query := Sparse.put g.query n ⟨.running, (slotFreed s f n).fresh⟩ }) cur_slotFreed

theorem fibre_queryStarted (hf : Issues s f) : (queryStarted s f n opa q).fibre s.cur =
    some { f.raiseCtr ctrRY with query := Sparse.put f.query n ⟨.running, s.fresh⟩ } := by
  have hf' : Sparse.find s.fibres s.cur = some f := hf
  rw [State.fibre, fibres_queryStarted, Sparse.find_adjust, if_pos rfl, Sparse.find_adjust, if_pos rfl, hf']
  rfl

theorem fibre_queryStarted_other {l : Nat} (hl : l ≠ s.cur) : (queryStarted s f n opa q).fibre l = s.fibre l := by
  rw [State.fibre, fibres_queryStarted, Sparse.find_adjust, if_neg hl, Sparse.find_adjust, if_neg hl, State.fibre]

/-- A query runs in its slot: its operation, its fibre, and what it leaves. -/
theorem queryStarted_spec (hf : Issues s f) (n : Nat) (opa : Dword) (q : RayOp) :
    (∃ o, Sparse.find (queryStarted s f n opa q).eng.ops s.fresh = some o ∧ o.body = .ray q ∧ o.unit = 3 ∧
      o.lmask = f.active) ∧
    (queryStarted s f n opa q).fibre s.cur =
      some { f.raiseCtr ctrRY with query := Sparse.put f.query n ⟨.running, s.fresh⟩ } ∧
    (∀ l, l ≠ s.cur → (queryStarted s f n opa q).fibre l = s.fibre l) ∧
    (queryStarted s f n opa q).groups = s.groups ∧ (queryStarted s f n opa q).co = s.co :=
  ⟨⟨_, find_queryStarted, rfl, rfl, rfl⟩, fibre_queryStarted hf, fun _ hl => fibre_queryStarted_other hl,
    slotFreed_keeps (obs := State.groups) (fun _ _ _ => rfl) (fun _ _ _ => rfl) s f n,
    slotFreed_keeps (obs := State.co) (fun _ _ _ => rfl) (fun _ _ _ => rfl) s f n⟩

theorem startQuery_waits (h : f.ctrFull ctrRY = true) : startQuery s f n opa q = .stall := if_pos h

theorem startQuery_starts (hctr : f.ctrFull ctrRY = false) (hlane : ∃ e ∈ q.lanes, e.2.outcome = none) :
    startQuery s f n opa q = .done (queryStarted s f n opa q) := by
  have hray : (queryStarted s f n opa q).rayOp (slotFreed s f n).fresh =
      some ((slotFreed s f n).opOf f 3 f.active opa 0 (some ctrRY) (.ray q), q) := by
    rw [State.rayOp, fresh_slotFreed, find_queryStarted]
    rfl
  have heq : startQuery s f n opa q = match (queryStarted s f n opa q).rayOp (slotFreed s f n).fresh with
      | some (o, q') => .done ((queryStarted s f n opa q).stopQuery (slotFreed s f n).fresh o q')
      | none => .done (queryStarted s f n opa q) := by
    rw [startQuery, hctr]
    rfl
  rw [heq, hray]
  exact congrArg Act.done (stopQuery_running hlane)

end Start

/-! ### RQUERY and CQUERY (R369, R370) -/

section Queries
variable {a : BitVec 6} {n : BitVec 2} {v : BitVec 7} {s : State} {f : Fibre} (hf : Issues s f)
  (hs : Settled s (resS s.cur [a.toNat])) (hv : Settled s (resVs s.cur f (regRun v.toNat 15)))
include hf hs hv

/-- The lanes of an RQUERY. -/
def rqueryLanes (s : State) (f : Fibre) (v root : Nat) : List (Nat × RayLane) :=
  let w (k i : Nat) : Word := lane (s.v s.cur f (v + k)) i
  (lanesOf f.active).map fun i => (i, RayLane.start ((List.range 6).map fun k => w k i) (w 6 i) (w 7 i)
    (field (w 8 i) 0 8) (field (w 8 i) 8 3) none (nodeOf (windowBase root) root 0)
    (rayInvalid ((List.range 6).map fun k => w k i) (w 6 i) (w 7 i) || field (w 8 i) 11 21 != 0))

/-- The query of an RQUERY. -/
def rqueryOf (s : State) (f : Fibre) (a n v : Nat) : RayOp :=
  ⟨n, false, windowBase (f.s a).toNat, 0, (regRun (v + 9) 6).map (resV (fidOf s.cur) f.wdesc),
    rqueryLanes s f v (f.s a).toNat⟩

theorem rquery_of : exec (.rquery a n v) s = .next ((
    if f.active = 0 then .done s
    else if ptrBad (f.s a.toNat).toNat = true ∨ ptrKind (f.s a.toNat).toNat = 0 ∨ ptrKind (f.s a.toNat).toNat = 3 then
      .trap (illTrap 6)
    else if f.slotState n.toNat = .running then .stall
    else startQuery s f n.toNat (f.s a.toNat) (rqueryOf s f a.toNat n.toNat v.toNat) : Act).finish s) := by
  rw [exec_rquery, execRquery, runFibre_of _ hf, guardBusy_of _ (settled_append.2 ⟨hs, hv⟩)]
  rfl

/-- The lanes of a CQUERY, whose records are still to be read. -/
def cqueryLanes (f : Fibre) (root : Nat) : List (Nat × RayLane) :=
  (lanesOf f.active).map fun i =>
    (i, { RayLane.start [] 0 0 0 0 none (nodeOf (windowBase root) root 0) false with ready := false })

/-- The root that a cone's structure has. -/
def coneRootOf (s : State) (recs : Dword) : Nat :=
  Config.coneRoot recs.toNat s.draws % 2 ^ 57 / 64 * 64 + 1 + Config.coneRoot recs.toNat s.draws / 2 ^ 57 % 2

/-- The query of a CQUERY. -/
def cqueryOf (s : State) (f : Fibre) (a n v : Nat) : RayOp :=
  ⟨n, true, windowBase (coneRootOf s (f.s a)), f.s a, (regRun v 7).map (resV (fidOf s.cur) f.wdesc),
    cqueryLanes f (coneRootOf s (f.s a))⟩

theorem cquery_of : exec (.cquery a n v) s = .next ((
    if f.active = 0 then .done s
    else if (f.s a.toNat).toNat % 64 ≠ 0 then .trap (illTrap 6)
    else if f.slotState n.toNat = .running then .stall
    else startQuery (s.drew 1) f n.toNat (f.s a.toNat) (cqueryOf s f a.toNat n.toNat v.toNat) : Act).finish s) := by
  have hin : Settled s (resVs s.cur f (regRun v.toNat 7)) :=
    settled_sub hv (List.map_subset _ (regRun_subset _ (by decide)))
  rw [exec_cquery, execCquery, runFibre_of _ hf, guardBusy_of _ (settled_append.2 ⟨hs, hin⟩)]
  rfl

theorem query_empty (h : f.active = 0) : exec (.rquery a n v) s = .next s.retire ∧ exec (.cquery a n v) s = .next s.retire := by
  rw [rquery_of hf hs hv, cquery_of hf hs hv, if_pos h, if_pos h]
  exact ⟨rfl, rfl⟩

section Active
variable (hactive : f.active ≠ 0)
include hactive

theorem rquery_refused (h : ptrBad (f.s a.toNat).toNat = true ∨ ptrKind (f.s a.toNat).toNat = 0 ∨
      ptrKind (f.s a.toNat).toNat = 3) : exec (.rquery a n v) s = .next (s.takeTrap ⟨trapILL, 6, 0, 0⟩) := by
  rw [rquery_of hf hs hv, if_neg hactive, if_pos h]
  rfl

theorem cquery_misaligned (h : (f.s a.toNat).toNat % 64 ≠ 0) :
    exec (.cquery a n v) s = .next (s.takeTrap ⟨trapILL, 6, 0, 0⟩) := by
  rw [cquery_of hf hs hv, if_neg hactive, if_pos h]
  rfl

section Root
variable (hbad : ptrBad (f.s a.toNat).toNat = false)
  (hkind : ptrKind (f.s a.toNat).toNat = 1 ∨ ptrKind (f.s a.toNat).toNat = 2)
include hbad hkind

omit hf hs hv hactive in
theorem root_good : ¬ (ptrBad (f.s a.toNat).toNat = true ∨ ptrKind (f.s a.toNat).toNat = 0 ∨
    ptrKind (f.s a.toNat).toNat = 3) := by
  rintro (h | h | h)
  · rw [hbad] at h
    exact Bool.false_ne_true h
  · rw [h] at hkind
    exact absurd hkind (by decide)
  · rw [h] at hkind
    exact absurd hkind (by decide)

theorem rquery_waits (h : f.slotState n.toNat = .running ∨ f.ctrFull ctrRY = true) :
    exec (.rquery a n v) s = .next s.stall := by
  rw [rquery_of hf hs hv, if_neg hactive, if_neg (root_good hbad hkind)]
  by_cases hrun : f.slotState n.toNat = .running
  · rw [if_pos hrun]
    rfl
  · rw [if_neg hrun, startQuery_waits (h.resolve_left hrun)]
    rfl

theorem rquery_starts (hrun : f.slotState n.toNat ≠ .running) (hctr : f.ctrFull ctrRY = false)
    (hlane : ∃ e ∈ rqueryLanes s f v.toNat (f.s a.toNat).toNat, e.2.outcome = none) : exec (.rquery a n v) s =
    .next (queryStarted s f n.toNat (f.s a.toNat) (rqueryOf s f a.toNat n.toNat v.toNat)).retire := by
  rw [rquery_of hf hs hv, if_neg hactive, if_neg (root_good hbad hkind), if_neg hrun,
    startQuery_starts hctr (q := rqueryOf s f a.toNat n.toNat v.toNat) hlane]
  rfl

end Root

section Aligned
variable (haligned : (f.s a.toNat).toNat % 64 = 0)
include haligned

theorem cquery_waits (h : f.slotState n.toNat = .running) : exec (.cquery a n v) s = .next s.stall := by
  rw [cquery_of hf hs hv, if_neg hactive, if_neg (not_not.2 haligned), if_pos h]
  rfl

omit hf hs hv haligned in
theorem exists_lane : ∃ i, i ∈ lanesOf f.active := by
  by_contra hnone
  refine hactive (BitVec.eq_of_getLsbD_eq fun i hi => ?_)
  have hbit : f.active.getLsbD i = false := Bool.eq_false_iff.2 fun hbit => hnone ⟨i, mem_lanesOf.2 ⟨hi, hbit⟩⟩
  exact hbit.trans BitVec.getLsbD_zero.symm

theorem cquery_starts (hrun : f.slotState n.toNat ≠ .running) (hctr : f.ctrFull ctrRY = false) : exec (.cquery a n v) s =
    .next (queryStarted (s.drew 1) f n.toNat (f.s a.toNat) (cqueryOf s f a.toNat n.toNat v.toNat)).retire := by
  obtain ⟨i, hi⟩ := exists_lane hactive
  have hlane : ∃ e ∈ (cqueryOf s f a.toNat n.toNat v.toNat).lanes, e.2.outcome = none :=
    ⟨_, List.mem_map_of_mem hi, rfl⟩
  rw [cquery_of hf hs hv, if_neg hactive, if_neg (not_not.2 haligned), if_neg hrun, startQuery_starts hctr hlane]
  rfl

end Aligned
end Active
end Queries

theorem cqueryLanes_unread {f : Fibre} {root : Nat} {e : Nat × RayLane} (h : e ∈ cqueryLanes f root) :
    e.2.ready = false ∧ e.2.outcome = none := by
  obtain ⟨i, -, rfl⟩ := List.mem_map.1 h
  exact ⟨rfl, rfl⟩

theorem cqueryLanes_fst (f : Fibre) (root : Nat) : (cqueryLanes f root).map (·.1) = lanesOf f.active := by
  rw [cqueryLanes, List.map_map]
  exact List.map_id _

/-! ### Candidates (R371, R442) -/

theorem rayOp_eq_some {s : State} {id : Nat} {o : Op} {q : RayOp} (h : s.rayOp id = some (o, q)) :
    Sparse.find s.eng.ops id = some o ∧ o.body = .ray q := by
  unfold State.rayOp at h
  split at h
  · next o' ho =>
    split at h
    · next q' hb =>
      obtain ⟨rfl, rfl⟩ := Prod.mk.inj (Option.some.inj h)
      exact ⟨ho, hb⟩
    · exact absurd h (Option.some_ne_none _).symm
  · exact absurd h (Option.some_ne_none _).symm

/-- The lanes of a query with those at CAND that are active moved. -/
def movedLanes (f : Fibre) (q : RayOp) (move : RayLane → RayLane) : List (Nat × RayLane) :=
  q.lanes.map fun e => if f.active.getLsbD e.1 = true ∧ e.2.outcome = some outCAND then (e.1, move e.2) else e

/-- The operation of a query that goes on. -/
def movedOp (s : State) (f : Fibre) (o : Op) (q : RayOp) : Op :=
  { o with ctr := some ctrRY, body := .ray q, iword := s.iword, mode := f.mode, pc := f.pc, cede := f.cede
           lmask := f.active }

/-- The state with a query going on. -/
def queryMoved (s : State) (f : Fibre) (n id : Nat) (q : RayOp) : State :=
  ((s.modOp id fun o => movedOp s f o q).modFibre s.cur fun g =>
    { g.raiseCtr ctrRY with query := Sparse.put g.query n ⟨.running, id⟩ }).addPend s.cur id q.dst

section Moves
variable {s : State} {f : Fibre} {n : Nat} {move : RayLane → RayLane} (hf : Issues s f)
include hf

theorem moveCands_refused (h : f.slotState n ≠ .stopped) :
    moveCands s n move = .next (s.takeTrap ⟨trapILL, 6, 0, 0⟩) := by
  rw [moveCands, runFibre_of _ hf, if_pos h]
  rfl

theorem moveCands_empty (h : f.slotState n = .stopped) (hactive : f.active = 0) :
    moveCands s n move = .next s.retire := by
  rw [moveCands, runFibre_of _ hf, if_neg (not_not.2 h), if_pos hactive]
  rfl

section Stopped
variable {id : Nat} {o : Op} {q : RayOp} (hslot : Sparse.find f.query n = some ⟨.stopped, id⟩)
  (hray : s.rayOp id = some (o, q))
include hslot

omit hf in
theorem slotState_stopped : f.slotState n = .stopped := by rw [Fibre.slotState, hslot]

include hray

theorem moveCands_moves (hactive : f.active ≠ 0) (hset : Settled s q.dst) (hctr : f.ctrFull ctrRY = false)
    (hlane : ∃ e ∈ movedLanes f q move, e.2.outcome = none) : moveCands s n move =
      .next (queryMoved s f n id { q with lanes := movedLanes f q move }).retire := by
  have hset' : s.busy s.cur q.dst = false := hset
  have hlanes : (q.lanes.map fun e => if (bitOf f.active e.1 && e.2.outcome == some outCAND) = true then (e.1, move e.2)
      else e) = movedLanes f q move := by
    refine List.map_congr_left fun e _ => if_congr ?_ rfl rfl
    rw [Bool.and_eq_true, beq_iff_eq, bitOf_eq_getLsbD]
  rw [moveCands, runFibre_of _ hf, if_neg (not_not.2 (slotState_stopped hslot)), if_neg hactive]
  simp only [hslot, Option.bind_some, hray, Option.map_some, hset', hctr, Bool.false_eq_true, or_self, if_false, hlanes]
  rw [stopQuery_running (q := { q with lanes := movedLanes f q move }) hlane]
  rfl

omit hf hslot in
theorem find_queryMoved (lanes : List (Nat × RayLane)) :
    Sparse.find (queryMoved s f n id { q with lanes := lanes }).eng.ops id =
      some (movedOp s f o { q with lanes := lanes }) :=
  (Sparse.find_adjust ..).trans ((if_pos rfl).trans (by rw [(rayOp_eq_some hray).1]; rfl))

end Stopped

theorem fibre_queryMoved (id : Nat) (q : RayOp) : (queryMoved s f n id q).fibre s.cur =
    some { f.raiseCtr ctrRY with query := Sparse.put f.query n ⟨.running, id⟩ } :=
  (fibre_modFibre (s.modOp id fun o => movedOp s f o q) s.cur s.cur _).trans
    ((if_pos rfl).trans (congrArg (Option.map _) hf))

end Moves

/-- What RCOMMIT and RRESUME make of a candidate. -/
theorem candMove_of_row {n : BitVec 2} {i : Instr} {move : RayLane → RayLane}
    (h : (i, move) ∈ ([(.rcommit n, fun l => match l.cand with
          | some h => { l with hit := some h, tmax := h.t, cand := none, outcome := if l.term then some outHIT else none }
          | none => l), (.rresume n, fun l => { l with cand := none, outcome := none })] :
            List (Instr × (RayLane → RayLane)))) (s : State) : exec i s = moveCands s n.toNat move := by
  simp only [List.mem_cons, Prod.mk.injEq, List.not_mem_nil, or_false] at h
  rcases h with ⟨rfl, rfl⟩ | ⟨rfl, rfl⟩
  · exact exec_rcommit n s
  · exact exec_rresume n s

/-! ### RSTAT (R372) -/

/-- The lanes of a slot at CAND. -/
def candLanes (s : State) (f : Fibre) (n : Nat) : List Nat :=
  match (Sparse.find f.query n).bind fun x => s.rayOp x.op with
  | some (_, q) =>
    if f.slotState n = .stopped then
      q.lanes.filterMap fun e => if e.2.outcome = some outCAND then some e.1 else none
    else []
  | none => []

/-- What RSTAT reads. -/
def rstatWord (s : State) (f : Fibre) (n : Nat) : Dword :=
  BitVec.ofNat 64 ((f.slotState n).code + (maskOf (candLanes s f n) &&& f.active).toNat * 2 ^ 32)

section Rstat
variable {a : BitVec 6} {n : BitVec 2} {s : State} {f : Fibre} (hf : Issues s f) (hs : Settled s (resS s.cur [a.toNat]))
include hf hs

theorem rstat_empty (h : f.active = 0) : exec (.rstat a n) s = .next s.retire := by
  rw [exec_rstat, execRstat, scalarOp_of _ hf hs, if_pos h]
  rfl

theorem rstat_reads (h : f.active ≠ 0) :
    exec (.rstat a n) s = became s (f.setS a.toNat (rstatWord s f n.toNat)) := by
  rw [exec_rstat, execRstat, scalarOp_of _ hf hs, if_neg h]
  exact done_modFibre (fun g => g.setS a.toNat (rstatWord s f n.toNat)) hf

end Rstat

theorem code_lt (st : QueryState) : st.code < 4 := by cases st <;> decide

theorem setWidth_rstatWord (s : State) (f : Fibre) (n : Nat) :
    (rstatWord s f n).setWidth 32 = BitVec.ofNat 32 (f.slotState n).code := by
  have hcode := code_lt (f.slotState n)
  apply BitVec.eq_of_toNat_eq
  rw [rstatWord, BitVec.toNat_setWidth, BitVec.toNat_ofNat, BitVec.toNat_ofNat]
  omega

theorem getLsbD_rstatWord (s : State) (f : Fibre) (n : Nat) {i : Nat} (hi : i < 32) :
    (rstatWord s f n).getLsbD (32 + i) = (decide (i ∈ candLanes s f n) && f.active.getLsbD i) := by
  have hcode := code_lt (f.slotState n)
  have hhigh (y : Nat) : ((f.slotState n).code + y * 2 ^ 32) >>> 32 = y := by
    rw [Nat.shiftRight_eq_div_pow]
    omega
  rw [← getLsbD_maskOf hi, ← BitVec.getLsbD_and, rstatWord, BitVec.getLsbD_ofNat, decide_eq_true (by omega), Bool.true_and,
    ← Nat.testBit_shiftRight, hhigh, BitVec.getLsbD]

theorem mem_candLanes {s : State} {f : Fibre} {n id : Nat} {o : Op} {q : RayOp}
    (hslot : Sparse.find f.query n = some ⟨.stopped, id⟩) (hray : s.rayOp id = some (o, q)) (i : Nat) :
    i ∈ candLanes s f n ↔ ∃ l, (i, l) ∈ q.lanes ∧ l.outcome = some outCAND := by
  simp only [candLanes, hslot, Option.bind_some, hray, slotState_stopped hslot, if_true, List.mem_filterMap,
    Option.ite_none_right_eq_some, Option.some.injEq, Prod.exists]
  exact ⟨fun ⟨_, l, hl, hout, hi⟩ => ⟨l, hi ▸ hl, hout⟩, fun ⟨l, hl, hout⟩ => ⟨i, l, hl, hout, rfl⟩⟩

theorem rstatWord_cands {s : State} {f : Fibre} {n id : Nat} {o : Op} {q : RayOp}
    (hslot : Sparse.find f.query n = some ⟨.stopped, id⟩) (hray : s.rayOp id = some (o, q)) {i : Nat} (hi : i < 32) :
    (rstatWord s f n).getLsbD (32 + i) = true ↔
      f.active.getLsbD i = true ∧ ∃ l, (i, l) ∈ q.lanes ∧ l.outcome = some outCAND := by
  rw [getLsbD_rstatWord s f n hi, Bool.and_eq_true, decide_eq_true_eq, mem_candLanes hslot hray, and_comm]

/-! ### Beams (R374, R379) -/

/-- A beam at its start. -/
def beamStart (f : Fibre) (a : Nat) (res : Res) : BeamOp :=
  { addr := f.s a, query := none, res := res, scope := modeSC f.mode, stack := [], cur := none, lpos := 0, splits := []
    pend := [], follow := List.replicate 16 0, drop := false, restart := none, best := [], emitted := 0, spill := false
    invalid := false, subs := [], comb := [] }

/-- The state with a beam's operation there and the fibre's credit set. -/
def beamIssued (s : State) (f : Fibre) (a b credit : Nat) : State :=
  let res := Res.s (fidOf s.cur) b
  ((s.newOp f 3 f.active (f.s a) 0 (some ctrRY) (.beam (beamStart f a res))).2.addPend s.cur s.fresh [res]).modFibre s.cur
    fun g => { g with beamCredit := credit }

section Beams
variable {a b : BitVec 6} {s : State} {f : Fibre} (hf : Issues s f) (hset : Settled s (resS s.cur [a.toNat, b.toNat]))
include hf hset

theorem bquery_misaligned (h : (f.s a.toNat).toNat % 64 ≠ 0) :
    exec (.bquery a b) s = .next (s.takeTrap ⟨trapILL, 6, 0, 0⟩) := by
  rw [exec_bquery, execBquery, runFibre_of _ hf, guardBusy_of _ hset, if_pos h]
  rfl

section Aligned
variable (haligned : (f.s a.toNat).toNat % 64 = 0)
include haligned

theorem bquery_of : exec (.bquery a b) s = .next ((if f.ctrFull ctrRY then .stall
    else if f.beamCredit = 0 then needLeave s f 64 fun _ t => .done (beamIssued t f a.toNat b.toNat 15)
    else .done (beamIssued s f a.toNat b.toNat (f.beamCredit - 1)) : Act).finish s) := by
  rw [exec_bquery, execBquery, runFibre_of _ hf, guardBusy_of _ hset, if_neg (not_not.2 haligned)]
  rfl

theorem bquery_waits (h : f.ctrFull ctrRY = true) : exec (.bquery a b) s = .next s.stall := by
  rw [bquery_of hf hset haligned, if_pos h]
  rfl

variable (hctr : f.ctrFull ctrRY = false)
include hctr

theorem bquery_credit (h : f.beamCredit ≠ 0) :
    exec (.bquery a b) s = .next (beamIssued s f a.toNat b.toNat (f.beamCredit - 1)).retire := by
  rw [bquery_of hf hset haligned, hctr, if_neg Bool.false_ne_true, if_neg h]
  rfl

theorem bquery_leave (h : f.beamCredit = 0) {bal : Word} (hl : f.leave = some bal) : exec (.bquery a b) s =
    .next (beamIssued (s.setFibre s.cur { f with leave := none }) f a.toNat b.toNat 15).retire := by
  rw [bquery_of hf hset haligned, hctr, if_neg Bool.false_ne_true, if_pos h, needLeave_given hf hl]
  rfl

end Aligned
end Beams

/-! ### Node visits (R365, R374 to R379) -/

section Visits
variable {s s1 : State} {id i : Nat} {o : Op} {r l : List Nat}

theorem nodeVisit_query {q : RayOp} (ho : Sparse.find s.eng.ops id = some o) (hr : s.recorded id = false)
    (hb : o.body = .ray q) : exec (.nodeVisit id i) s = .next (stepQuery s id i o q) := by
  rw [exec_nodeVisit, execNodeVisit, hr, if_neg Bool.false_ne_true, ho]
  simp only [hb]

theorem stepQuery_ended {q : RayOp} {x : RayLane} (hx : Sparse.find q.lanes i = some x) (hout : x.outcome ≠ none) :
    stepQuery s id i o q = s := by
  rw [stepQuery, hx]
  exact if_pos (Option.isSome_iff_ne_none.2 hout)

/-- A step of a beam without trouble. -/
theorem nodeVisit_beam {b : BeamOp} (ho : Sparse.find s.eng.ops id = some o) (hr : s.recorded id = false)
    (hb : o.body = .beam b) (hstep : stepBeam s id o b = (none, s1)) : exec (.nodeVisit id i) s = .next s1 := by
  rw [exec_nodeVisit, execNodeVisit, hr, if_neg Bool.false_ne_true, ho]
  simp only [hb, hstep]

theorem stepBeam_invalid {b : BeamOp} (hq : b.query = none)
    (hread : (Req.record b.addr 128 beamBad).perform s o = (.done r l, s1))
    (h : r.headD 0 = 0 ∨ beamInvalid (leBytes 128 (r.headD 0)) = true) :
    stepBeam s id o b = (none, s1.endBeam id o { b with invalid := true }) := by
  have hstep : stepBeam s id o b = beamRecord s id o b := by rw [stepBeam, hq]
  simp only [hstep, beamRecord, hread]
  by_cases h0 : r.headD 0 = 0
  · rw [if_pos h0]
  · rw [if_neg h0, if_pos (h.resolve_left h0)]

theorem stepBeam_ends {b : BeamOp} {q : List Byte} (hq : b.query = some q) (hcomb : b.comb = []) (hsplits : b.splits = [])
    (hsubs : b.subs = []) (hcur : b.cur = none) (hstack : b.stack = []) (hdrop : b.drop = false) :
    stepBeam s id o b = (none, s.endBeam id o b) := by
  rw [stepBeam, hq]
  simp only [hcomb, hsplits, hsubs, hcur, BeamOp.next, hstack, hdrop, Bool.false_eq_true, if_false, Option.isNone_none,
    if_true]

theorem stepBeam_combines {b : BeamOp} {q : List Byte} {off x : Nat} {rest : List (Nat × Nat)} (hq : b.query = some q)
    (hcomb : b.comb = (off, x) :: rest)
    (hatom : (Req.atom (BitVec.ofNat 64 (bmHitbuf q + off)) 4 8 b.scope x).perform s o = (.done r l, s1)) :
    stepBeam s id o b = (none, s1.setBeam id { b with comb := rest }) := by
  rw [stepBeam, hq]
  simp only [hcomb, hatom]

end Visits

end Sys2Proof.Machine

open Sys2Proof Sys2Proof.Machine

/-- Settles O35: hits by `triHit_point`, queries by `queryStarted_spec` and `moveCands_moves`, RSTAT by its word, beams
and node visits by their steps. -/
theorem rays : Obligations.Rays := by
  refine ⟨fun o d p0 p1 p2 tmin tmax t u v cullb owns side => triHit_point, ?queries, ?candidates, ?beams, ?visits⟩
  case queries =>
    rintro a n v s f _ w _ started hf rfl hs hv hw rfl hstarted
    obtain rfl : w = fun k i => lane (s.v s.cur f (v.toNat + k)) i := funext fun k => funext fun i => hw k i
    refine ⟨query_empty hf hs hv, rquery_refused hf hs hv, fun hactive hbad hkind =>
      ⟨rquery_waits hf hs hv hactive hbad hkind, fun hrun hctr hlane =>
        ⟨_, rquery_starts hf hs hv hactive hbad hkind hrun hctr hlane, (hstarted _ _).2 (queryStarted_spec hf _ _ _)⟩⟩,
      cquery_misaligned hf hs hv, fun hactive haligned => ⟨cquery_waits hf hs hv hactive haligned, fun hrun hctr =>
        ⟨_, _, cquery_starts hf hs hv hactive haligned hrun hctr,
          (hstarted _ _).2 (queryStarted_spec (s := s.drew 1) hf _ _ _), rfl, rfl, rfl, cqueryLanes_fst f _,
          fun e he => cqueryLanes_unread he⟩⟩⟩
  case candidates =>
    intro a n s f hf
    refine ⟨fun h => ⟨(exec_rcommit n s).trans (moveCands_refused hf h), (exec_rresume n s).trans (moveCands_refused hf h)⟩,
      fun h hactive => ⟨(exec_rcommit n s).trans (moveCands_empty hf h hactive),
        (exec_rresume n s).trans (moveCands_empty hf h hactive)⟩, ?moves, fun hs => ⟨rstat_empty hf hs, fun hactive =>
        ⟨rstatWord s f n.toNat, rstat_reads hf hs hactive, setWidth_rstatWord s f n.toNat,
          fun id o q hslot hray _ i hi => rstatWord_cands hslot hray hi⟩⟩⟩
    case moves =>
      rintro id o q hslot hray hactive hset hctr i move hrow _ rfl hlane
      exact ⟨_, _, (candMove_of_row hrow s).trans (moveCands_moves hf hslot hray hactive hset hctr hlane),
        find_queryMoved hray _, rfl, rfl, fibre_queryMoved hf id _, rfl⟩
  case beams =>
    rintro a b s f _ _ hf hset rfl rfl
    exact ⟨bquery_misaligned hf hset, fun haligned => ⟨bquery_waits hf hset haligned, bquery_credit hf hset haligned,
      fun hctr hcredit bal hl => bquery_leave hf hset haligned hctr hcredit hl⟩⟩
  case visits =>
    intro s id i o ho hr
    refine ⟨fun q hb => ⟨nodeVisit_query ho hr hb, fun l hl hout => stepQuery_ended hl hout⟩, fun b hb =>
      ⟨fun r l s1 hq hread h => nodeVisit_beam ho hr hb (stepBeam_invalid hq hread h),
        fun q hq hcomb hsplits hsubs hcur hstack hdrop =>
          nodeVisit_beam ho hr hb (stepBeam_ends hq hcomb hsplits hsubs hcur hstack hdrop),
        fun q off x rest r l s1 hq hcomb hatom => nodeVisit_beam ho hr hb (stepBeam_combines hq hcomb hatom)⟩⟩
end
